-- ==== Sys2Proof/Word.lean ====
section
/-!
DEFINITION. The word types of the Darnen architecture (R3) and the list-backed table every part of the state uses.
-/
namespace Sys2Proof

/-- A byte (R3). -/
abbrev Byte := BitVec 8
/-- Sixteen bits. -/
abbrev W16 := BitVec 16
/-- A word: 32 bits (R3). -/
abbrev W32 := BitVec 32
/-- A double word: 64 bits (R3). -/
abbrev W64 := BitVec 64

/-- A sparse table: keys strictly rising, each with its value. A key that is not listed reads as the table's default,
which every accessor names. -/
abbrev Tab (α : Type) := List (Nat × α)

/-- The entry of key `k`, if one is listed. -/
def tabFind? {α : Type} : Tab α → Nat → Option α
  | [], _ => none
  | (j, v) :: t, k => if j = k then some v else tabFind? t k

/-- The value at key `k`, `d` where none is listed. -/
def tabGet {α : Type} (t : Tab α) (d : α) (k : Nat) : α := (tabFind? t k).getD d

/-- `t` with `v` at key `k`, the keys kept rising. -/
def tabSet {α : Type} : Tab α → Nat → α → Tab α
  | [], k, v => [(k, v)]
  | (j, w) :: t, k, v =>
    if k < j then (k, v) :: (j, w) :: t
    else if k = j then (k, v) :: t
    else (j, w) :: tabSet t k v

/-- `t` without key `k`. -/
def tabErase {α : Type} (t : Tab α) (k : Nat) : Tab α := t.filter fun e => e.1 != k

/-- The values of a table, in key order. -/
def tabVals {α : Type} (t : Tab α) : List α := t.map Prod.snd

end Sys2Proof
end

