-- ==== Sys2Proof/Config.lean ====
section
/-!
DEFINITION. What the manual leaves open: the free values. Each is an opaque constant, so nothing in Lean can evaluate it
and a statement about it holds for every value it could have (notes/assumptions).
-/
namespace Sys2Proof.Config

/-- The n-th free value of a run: a value the manual gives no rule for. State.fresh counts the values drawn. -/
opaque freeValue : Nat → W64

/-- The energy in millijoules a kernel has drawn when it completes (R41, R106: the manual gives no rule of measurement). -/
opaque energyOf : Nat → W64

/-- The corrected-error count past which a row is spared (R250: "its firmware threshold"). -/
opaque rowThreshold : Nat → Nat

/-- The spare rows of a bank (R250: the manual gives no number), by 2^16 × stack + bank. -/
opaque spareRows : Nat → Nat

/-- The memory channel of a physical address (R246: the manual gives no map). -/
opaque channelOf : Nat → Nat

/-- Whether the tile-table entry at an address of another package belongs to a context, at a %clk (R268: that package keeps the entry). -/
opaque peerOwns : Nat → W64 → Nat → Bool

/-- Whether the signature, the last bytes of an image, verifies over the bytes before them under the fused public key (R506: ECDSA on P-384 over
the SHA-384 digest; the spec gives neither the key nor the signature's byte layout). -/
opaque signatureOk : List Byte → List Byte → Bool

/-- The fused minimum of an image's VERSION (R506: a constant of the part). -/
opaque fuseMin : Nat

end Sys2Proof.Config
end

