-- ==== Sys2Proof/Syntax.lean ====
section
/-!
DEFINITION. The instruction set as syntax: operand forms (R312 to R320), the modifiers, and the ONE inductive `Instr`,
one constructor for each row of spec/opcode_table.json. The rows are of two kinds: instruction words (R329) and the
device's own steps (spec/95_what_each_step_holds.md), which carry what the device or the outside supplies.
-/
namespace Sys2Proof

/-- A trap cause, with the code of R45. -/
inductive Cause where
  | illegalOpcode | illegalEncoding | uniformDivergent | nonuniformOperand | align | addrTag | permission | lease
  | integrity | peerLost | copyRights | roleConflict | barBusy | mwaitTimeout | soft | brk | saturation | residue
  | reduceTimeout | sgFault | priv
  deriving DecidableEq, Repr

/-- A guard (R313): always, a predicate, or its negation. -/
inductive Guard where
  | always
  | ifSet (p : Nat)
  | ifClear (p : Nat)
  deriving DecidableEq, Repr

/-- A source operand (R315). `reg` is a vector register in a group stream and a c register in a control-thread stream. -/
inductive Src where
  | reg (n : Nat)                  -- select 00, index 0 to 239
  | spec (n : Nat)                 -- select 00, index 240 to 254 (R317)
  | g (n : Nat)                    -- select 01
  | lat (reach : Nat) (hi : Bool)  -- select 10 (R325)
  | const (k : Nat)                -- select 11, index 0 to 31 (R319)
  | lit (j : Nat)                  -- select 11, index 32 to 39 (R320)
  deriving DecidableEq, Repr

/-- A register destination (R316). -/
inductive Dst where
  | reg (n : Nat)
  | g (n : Nat)
  | lat0                           -- NWB
  deriving DecidableEq, Repr

/-- A predicate destination, or lat0 alone under NWB (R342). -/
inductive PDst where
  | pred (n : Nat)
  | lat0
  deriving DecidableEq, Repr

/-- The kind of value an operand carries (R319, R320, R339): it fixes the width and the constant column. -/
inductive Ty where
  | i32 | i64 | f32 | f64 | f16 | bf16 | f32x2 | b128
  deriving DecidableEq, Repr

/-- One issuing agent: strand `k` of group `g`, or the control thread of workgroup `w`. -/
inductive Agent where
  | strand (g k : Nat)
  | ctl (w : Nat)
  deriving DecidableEq, Repr

/-- A place the device chooses for a workgroup (R17, R92, R156): die, quad, first quad core, control-thread index,
barrier-file slot, and the strand slots of its groups' strands in order. -/
structure Place where
  die : Nat
  quad : Nat
  first : Nat
  ctIdx : Nat
  slot : Nat
  strands : List Nat
  deriving DecidableEq, Repr

/-- A soft error that a read corrects (R249): its stack, bank and row. -/
structure SoftError where
  stack : Nat
  bank : Nat
  row : Nat
  deriving DecidableEq, Repr

/-- A host core, with the context whose control table maps the addresses of its access (R20, R228; log entry 140). -/
structure HostCore where
  num : Nat
  map : Option Nat
  deriving DecidableEq, Repr

/-- An access by a host core (R20). -/
inductive HostAccess where
  | load (addr size : Nat)
  | store (addr size : Nat) (v : W64)
  | atomMax (addr size : Nat) (v : W64)
  | atomAdd (addr size : Nat) (v : W64)
  | atomXchg (addr size : Nat) (v : W64)
  deriving DecidableEq, Repr

/-- The outcome of a training attempt of a port (R258). -/
inductive TrainResult where
  | trained (peer : Nat)
  | half (peer : Nat) (upper : Bool)
  | fail
  deriving DecidableEq, Repr

/-- What one rank sends into a tile-table entry (R270, R272). -/
structure Contribution where
  cx : Nat
  pos : Nat
  op : Nat
  fmt : Nat
  rcnt : Nat
  data : List W32
  inv : Bool
  ovf : Bool
  deriving DecidableEq, Repr

/-- What the bring-up of R508 finds. -/
structure TrainingOutcome where
  dieok : Byte
  rank : Nat
  podsize : Nat
  torus : Bool
  peermap : W64
  routes : List (List Nat)
  dtime : Nat
  deriving DecidableEq, Repr


/-- Saturation of `iadd` and `isub` (R344). -/
inductive SatMode where
  | wrap | ssat | usat
  deriving DecidableEq, Repr


/-- Conditions of `icmp` (R344). -/
inductive ICond where
  | eq | ne | lt | le | gt | ge
  deriving DecidableEq, Repr


/-- Conditions of `fcmp`, `dcmp`, `hcmp2` (R352). -/
inductive FCond where
  | eq | ne | lt | le | gt | ge | un | ord
  deriving DecidableEq, Repr


/-- Modes of `shf64` (R344). -/
inductive ShfMode where
  | left | lr | ar | rot
  deriving DecidableEq, Repr


/-- Widths of `ext` (R344). -/
inductive ExtWidth where
  | w8 | w16 | w32
  deriving DecidableEq, Repr


/-- Rounding modes (R284). -/
inductive Rm where
  | rn | rz | rd | ru | rs
  deriving DecidableEq, Repr


/-- Source types of `cvtf` (R355). -/
inductive CvtFSrc where
  | f64 | i32 | u32 | i64 | u64 | f16 | bf16
  deriving DecidableEq, Repr


/-- Target types of `cvti` (R355). -/
inductive CvtIDst where
  | i32 | u32 | i64 | u64
  deriving DecidableEq, Repr


/-- Source types of `cvtd` (R355). -/
inductive CvtDSrc where
  | f32 | i32 | u32 | i64 | u64
  deriving DecidableEq, Repr


/-- Targets of `cvt8` (R355). -/
inductive F8To where
  | e4m3 | e5m2 | int8
  deriving DecidableEq, Repr


/-- The selector of an unpack form and the RM code that its word carries, which has no effect: the unpack forms do not round (R355, R356). -/
structure UnpkSel where
  src : Src
  rm : Rm
  deriving DecidableEq, Repr

/-- Sources of `unpk8` (R355). -/
inductive F8From where
  | e4m3 | e5m2 | int8 | e8m0
  deriving DecidableEq, Repr


/-- Element formats of `mxsc` (R355). -/
inductive MxFmt where
  | e4m3 | e5m2 | e2m1
  deriving DecidableEq, Repr


/-- Modes of `shfl` (R367). -/
inductive ShflMode where
  | idx | up | down | xor
  deriving DecidableEq, Repr


/-- Modes of `vote` (R367). -/
inductive VoteMode where
  | all | any | uni
  deriving DecidableEq, Repr


/-- Operations of `redux` (R367). -/
inductive ReduxOp where
  | add | min | max | umin | umax | and | or | xor
  deriving DecidableEq, Repr


/-- Operations of `fredux` (R367). -/
inductive FReduxOp where
  | sum | max | min
  deriving DecidableEq, Repr


/-- Conditions of `bra` (R376). -/
inductive BraCond where
  | always | z | nz | neg | nneg
  deriving DecidableEq, Repr


/-- Selectors of `barq` (R388). -/
inductive BarqSel where
  | state | count | handle
  deriving DecidableEq, Repr


/-- Scopes of `hbar`, codes 3 to 5 (R394). -/
inductive HScope where
  | die | pkg | pod
  deriving DecidableEq, Repr


/-- Scope codes (R24). -/
inductive Scope where
  | lane | core | quad | die | pkg | pod
  deriving DecidableEq, Repr


/-- Access sizes (R401). -/
inductive MemSize where
  | b32 | b8 | b16 | b64 | b128
  deriving DecidableEq, Repr


/-- Fragment element widths (R401). -/
inductive FragEl where
  | e16 | e8 | e4
  deriving DecidableEq, Repr


/-- Atomic operations (R401). -/
inductive AtomOp where
  | add | and | or | xor | min | max | umin | umax | xchg | fadd
  deriving DecidableEq, Repr


/-- One constructor for each row of spec/opcode_table.json, in its order; each docstring gives the row's rule. -/
inductive Instr where
  /-- NOP (R345). Does nothing and writes no register. -/
  | nop (gd : Guard)
  /-- MOV (R345). Copies a 32-bit source, or a 64-bit pair under .64, to the destination. -/
  | mov (gd : Guard) (d : Dst) (a : Src) (w64 : Bool)
  /-- IADD (R345). Adds two integers, wrapping or saturating signed or unsigned. -/
  | iadd (gd : Guard) (d : Dst) (a : Src) (b : Src) (sat : SatMode)
  /-- ISUB (R345). Subtracts two integers, wrapping or saturating signed or unsigned. -/
  | isub (gd : Guard) (d : Dst) (a : Src) (b : Src) (sat : SatMode)
  /-- IMUL (R345). Writes the low 32 bits of the product of two integers. -/
  | imul (gd : Guard) (d : Dst) (a : Src) (b : Src)
  /-- IMULH (R345). Writes the high 32 bits of the signed or unsigned product. -/
  | imulh (gd : Guard) (d : Dst) (a : Src) (b : Src) (u : Bool)
  /-- IMAD (R345). Writes the low 32 bits of a times b plus c. -/
  | imad (gd : Guard) (d : Dst) (a : Src) (b : Src) (c : Src)
  /-- IDIV (R346). Divides integers, truncating towards zero, with fixed results for division by zero and overflow. -/
  | idiv (gd : Guard) (d : Dst) (a : Src) (b : Src) (w64 : Bool) (u : Bool)
  /-- IREM (R346). Writes the integer remainder with the dividend's sign, with fixed results for division by zero. -/
  | irem (gd : Guard) (d : Dst) (a : Src) (b : Src) (w64 : Bool) (u : Bool)
  /-- IMIN (R345). Writes the signed or unsigned minimum of two integers. -/
  | imin (gd : Guard) (d : Dst) (a : Src) (b : Src) (u : Bool)
  /-- IMAX (R345). Writes the signed or unsigned maximum of two integers. -/
  | imax (gd : Guard) (d : Dst) (a : Src) (b : Src) (u : Bool)
  /-- IABS (R345). Writes the absolute value, wrapping or saturating. -/
  | iabs (gd : Guard) (d : Dst) (a : Src) (ssat : Bool)
  /-- INEG (R345). Writes the negation, wrapping or saturating. -/
  | ineg (gd : Guard) (d : Dst) (a : Src) (ssat : Bool)
  /-- AND (R345). Writes the bitwise and of two sources. -/
  | iand (gd : Guard) (d : Dst) (a : Src) (b : Src)
  /-- OR (R345). Writes the bitwise or of two sources. -/
  | ior (gd : Guard) (d : Dst) (a : Src) (b : Src)
  /-- XOR (R345). Writes the bitwise exclusive or of two sources. -/
  | ixor (gd : Guard) (d : Dst) (a : Src) (b : Src)
  /-- NOT (R345). Writes the bitwise complement of a source. -/
  | inot (gd : Guard) (d : Dst) (a : Src)
  /-- ANDN (R345). Writes a and not b. -/
  | iandn (gd : Guard) (d : Dst) (a : Src) (b : Src)
  /-- SHL (R345). Shifts left logically, giving zero for counts of 32 or more. -/
  | shl (gd : Guard) (d : Dst) (a : Src) (b : Src)
  /-- SHR (R345). Shifts right logically, giving zero for counts of 32 or more. -/
  | shr (gd : Guard) (d : Dst) (a : Src) (b : Src)
  /-- SAR (R345). Shifts right arithmetically by at most 31. -/
  | sar (gd : Guard) (d : Dst) (a : Src) (b : Src)
  /-- ROTL (R345). Rotates left by b[4:0]. -/
  | rotl (gd : Guard) (d : Dst) (a : Src) (b : Src)
  /-- BFE (R345). Extracts a bit field, signed or unsigned. -/
  | bfe (gd : Guard) (d : Dst) (a : Src) (b : Src) (s : Bool)
  /-- BFI (R345). Inserts a bit field of a into b. -/
  | bfi (gd : Guard) (d : Dst) (a : Src) (b : Src) (c : Src)
  /-- POPC (R345). Counts the 1 bits. -/
  | popc (gd : Guard) (d : Dst) (a : Src)
  /-- CLZ (R345). Counts the leading zero bits. -/
  | clz (gd : Guard) (d : Dst) (a : Src)
  /-- CTZ (R345). Counts the trailing zero bits. -/
  | ctz (gd : Guard) (d : Dst) (a : Src)
  /-- BREV (R345). Reverses the 32 bits. -/
  | brev (gd : Guard) (d : Dst) (a : Src)
  /-- ICMP (R347). Compares integers under a condition and writes a predicate. -/
  | icmp (gd : Guard) (p : PDst) (a : Src) (b : Src) (w64 : Bool) (u : Bool) (cond : ICond)
  /-- SEL (R347). Selects a or b by a predicate. -/
  | sel (gd : Guard) (d : Dst) (a : Src) (b : Src) (p : Nat) (w64 : Bool)
  /-- IADD64 (R347). Adds or subtracts 64-bit integers, wrapping. -/
  | iadd64 (gd : Guard) (d : Dst) (a : Src) (b : Src) (sub : Bool)
  /-- IMAD64 (R347). Multiplies two 32-bit integers and adds a 64-bit c. -/
  | imad64 (gd : Guard) (d : Dst) (a : Src) (b : Src) (c : Src) (u : Bool)
  /-- SHF64 (R347). Shifts or rotates a 64-bit value. -/
  | shf64 (gd : Guard) (d : Dst) (a : Src) (b : Src) (mode : ShfMode)
  /-- LEA (R347). Adds a shifted 32-bit index to a 64-bit address. -/
  | lea (gd : Guard) (d : Dst) (a : Src) (b : Src) (u : Bool) (sh : Nat)
  /-- EXT (R347). Sign- or zero-extends a field of 8, 16 or 32 bits. -/
  | ext (gd : Guard) (d : Dst) (a : Src) (w64 : Bool) (s : Bool) (width : ExtWidth)
  /-- BMRG (R348). Merges bytes of two sources under control bytes of c. -/
  | bmrg (gd : Guard) (d : Dst) (a : Src) (b : Src) (c : Src) (swap : Bool)
  /-- DOT4 (R348). Sums four byte products and adds c. -/
  | dot4 (gd : Guard) (d : Dst) (a : Src) (b : Src) (c : Src) (ub : Bool) (ua : Bool)
  /-- IADDC (R348). Adds with carry in and carry out through a predicate. -/
  | iaddc (gd : Guard) (d : Dst) (a : Src) (b : Src) (p : Nat)
  /-- ISUBB (R348). Subtracts with borrow in and borrow out through a predicate. -/
  | isubb (gd : Guard) (d : Dst) (a : Src) (b : Src) (p : Nat)
  /-- LOP3 (R348). Applies a three-input truth table bitwise. -/
  | lop3 (gd : Guard) (d : Dst) (a : Src) (b : Src) (c : Src) (t : Nat)
  /-- FADD (R350). Adds FP32 values, rounding once. -/
  | fadd (gd : Guard) (d : Dst) (a : Src) (b : Src) (sat : Bool) (rm : Rm)
  /-- FSUB (R350). Subtracts FP32 values, rounding once. -/
  | fsub (gd : Guard) (d : Dst) (a : Src) (b : Src) (sat : Bool) (rm : Rm)
  /-- FMUL (R350). Multiplies FP32 values, rounding once. -/
  | fmul (gd : Guard) (d : Dst) (a : Src) (b : Src) (sat : Bool) (rm : Rm)
  /-- FFMA (R350). Computes a times b plus c in FP32, rounding once. -/
  | ffma (gd : Guard) (d : Dst) (a : Src) (b : Src) (c : Src) (sat : Bool) (rm : Rm)
  /-- FMIN (R352). Writes the FP32 minimum, NaN if either operand is NaN. -/
  | fmin (gd : Guard) (d : Dst) (a : Src) (b : Src)
  /-- FMAX (R352). Writes the FP32 maximum, NaN if either operand is NaN. -/
  | fmax (gd : Guard) (d : Dst) (a : Src) (b : Src)
  /-- FCMP (R352). Compares FP32 values under a condition and writes a predicate. -/
  | fcmp (gd : Guard) (p : PDst) (a : Src) (b : Src) (cond : FCond)
  /-- FCLASS (R352). Sets a predicate when the class of a is selected by mask b. -/
  | fclass (gd : Guard) (p : PDst) (a : Src) (b : Src) (f64 : Bool)
  /-- FRCP (R353). Writes the FP32 reciprocal, rounded once. -/
  | frcp (gd : Guard) (d : Dst) (a : Src) (sat : Bool) (rm : Rm)
  /-- FRSQ (R353). Writes the FP32 reciprocal square root, rounded rn. -/
  | frsq (gd : Guard) (d : Dst) (a : Src)
  /-- FSQRT (R353). Writes the FP32 square root, rounded once. -/
  | fsqrt (gd : Guard) (d : Dst) (a : Src) (rm : Rm)
  /-- FSINPI (R353). Writes sin(pi a) rounded rn. -/
  | fsinpi (gd : Guard) (d : Dst) (a : Src)
  /-- FCOSPI (R353). Writes cos(pi a) rounded rn. -/
  | fcospi (gd : Guard) (d : Dst) (a : Src)
  /-- FEXP2 (R353). Writes 2 to the power a rounded rn. -/
  | fexp2 (gd : Guard) (d : Dst) (a : Src)
  /-- FLOG2 (R353). Writes log2(a) rounded rn. -/
  | flog2 (gd : Guard) (d : Dst) (a : Src)
  /-- FTANH (R353). Writes tanh(a) rounded rn. -/
  | ftanh (gd : Guard) (d : Dst) (a : Src)
  /-- FRND (R354). Rounds an FP32 value to an integer value in the named mode. -/
  | frnd (gd : Guard) (d : Dst) (a : Src) (rm : Rm)
  /-- DADD (R350). Adds or subtracts FP64 values, rounding once. -/
  | dadd (gd : Guard) (d : Dst) (a : Src) (b : Src) (sub : Bool) (sat : Bool) (rm : Rm)
  /-- DMUL (R350). Multiplies FP64 values, rounding once. -/
  | dmul (gd : Guard) (d : Dst) (a : Src) (b : Src) (sat : Bool) (rm : Rm)
  /-- DFMA (R350). Computes a times b plus c in FP64, rounding once. -/
  | dfma (gd : Guard) (d : Dst) (a : Src) (b : Src) (c : Src) (sat : Bool) (rm : Rm)
  /-- DMIN (R352). Writes the FP64 minimum. -/
  | dmin (gd : Guard) (d : Dst) (a : Src) (b : Src)
  /-- DMAX (R352). Writes the FP64 maximum. -/
  | dmax (gd : Guard) (d : Dst) (a : Src) (b : Src)
  /-- DCMP (R352). Compares FP64 values and writes a predicate. -/
  | dcmp (gd : Guard) (p : PDst) (a : Src) (b : Src) (cond : FCond)
  /-- DRCP (R353). Writes the FP64 reciprocal, rounded once. -/
  | drcp (gd : Guard) (d : Dst) (a : Src) (sat : Bool) (rm : Rm)
  /-- DSQRT (R353). Writes the FP64 square root, rounded once. -/
  | dsqrt (gd : Guard) (d : Dst) (a : Src) (rm : Rm)
  /-- HADD2 (R354). Adds two packed FP16 or BF16 pairs element by element. -/
  | hadd2 (gd : Guard) (d : Dst) (a : Src) (b : Src) (bf16 : Bool) (sat : Bool) (rm : Rm)
  /-- HMUL2 (R354). Multiplies two packed half pairs element by element. -/
  | hmul2 (gd : Guard) (d : Dst) (a : Src) (b : Src) (bf16 : Bool) (sat : Bool) (rm : Rm)
  /-- HFMA2 (R354). Computes a packed fused multiply-add on half pairs. -/
  | hfma2 (gd : Guard) (d : Dst) (a : Src) (b : Src) (c : Src) (bf16 : Bool) (sat : Bool) (rm : Rm)
  /-- HMAX2 (R352). Writes the packed maxima of half pairs. -/
  | hmax2 (gd : Guard) (d : Dst) (a : Src) (b : Src) (bf16 : Bool)
  /-- HMIN2 (R352). Writes the packed minima of half pairs. -/
  | hmin2 (gd : Guard) (d : Dst) (a : Src) (b : Src) (bf16 : Bool)
  /-- HCMP2 (R352). Compares packed halves and writes two predicates. -/
  | hcmp2 (gd : Guard) (p : Nat) (a : Src) (b : Src) (bf16 : Bool) (cond : FCond)
  /-- CVTF (R356). Converts FP64, integer or half sources to FP32. -/
  | cvtf (gd : Guard) (d : Dst) (a : Src) (cnt : Option Nat) (src : CvtFSrc) (sat : Bool) (rm : Rm)
  /-- CVTI (R356). Converts FP32 or FP64 to a clamped integer. -/
  | cvti (gd : Guard) (d : Dst) (a : Src) (cnt : Option Nat) (tgt : CvtIDst) (f64 : Bool) (sat : Bool) (rm : Rm)
  /-- CVTD (R356). Converts FP32 or integers to an FP64 pair. -/
  | cvtd (gd : Guard) (d : Dst) (a : Src) (src : CvtDSrc) (rm : Rm)
  /-- PK16 (R356). Converts two FP32 values and packs them as FP16 or BF16. -/
  | pk16 (gd : Guard) (d : Dst) (a : Src) (b : Src) (cnt : Option Nat) (bf16 : Bool) (sat : Bool) (rm : Rm)
  /-- UNPK16 (R356). Widens a selected half of a to FP32 exactly. -/
  | unpk16 (gd : Guard) (d : Dst) (a : Src) (b : UnpkSel) (bf16 : Bool)
  /-- CVT8 (R356). Converts four or one FP32 values to FP8 or INT8 bytes, counting and stepping as named. -/
  | cvt8 (gd : Guard) (d : Dst) (a : Src) (b : Src) (cnt : Option Nat) (tgt : F8To) (x1 : Bool) (sat : Bool) (rm : Rm)
  /-- UNPK8 (R356). Widens a selected byte of a to FP32 exactly. -/
  | unpk8 (gd : Guard) (d : Dst) (a : Src) (b : UnpkSel) (src : F8From)
  /-- CVT4 (R356). Converts four or one FP32 values to E2M1 nibbles. -/
  | cvt4 (gd : Guard) (d : Dst) (a : Src) (b : Src) (cnt : Option Nat) (x1 : Bool) (sat : Bool) (rm : Rm)
  /-- UNPK4 (R356). Widens a selected E2M1 nibble of a to FP32 exactly. -/
  | unpk4 (gd : Guard) (d : Dst) (a : Src) (b : UnpkSel)
  /-- MXSC (R358). Chooses an MX block scale for 32 FP32 values and converts the elements. -/
  | mxsc (gd : Guard) (d : Nat) (a : Nat) (s : Nat) (cnt : Option Nat) (fmt : MxFmt) (b1 : Bool) (sat : Bool) (rm : Rm)
  /-- RND (R360). Steps the lane generator once and writes the new state. -/
  | rnd (gd : Guard) (d : Dst)
  /-- RSEED (R360). Seeds each lane's generator from a and its thread index in kernel. -/
  | rseed (gd : Guard) (a : Src)
  /-- SATQ (R361). Reads a saturation counter of the core, and clears it under .clr. -/
  | satq (gd : Guard) (d : Dst) (clr : Bool) (k : Nat)
  /-- FDOT2 (R354). Adds two half products to an FP32 c, rounding once. -/
  | fdot2 (gd : Guard) (d : Dst) (a : Src) (b : Src) (c : Src) (bf16 : Bool) (sat : Bool) (rm : Rm)
  /-- SHFL (R370). Gathers and writes each active lane a source value from a computed lane. -/
  | shfl (gd : Guard) (d : Dst) (a : Src) (b : Src) (w64 : Bool) (wseg : Nat) (mode : ShflMode)
  /-- BFLY (R371). Exchanges two registers between lane pairs at distance m. -/
  | bfly (gd : Guard) (x : Nat) (y : Nat) (m : Src)
  /-- BCAST (R372). Writes every active lane the value of one uniform source lane. -/
  | bcast (gd : Guard) (d : Dst) (a : Src) (b : Src) (w64 : Bool)
  /-- VOTE (R373). Writes all, any or uniform of a predicate over the active lanes. -/
  | vote (gd : Guard) (p : PDst) (q : Nat) (mode : VoteMode)
  /-- BALLOT (R373). Writes the mask of active lanes whose predicate is set. -/
  | ballot (gd : Guard) (d : Dst) (q : Nat) (m64 : Bool)
  /-- REDUX (R374). Combines integer values of the active lanes. -/
  | redux (gd : Guard) (d : Dst) (a : Src) (op : ReduxOp)
  /-- FREDUX (R374). Reduces FP32 values over a fixed heap tree of lanes. -/
  | fredux (gd : Guard) (d : Dst) (a : Src) (op : FReduxOp)
  /-- SCAN (R374). Computes an inclusive or exclusive prefix over active lanes. -/
  | scan (gd : Guard) (d : Dst) (a : Src) (excl : Bool) (f : Bool)
  /-- MATCH (R373). Writes the mask of active lanes holding an equal value. -/
  | matchv (gd : Guard) (d : Dst) (a : Src) (m64 : Bool) (w64 : Bool)
  /-- PAND (R375). Ands two predicates, each optionally negated. -/
  | pand (gd : Guard) (p : PDst) (q : Nat) (r : Nat) (nb : Bool) (na : Bool)
  /-- POR (R375). Ors two predicates, each optionally negated. -/
  | por (gd : Guard) (p : PDst) (q : Nat) (r : Nat) (nb : Bool) (na : Bool)
  /-- PXOR (R375). Exclusive-ors two predicates, each optionally negated. -/
  | pxor (gd : Guard) (p : PDst) (q : Nat) (r : Nat) (nb : Bool) (na : Bool)
  /-- PNOT (R375). Negates a predicate. -/
  | pnot (gd : Guard) (p : PDst) (q : Nat)
  /-- PMOV (R375). Copies one predicate. -/
  | pmov (gd : Guard) (p : PDst) (q : Nat)
  /-- PMOV_GET (R375). Packs 32 predicates from pA into a register. -/
  | pmovGet (gd : Guard) (d : Dst) (q : Nat)
  /-- PMOV_SET (R375). Sets 32 predicates from pD from the bits of a register. -/
  | pmovSet (gd : Guard) (p : Nat) (a : Src)
  /-- PCNT (R373). Counts active lanes whose predicate is set. -/
  | pcnt (gd : Guard) (d : Dst) (q : Nat)
  /-- ELECT (R373). Sets a predicate at the lowest active lane only. -/
  | elect (gd : Guard) (p : PDst)
  /-- BRA (R377). Branches to an immediate target, always or on a register condition. -/
  | bra (gd : Guard) (t : Src) (a : Src) (cond : BraCond)
  /-- BRX (R377). Branches to a computed per-lane target. -/
  | brx (gd : Guard) (a : Src) (b : Src)
  /-- CALL (R377). Writes the next clause header offset as a link and branches. -/
  | call (gd : Guard) (d : Nat) (a : Src) (x : Bool)
  /-- RET (R377). Branches to a link held in a register. -/
  | ret (gd : Guard) (a : Src)
  /-- ENROL (R114). Writes the current path into a rejoin mask and the uniform mask. -/
  | enrol (j : Nat)
  /-- REJOIN (R115). Waits until every lane of the mask has arrived or exited, then releases them. -/
  | rejoin (j : Nat)
  /-- EXIT (R380). Ends each active lane, or a control thread. -/
  | exit (gd : Guard)
  /-- YIELD (R381). Ends the clause and passes issue to the next path. -/
  | yield (gd : Guard)
  /-- TRAP (R383). Raises SOFT at every active lane. -/
  | trap (gd : Guard) (n : Nat)
  /-- BRK (R383). Raises BREAK at every active lane. -/
  | brk (gd : Guard) (n : Nat)
  /-- RTE (R384). Returns each active lane from its handler to its resume point. -/
  | rte (gd : Guard)
  /-- RTE_RETRY (R384). Returns each active lane from its handler to TPC, or to TADDR for a deferred cause. -/
  | rteRetry (gd : Guard)
  /-- SIGNAL (R386). Writes a value to QWAKE of a queue of the context. -/
  | signal (gd : Guard) (a : Src) (b : Src)
  /-- SIGNAL_MBOX (R386). Writes the context and a value to the management mailbox wake register. -/
  | signalMbox (gd : Guard) (a : Src) (b : Src)
  /-- RSWITCH (R125). Changes the group's role, priority, allotment and optionally its entry at completion. -/
  | rswitch (gd : Guard) (p : Nat) (a : Src)
  /-- REGGROW (R127). Requests growth of the group's register allotment. -/
  | reggrow (gd : Guard) (p : Nat) (n : Src)
  /-- REGSHRINK (R128). Shrinks the group's register allotment and frees the bytes. -/
  | regshrink (gd : Guard) (n : Src)
  /-- GROW_GRANT (R129). The bytes above a Growing group's window become free and its request is granted. -/
  | growGrant (g : Nat)
  /-- SLEEP (R382). Makes the path wait for a number of ticks of Active time. -/
  | sleep (gd : Guard) (a : Src)
  /-- SLEEP_EXPIRE (R382). The sleep count of a path runs out and the path continues. -/
  | sleepExpire (ag : Agent)
  /-- BARINIT (R167). Initialises a workgroup barrier with an expected count. -/
  | barinit (gd : Guard) (b : Nat) (n : Src)
  /-- BARARR (R162). Applies one arrival of count n to a workgroup barrier. -/
  | bararr (gd : Guard) (b : Nat) (n : Src)
  /-- BARWAIT (R164). Waits until the phase of parity ph has completed. -/
  | barwait (gd : Guard) (p : Option Nat) (b : Nat) (ph : Src)
  /-- BARINVAL (R168). Invalidates a barrier and releases its waiters. -/
  | barinval (gd : Guard) (b : Nat)
  /-- BARRARR (R391). Sends a remote arrival to a barrier named by a handle. -/
  | barrarr (gd : Guard) (h : Src) (n : Src)
  /-- REMOTE_ARRIVAL (R159). A barrarr arrival reaches its target barrier and is applied. -/
  | remoteArrival (id : Nat)
  /-- BARQ (R393). Reads BSTATE, BCOUNT or the remote handle of a barrier. -/
  | barq (gd : Guard) (d : Dst) (b : Nat) (which : BarqSel)
  /-- HBAR_INIT (R394). Initialises a die, package or pod barrier. -/
  | hbarInit (gd : Guard) (i : Src) (n : Src) (sc : HScope)
  /-- HBAR_ARR (R394). Arrives on a die, package or pod barrier. -/
  | hbarArr (gd : Guard) (i : Src) (sc : HScope)
  /-- HBAR_WAIT (R394). Waits on a die, package or pod barrier. -/
  | hbarWait (gd : Guard) (p : Option Nat) (i : Src) (ph : Src) (sc : HScope)
  /-- HBAR_Q (R394). Reads BSTATE or BCOUNT of a higher-scope barrier. -/
  | hbarQ (gd : Guard) (d : Nat) (i : Src) (bc : Bool) (sc : HScope)
  /-- HBAR_MESSAGE (R394). A higher-scope barrier message arrives at the barrier's holder and is applied. -/
  | hbarMessage (id : Nat)
  /-- HBAR_REPLY (R394). The holder's reply or release reaches the issuer. -/
  | hbarReply (id : Nat)
  /-- LD (R402). Loads 1 to 16 bytes per lane. -/
  | ld (gd : Guard) (d : Dst) (a : Src) (o : Src) (s : Bool) (size : MemSize)
  /-- ST (R402). Stores 1 to 16 bytes per lane. -/
  | st (gd : Guard) (a : Src) (o : Src) (s : Src) (size : MemSize)
  /-- LDT (R409). Loads an element addressed by a shape record and coordinates. -/
  | ldt (gd : Guard) (d : Nat) (h : Src) (x : Nat) (s : Bool)
  /-- STT (R409). Stores an element addressed by a shape record and coordinates. -/
  | stt (gd : Guard) (h : Src) (x : Nat) (s : Src)
  /-- LDFR (R412). Loads a fragment row or column per lane into eight registers. -/
  | ldfr (gd : Guard) (d : Nat) (a : Src) (b : Src) (t : Bool) (el : FragEl)
  /-- STFR (R412). Stores a fragment row or column per lane from eight registers. -/
  | stfr (gd : Guard) (a : Src) (b : Src) (s : Nat) (t : Bool) (el : FragEl)
  /-- ATOM (R413). Applies an atomic operation per lane and returns the old value. -/
  | atom (gd : Guard) (d : Nat) (a : Src) (b : Src) (sc : Scope) (w64 : Bool) (op : AtomOp)
  /-- CAS (R413). Compares and swaps per lane and returns the old value. -/
  | cas (gd : Guard) (d : Nat) (a : Src) (x : Src) (y : Src) (sc : Scope) (w64 : Bool)
  /-- RATOM (R416). Issues a deferred atomic to any rank's HBM node. -/
  | ratom (gd : Guard) (d : Nat) (a : Src) (b : Src) (w64 : Bool) (op : AtomOp)
  /-- FENCE (R210). Orders earlier asynchronous operations of a scope before later work. -/
  | fence (gd : Guard) (sc : Scope)
  /-- FENCE_TC (R211). Stalls until every earlier asynchronous operation and control store has completed. -/
  | fenceTc (gd : Guard)
  /-- PUBLISH (R419). Swaps a buffer's front and shadow after its accepted engine writes complete. -/
  | publish (gd : Guard) (h : Src)
  /-- MON (R421). Arms the monitor on a line. -/
  | mon (gd : Guard) (a : Src)
  /-- MWAIT (R422). Waits for the monitor to fire, for at most t ticks. -/
  | mwait (gd : Guard) (p : Option Nat) (t : Src)
  /-- MWAIT_TIMEOUT (R422). The mwait timer expires with no firing write and the waiters are released as on a timeout. -/
  | mwaitTimeout (ag : Agent)
  /-- TIERPF (R423). Starts a move from the capacity node into an HBM buffer shadow. -/
  | tierpf (gd : Guard) (b : Nat) (d : Src) (s : Src) (n : Src)
  /-- TIEREV (R423). Starts a move from the HBM node into a capacity-node buffer shadow. -/
  | tierev (gd : Guard) (b : Nat) (d : Src) (s : Src) (n : Src)
  /-- LASTUSE (R424). Makes tensor-lifetime entries so dirty lines of a range are dropped. -/
  | lastuse (gd : Guard) (a : Src) (n : Src)
  /-- LASTUSE_ARM (R244). Earlier accesses to the range are performed and the lifetime entry is armed. -/
  | lastuseArm (id : Nat)
  /-- MMA (R431). Binds an accumulator if needed and issues a deferred matrix multiply-accumulate. -/
  | mma (n : Nat) (a : Src) (b : Src) (s : Src) (new : Bool)
  /-- MMA_END (R431). The matrix unit finishes an mma and the tile is updated. -/
  | mmaEnd (core : Nat)
  /-- RESIDUE_MISMATCH_MMA (R434). A residue mismatch of an mma is found, later mmas are held and the control thread raises RESIDUE. -/
  | residueMismatchMma (core : Nat)
  /-- ACCDRAIN (R435). Converts a tile and writes it into 32 threads' registers. -/
  | accdrain (n : Nat) (w : Src) (c : Src)
  /-- ACCST (R436). Converts a tile and writes it row by row into the A window. -/
  | accst (n : Nat) (w : Src) (c : Src)
  /-- ACCTX (R437). Hands a tile to an Armed tile-table entry through the collective queue. -/
  | acctx (n : Nat) (e : Src)
  /-- ACCTX_LAND (R437). The tile lands in the staging slot and the entry takes Ready and Fire. -/
  | acctxLand (id : Nat)
  /-- ACCWAIT (R438). Waits for the thread's drains and acctx operations. -/
  | accwait (n : Nat) (k : Src) (one : Bool)
  /-- ACCFREE (R438). Unbinds an accumulator. -/
  | accfree (n : Nat) (k : Src)
  /-- DRAIN_SETTLE (R432). A drain has read the whole tile and the tile's pending count falls. -/
  | drainSettle (id : Nat)
  /-- CBAR_ARR (R441). The control thread arrives on a workgroup barrier. -/
  | cbarArr (b : Nat)
  /-- CBAR_WAIT (R441). The control thread waits on a workgroup barrier. -/
  | cbarWait (p : Option Nat) (b : Nat) (ph : Src)
  /-- CBAR_INIT (R441). The control thread initialises a workgroup barrier. -/
  | cbarInit (b : Nat) (n : Src)
  /-- CBAR_INVAL (R441). The control thread invalidates a workgroup barrier. -/
  | cbarInval (b : Nat)
  /-- CBAR_Q (R441). The control thread reads BSTATE or BCOUNT of a barrier. -/
  | cbarQ (d : Nat) (b : Nat) (bc : Bool)
  /-- COPY (R445). Copies a shaped source box into a buffer shadow. -/
  | copy (gd : Guard) (b : Nat) (h : Nat) (x : Nat) (d : Nat)
  /-- COPYMC (R447). Multicasts a shaped box into windows of up to four receivers. -/
  | copymc (gd : Guard) (l : Nat) (h : Nat) (x : Nat) (d : Nat) (m : Nat)
  /-- COPYW (R446). Copies a shaped box into a window or stage space of the workgroup. -/
  | copyw (gd : Guard) (b : Nat) (h : Nat) (x : Nat) (d : Nat)
  /-- COPY_COMPLETE (R443). A copy's bytes are all in its destination shadow and it arrives on its barrier. -/
  | copyComplete (id : Nat) (err : Option Cause)
  /-- ENGINE_ARRIVAL (R161). An engine operation arrives on its barrier, lowering PEND and recording any error. -/
  | engineArrival (id : Nat)
  /-- RANGE_RETIRE (R208). Every byte of a recorded destination range is written and the scoreboard entry retires. -/
  | rangeRetire (id : Nat)
  /-- TIER_MOVE_DONE (R423). A tier move completes and arrives on its barrier. -/
  | tierMoveDone (id : Nat) (err : Option Cause)
  /-- TREADY (R449). Gives an Armed buffer-source tile-table entry its Ready event. -/
  | tready (gd : Guard) (i : Nat)
  /-- FORK (R138). Checks a descriptor and starts placement of k sibling groups. -/
  | fork (gd : Guard) (p : Nat) (h : Src) (k : Src) (e : Src)
  /-- SIBLINGS_PLACED (R139). All k siblings find room and are placed in one clk. -/
  | siblingsPlaced (cx : Nat) (h : Nat) (places : List Place)
  /-- FORKWAIT_EXPIRE (R141). FORKWAIT ticks pass without room and the descriptor returns to Free. -/
  | forkwaitExpire (cx : Nat) (h : Nat)
  /-- REWARD (R142). Posts a sibling's FP32 reward. -/
  | reward (gd : Guard) (h : Src) (x : Src)
  /-- SLACK (R143). Arrives at the slack or observes a descriptor and waits for results. -/
  | slack (gd : Guard) (d : Nat) (h : Src) (s : Nat)
  /-- SGCANCEL (R145). Ends a sibling and excludes it from scoring. -/
  | sgcancel (gd : Guard) (h : Src) (i : Src)
  /-- SGQ (R147). Reads a descriptor double word or a sibling's reward and advantage. -/
  | sgq (gd : Guard) (d : Nat) (h : Src) (which : Src)
  /-- SG_TIMEOUT (R149). ELAPSED reaches TIMEOUT and live unarrived siblings become LATE. -/
  | sgTimeout (cx : Nat) (h : Nat)
  /-- SG_RESULT (R150). Scoring ends and arrays, descriptor and results are written and delivered. -/
  | sgResult (cx : Nat) (h : Nat)
  /-- SG_DRAINED (R152). Delivery to all waiters completes and the descriptor is Released. -/
  | sgDrained (cx : Nat) (h : Nat)
  /-- TAPEPUSH (R451). Pushes a kernel entry onto the tape of the dispatching queue. -/
  | tapepush (gd : Guard) (p : Nat) (a : Src) (b : Src) (upd : Bool)
  /-- LAUNCH (R103). Writes a LAUNCH record into a queue ring and raises QTAIL. -/
  | launch (gd : Guard) (p : Nat) (a : Src) (q : Src)
  /-- RCOMB (R453). Sends a packet of 32 FP32 elements into the die's router reduction. -/
  | rcomb (gd : Guard) (d : Nat) (a : Nat) (r : Src)
  /-- RCOMB_ROUND_END (R277). All members have contributed, results return down the tree and are written. -/
  | rcombRoundEnd (die : Nat) (desc : Nat)
  /-- RCOMB_TIMEOUT (R278). A round's TIMEOUT expires, no result is written and N error arrivals are made. -/
  | rcombTimeout (die : Nat) (desc : Nat)
  /-- SYSRD (R456). Reads a system register. -/
  | sysrd (gd : Guard) (d : Dst) (idx : Nat)
  /-- SYSWR (R456). Writes PHASE, or TPC and TLAT0-TLAT3 in a handler. -/
  | syswr (gd : Guard) (a : Src) (idx : Nat)
  /-- DBGMARK (R458). Appends a trace record when tracing is enabled for the context. -/
  | dbgmark (gd : Guard) (a : Src)
  /-- PERFC (R457). Reads a performance counter of the core for the context. -/
  | perfc (gd : Guard) (d : Dst) (n : Nat)
  /-- ICINV (R459). Drops a code range from every instruction cache of the pod. -/
  | icinv (gd : Guard) (a : Src) (n : Src)
  /-- ICINV_INVALIDATE (R459). An icinv invalidation reaches a package and is acknowledged. -/
  | icinvInvalidate (id : Nat)
  /-- CKPTMARK (R460). Starts checkpoint copies of named buffer fronts under an epoch. -/
  | ckptmark (gd : Guard) (a : Src) (n : Src) (e : Src)
  /-- CHECKPOINT_COPY_DONE (R59). A checkpoint copy completes; at PEND zero the epoch record is written. -/
  | checkpointCopyDone (cx : Nat) (h : Nat)
  /-- CHECKPOINT_COPY_FAIL (R60). A checkpoint copy fails, CERR is set and the mark is abandoned. -/
  | checkpointCopyFail (cx : Nat) (h : Nat) (cause : Cause)
  /-- CLAUSE_FETCH (R309). A path fetches a clause, applies patches and checks the header. -/
  | clauseFetch (ag : Agent)
  /-- SWASH_YIELD (R117). The swash count reaches 256 at a clause end and the path yields. -/
  | swashYield (g : Nat) (k : Nat)
  /-- TRAP_ENTRY (R48). A parked sub-strand enters its handler, or the kernel ends under R49. -/
  | trapEntry (ag : Agent)
  /-- LONG_LATENCY_RESULT (R327). A long-latency result is written and its scoreboard slot may clear. -/
  | longLatencyResult (id : Nat)
  /-- STORE_PERFORM (R191). A queued store is performed at its home in the single order. -/
  | storePerform (ag : Agent)
  /-- MISS_FILL (R195). A line fill returns and the waiting requests read it. -/
  | missFill (id : Nat) (soft : List SoftError)
  /-- PTS_TICK (R190). Every 64 clk each program time advances by one. -/
  | ptsTick (u : Nat)
  /-- INVALIDATION (R193). A directory invalidation or downgrade reaches a die's agent and is acknowledged after leases pass. -/
  | invalidation (die : Nat) (line : Nat)
  /-- UPGRADE_REQUEST (R198). An upgrade reaches the home and is served, as read-for-ownership if the copy was invalidated. -/
  | upgradeRequest (die : Nat) (line : Nat)
  /-- HOME_WRITE (R265). A control-space write reaches its home, is applied and forwarded to the mirror. -/
  | homeWrite (id : Nat)
  /-- MIRROR_ACK (R265). The mirror acknowledges a write and the write completes. -/
  | mirrorAck (id : Nat)
  /-- PUBLISH_SWAP (R202). Accepted engine writes complete and the buffer's front and shadow swap. -/
  | publishSwap (id : Nat)
  /-- PUBLISH_SWAP_REQUEST (R202). A remote publish reaches the rank that holds the frames, which swaps and acknowledges. -/
  | publishSwapRequest (rank : Nat) (cx : Nat) (view : Nat) (len : Nat)
  /-- ENGINE_WRITE_ACCEPT (R201). A remote engine write is first registered at the rank that holds the frames. -/
  | engineWriteAccept (rank : Nat) (cx : Nat) (ofs : Nat) (data : List Byte)
  /-- RATOM_APPLY (R212). A remote atomic is applied at its target as one event. -/
  | ratomApply (id : Nat)
  /-- RATOM_COMPLETE (R262). A remote atomic completes and writes its old value, or zero on failure. -/
  | ratomComplete (id : Nat)
  /-- REPLICA_UPDATE (R215). A store to a Replicated page reaches the sequencer, which orders and multicasts it. -/
  | replicaUpdate (ag : Agent)
  /-- REPLICA_APPLY (R216). A replica applies a multicast update in ascending T. -/
  | replicaApply (id : Nat) (die : Nat)
  /-- HOST_CORE_ACCESS (R20, R228). A host-core access reaches the I/O die, refused as a bus error if not control space. `map`: the context
  whose control table maps its address; none for a physical address. -/
  | hostCoreAccess (h : HostCore) (acc : HostAccess)
  /-- BUILD (R44). Takes a Free context into Building with reset values. -/
  | build (cx : Nat)
  /-- COMMIT (R44). Checks a Building context and makes it Ready. -/
  | commit (cx : Nat)
  /-- PREEMPT (R52). Starts the save of an Active context. -/
  | preempt (cx : Nat)
  /-- DESTROY (R44). Ends the context's kernels and takes it to Draining or Free. -/
  | destroy (cx : Nat)
  /-- CLEAR (R44). Discards queued kernels of a Faulted context and makes it Ready. -/
  | clear (cx : Nat)
  /-- CONTEXT_DISPATCH (R82). The scheduler grants an active slot to the highest-ranked waiting context. -/
  | contextDispatch (cx : Nat)
  /-- SCHEDULER_PREEMPT (R82). With all slots taken the scheduler pre-empts a lower-priority Active context. -/
  | schedulerPreempt (cx : Nat)
  /-- SAVE_DONE (R52). The save image is written and the context's cores are released. -/
  | saveDone (cx : Nat) (err : Option Cause)
  /-- RESTORE_DONE (R55). A restore completes and strands continue at their saved positions. -/
  | restoreDone (cx : Nat) (err : Option Cause)
  /-- CONTEXT_DRAIN_DONE (R44). No engine work of a Draining context is in flight and it becomes Free. -/
  | contextDrainDone (cx : Nat)
  /-- PHASE_WRITE (R240). A write of PHASE pre-wakes and holds the context's keep set. -/
  | phaseWrite (cx : Nat) (v : W64)
  /-- BUDGET_WRITE (R39). A write of CEIL or FLOOR moves CUR within 1 us. -/
  | budgetWrite (cx : Nat) (v : W64)
  /-- CTXSTAT_WRITE (R36). Clears CTXSTAT.REJ by a W1C write. -/
  | ctxstatWrite (cx : Nat) (v : W64)
  /-- CKPTSTAT_WRITE (R42). Clears CKPTSTAT.CERR by a W1C write. -/
  | ckptstatWrite (cx : Nat) (v : W64)
  /-- REGISTER_WRITE (R6). A write to a register with no behaviour of its own sets its RW fields or is rejected. -/
  | registerWrite (addr : Nat) (v : W64)
  /-- ENABLE (R66). Checks a Disabled queue's configuration and makes it Idle. -/
  | enable (q : Nat)
  /-- DISABLE (R84). Stops dispatch of a queue and takes it to Draining. -/
  | disable (q : Nat)
  /-- RESUME (R84). Retries the stalled record or continues the REVERSE of a Stalled queue. -/
  | resume (q : Nat)
  /-- SKIP (R84). Completes the stalled record untaken, or the REVERSE as aborted. -/
  | skip (q : Nat)
  /-- TAPECLR (R84). Sets QTAPEDEPTH to zero. -/
  | tapeclr (q : Nat)
  /-- QTAIL_WRITE (R70). Raises QTAIL when the value exceeds it and wakes the scheduler. -/
  | qtailWrite (q : Nat) (v : W64)
  /-- QCHEAD_WRITE (R70). Raises QCHEAD when the value exceeds it, freeing completion slots. -/
  | qcheadWrite (q : Nat) (v : W64)
  /-- QWAKE_WRITE (R83). Sets QSTAT.WAKE and releases or retests WAIT records. -/
  | qwakeWrite (q : Nat) (v : W64)
  /-- QSTAT_WRITE (R64). Clears TOVF, WAKE or REJ by W1C. -/
  | qstatWrite (q : Nat) (v : W64)
  /-- HOLD_RELEASE (R72). No hold applies to a Blocked queue's head record any longer and it is Armed. -/
  | holdRelease (q : Nat)
  /-- LAUNCH_RECORD (R101). The scheduler takes a LAUNCH record, checks it and makes the kernel Queued. -/
  | launchRecord (q : Nat)
  /-- REVERSE (R78). The scheduler takes a REVERSE record and starts popping the tape. -/
  | reverse (q : Nat)
  /-- REVERSE_NEXT_KERNEL (R78). The previous popped kernel completes and the next tape entry is launched. -/
  | reverseNextKernel (q : Nat)
  /-- MARK (R73). The scheduler takes a MARK record and pushes a mark entry. -/
  | mark (q : Nat)
  /-- WAIT (R73). The scheduler takes a WAIT record whose condition holds. -/
  | wait (q : Nat)
  /-- WAIT_TIMEOUT (R72). A held WAIT's timeout expires and the queue stalls with WAITTO. -/
  | waitTimeout (q : Nat)
  /-- SIGNAL_RECORD (R73). The scheduler writes a SIGNAL's word, wakes the target queue and takes the record. -/
  | signalRecord (q : Nat)
  /-- PHASE_RECORD (R73). The scheduler takes a PHASE record and writes the context's PHASE. -/
  | phaseRecord (q : Nat)
  /-- NOP_RECORD (R73). The scheduler takes a NOP record. -/
  | nopRecord (q : Nat)
  /-- KERNEL_ADMIT (R104). Checks pass and dependences are met and the kernel starts Ranging. -/
  | kernelAdmit (k : Nat)
  /-- KERNEL_LEASED (R97). Every page is leased and every segment Active; the parameter block is read and the kernel is Ready. -/
  | kernelLeased (k : Nat)
  /-- WORKGROUP_PLACED (R92). Cores with room are found and a workgroup is placed. -/
  | workgroupPlaced (k : Nat) (at_ : Place)
  /-- GROUP_LOADED (R130). A group's registers are set and its strands become eligible. -/
  | groupLoaded (g : Nat)
  /-- KERNEL_QUIET (R104). No engine work of a Draining kernel is in flight; leases release and it completes. -/
  | kernelQuiet (k : Nat)
  /-- LEASE_RENEWAL (R97). Every RLEASE ticks the kernel's residency lease is renewed. -/
  | leaseRenewal (k : Nat)
  /-- UNMAP (R227). Clears V of a page and retires it once translation leases expire. -/
  | unmap (cx : Nat) (page : Nat)
  /-- PROTECT (R227). Clears WR and EX of a page once translation leases expire. -/
  | protect (cx : Nat) (page : Nat)
  /-- ZERO (R227). Writes zeros over a page under the context's key. -/
  | zero (cx : Nat) (page : Nat)
  /-- TRANSLATION_LEASE_EXPIRE (R231). The last translation lease before a pending UNMAP or PROTECT ends and BUSY clears. -/
  | translationLeaseExpire (cx : Nat) (page : Nat)
  /-- RESOLVED (R230). XFRESP answers a fault record RESOLVED and the device walks again. -/
  | resolved (cx : Nat) (seq : Nat)
  /-- REFUSED (R230). XFRESP answers a fault record REFUSED and waiting kernels abort with check 0x0B. -/
  | refused (cx : Nat) (seq : Nat)
  /-- XFHEAD_WRITE (R229). Raises XFHEAD as a monotonic maximum, freeing fault-ring slots. -/
  | xfheadWrite (cx : Nat) (v : W64)
  /-- PAGE_MOVE_DONE (R231). A PLACE move or replication finishes and stalled accesses are released. -/
  | pageMoveDone (cx : Nat) (page : Nat) (frame : Nat)
  /-- OFF (R242). Turns a segment Off unless it lies in a wake set, replica pool or second mirror region. -/
  | off (seg : Nat)
  /-- ON (R242). Wakes a segment to Active. -/
  | on (seg : Nat)
  /-- TIDECMD_WRITE (R242). Clears TIDECMD.REJ by W1C or sets SEG. -/
  | tidecmdWrite (v : W64)
  /-- IDLE_TIMEOUT (R240). IDLET us pass without access and an Active segment becomes Idle. -/
  | idleTimeout (seg : Nat)
  /-- RETENTION_TIMEOUT (R240). RETT us pass without access and an Idle segment enters Retention. -/
  | retentionTimeout (seg : Nat)
  /-- SEGMENT_WAKE_DONE (R241). A segment reaches Active and stalled accesses proceed. -/
  | segmentWakeDone (seg : Nat)
  /-- ROW_SPARE_SWITCH (R250). The spare row copy completes and reads switch to the spare. -/
  | rowSpareSwitch (id : Nat)
  /-- RETRAIN (R258). LCTL command that starts retraining of a port. -/
  | retrain (port : Nat)
  /-- LINK_DISABLE (R258). LCTL command that takes a port Down. -/
  | linkDisable (port : Nat)
  /-- LINK_ENABLE (R258). LCTL command that starts training of a port. -/
  | linkEnable (port : Nat)
  /-- TRAINING_RESULT (R258). Port training ends with eight lanes, four lanes or failure. -/
  | trainingResult (port : Nat) (res : TrainResult)
  /-- TRAINING_RETRY (R258). 100 us after a training failure the port retries. -/
  | trainingRetry (port : Nat)
  /-- LANE_FAIL (R258). A lane fails while flits run and the port degrades or retrains. -/
  | laneFail (port : Nat) (lane : Nat)
  /-- SILENCE (R258). Nothing is received for 10 us and the port retrains. -/
  | silence (port : Nat)
  /-- FLIT_RECEIVE (R255). A flit arrives and is accepted, or discarded with a replay request. -/
  | flitReceive (port : Nat) (flit : List Byte)
  /-- REPLAY_REQUEST (R255). A replay request arrives and the sender resends every flit after ACK. -/
  | replayRequest (port : Nat) (ack : Nat)
  /-- CREDIT_RETURN (R256). A credit-return flit restores receive credits of a channel. -/
  | creditReturn (port : Nat) (vc : Nat) (n : Nat)
  /-- ROUTE_SWITCH (R256). Flits on the old route are all acknowledged and a channel moves to its new route. -/
  | routeSwitch (dest : Nat) (vc : Nat)
  /-- NO_ROUTE_TIMEOUT (R263). No route reaches a rank for 100 us and it is lost. -/
  | noRouteTimeout (rank : Nat)
  /-- PEER_FAILURE_REPORT (R263). A management core reports its own failure on VC5. -/
  | peerFailureReport (rank : Nat)
  /-- LOSS_DECLARATION (R264). A loss declaration arrives; objects naming the rank fail and control space fails over. -/
  | lossDeclaration (rank : Nat)
  /-- DIRECTORY_REBUILD_DONE (R266). The directory for a lost rank's lines is rebuilt and stalled accesses proceed. -/
  | directoryRebuildDone (rank : Nat)
  /-- TILE_ARM (R269). A store of STATE 1 arms a tile-table entry after its checks. -/
  | tileArm (die : Nat) (i : Nat) (v : W64)
  /-- TILE_DISARM (R269). A store of STATE 0 disarms a tile-table entry. -/
  | tileDisarm (die : Nat) (i : Nat) (v : W64)
  /-- TILE_ENTRY_WRITE (R269). Another store to a tile-table entry sets its RW fields in Empty, Complete or Error. -/
  | tileEntryWrite (die : Nat) (i : Nat) (hi : Bool) (v : W64)
  /-- COLLECTIVE_CONTRIBUTION (R270). A contribution reaches an entry and is combined, held pending or refused. -/
  | collectiveContribution (die : Nat) (i : Nat) (msg : Contribution)
  /-- COLLECTIVE_RESULT (R272). A result arrives down the tree, is written to the shadow and the entry completes. -/
  | collectiveResult (die : Nat) (i : Nat)
  /-- COLLECTIVE_TIMEOUT (R274). CTO ticks pass from Fire without contributions and the entry goes to Error. -/
  | collectiveTimeout (die : Nat) (i : Nat)
  /-- COOLANT_OUT_OF_ENVELOPE (R30). Coolant leaves its envelope and budgets are lowered and reported. -/
  | coolantOutOfEnvelope (temp : Nat) (flow : Nat)
  /-- TEMPERATURE_RISE (R31). Rising temperature lowers budgets, then the clock at the floor. -/
  | temperatureRise
  /-- CLOCK_CHANGE (R32). A change of arithmetic clock takes effect at a clause boundary on every core. -/
  | clockChange (mhz : Nat)
  /-- BUDGET_CUR_CHANGE (R39). The management core moves CUR between FLOOR and CEIL. -/
  | budgetCurChange (cx : Nat) (v : W16)
  /-- POWER_ON (R507). Power-on causes a package reset. -/
  | powerOn
  /-- RESET_INPUT (R507). The board asserts the reset input and the package resets. -/
  | resetInput
  /-- LOAD (R506). FWCMD LOAD copies the firmware image and starts its authentication. -/
  | load
  /-- RESET (R505). FWCMD RESET with the key value causes a package reset. -/
  | reset (v : W64)
  /-- AUTH_CHECK_DONE (R507). The image check ends and Marintis starts or FAIL is recorded. -/
  | authCheckDone (sigOk : Bool) (fuseMin : Nat)
  /-- FIRMWARE_TRAINING_DONE (R508). Marintis training ends and the package becomes Ready or Failed. -/
  | firmwareTrainingDone (res : TrainingOutcome)
  /-- MSTAT_WRITE (R505). Clears MSTAT.REJ by W1C. -/
  | mstatWrite (v : W64)
  /-- MOHEAD_WRITE (R510). Raises MOHEAD, freeing outgoing-ring slots. -/
  | moheadWrite (v : W64)
  /-- ZERO_DONE (R227). A ZERO command finishes writing zeros over every line of the page and XCSTAT.BUSY clears. -/
  | zeroDone (cx : Nat) (page : Nat)
  /-- REPLICA_DISCARD (R231). The translation leases on a released Replicated page's replicas expire, the replicas are discarded and REPSET becomes zero. -/
  | replicaDiscard (cx : Nat) (page : Nat)
  /-- CONDITION_CLEARED (R39). The coolant or temperature condition that lowered budgets clears, and CUR returns towards CEIL. -/
  | conditionCleared
  /-- EVICTION (R184). A dirty line is evicted from L1 or L2 and written back to its home. -/
  | eviction (core : Nat) (line : Nat)
  /-- PUBLISH_ACK (R202). The acknowledgement of a remote buffer swap reaches the issuing strand, which stops stalling. -/
  | publishAck (id : Nat)
  /-- ICINV_ACK (R459). The last acknowledgement of an icinv invalidation reaches the issuer, and its path stops stalling. -/
  | icinvAck (id : Nat) (rank : Nat)
  deriving DecidableEq, Repr

end Sys2Proof
end

