-- ==== Sys2Proof/WellFormed.lean ====
section
/-!
DEFINITION. Well-formed instruction words: every index within its register file (R314 to R316), every modifier within its
field, and the field conditions that a form's own description states. A device step has no encoding and is well formed.
-/
namespace Sys2Proof

/-- `some k` has `k < n`; `none` passes. -/
def optLt (o : Option Nat) (n : Nat) : Bool := match o with
  | none => true
  | some k => decide (k < n)

/-- R313: predicates 0 to 95. -/
def Guard.wf : Guard → Bool
  | .always => true
  | .ifSet p => decide (p < 96)
  | .ifClear p => decide (p < 96)

/-- R315 to R320, R325: index ranges of each select. -/
def Src.wf : Src → Bool
  | .reg n => decide (n < 240)
  | .spec n => decide (240 ≤ n) && decide (n < 255)
  | .g n => decide (n < 64)
  | .lat r _ => decide (r < 4)
  | .const k => decide (k < 32)
  | .lit j => decide (j < 8)

/-- An operand marked immediate uses select 11 (R366). -/
def Src.isImm : Src → Bool
  | .const _ => true
  | .lit _ => true
  | _ => false

/-- A literal of the clause. -/
def Src.isLit : Src → Bool
  | .lit _ => true
  | _ => false

/-- A constant or a literal (R401). -/
def Src.isConstOrLit (s : Src) : Bool := s.isImm

/-- A register of the vector or the g file (a c register in a control-thread stream). -/
def Src.isRegOrG : Src → Bool
  | .reg _ => true
  | .g _ => true
  | _ => false

/-- The lane distance of `bfly`: an immediate; an inline constant is 1, 2, 4, 8, 16 or 32 (R319, R367). A literal's value
is tested when the word issues. -/
def Src.bflyImm : Src → Bool
  | .const k => k == 1 || k == 2 || k == 4 || k == 8 || k == 16 || k == 19
  | .lit _ => true
  | _ => false

/-- R316: DST ranges. -/
def Dst.wf : Dst → Bool
  | .reg n => decide (n < 240)
  | .g n => decide (n < 64)
  | .lat0 => true

/-- R342: predicates 0 to 95. -/
def PDst.wf : PDst → Bool
  | .pred n => decide (n < 96)
  | .lat0 => true

/-- A mode that an arithmetic form accepts: 0 to 3, not rs (R284, R349). -/
def Rm.det : Rm → Bool
  | .rs => false
  | _ => true

/-- A 1 B or 2 B access, which `.s` sign-extends (R401). -/
def MemSize.isSub : MemSize → Bool
  | .b8 => true
  | .b16 => true
  | _ => false

/-- Element registers `mxsc` writes (R357). -/
def MxFmt.regs : MxFmt → Nat
  | .e2m1 => 4
  | _ => 8


/-- Well-formedness of an instruction. -/
def Instr.wf : Instr → Bool
  | .nop gd => gd.wf
  | .mov gd d a _ => gd.wf && d.wf && a.wf
  | .iadd gd d a b _ => gd.wf && d.wf && a.wf && b.wf
  | .isub gd d a b _ => gd.wf && d.wf && a.wf && b.wf
  | .imul gd d a b => gd.wf && d.wf && a.wf && b.wf
  | .imulh gd d a b _ => gd.wf && d.wf && a.wf && b.wf
  | .imad gd d a b c => gd.wf && d.wf && a.wf && b.wf && c.wf
  | .idiv gd d a b _ _ => gd.wf && d.wf && a.wf && b.wf
  | .irem gd d a b _ _ => gd.wf && d.wf && a.wf && b.wf
  | .imin gd d a b _ => gd.wf && d.wf && a.wf && b.wf
  | .imax gd d a b _ => gd.wf && d.wf && a.wf && b.wf
  | .iabs gd d a _ => gd.wf && d.wf && a.wf
  | .ineg gd d a _ => gd.wf && d.wf && a.wf
  | .iand gd d a b => gd.wf && d.wf && a.wf && b.wf
  | .ior gd d a b => gd.wf && d.wf && a.wf && b.wf
  | .ixor gd d a b => gd.wf && d.wf && a.wf && b.wf
  | .iandn gd d a b => gd.wf && d.wf && a.wf && b.wf
  | .inot gd d a => gd.wf && d.wf && a.wf
  | .shl gd d a b => gd.wf && d.wf && a.wf && b.wf
  | .shr gd d a b => gd.wf && d.wf && a.wf && b.wf
  | .sar gd d a b => gd.wf && d.wf && a.wf && b.wf
  | .rotl gd d a b => gd.wf && d.wf && a.wf && b.wf
  | .bfe gd d a b _ => gd.wf && d.wf && a.wf && b.wf
  | .bfi gd d a b c => gd.wf && d.wf && a.wf && b.wf && c.wf
  | .popc gd d a => gd.wf && d.wf && a.wf
  | .clz gd d a => gd.wf && d.wf && a.wf
  | .ctz gd d a => gd.wf && d.wf && a.wf
  | .brev gd d a => gd.wf && d.wf && a.wf
  | .icmp gd p a b _ _ _ => gd.wf && p.wf && a.wf && b.wf
  | .sel gd d a b p _ => gd.wf && d.wf && a.wf && b.wf && decide (p < 96)
  | .iadd64 gd d a b _ => gd.wf && d.wf && a.wf && b.wf
  | .imad64 gd d a b c _ => gd.wf && d.wf && a.wf && b.wf && c.wf
  | .shf64 gd d a b _ => gd.wf && d.wf && a.wf && b.wf
  | .lea gd d a b _ sh => gd.wf && d.wf && a.wf && b.wf && decide (sh < 8)
  | .ext gd d a w64 _ width => gd.wf && d.wf && a.wf && ((width != .w32 || w64))
  | .bmrg gd d a b c _ => gd.wf && d.wf && a.wf && b.wf && c.wf
  | .dot4 gd d a b c _ _ => gd.wf && d.wf && a.wf && b.wf && c.wf
  | .iaddc gd d a b p => gd.wf && (d.wf && d != .lat0) && a.wf && b.wf && decide (p < 96)
  | .isubb gd d a b p => gd.wf && (d.wf && d != .lat0) && a.wf && b.wf && decide (p < 96)
  | .lop3 gd d a b c t => gd.wf && d.wf && a.wf && b.wf && c.wf && decide (t < 256)
  | .fadd gd d a b _ rm => gd.wf && d.wf && a.wf && b.wf && (rm.det)
  | .fsub gd d a b _ rm => gd.wf && d.wf && a.wf && b.wf && (rm.det)
  | .fmul gd d a b _ rm => gd.wf && d.wf && a.wf && b.wf && (rm.det)
  | .ffma gd d a b c _ rm => gd.wf && d.wf && a.wf && b.wf && c.wf && (rm.det)
  | .fmin gd d a b => gd.wf && d.wf && a.wf && b.wf
  | .fmax gd d a b => gd.wf && d.wf && a.wf && b.wf
  | .fcmp gd p a b _ => gd.wf && p.wf && a.wf && b.wf
  | .fclass gd p a b _ => gd.wf && p.wf && a.wf && b.wf
  | .frcp gd d a _ rm => gd.wf && d.wf && a.wf && (rm.det)
  | .frsq gd d a => gd.wf && d.wf && a.wf
  | .fsqrt gd d a rm => gd.wf && d.wf && a.wf && (rm.det)
  | .fsinpi gd d a => gd.wf && d.wf && a.wf
  | .fcospi gd d a => gd.wf && d.wf && a.wf
  | .fexp2 gd d a => gd.wf && d.wf && a.wf
  | .flog2 gd d a => gd.wf && d.wf && a.wf
  | .ftanh gd d a => gd.wf && d.wf && a.wf
  | .frnd gd d a rm => gd.wf && d.wf && a.wf && (rm.det)
  | .dadd gd d a b _ _ rm => gd.wf && d.wf && a.wf && b.wf && (rm.det)
  | .dmul gd d a b _ rm => gd.wf && d.wf && a.wf && b.wf && (rm.det)
  | .dfma gd d a b c _ rm => gd.wf && d.wf && a.wf && b.wf && c.wf && (rm.det)
  | .dmin gd d a b => gd.wf && d.wf && a.wf && b.wf
  | .dmax gd d a b => gd.wf && d.wf && a.wf && b.wf
  | .dcmp gd p a b _ => gd.wf && p.wf && a.wf && b.wf
  | .drcp gd d a _ rm => gd.wf && d.wf && a.wf && (rm.det)
  | .dsqrt gd d a rm => gd.wf && d.wf && a.wf && (rm.det)
  | .hadd2 gd d a b _ _ rm => gd.wf && d.wf && a.wf && b.wf && (rm.det)
  | .hmul2 gd d a b _ _ rm => gd.wf && d.wf && a.wf && b.wf && (rm.det)
  | .hfma2 gd d a b c _ _ rm => gd.wf && d.wf && a.wf && b.wf && c.wf && (rm.det)
  | .hmax2 gd d a b _ => gd.wf && d.wf && a.wf && b.wf
  | .hmin2 gd d a b _ => gd.wf && d.wf && a.wf && b.wf
  | .hcmp2 gd p a b _ _ => gd.wf && decide (p < 96) && a.wf && b.wf && ((p % 2 == 0) && p <= 94)
  | .cvtf gd d a cnt _ _ _ => gd.wf && d.wf && a.wf && optLt cnt 16
  | .cvti gd d a cnt _ _ _ _ => gd.wf && d.wf && a.wf && optLt cnt 16
  | .cvtd gd d a _ _ => gd.wf && d.wf && a.wf
  | .pk16 gd d a b cnt _ _ _ => gd.wf && d.wf && a.wf && b.wf && optLt cnt 16
  | .unpk16 gd d a b _ => gd.wf && d.wf && a.wf && b.src.wf
  | .cvt8 gd d a b cnt _ x1 _ _ => gd.wf && d.wf && a.wf && b.wf && optLt cnt 16 && ((!x1 || b == .reg 0))
  | .unpk8 gd d a b _ => gd.wf && d.wf && a.wf && b.src.wf
  | .cvt4 gd d a b cnt x1 _ _ => gd.wf && d.wf && a.wf && b.wf && optLt cnt 16 && ((!x1 || b == .reg 0))
  | .unpk4 gd d a b => gd.wf && d.wf && a.wf && b.src.wf
  | .mxsc gd d a s cnt fmt _ _ _ => gd.wf && decide (d < 240) && decide (a < 240) && decide (s < 240) && optLt cnt 16 && (!(d <= s && s < d + fmt.regs))
  | .rnd gd d => gd.wf && d.wf
  | .rseed gd a => gd.wf && a.wf
  | .satq gd d _ k => gd.wf && d.wf && decide (k < 16)
  | .fdot2 gd d a b c _ _ rm => gd.wf && d.wf && a.wf && b.wf && c.wf && (rm.det)
  | .shfl gd d a b _ wseg _ => gd.wf && d.wf && a.wf && b.wf && decide (wseg < 8) && (wseg <= 6)
  | .bfly gd x y m => gd.wf && decide (x < 240) && decide (y < 240) && (m.wf && m.isImm) && ((x != y) && Src.bflyImm m)
  | .bcast gd d a b _ => gd.wf && d.wf && a.wf && b.wf
  | .vote gd p q _ => gd.wf && p.wf && decide (q < 96)
  | .ballot gd d q _ => gd.wf && d.wf && decide (q < 96)
  | .redux gd d a _ => gd.wf && d.wf && a.wf
  | .fredux gd d a _ => gd.wf && d.wf && a.wf
  | .scan gd d a _ _ => gd.wf && d.wf && a.wf
  | .matchv gd d a _ _ => gd.wf && d.wf && a.wf
  | .pand gd p q r _ _ => gd.wf && p.wf && decide (q < 96) && decide (r < 96)
  | .por gd p q r _ _ => gd.wf && p.wf && decide (q < 96) && decide (r < 96)
  | .pxor gd p q r _ _ => gd.wf && p.wf && decide (q < 96) && decide (r < 96)
  | .pnot gd p q => gd.wf && p.wf && decide (q < 96)
  | .pmov gd p q => gd.wf && p.wf && decide (q < 96)
  | .pmovGet gd d q => gd.wf && d.wf && decide (q < 96) && (q <= 64)
  | .pmovSet gd p a => gd.wf && decide (p < 96) && a.wf && (p <= 64)
  | .pcnt gd d q => gd.wf && d.wf && decide (q < 96)
  | .elect gd p => gd.wf && p.wf
  | .bra gd t a cond => gd.wf && (t.wf && t.isImm) && a.wf && ((cond != .always || a == .reg 0))
  | .brx gd a b => gd.wf && a.wf && b.wf
  | .call gd d a x => gd.wf && decide (d < 240) && a.wf && ((x || a.isImm))
  | .ret gd a => gd.wf && a.wf
  | .enrol j => decide (j < 8)
  | .rejoin j => decide (j < 8)
  | .exit gd => gd.wf
  | .yield gd => gd.wf
  | .trap gd n => gd.wf && decide (n < 1024)
  | .brk gd n => gd.wf && decide (n < 1024)
  | .rte gd => gd.wf
  | .rteRetry gd => gd.wf
  | .signal gd a b => gd.wf && a.wf && b.wf
  | .signalMbox gd a b => gd.wf && a.wf && b.wf
  | .rswitch gd p a => gd.wf && decide (p < 96) && a.wf && ((a.isRegOrG || a.isLit))
  | .reggrow gd p n => gd.wf && decide (p < 96) && (n.wf && n.isImm)
  | .regshrink gd n => gd.wf && (n.wf && n.isImm)
  | .sleep gd a => gd.wf && a.wf
  | .barinit gd b n => gd.wf && decide (b < 16) && n.wf
  | .bararr gd b n => gd.wf && decide (b < 16) && n.wf
  | .barwait gd p b ph => gd.wf && optLt p 96 && decide (b < 16) && ph.wf
  | .barinval gd b => gd.wf && decide (b < 16)
  | .barrarr gd h n => gd.wf && h.wf && n.wf
  | .barq gd d b _ => gd.wf && (d.wf && d != .lat0) && decide (b < 16)
  | .hbarInit gd i n _ => gd.wf && i.wf && n.wf
  | .hbarArr gd i _ => gd.wf && i.wf
  | .hbarWait gd p i ph _ => gd.wf && optLt p 96 && i.wf && ph.wf
  | .hbarQ gd d i _ _ => gd.wf && decide (d < 240) && i.wf
  | .ld gd d a o s size => gd.wf && (d.wf && d != .lat0) && a.wf && o.wf && ((!s || size.isSub))
  | .st gd a o s size => gd.wf && a.wf && o.wf && s.wf && ((match size with | .b32 | .b64 => true | .b128 => s.isRegOrG | _ => !s.isConstOrLit))
  | .ldt gd d h x _ => gd.wf && decide (d < 240) && h.wf && decide (x < 240)
  | .stt gd h x s => gd.wf && h.wf && decide (x < 240) && s.wf
  | .ldfr gd d a b _ _ => gd.wf && (decide (d < 240) && d % 8 == 0) && a.wf && b.wf
  | .stfr gd a b s t el => gd.wf && a.wf && b.wf && (decide (s < 240) && s % 8 == 0) && (!(t && el == .e4))
  | .atom gd d a b _ _ _ => gd.wf && decide (d < 240) && a.wf && b.wf
  | .cas gd d a x y _ _ => gd.wf && decide (d < 240) && a.wf && x.wf && y.wf
  | .ratom gd d a b _ _ => gd.wf && decide (d < 240) && a.wf && b.wf
  | .fence gd _ => gd.wf
  | .fenceTc gd => gd.wf
  | .publish gd h => gd.wf && h.wf
  | .mon gd a => gd.wf && a.wf
  | .mwait gd p t => gd.wf && optLt p 96 && t.wf
  | .tierpf gd b d s n => gd.wf && decide (b < 16) && d.wf && s.wf && n.wf
  | .tierev gd b d s n => gd.wf && decide (b < 16) && d.wf && s.wf && n.wf
  | .lastuse gd a n => gd.wf && a.wf && n.wf
  | .mma n a b s _ => decide (n < 8) && a.wf && b.wf && s.wf
  | .accdrain n w c => decide (n < 8) && w.wf && c.wf
  | .accst n w c => decide (n < 8) && w.wf && c.wf
  | .acctx n e => decide (n < 8) && e.wf
  | .accwait n k one => decide (n < 8) && k.wf && ((one || (n == 0 && k == .reg 0)))
  | .accfree n k => decide (n < 8) && k.wf
  | .cbarArr b => decide (b < 16)
  | .cbarWait p b ph => optLt p 64 && decide (b < 16) && ph.wf
  | .cbarInit b n => decide (b < 16) && n.wf
  | .cbarInval b => decide (b < 16)
  | .cbarQ d b _ => decide (d < 64) && decide (b < 16)
  | .copy gd b h x d => gd.wf && decide (b < 16) && decide (h < 64) && decide (x < 64) && decide (d < 64)
  | .copymc gd l h x d m => gd.wf && decide (l < 64) && decide (h < 64) && decide (x < 64) && decide (d < 64) && decide (m < 4)
  | .copyw gd b h x d => gd.wf && decide (b < 16) && decide (h < 64) && decide (x < 64) && decide (d < 64)
  | .tready gd i => gd.wf && decide (i < 64)
  | .fork gd p h k e => gd.wf && decide (p < 96) && h.wf && (k.wf && k.isImm) && (e.wf && e.isImm) && ((e.isLit))
  | .reward gd h x => gd.wf && h.wf && x.wf
  | .slack gd d h s => gd.wf && decide (d < 64) && h.wf && decide (s < 64) && (d != s)
  | .sgcancel gd h i => gd.wf && h.wf && i.wf
  | .sgq gd d h which => gd.wf && decide (d < 240) && h.wf && (which.wf && which.isImm)
  | .tapepush gd p a b _ => gd.wf && decide (p < 96) && a.wf && b.wf
  | .launch gd p a q => gd.wf && decide (p < 96) && a.wf && q.wf
  | .rcomb gd d a r => gd.wf && decide (d < 240) && decide (a < 240) && r.wf
  | .sysrd gd d idx => gd.wf && (d.wf && d != .lat0) && decide (idx < 256)
  | .syswr gd a idx => gd.wf && a.wf && decide (idx < 256)
  | .dbgmark gd a => gd.wf && a.wf
  | .perfc gd d n => gd.wf && (d.wf && d != .lat0) && decide (n < 16)
  | .icinv gd a n => gd.wf && a.wf && n.wf
  | .ckptmark gd a n e => gd.wf && a.wf && n.wf && e.wf
  | .growGrant _ => true
  | .sleepExpire _ => true
  | .remoteArrival _ => true
  | .hbarMessage _ => true
  | .hbarReply _ => true
  | .mwaitTimeout _ => true
  | .lastuseArm _ => true
  | .mmaEnd _ => true
  | .residueMismatchMma _ => true
  | .acctxLand _ => true
  | .drainSettle _ => true
  | .copyComplete _ _ => true
  | .engineArrival _ => true
  | .rangeRetire _ => true
  | .tierMoveDone _ _ => true
  | .siblingsPlaced _ _ _ => true
  | .forkwaitExpire _ _ => true
  | .sgTimeout _ _ => true
  | .sgResult _ _ => true
  | .sgDrained _ _ => true
  | .rcombRoundEnd _ _ => true
  | .rcombTimeout _ _ => true
  | .icinvInvalidate _ => true
  | .checkpointCopyDone _ _ => true
  | .checkpointCopyFail _ _ _ => true
  | .clauseFetch _ => true
  | .swashYield _ _ => true
  | .trapEntry _ => true
  | .longLatencyResult _ => true
  | .storePerform _ => true
  | .missFill _ _ => true
  | .ptsTick _ => true
  | .invalidation _ _ => true
  | .upgradeRequest _ _ => true
  | .homeWrite _ => true
  | .mirrorAck _ => true
  | .publishSwap _ => true
  | .publishSwapRequest _ _ _ _ => true
  | .engineWriteAccept _ _ _ _ => true
  | .ratomApply _ => true
  | .ratomComplete _ => true
  | .replicaUpdate _ => true
  | .replicaApply _ _ => true
  | .hostCoreAccess _ _ => true
  | .build _ => true
  | .commit _ => true
  | .preempt _ => true
  | .destroy _ => true
  | .clear _ => true
  | .contextDispatch _ => true
  | .schedulerPreempt _ => true
  | .saveDone _ _ => true
  | .restoreDone _ _ => true
  | .contextDrainDone _ => true
  | .phaseWrite _ _ => true
  | .budgetWrite _ _ => true
  | .ctxstatWrite _ _ => true
  | .ckptstatWrite _ _ => true
  | .registerWrite _ _ => true
  | .enable _ => true
  | .disable _ => true
  | .resume _ => true
  | .skip _ => true
  | .tapeclr _ => true
  | .qtailWrite _ _ => true
  | .qcheadWrite _ _ => true
  | .qwakeWrite _ _ => true
  | .qstatWrite _ _ => true
  | .holdRelease _ => true
  | .launchRecord _ => true
  | .reverse _ => true
  | .reverseNextKernel _ => true
  | .mark _ => true
  | .wait _ => true
  | .waitTimeout _ => true
  | .signalRecord _ => true
  | .phaseRecord _ => true
  | .nopRecord _ => true
  | .kernelAdmit _ => true
  | .kernelLeased _ => true
  | .workgroupPlaced _ _ => true
  | .groupLoaded _ => true
  | .kernelQuiet _ => true
  | .leaseRenewal _ => true
  | .unmap _ _ => true
  | .protect _ _ => true
  | .zero _ _ => true
  | .translationLeaseExpire _ _ => true
  | .resolved _ _ => true
  | .refused _ _ => true
  | .xfheadWrite _ _ => true
  | .pageMoveDone _ _ _ => true
  | .off _ => true
  | .on _ => true
  | .tidecmdWrite _ => true
  | .idleTimeout _ => true
  | .retentionTimeout _ => true
  | .segmentWakeDone _ => true
  | .rowSpareSwitch _ => true
  | .retrain _ => true
  | .linkDisable _ => true
  | .linkEnable _ => true
  | .trainingResult _ _ => true
  | .trainingRetry _ => true
  | .laneFail _ _ => true
  | .silence _ => true
  | .flitReceive _ _ => true
  | .replayRequest _ _ => true
  | .creditReturn _ _ _ => true
  | .routeSwitch _ _ => true
  | .noRouteTimeout _ => true
  | .peerFailureReport _ => true
  | .lossDeclaration _ => true
  | .directoryRebuildDone _ => true
  | .tileArm _ _ _ => true
  | .tileDisarm _ _ _ => true
  | .tileEntryWrite _ _ _ _ => true
  | .collectiveContribution _ _ _ => true
  | .collectiveResult _ _ => true
  | .collectiveTimeout _ _ => true
  | .coolantOutOfEnvelope _ _ => true
  | .temperatureRise => true
  | .clockChange _ => true
  | .budgetCurChange _ _ => true
  | .powerOn => true
  | .resetInput => true
  | .load => true
  | .reset _ => true
  | .authCheckDone _ _ => true
  | .firmwareTrainingDone _ => true
  | .mstatWrite _ => true
  | .moheadWrite _ => true
  | .zeroDone _ _ => true
  | .replicaDiscard _ _ => true
  | .conditionCleared => true
  | .eviction _ _ => true
  | .publishAck _ => true
  | .icinvAck _ _ => true

/-- An instruction word, as against a device step. -/
def Instr.isWord : Instr → Bool
  | .growGrant _ => false
  | .sleepExpire _ => false
  | .remoteArrival _ => false
  | .hbarMessage _ => false
  | .hbarReply _ => false
  | .mwaitTimeout _ => false
  | .lastuseArm _ => false
  | .mmaEnd _ => false
  | .residueMismatchMma _ => false
  | .acctxLand _ => false
  | .drainSettle _ => false
  | .copyComplete _ _ => false
  | .engineArrival _ => false
  | .rangeRetire _ => false
  | .tierMoveDone _ _ => false
  | .siblingsPlaced _ _ _ => false
  | .forkwaitExpire _ _ => false
  | .sgTimeout _ _ => false
  | .sgResult _ _ => false
  | .sgDrained _ _ => false
  | .rcombRoundEnd _ _ => false
  | .rcombTimeout _ _ => false
  | .icinvInvalidate _ => false
  | .checkpointCopyDone _ _ => false
  | .checkpointCopyFail _ _ _ => false
  | .clauseFetch _ => false
  | .swashYield _ _ => false
  | .trapEntry _ => false
  | .longLatencyResult _ => false
  | .storePerform _ => false
  | .missFill _ _ => false
  | .ptsTick _ => false
  | .invalidation _ _ => false
  | .upgradeRequest _ _ => false
  | .homeWrite _ => false
  | .mirrorAck _ => false
  | .publishSwap _ => false
  | .publishSwapRequest _ _ _ _ => false
  | .engineWriteAccept _ _ _ _ => false
  | .ratomApply _ => false
  | .ratomComplete _ => false
  | .replicaUpdate _ => false
  | .replicaApply _ _ => false
  | .hostCoreAccess _ _ => false
  | .build _ => false
  | .commit _ => false
  | .preempt _ => false
  | .destroy _ => false
  | .clear _ => false
  | .contextDispatch _ => false
  | .schedulerPreempt _ => false
  | .saveDone _ _ => false
  | .restoreDone _ _ => false
  | .contextDrainDone _ => false
  | .phaseWrite _ _ => false
  | .budgetWrite _ _ => false
  | .ctxstatWrite _ _ => false
  | .ckptstatWrite _ _ => false
  | .registerWrite _ _ => false
  | .enable _ => false
  | .disable _ => false
  | .resume _ => false
  | .skip _ => false
  | .tapeclr _ => false
  | .qtailWrite _ _ => false
  | .qcheadWrite _ _ => false
  | .qwakeWrite _ _ => false
  | .qstatWrite _ _ => false
  | .holdRelease _ => false
  | .launchRecord _ => false
  | .reverse _ => false
  | .reverseNextKernel _ => false
  | .mark _ => false
  | .wait _ => false
  | .waitTimeout _ => false
  | .signalRecord _ => false
  | .phaseRecord _ => false
  | .nopRecord _ => false
  | .kernelAdmit _ => false
  | .kernelLeased _ => false
  | .workgroupPlaced _ _ => false
  | .groupLoaded _ => false
  | .kernelQuiet _ => false
  | .leaseRenewal _ => false
  | .unmap _ _ => false
  | .protect _ _ => false
  | .zero _ _ => false
  | .translationLeaseExpire _ _ => false
  | .resolved _ _ => false
  | .refused _ _ => false
  | .xfheadWrite _ _ => false
  | .pageMoveDone _ _ _ => false
  | .off _ => false
  | .on _ => false
  | .tidecmdWrite _ => false
  | .idleTimeout _ => false
  | .retentionTimeout _ => false
  | .segmentWakeDone _ => false
  | .rowSpareSwitch _ => false
  | .retrain _ => false
  | .linkDisable _ => false
  | .linkEnable _ => false
  | .trainingResult _ _ => false
  | .trainingRetry _ => false
  | .laneFail _ _ => false
  | .silence _ => false
  | .flitReceive _ _ => false
  | .replayRequest _ _ => false
  | .creditReturn _ _ _ => false
  | .routeSwitch _ _ => false
  | .noRouteTimeout _ => false
  | .peerFailureReport _ => false
  | .lossDeclaration _ => false
  | .directoryRebuildDone _ => false
  | .tileArm _ _ _ => false
  | .tileDisarm _ _ _ => false
  | .tileEntryWrite _ _ _ _ => false
  | .collectiveContribution _ _ _ => false
  | .collectiveResult _ _ => false
  | .collectiveTimeout _ _ => false
  | .coolantOutOfEnvelope _ _ => false
  | .temperatureRise => false
  | .clockChange _ => false
  | .budgetCurChange _ _ => false
  | .powerOn => false
  | .resetInput => false
  | .load => false
  | .reset _ => false
  | .authCheckDone _ _ => false
  | .firmwareTrainingDone _ => false
  | .mstatWrite _ => false
  | .moheadWrite _ => false
  | .zeroDone _ _ => false
  | .replicaDiscard _ _ => false
  | .conditionCleared => false
  | .eviction _ _ => false
  | .publishAck _ => false
  | .icinvAck _ _ => false
  | _ => true

end Sys2Proof
end

