-- ==== Sys2Proof/Decode.lean ====
section
/-!
DEFINITION. Decoding and encoding of instruction words (R312 to R331): fields, the decoder, which rejects by name, and the
encoder, both written from the encoding tables of R329, R344, R349, R355, R367, R376, R388, R394, R401, R427, R441, R442,
R450 and R454. A reserved bit that is set makes the word differ from the encoding of the instruction it would otherwise be,
which is how the decoder refuses it (R2, R312).
-/
namespace Sys2Proof

/-- The fields of an instruction word (R312), as numbers. -/
structure Fields where
  opc : Nat
  dst : Nat
  nwb : Nat
  guard : Nat
  neg : Nat
  a : Nat
  b : Nat
  c : Nat
  md : Nat
  deriving DecidableEq, Repr

/-- The fields of a word (R312). -/
def Fields.ofWord (w : W64) : Fields :=
  let n := w.toNat
  ⟨n / 2^56 % 2^8, n / 2^48 % 2^8, n / 2^47 % 2, n / 2^40 % 2^7, n / 2^39 % 2, n / 2^29 % 2^10, n / 2^19 % 2^10,
   n / 2^9 % 2^10, n % 2^9⟩

/-- The word of the fields (R312). -/
def Fields.toWord (f : Fields) : W64 :=
  BitVec.ofNat 64 (f.opc * 2^56 + f.dst * 2^48 + f.nwb * 2^47 + f.guard * 2^40 + f.neg * 2^39 + f.a * 2^29 + f.b * 2^19
    + f.c * 2^9 + f.md)

/-- One bit of a flag. -/
def bit (b : Bool) : Nat := if b then 1 else 0

/-- One bit that says an optional operand is present. -/
def optBit (o : Option Nat) : Nat := if o.isSome then 1 else 0

/-- An optional operand from its presence bit. -/
def optOf (present n : Nat) : Option Nat := if present = 1 then some n else none

/-- GUARD (R313). -/
def Guard.toField : Guard → Nat
  | .always => 127
  | .ifSet p => p
  | .ifClear p => p

/-- NEG (R313). -/
def Guard.negBit : Guard → Nat
  | .ifClear _ => 1
  | _ => 0

/-- The guard of the fields (R313). -/
def guardOf (f : Fields) : Guard :=
  if f.guard = 127 then .always else if f.neg = 1 then .ifClear f.guard else .ifSet f.guard

/-- A source field (R315). -/
def Src.toField : Src → Nat
  | .reg n => n
  | .spec n => n
  | .g n => 256 + n
  | .lat r hi => 512 + r + 4 * bit hi
  | .const k => 768 + k
  | .lit j => 800 + j

/-- The operand a source field names (R315); an index the select does not have gives an operand that is not well formed. -/
def Src.ofField (n : Nat) : Src :=
  match n / 256 with
  | 0 => if n < 240 then .reg n else .spec n
  | 1 => .g (n - 256)
  | 2 => .lat (n % 4) (n / 4 % 2 == 1)
  | _ => if n < 800 then .const (n - 768) else .lit (n - 800)

/-- DST of a destination (R316). -/
def Dst.idx : Dst → Nat
  | .reg n => n
  | .g n => n
  | .lat0 => 0

/-- NWB of a destination (R316). -/
def Dst.nwb : Dst → Nat
  | .lat0 => 1
  | _ => 0

/-- DG of a destination (R316). -/
def Dst.dg : Dst → Nat
  | .g _ => 1
  | _ => 0

/-- The destination of the fields (R316). -/
def dstOf (f : Fields) : Dst :=
  if f.nwb = 1 then .lat0 else if f.md / 256 = 1 then .g f.dst else .reg f.dst

/-- DST of a predicate destination (R342). -/
def PDst.idx : PDst → Nat
  | .pred n => n
  | .lat0 => 0

/-- NWB of a predicate destination (R342). -/
def PDst.nwb : PDst → Nat
  | .lat0 => 1
  | _ => 0

/-- The predicate destination of the fields (R342). -/
def pdstOf (f : Fields) : PDst := if f.nwb = 1 then .lat0 else .pred f.dst

/-- Code of SatMode: Saturation of `iadd` and `isub` (R344). -/
def SatMode.toBits : SatMode → Nat
  | .wrap => 0
  | .ssat => 1
  | .usat => 2

/-- SatMode of a code; the other codes are reserved. -/
def SatMode.ofBits : Nat → Option SatMode
  | 0 => some .wrap
  | 1 => some .ssat
  | 2 => some .usat
  | _ => none

/-- Code of ICond: Conditions of `icmp` (R344). -/
def ICond.toBits : ICond → Nat
  | .eq => 0
  | .ne => 1
  | .lt => 2
  | .le => 3
  | .gt => 4
  | .ge => 5

/-- ICond of a code; the other codes are reserved. -/
def ICond.ofBits : Nat → Option ICond
  | 0 => some .eq
  | 1 => some .ne
  | 2 => some .lt
  | 3 => some .le
  | 4 => some .gt
  | 5 => some .ge
  | _ => none

/-- Code of FCond: Conditions of `fcmp`, `dcmp`, `hcmp2` (R352). -/
def FCond.toBits : FCond → Nat
  | .eq => 0
  | .ne => 1
  | .lt => 2
  | .le => 3
  | .gt => 4
  | .ge => 5
  | .un => 6
  | .ord => 7

/-- FCond of a code; the other codes are reserved. -/
def FCond.ofBits : Nat → Option FCond
  | 0 => some .eq
  | 1 => some .ne
  | 2 => some .lt
  | 3 => some .le
  | 4 => some .gt
  | 5 => some .ge
  | 6 => some .un
  | 7 => some .ord
  | _ => none

/-- Code of ShfMode: Modes of `shf64` (R344). -/
def ShfMode.toBits : ShfMode → Nat
  | .left => 0
  | .lr => 1
  | .ar => 2
  | .rot => 3

/-- ShfMode of a code; the other codes are reserved. -/
def ShfMode.ofBits : Nat → Option ShfMode
  | 0 => some .left
  | 1 => some .lr
  | 2 => some .ar
  | 3 => some .rot
  | _ => none

/-- Code of ExtWidth: Widths of `ext` (R344). -/
def ExtWidth.toBits : ExtWidth → Nat
  | .w8 => 0
  | .w16 => 1
  | .w32 => 2

/-- ExtWidth of a code; the other codes are reserved. -/
def ExtWidth.ofBits : Nat → Option ExtWidth
  | 0 => some .w8
  | 1 => some .w16
  | 2 => some .w32
  | _ => none

/-- Code of Rm: Rounding modes (R284). -/
def Rm.toBits : Rm → Nat
  | .rn => 0
  | .rz => 1
  | .rd => 2
  | .ru => 3
  | .rs => 4

/-- Rm of a code; the other codes are reserved. -/
def Rm.ofBits : Nat → Option Rm
  | 0 => some .rn
  | 1 => some .rz
  | 2 => some .rd
  | 3 => some .ru
  | 4 => some .rs
  | _ => none

/-- Code of CvtFSrc: Source types of `cvtf` (R355). -/
def CvtFSrc.toBits : CvtFSrc → Nat
  | .f64 => 0
  | .i32 => 1
  | .u32 => 2
  | .i64 => 3
  | .u64 => 4
  | .f16 => 5
  | .bf16 => 6

/-- CvtFSrc of a code; the other codes are reserved. -/
def CvtFSrc.ofBits : Nat → Option CvtFSrc
  | 0 => some .f64
  | 1 => some .i32
  | 2 => some .u32
  | 3 => some .i64
  | 4 => some .u64
  | 5 => some .f16
  | 6 => some .bf16
  | _ => none

/-- Code of CvtIDst: Target types of `cvti` (R355). -/
def CvtIDst.toBits : CvtIDst → Nat
  | .i32 => 0
  | .u32 => 1
  | .i64 => 2
  | .u64 => 3

/-- CvtIDst of a code; the other codes are reserved. -/
def CvtIDst.ofBits : Nat → Option CvtIDst
  | 0 => some .i32
  | 1 => some .u32
  | 2 => some .i64
  | 3 => some .u64
  | _ => none

/-- Code of CvtDSrc: Source types of `cvtd` (R355). -/
def CvtDSrc.toBits : CvtDSrc → Nat
  | .f32 => 0
  | .i32 => 1
  | .u32 => 2
  | .i64 => 3
  | .u64 => 4

/-- CvtDSrc of a code; the other codes are reserved. -/
def CvtDSrc.ofBits : Nat → Option CvtDSrc
  | 0 => some .f32
  | 1 => some .i32
  | 2 => some .u32
  | 3 => some .i64
  | 4 => some .u64
  | _ => none

/-- Code of F8To: Targets of `cvt8` (R355). -/
def F8To.toBits : F8To → Nat
  | .e4m3 => 0
  | .e5m2 => 1
  | .int8 => 2

/-- F8To of a code; the other codes are reserved. -/
def F8To.ofBits : Nat → Option F8To
  | 0 => some .e4m3
  | 1 => some .e5m2
  | 2 => some .int8
  | _ => none

/-- Code of F8From: Sources of `unpk8` (R355). -/
def F8From.toBits : F8From → Nat
  | .e4m3 => 0
  | .e5m2 => 1
  | .int8 => 2
  | .e8m0 => 3

/-- F8From of a code; the other codes are reserved. -/
def F8From.ofBits : Nat → Option F8From
  | 0 => some .e4m3
  | 1 => some .e5m2
  | 2 => some .int8
  | 3 => some .e8m0
  | _ => none

/-- Code of MxFmt: Element formats of `mxsc` (R355). -/
def MxFmt.toBits : MxFmt → Nat
  | .e4m3 => 0
  | .e5m2 => 1
  | .e2m1 => 2

/-- MxFmt of a code; the other codes are reserved. -/
def MxFmt.ofBits : Nat → Option MxFmt
  | 0 => some .e4m3
  | 1 => some .e5m2
  | 2 => some .e2m1
  | _ => none

/-- Code of ShflMode: Modes of `shfl` (R367). -/
def ShflMode.toBits : ShflMode → Nat
  | .idx => 0
  | .up => 1
  | .down => 2
  | .xor => 3

/-- ShflMode of a code; the other codes are reserved. -/
def ShflMode.ofBits : Nat → Option ShflMode
  | 0 => some .idx
  | 1 => some .up
  | 2 => some .down
  | 3 => some .xor
  | _ => none

/-- Code of VoteMode: Modes of `vote` (R367). -/
def VoteMode.toBits : VoteMode → Nat
  | .all => 0
  | .any => 1
  | .uni => 2

/-- VoteMode of a code; the other codes are reserved. -/
def VoteMode.ofBits : Nat → Option VoteMode
  | 0 => some .all
  | 1 => some .any
  | 2 => some .uni
  | _ => none

/-- Code of ReduxOp: Operations of `redux` (R367). -/
def ReduxOp.toBits : ReduxOp → Nat
  | .add => 0
  | .min => 1
  | .max => 2
  | .umin => 3
  | .umax => 4
  | .and => 5
  | .or => 6
  | .xor => 7

/-- ReduxOp of a code; the other codes are reserved. -/
def ReduxOp.ofBits : Nat → Option ReduxOp
  | 0 => some .add
  | 1 => some .min
  | 2 => some .max
  | 3 => some .umin
  | 4 => some .umax
  | 5 => some .and
  | 6 => some .or
  | 7 => some .xor
  | _ => none

/-- Code of FReduxOp: Operations of `fredux` (R367). -/
def FReduxOp.toBits : FReduxOp → Nat
  | .sum => 0
  | .max => 1
  | .min => 2

/-- FReduxOp of a code; the other codes are reserved. -/
def FReduxOp.ofBits : Nat → Option FReduxOp
  | 0 => some .sum
  | 1 => some .max
  | 2 => some .min
  | _ => none

/-- Code of BraCond: Conditions of `bra` (R376). -/
def BraCond.toBits : BraCond → Nat
  | .always => 0
  | .z => 1
  | .nz => 2
  | .neg => 3
  | .nneg => 4

/-- BraCond of a code; the other codes are reserved. -/
def BraCond.ofBits : Nat → Option BraCond
  | 0 => some .always
  | 1 => some .z
  | 2 => some .nz
  | 3 => some .neg
  | 4 => some .nneg
  | _ => none

/-- Code of BarqSel: Selectors of `barq` (R388). -/
def BarqSel.toBits : BarqSel → Nat
  | .state => 0
  | .count => 1
  | .handle => 2

/-- BarqSel of a code; the other codes are reserved. -/
def BarqSel.ofBits : Nat → Option BarqSel
  | 0 => some .state
  | 1 => some .count
  | 2 => some .handle
  | _ => none

/-- Code of HScope: Scopes of `hbar`, codes 3 to 5 (R394). -/
def HScope.toBits : HScope → Nat
  | .die => 3
  | .pkg => 4
  | .pod => 5

/-- HScope of a code; the other codes are reserved. -/
def HScope.ofBits : Nat → Option HScope
  | 3 => some .die
  | 4 => some .pkg
  | 5 => some .pod
  | _ => none

/-- Code of Scope: Scope codes (R24). -/
def Scope.toBits : Scope → Nat
  | .lane => 0
  | .core => 1
  | .quad => 2
  | .die => 3
  | .pkg => 4
  | .pod => 5

/-- Scope of a code; the other codes are reserved. -/
def Scope.ofBits : Nat → Option Scope
  | 0 => some .lane
  | 1 => some .core
  | 2 => some .quad
  | 3 => some .die
  | 4 => some .pkg
  | 5 => some .pod
  | _ => none

/-- Code of MemSize: Access sizes (R401). -/
def MemSize.toBits : MemSize → Nat
  | .b32 => 0
  | .b8 => 1
  | .b16 => 2
  | .b64 => 3
  | .b128 => 4

/-- MemSize of a code; the other codes are reserved. -/
def MemSize.ofBits : Nat → Option MemSize
  | 0 => some .b32
  | 1 => some .b8
  | 2 => some .b16
  | 3 => some .b64
  | 4 => some .b128
  | _ => none

/-- Code of FragEl: Fragment element widths (R401). -/
def FragEl.toBits : FragEl → Nat
  | .e16 => 0
  | .e8 => 1
  | .e4 => 2

/-- FragEl of a code; the other codes are reserved. -/
def FragEl.ofBits : Nat → Option FragEl
  | 0 => some .e16
  | 1 => some .e8
  | 2 => some .e4
  | _ => none

/-- Code of AtomOp: Atomic operations (R401). -/
def AtomOp.toBits : AtomOp → Nat
  | .add => 0
  | .and => 1
  | .or => 2
  | .xor => 3
  | .min => 4
  | .max => 5
  | .umin => 6
  | .umax => 7
  | .xchg => 8
  | .fadd => 9

/-- AtomOp of a code; the other codes are reserved. -/
def AtomOp.ofBits : Nat → Option AtomOp
  | 0 => some .add
  | 1 => some .and
  | 2 => some .or
  | 3 => some .xor
  | 4 => some .min
  | 5 => some .max
  | 6 => some .umin
  | 7 => some .umax
  | 8 => some .xchg
  | 9 => some .fadd
  | _ => none

/-- The encoding of an instruction word as fields; `none` for a device step. -/
def Instr.fields? : Instr → Option Fields
  | .nop gd => some ⟨0x0, 0, 0, Guard.toField gd, Guard.negBit gd, 0, 0, 0, 0⟩
  | .mov gd d a w64 => some ⟨0x1, d.idx, d.nwb, Guard.toField gd, Guard.negBit gd, a.toField, 0, 0, d.dg * 256 + bit w64 * 1⟩
  | .iadd gd d a b sat => some ⟨0x2, d.idx, d.nwb, Guard.toField gd, Guard.negBit gd, a.toField, b.toField, 0, d.dg * 256 + sat.toBits * 1⟩
  | .isub gd d a b sat => some ⟨0x3, d.idx, d.nwb, Guard.toField gd, Guard.negBit gd, a.toField, b.toField, 0, d.dg * 256 + sat.toBits * 1⟩
  | .imul gd d a b => some ⟨0x4, d.idx, d.nwb, Guard.toField gd, Guard.negBit gd, a.toField, b.toField, 0, d.dg * 256⟩
  | .imulh gd d a b u => some ⟨0x5, d.idx, d.nwb, Guard.toField gd, Guard.negBit gd, a.toField, b.toField, 0, d.dg * 256 + bit u * 1⟩
  | .imad gd d a b c => some ⟨0x6, d.idx, d.nwb, Guard.toField gd, Guard.negBit gd, a.toField, b.toField, c.toField, d.dg * 256⟩
  | .idiv gd d a b w64 u => some ⟨0x7, d.idx, d.nwb, Guard.toField gd, Guard.negBit gd, a.toField, b.toField, 0, d.dg * 256 + bit w64 * 2 + bit u * 1⟩
  | .irem gd d a b w64 u => some ⟨0x8, d.idx, d.nwb, Guard.toField gd, Guard.negBit gd, a.toField, b.toField, 0, d.dg * 256 + bit w64 * 2 + bit u * 1⟩
  | .imin gd d a b u => some ⟨0x9, d.idx, d.nwb, Guard.toField gd, Guard.negBit gd, a.toField, b.toField, 0, d.dg * 256 + bit u * 1⟩
  | .imax gd d a b u => some ⟨0xa, d.idx, d.nwb, Guard.toField gd, Guard.negBit gd, a.toField, b.toField, 0, d.dg * 256 + bit u * 1⟩
  | .iabs gd d a ssat => some ⟨0xb, d.idx, d.nwb, Guard.toField gd, Guard.negBit gd, a.toField, 0, 0, d.dg * 256 + bit ssat * 1⟩
  | .ineg gd d a ssat => some ⟨0xc, d.idx, d.nwb, Guard.toField gd, Guard.negBit gd, a.toField, 0, 0, d.dg * 256 + bit ssat * 1⟩
  | .iand gd d a b => some ⟨0xd, d.idx, d.nwb, Guard.toField gd, Guard.negBit gd, a.toField, b.toField, 0, d.dg * 256⟩
  | .ior gd d a b => some ⟨0xe, d.idx, d.nwb, Guard.toField gd, Guard.negBit gd, a.toField, b.toField, 0, d.dg * 256⟩
  | .ixor gd d a b => some ⟨0xf, d.idx, d.nwb, Guard.toField gd, Guard.negBit gd, a.toField, b.toField, 0, d.dg * 256⟩
  | .iandn gd d a b => some ⟨0x11, d.idx, d.nwb, Guard.toField gd, Guard.negBit gd, a.toField, b.toField, 0, d.dg * 256⟩
  | .inot gd d a => some ⟨0x10, d.idx, d.nwb, Guard.toField gd, Guard.negBit gd, a.toField, 0, 0, d.dg * 256⟩
  | .shl gd d a b => some ⟨0x12, d.idx, d.nwb, Guard.toField gd, Guard.negBit gd, a.toField, b.toField, 0, d.dg * 256⟩
  | .shr gd d a b => some ⟨0x13, d.idx, d.nwb, Guard.toField gd, Guard.negBit gd, a.toField, b.toField, 0, d.dg * 256⟩
  | .sar gd d a b => some ⟨0x14, d.idx, d.nwb, Guard.toField gd, Guard.negBit gd, a.toField, b.toField, 0, d.dg * 256⟩
  | .rotl gd d a b => some ⟨0x15, d.idx, d.nwb, Guard.toField gd, Guard.negBit gd, a.toField, b.toField, 0, d.dg * 256⟩
  | .bfe gd d a b s => some ⟨0x16, d.idx, d.nwb, Guard.toField gd, Guard.negBit gd, a.toField, b.toField, 0, d.dg * 256 + bit s * 1⟩
  | .bfi gd d a b c => some ⟨0x17, d.idx, d.nwb, Guard.toField gd, Guard.negBit gd, a.toField, b.toField, c.toField, d.dg * 256⟩
  | .popc gd d a => some ⟨0x18, d.idx, d.nwb, Guard.toField gd, Guard.negBit gd, a.toField, 0, 0, d.dg * 256⟩
  | .clz gd d a => some ⟨0x19, d.idx, d.nwb, Guard.toField gd, Guard.negBit gd, a.toField, 0, 0, d.dg * 256⟩
  | .ctz gd d a => some ⟨0x1a, d.idx, d.nwb, Guard.toField gd, Guard.negBit gd, a.toField, 0, 0, d.dg * 256⟩
  | .brev gd d a => some ⟨0x1b, d.idx, d.nwb, Guard.toField gd, Guard.negBit gd, a.toField, 0, 0, d.dg * 256⟩
  | .icmp gd p a b w64 u cond => some ⟨0x1c, p.idx, p.nwb, Guard.toField gd, Guard.negBit gd, a.toField, b.toField, 0, bit w64 * 16 + bit u * 8 + cond.toBits * 1⟩
  | .sel gd d a b p w64 => some ⟨0x1d, d.idx, d.nwb, Guard.toField gd, Guard.negBit gd, a.toField, b.toField, p, d.dg * 256 + bit w64 * 1⟩
  | .iadd64 gd d a b sub => some ⟨0x1e, d.idx, d.nwb, Guard.toField gd, Guard.negBit gd, a.toField, b.toField, 0, d.dg * 256 + bit sub * 1⟩
  | .imad64 gd d a b c u => some ⟨0x1f, d.idx, d.nwb, Guard.toField gd, Guard.negBit gd, a.toField, b.toField, c.toField, d.dg * 256 + bit u * 1⟩
  | .shf64 gd d a b mode => some ⟨0x20, d.idx, d.nwb, Guard.toField gd, Guard.negBit gd, a.toField, b.toField, 0, d.dg * 256 + mode.toBits * 1⟩
  | .lea gd d a b u sh => some ⟨0x21, d.idx, d.nwb, Guard.toField gd, Guard.negBit gd, a.toField, b.toField, 0, d.dg * 256 + bit u * 8 + sh * 1⟩
  | .ext gd d a w64 s width => some ⟨0x22, d.idx, d.nwb, Guard.toField gd, Guard.negBit gd, a.toField, 0, 0, d.dg * 256 + bit w64 * 8 + bit s * 4 + width.toBits * 1⟩
  | .bmrg gd d a b c swap => some ⟨0x23, d.idx, d.nwb, Guard.toField gd, Guard.negBit gd, a.toField, b.toField, c.toField, d.dg * 256 + bit swap * 1⟩
  | .dot4 gd d a b c ub ua => some ⟨0x24, d.idx, d.nwb, Guard.toField gd, Guard.negBit gd, a.toField, b.toField, c.toField, d.dg * 256 + bit ub * 2 + bit ua * 1⟩
  | .iaddc gd d a b p => some ⟨0x25, d.idx, d.nwb, Guard.toField gd, Guard.negBit gd, a.toField, b.toField, p, d.dg * 256⟩
  | .isubb gd d a b p => some ⟨0x26, d.idx, d.nwb, Guard.toField gd, Guard.negBit gd, a.toField, b.toField, p, d.dg * 256⟩
  | .lop3 gd d a b c t => some ⟨0x27, d.idx, d.nwb, Guard.toField gd, Guard.negBit gd, a.toField, b.toField, c.toField, d.dg * 256 + t * 1⟩
  | .fadd gd d a b sat rm => some ⟨0x30, d.idx, d.nwb, Guard.toField gd, Guard.negBit gd, a.toField, b.toField, 0, d.dg * 256 + bit sat * 8 + rm.toBits * 1⟩
  | .fsub gd d a b sat rm => some ⟨0x31, d.idx, d.nwb, Guard.toField gd, Guard.negBit gd, a.toField, b.toField, 0, d.dg * 256 + bit sat * 8 + rm.toBits * 1⟩
  | .fmul gd d a b sat rm => some ⟨0x32, d.idx, d.nwb, Guard.toField gd, Guard.negBit gd, a.toField, b.toField, 0, d.dg * 256 + bit sat * 8 + rm.toBits * 1⟩
  | .ffma gd d a b c sat rm => some ⟨0x33, d.idx, d.nwb, Guard.toField gd, Guard.negBit gd, a.toField, b.toField, c.toField, d.dg * 256 + bit sat * 8 + rm.toBits * 1⟩
  | .fmin gd d a b => some ⟨0x34, d.idx, d.nwb, Guard.toField gd, Guard.negBit gd, a.toField, b.toField, 0, d.dg * 256⟩
  | .fmax gd d a b => some ⟨0x35, d.idx, d.nwb, Guard.toField gd, Guard.negBit gd, a.toField, b.toField, 0, d.dg * 256⟩
  | .fcmp gd p a b cond => some ⟨0x36, p.idx, p.nwb, Guard.toField gd, Guard.negBit gd, a.toField, b.toField, 0, cond.toBits * 1⟩
  | .fclass gd p a b f64 => some ⟨0x37, p.idx, p.nwb, Guard.toField gd, Guard.negBit gd, a.toField, b.toField, 0, bit f64 * 32⟩
  | .frcp gd d a sat rm => some ⟨0x38, d.idx, d.nwb, Guard.toField gd, Guard.negBit gd, a.toField, 0, 0, d.dg * 256 + bit sat * 8 + rm.toBits * 1⟩
  | .frsq gd d a => some ⟨0x39, d.idx, d.nwb, Guard.toField gd, Guard.negBit gd, a.toField, 0, 0, d.dg * 256⟩
  | .fsqrt gd d a rm => some ⟨0x3a, d.idx, d.nwb, Guard.toField gd, Guard.negBit gd, a.toField, 0, 0, d.dg * 256 + rm.toBits * 1⟩
  | .fsinpi gd d a => some ⟨0x3b, d.idx, d.nwb, Guard.toField gd, Guard.negBit gd, a.toField, 0, 0, d.dg * 256⟩
  | .fcospi gd d a => some ⟨0x3c, d.idx, d.nwb, Guard.toField gd, Guard.negBit gd, a.toField, 0, 0, d.dg * 256⟩
  | .fexp2 gd d a => some ⟨0x3d, d.idx, d.nwb, Guard.toField gd, Guard.negBit gd, a.toField, 0, 0, d.dg * 256⟩
  | .flog2 gd d a => some ⟨0x3e, d.idx, d.nwb, Guard.toField gd, Guard.negBit gd, a.toField, 0, 0, d.dg * 256⟩
  | .ftanh gd d a => some ⟨0x3f, d.idx, d.nwb, Guard.toField gd, Guard.negBit gd, a.toField, 0, 0, d.dg * 256⟩
  | .frnd gd d a rm => some ⟨0x40, d.idx, d.nwb, Guard.toField gd, Guard.negBit gd, a.toField, 0, 0, d.dg * 256 + rm.toBits * 1⟩
  | .dadd gd d a b sub sat rm => some ⟨0x41, d.idx, d.nwb, Guard.toField gd, Guard.negBit gd, a.toField, b.toField, 0, d.dg * 256 + bit sub * 32 + bit sat * 8 + rm.toBits * 1⟩
  | .dmul gd d a b sat rm => some ⟨0x42, d.idx, d.nwb, Guard.toField gd, Guard.negBit gd, a.toField, b.toField, 0, d.dg * 256 + bit sat * 8 + rm.toBits * 1⟩
  | .dfma gd d a b c sat rm => some ⟨0x43, d.idx, d.nwb, Guard.toField gd, Guard.negBit gd, a.toField, b.toField, c.toField, d.dg * 256 + bit sat * 8 + rm.toBits * 1⟩
  | .dmin gd d a b => some ⟨0x44, d.idx, d.nwb, Guard.toField gd, Guard.negBit gd, a.toField, b.toField, 0, d.dg * 256⟩
  | .dmax gd d a b => some ⟨0x45, d.idx, d.nwb, Guard.toField gd, Guard.negBit gd, a.toField, b.toField, 0, d.dg * 256⟩
  | .dcmp gd p a b cond => some ⟨0x46, p.idx, p.nwb, Guard.toField gd, Guard.negBit gd, a.toField, b.toField, 0, cond.toBits * 1⟩
  | .drcp gd d a sat rm => some ⟨0x47, d.idx, d.nwb, Guard.toField gd, Guard.negBit gd, a.toField, 0, 0, d.dg * 256 + bit sat * 8 + rm.toBits * 1⟩
  | .dsqrt gd d a rm => some ⟨0x48, d.idx, d.nwb, Guard.toField gd, Guard.negBit gd, a.toField, 0, 0, d.dg * 256 + rm.toBits * 1⟩
  | .hadd2 gd d a b bf16 sat rm => some ⟨0x49, d.idx, d.nwb, Guard.toField gd, Guard.negBit gd, a.toField, b.toField, 0, d.dg * 256 + bit bf16 * 32 + bit sat * 8 + rm.toBits * 1⟩
  | .hmul2 gd d a b bf16 sat rm => some ⟨0x4a, d.idx, d.nwb, Guard.toField gd, Guard.negBit gd, a.toField, b.toField, 0, d.dg * 256 + bit bf16 * 32 + bit sat * 8 + rm.toBits * 1⟩
  | .hfma2 gd d a b c bf16 sat rm => some ⟨0x4b, d.idx, d.nwb, Guard.toField gd, Guard.negBit gd, a.toField, b.toField, c.toField, d.dg * 256 + bit bf16 * 32 + bit sat * 8 + rm.toBits * 1⟩
  | .hmax2 gd d a b bf16 => some ⟨0x4c, d.idx, d.nwb, Guard.toField gd, Guard.negBit gd, a.toField, b.toField, 0, d.dg * 256 + bit bf16 * 32⟩
  | .hmin2 gd d a b bf16 => some ⟨0x4d, d.idx, d.nwb, Guard.toField gd, Guard.negBit gd, a.toField, b.toField, 0, d.dg * 256 + bit bf16 * 32⟩
  | .hcmp2 gd p a b bf16 cond => some ⟨0x4e, p, 0, Guard.toField gd, Guard.negBit gd, a.toField, b.toField, 0, bit bf16 * 32 + cond.toBits * 1⟩
  | .cvtf gd d a cnt src sat rm => some ⟨0x4f, d.idx, d.nwb, Guard.toField gd, Guard.negBit gd, a.toField, 0, cnt.getD 0, d.dg * 256 + optBit cnt * 16 + src.toBits * 32 + bit sat * 8 + rm.toBits * 1⟩
  | .cvti gd d a cnt tgt f64 sat rm => some ⟨0x50, d.idx, d.nwb, Guard.toField gd, Guard.negBit gd, a.toField, 0, cnt.getD 0, d.dg * 256 + optBit cnt * 16 + tgt.toBits * 64 + bit f64 * 32 + bit sat * 8 + rm.toBits * 1⟩
  | .cvtd gd d a src rm => some ⟨0x51, d.idx, d.nwb, Guard.toField gd, Guard.negBit gd, a.toField, 0, 0, d.dg * 256 + src.toBits * 32 + rm.toBits * 1⟩
  | .pk16 gd d a b cnt bf16 sat rm => some ⟨0x52, d.idx, d.nwb, Guard.toField gd, Guard.negBit gd, a.toField, b.toField, cnt.getD 0, d.dg * 256 + optBit cnt * 16 + bit bf16 * 32 + bit sat * 8 + rm.toBits * 1⟩
  | .unpk16 gd d a b bf16 => some ⟨0x53, d.idx, d.nwb, Guard.toField gd, Guard.negBit gd, a.toField, b.src.toField, 0, d.dg * 256 + bit bf16 * 32 + b.rm.toBits⟩
  | .cvt8 gd d a b cnt tgt x1 sat rm => some ⟨0x54, d.idx, d.nwb, Guard.toField gd, Guard.negBit gd, a.toField, b.toField, cnt.getD 0, d.dg * 256 + optBit cnt * 16 + tgt.toBits * 64 + bit x1 * 32 + bit sat * 8 + rm.toBits * 1⟩
  | .unpk8 gd d a b src => some ⟨0x55, d.idx, d.nwb, Guard.toField gd, Guard.negBit gd, a.toField, b.src.toField, 0, d.dg * 256 + src.toBits * 64 + b.rm.toBits⟩
  | .cvt4 gd d a b cnt x1 sat rm => some ⟨0x56, d.idx, d.nwb, Guard.toField gd, Guard.negBit gd, a.toField, b.toField, cnt.getD 0, d.dg * 256 + optBit cnt * 16 + bit x1 * 32 + bit sat * 8 + rm.toBits * 1⟩
  | .unpk4 gd d a b => some ⟨0x57, d.idx, d.nwb, Guard.toField gd, Guard.negBit gd, a.toField, b.src.toField, 0, d.dg * 256 + b.rm.toBits⟩
  | .mxsc gd d a s cnt fmt b1 sat rm => some ⟨0x58, d, 0, Guard.toField gd, Guard.negBit gd, a, s, cnt.getD 0, optBit cnt * 16 + fmt.toBits * 64 + bit b1 * 32 + bit sat * 8 + rm.toBits * 1⟩
  | .rnd gd d => some ⟨0x59, d.idx, d.nwb, Guard.toField gd, Guard.negBit gd, 0, 0, 0, d.dg * 256⟩
  | .rseed gd a => some ⟨0x5a, 0, 0, Guard.toField gd, Guard.negBit gd, a.toField, 0, 0, 0⟩
  | .satq gd d clr k => some ⟨0x5b, d.idx, d.nwb, Guard.toField gd, Guard.negBit gd, 0, 0, 0, d.dg * 256 + bit clr * 16 + k * 1⟩
  | .fdot2 gd d a b c bf16 sat rm => some ⟨0x5c, d.idx, d.nwb, Guard.toField gd, Guard.negBit gd, a.toField, b.toField, c.toField, d.dg * 256 + bit bf16 * 32 + bit sat * 8 + rm.toBits * 1⟩
  | .shfl gd d a b w64 wseg mode => some ⟨0x70, d.idx, d.nwb, Guard.toField gd, Guard.negBit gd, a.toField, b.toField, 0, d.dg * 256 + bit w64 * 32 + wseg * 4 + mode.toBits * 1⟩
  | .bfly gd x y m => some ⟨0x71, x, 0, Guard.toField gd, Guard.negBit gd, y, m.toField, 0, 0⟩
  | .bcast gd d a b w64 => some ⟨0x72, d.idx, d.nwb, Guard.toField gd, Guard.negBit gd, a.toField, b.toField, 0, d.dg * 256 + bit w64 * 1⟩
  | .vote gd p q mode => some ⟨0x73, PDst.idx p, PDst.nwb p, Guard.toField gd, Guard.negBit gd, q, 0, 0, mode.toBits * 1⟩
  | .ballot gd d q m64 => some ⟨0x74, d.idx, d.nwb, Guard.toField gd, Guard.negBit gd, q, 0, 0, d.dg * 256 + bit m64 * 2⟩
  | .redux gd d a op => some ⟨0x75, d.idx, d.nwb, Guard.toField gd, Guard.negBit gd, a.toField, 0, 0, d.dg * 256 + op.toBits * 1⟩
  | .fredux gd d a op => some ⟨0x76, d.idx, d.nwb, Guard.toField gd, Guard.negBit gd, a.toField, 0, 0, d.dg * 256 + op.toBits * 1⟩
  | .scan gd d a excl f => some ⟨0x77, d.idx, d.nwb, Guard.toField gd, Guard.negBit gd, a.toField, 0, 0, d.dg * 256 + bit excl * 2 + bit f * 1⟩
  | .matchv gd d a m64 w64 => some ⟨0x78, d.idx, d.nwb, Guard.toField gd, Guard.negBit gd, a.toField, 0, 0, d.dg * 256 + bit m64 * 2 + bit w64 * 1⟩
  | .pand gd p q r nb na => some ⟨0x79, PDst.idx p, PDst.nwb p, Guard.toField gd, Guard.negBit gd, q, r, 0, bit nb * 2 + bit na * 1⟩
  | .por gd p q r nb na => some ⟨0x7a, PDst.idx p, PDst.nwb p, Guard.toField gd, Guard.negBit gd, q, r, 0, bit nb * 2 + bit na * 1⟩
  | .pxor gd p q r nb na => some ⟨0x7b, PDst.idx p, PDst.nwb p, Guard.toField gd, Guard.negBit gd, q, r, 0, bit nb * 2 + bit na * 1⟩
  | .pnot gd p q => some ⟨0x7c, PDst.idx p, PDst.nwb p, Guard.toField gd, Guard.negBit gd, q, 0, 0, 0⟩
  | .pmov gd p q => some ⟨0x7d, PDst.idx p, PDst.nwb p, Guard.toField gd, Guard.negBit gd, q, 0, 0, 0⟩
  | .pmovGet gd d q => some ⟨0x7d, d.idx, d.nwb, Guard.toField gd, Guard.negBit gd, q, 0, 0, d.dg * 256 + 1⟩
  | .pmovSet gd p a => some ⟨0x7d, p, 0, Guard.toField gd, Guard.negBit gd, a.toField, 0, 0, 2⟩
  | .pcnt gd d q => some ⟨0x7e, d.idx, d.nwb, Guard.toField gd, Guard.negBit gd, q, 0, 0, d.dg * 256⟩
  | .elect gd p => some ⟨0x7f, PDst.idx p, PDst.nwb p, Guard.toField gd, Guard.negBit gd, 0, 0, 0, 0⟩
  | .bra gd t a cond => some ⟨0x90, 0, 0, Guard.toField gd, Guard.negBit gd, t.toField, a.toField, 0, cond.toBits * 1⟩
  | .brx gd a b => some ⟨0x91, 0, 0, Guard.toField gd, Guard.negBit gd, a.toField, b.toField, 0, 0⟩
  | .call gd d a x => some ⟨0x92, d, 0, Guard.toField gd, Guard.negBit gd, a.toField, 0, 0, bit x * 1⟩
  | .ret gd a => some ⟨0x93, 0, 0, Guard.toField gd, Guard.negBit gd, a.toField, 0, 0, 0⟩
  | .enrol j => some ⟨0x94, j, 0, Guard.toField .always, Guard.negBit .always, 0, 0, 0, 0⟩
  | .rejoin j => some ⟨0x95, 0, 0, Guard.toField .always, Guard.negBit .always, j, 0, 0, 0⟩
  | .exit gd => some ⟨0x96, 0, 0, Guard.toField gd, Guard.negBit gd, 0, 0, 0, 0⟩
  | .yield gd => some ⟨0x97, 0, 0, Guard.toField gd, Guard.negBit gd, 0, 0, 0, 0⟩
  | .trap gd n => some ⟨0x98, 0, 0, Guard.toField gd, Guard.negBit gd, n, 0, 0, 0⟩
  | .brk gd n => some ⟨0x99, 0, 0, Guard.toField gd, Guard.negBit gd, n, 0, 0, 0⟩
  | .rte gd => some ⟨0x9a, 0, 0, Guard.toField gd, Guard.negBit gd, 0, 0, 0, 0⟩
  | .rteRetry gd => some ⟨0x9a, 0, 0, Guard.toField gd, Guard.negBit gd, 0, 0, 0, 1⟩
  | .signal gd a b => some ⟨0x9b, 0, 0, Guard.toField gd, Guard.negBit gd, a.toField, b.toField, 0, 0⟩
  | .signalMbox gd a b => some ⟨0x9b, 0, 0, Guard.toField gd, Guard.negBit gd, a.toField, b.toField, 0, 1⟩
  | .rswitch gd p a => some ⟨0x9c, p, 0, Guard.toField gd, Guard.negBit gd, a.toField, 0, 0, 0⟩
  | .reggrow gd p n => some ⟨0x9d, p, 0, Guard.toField gd, Guard.negBit gd, n.toField, 0, 0, 0⟩
  | .regshrink gd n => some ⟨0x9e, 0, 0, Guard.toField gd, Guard.negBit gd, n.toField, 0, 0, 0⟩
  | .sleep gd a => some ⟨0x9f, 0, 0, Guard.toField gd, Guard.negBit gd, a.toField, 0, 0, 0⟩
  | .barinit gd b n => some ⟨0xa0, 0, 0, Guard.toField gd, Guard.negBit gd, b, n.toField, 0, 0⟩
  | .bararr gd b n => some ⟨0xa1, 0, 0, Guard.toField gd, Guard.negBit gd, b, n.toField, 0, 0⟩
  | .barwait gd p b ph => some ⟨0xa2, p.getD 0, 0, Guard.toField gd, Guard.negBit gd, b, ph.toField, 0, optBit p * 1⟩
  | .barinval gd b => some ⟨0xa3, 0, 0, Guard.toField gd, Guard.negBit gd, b, 0, 0, 0⟩
  | .barrarr gd h n => some ⟨0xa4, 0, 0, Guard.toField gd, Guard.negBit gd, h.toField, n.toField, 0, 0⟩
  | .barq gd d b which => some ⟨0xa5, d.idx, d.nwb, Guard.toField gd, Guard.negBit gd, b, 0, 0, d.dg * 256 + which.toBits * 1⟩
  | .hbarInit gd i n sc => some ⟨0xa6, 0, 0, Guard.toField gd, Guard.negBit gd, i.toField, n.toField, 0, sc.toBits * 1⟩
  | .hbarArr gd i sc => some ⟨0xa6, 0, 0, Guard.toField gd, Guard.negBit gd, i.toField, 0, 0, 8 + sc.toBits * 1⟩
  | .hbarWait gd p i ph sc => some ⟨0xa6, p.getD 0, 0, Guard.toField gd, Guard.negBit gd, i.toField, ph.toField, 0, optBit p * 32 + 16 + sc.toBits * 1⟩
  | .hbarQ gd d i bc sc => some ⟨0xa6, d, 0, Guard.toField gd, Guard.negBit gd, i.toField, 0, 0, bit bc * 64 + 24 + sc.toBits * 1⟩
  | .ld gd d a o s size => some ⟨0xb0, d.idx, d.nwb, Guard.toField gd, Guard.negBit gd, a.toField, o.toField, 0, d.dg * 256 + bit s * 8 + size.toBits * 1⟩
  | .st gd a o s size => some ⟨0xb1, 0, 0, Guard.toField gd, Guard.negBit gd, a.toField, o.toField, s.toField, size.toBits * 1⟩
  | .ldt gd d h x s => some ⟨0xb2, d, 0, Guard.toField gd, Guard.negBit gd, h.toField, x, 0, bit s * 8⟩
  | .stt gd h x s => some ⟨0xb3, 0, 0, Guard.toField gd, Guard.negBit gd, h.toField, x, s.toField, 0⟩
  | .ldfr gd d a b t el => some ⟨0xb4, d, 0, Guard.toField gd, Guard.negBit gd, a.toField, b.toField, 0, bit t * 4 + el.toBits * 1⟩
  | .stfr gd a b s t el => some ⟨0xb5, 0, 0, Guard.toField gd, Guard.negBit gd, a.toField, b.toField, s, bit t * 4 + el.toBits * 1⟩
  | .atom gd d a b sc w64 op => some ⟨0xb6, d, 0, Guard.toField gd, Guard.negBit gd, a.toField, b.toField, 0, sc.toBits * 32 + bit w64 * 16 + op.toBits * 1⟩
  | .cas gd d a x y sc w64 => some ⟨0xb7, d, 0, Guard.toField gd, Guard.negBit gd, a.toField, x.toField, y.toField, sc.toBits * 32 + bit w64 * 16⟩
  | .ratom gd d a b w64 op => some ⟨0xb8, d, 0, Guard.toField gd, Guard.negBit gd, a.toField, b.toField, 0, bit w64 * 16 + op.toBits * 1⟩
  | .fence gd sc => some ⟨0xb9, 0, 0, Guard.toField gd, Guard.negBit gd, 0, 0, 0, sc.toBits * 1⟩
  | .fenceTc gd => some ⟨0xb9, 0, 0, Guard.toField gd, Guard.negBit gd, 0, 0, 0, 8⟩
  | .publish gd h => some ⟨0xba, 0, 0, Guard.toField gd, Guard.negBit gd, h.toField, 0, 0, 0⟩
  | .mon gd a => some ⟨0xbb, 0, 0, Guard.toField gd, Guard.negBit gd, a.toField, 0, 0, 0⟩
  | .mwait gd p t => some ⟨0xbc, p.getD 0, 0, Guard.toField gd, Guard.negBit gd, t.toField, 0, 0, optBit p * 1⟩
  | .tierpf gd b d s n => some ⟨0xbd, b, 0, Guard.toField gd, Guard.negBit gd, d.toField, s.toField, n.toField, 0⟩
  | .tierev gd b d s n => some ⟨0xbe, b, 0, Guard.toField gd, Guard.negBit gd, d.toField, s.toField, n.toField, 0⟩
  | .lastuse gd a n => some ⟨0xbf, 0, 0, Guard.toField gd, Guard.negBit gd, a.toField, n.toField, 0, 0⟩
  | .mma n a b s new => some ⟨0xd0, n, 0, Guard.toField .always, Guard.negBit .always, a.toField, b.toField, s.toField, bit new * 1⟩
  | .accdrain n w c => some ⟨0xd1, 0, 0, Guard.toField .always, Guard.negBit .always, n, w.toField, c.toField, 0⟩
  | .accst n w c => some ⟨0xd2, 0, 0, Guard.toField .always, Guard.negBit .always, n, w.toField, c.toField, 0⟩
  | .acctx n e => some ⟨0xd3, 0, 0, Guard.toField .always, Guard.negBit .always, n, e.toField, 0, 0⟩
  | .accwait n k one => some ⟨0xd4, 0, 0, Guard.toField .always, Guard.negBit .always, n, k.toField, 0, bit one * 1⟩
  | .accfree n k => some ⟨0xd5, 0, 0, Guard.toField .always, Guard.negBit .always, n, k.toField, 0, 0⟩
  | .cbarArr b => some ⟨0xd6, 0, 0, Guard.toField .always, Guard.negBit .always, b, 0, 0, 0⟩
  | .cbarWait p b ph => some ⟨0xd6, p.getD 0, 0, Guard.toField .always, Guard.negBit .always, b, ph.toField, 0, optBit p * 8 + 1⟩
  | .cbarInit b n => some ⟨0xd6, 0, 0, Guard.toField .always, Guard.negBit .always, b, n.toField, 0, 2⟩
  | .cbarInval b => some ⟨0xd6, 0, 0, Guard.toField .always, Guard.negBit .always, b, 0, 0, 3⟩
  | .cbarQ d b bc => some ⟨0xd6, d, 0, Guard.toField .always, Guard.negBit .always, b, 0, 0, bit bc * 16 + 4⟩
  | .copy gd b h x d => some ⟨0xe0, b, 0, Guard.toField gd, Guard.negBit gd, 256 + h, 256 + x, 256 + d, 0⟩
  | .copymc gd l h x d m => some ⟨0xe1, l, 0, Guard.toField gd, Guard.negBit gd, 256 + h, 256 + x, 256 + d, m * 1⟩
  | .copyw gd b h x d => some ⟨0xe2, b, 0, Guard.toField gd, Guard.negBit gd, 256 + h, 256 + x, 256 + d, 0⟩
  | .tready gd i => some ⟨0xe3, 0, 0, Guard.toField gd, Guard.negBit gd, 256 + i, 0, 0, 0⟩
  | .fork gd p h k e => some ⟨0xe4, p, 0, Guard.toField gd, Guard.negBit gd, h.toField, k.toField, e.toField, 0⟩
  | .reward gd h x => some ⟨0xe5, 0, 0, Guard.toField gd, Guard.negBit gd, h.toField, x.toField, 0, 0⟩
  | .slack gd d h s => some ⟨0xe6, d, 0, Guard.toField gd, Guard.negBit gd, h.toField, 256 + s, 0, 0⟩
  | .sgcancel gd h i => some ⟨0xe7, 0, 0, Guard.toField gd, Guard.negBit gd, h.toField, i.toField, 0, 0⟩
  | .sgq gd d h which => some ⟨0xe8, d, 0, Guard.toField gd, Guard.negBit gd, h.toField, which.toField, 0, 0⟩
  | .tapepush gd p a b upd => some ⟨0xe9, p, 0, Guard.toField gd, Guard.negBit gd, a.toField, b.toField, 0, bit upd * 1⟩
  | .launch gd p a q => some ⟨0xea, p, 0, Guard.toField gd, Guard.negBit gd, a.toField, q.toField, 0, 0⟩
  | .rcomb gd d a r => some ⟨0xeb, d, 0, Guard.toField gd, Guard.negBit gd, a, r.toField, 0, 0⟩
  | .sysrd gd d idx => some ⟨0xf0, d.idx, d.nwb, Guard.toField gd, Guard.negBit gd, 0, 0, 0, d.dg * 256 + idx * 1⟩
  | .syswr gd a idx => some ⟨0xf1, 0, 0, Guard.toField gd, Guard.negBit gd, a.toField, 0, 0, idx * 1⟩
  | .dbgmark gd a => some ⟨0xf2, 0, 0, Guard.toField gd, Guard.negBit gd, a.toField, 0, 0, 0⟩
  | .perfc gd d n => some ⟨0xf3, d.idx, d.nwb, Guard.toField gd, Guard.negBit gd, 0, 0, 0, d.dg * 256 + n * 1⟩
  | .icinv gd a n => some ⟨0xf4, 0, 0, Guard.toField gd, Guard.negBit gd, a.toField, n.toField, 0, 0⟩
  | .ckptmark gd a n e => some ⟨0xf5, 0, 0, Guard.toField gd, Guard.negBit gd, a.toField, n.toField, e.toField, 0⟩
  | _ => none

/-- The word of an instruction; `none` for a device step, which has no encoding. -/
def encode (i : Instr) : Option W64 := i.fields?.map Fields.toWord

/-- Opcodes 0x00 to 0x0F (R329). -/
def candidate0 (f : Fields) : Option Instr :=
  match f.opc % 16 with
  | 0 => some (.nop (guardOf f))
  | 1 => some (.mov (guardOf f) (dstOf f) (Src.ofField f.a) (f.md / 1 % 2 == 1))
  | 2 => do let sat ← SatMode.ofBits (f.md / 1 % 4); return .iadd (guardOf f) (dstOf f) (Src.ofField f.a) (Src.ofField f.b) sat
  | 3 => do let sat ← SatMode.ofBits (f.md / 1 % 4); return .isub (guardOf f) (dstOf f) (Src.ofField f.a) (Src.ofField f.b) sat
  | 4 => some (.imul (guardOf f) (dstOf f) (Src.ofField f.a) (Src.ofField f.b))
  | 5 => some (.imulh (guardOf f) (dstOf f) (Src.ofField f.a) (Src.ofField f.b) (f.md / 1 % 2 == 1))
  | 6 => some (.imad (guardOf f) (dstOf f) (Src.ofField f.a) (Src.ofField f.b) (Src.ofField f.c))
  | 7 => some (.idiv (guardOf f) (dstOf f) (Src.ofField f.a) (Src.ofField f.b) (f.md / 2 % 2 == 1) (f.md / 1 % 2 == 1))
  | 8 => some (.irem (guardOf f) (dstOf f) (Src.ofField f.a) (Src.ofField f.b) (f.md / 2 % 2 == 1) (f.md / 1 % 2 == 1))
  | 9 => some (.imin (guardOf f) (dstOf f) (Src.ofField f.a) (Src.ofField f.b) (f.md / 1 % 2 == 1))
  | 10 => some (.imax (guardOf f) (dstOf f) (Src.ofField f.a) (Src.ofField f.b) (f.md / 1 % 2 == 1))
  | 11 => some (.iabs (guardOf f) (dstOf f) (Src.ofField f.a) (f.md / 1 % 2 == 1))
  | 12 => some (.ineg (guardOf f) (dstOf f) (Src.ofField f.a) (f.md / 1 % 2 == 1))
  | 13 => some (.iand (guardOf f) (dstOf f) (Src.ofField f.a) (Src.ofField f.b))
  | 14 => some (.ior (guardOf f) (dstOf f) (Src.ofField f.a) (Src.ofField f.b))
  | _ => some (.ixor (guardOf f) (dstOf f) (Src.ofField f.a) (Src.ofField f.b))

/-- Opcodes 0x10 to 0x1F (R329). -/
def candidate1 (f : Fields) : Option Instr :=
  match f.opc % 16 with
  | 0 => some (.inot (guardOf f) (dstOf f) (Src.ofField f.a))
  | 1 => some (.iandn (guardOf f) (dstOf f) (Src.ofField f.a) (Src.ofField f.b))
  | 2 => some (.shl (guardOf f) (dstOf f) (Src.ofField f.a) (Src.ofField f.b))
  | 3 => some (.shr (guardOf f) (dstOf f) (Src.ofField f.a) (Src.ofField f.b))
  | 4 => some (.sar (guardOf f) (dstOf f) (Src.ofField f.a) (Src.ofField f.b))
  | 5 => some (.rotl (guardOf f) (dstOf f) (Src.ofField f.a) (Src.ofField f.b))
  | 6 => some (.bfe (guardOf f) (dstOf f) (Src.ofField f.a) (Src.ofField f.b) (f.md / 1 % 2 == 1))
  | 7 => some (.bfi (guardOf f) (dstOf f) (Src.ofField f.a) (Src.ofField f.b) (Src.ofField f.c))
  | 8 => some (.popc (guardOf f) (dstOf f) (Src.ofField f.a))
  | 9 => some (.clz (guardOf f) (dstOf f) (Src.ofField f.a))
  | 10 => some (.ctz (guardOf f) (dstOf f) (Src.ofField f.a))
  | 11 => some (.brev (guardOf f) (dstOf f) (Src.ofField f.a))
  | 12 => do let cond ← ICond.ofBits (f.md / 1 % 8); return .icmp (guardOf f) (pdstOf f) (Src.ofField f.a) (Src.ofField f.b) (f.md / 16 % 2 == 1) (f.md / 8 % 2 == 1) cond
  | 13 => some (.sel (guardOf f) (dstOf f) (Src.ofField f.a) (Src.ofField f.b) f.c (f.md / 1 % 2 == 1))
  | 14 => some (.iadd64 (guardOf f) (dstOf f) (Src.ofField f.a) (Src.ofField f.b) (f.md / 1 % 2 == 1))
  | _ => some (.imad64 (guardOf f) (dstOf f) (Src.ofField f.a) (Src.ofField f.b) (Src.ofField f.c) (f.md / 1 % 2 == 1))

/-- Opcodes 0x20 to 0x2F (R329). -/
def candidate2 (f : Fields) : Option Instr :=
  match f.opc % 16 with
  | 0 => do let mode ← ShfMode.ofBits (f.md / 1 % 4); return .shf64 (guardOf f) (dstOf f) (Src.ofField f.a) (Src.ofField f.b) mode
  | 1 => some (.lea (guardOf f) (dstOf f) (Src.ofField f.a) (Src.ofField f.b) (f.md / 8 % 2 == 1) (f.md / 1 % 8))
  | 2 => do let width ← ExtWidth.ofBits (f.md / 1 % 4); return .ext (guardOf f) (dstOf f) (Src.ofField f.a) (f.md / 8 % 2 == 1) (f.md / 4 % 2 == 1) width
  | 3 => some (.bmrg (guardOf f) (dstOf f) (Src.ofField f.a) (Src.ofField f.b) (Src.ofField f.c) (f.md / 1 % 2 == 1))
  | 4 => some (.dot4 (guardOf f) (dstOf f) (Src.ofField f.a) (Src.ofField f.b) (Src.ofField f.c) (f.md / 2 % 2 == 1) (f.md / 1 % 2 == 1))
  | 5 => some (.iaddc (guardOf f) (dstOf f) (Src.ofField f.a) (Src.ofField f.b) f.c)
  | 6 => some (.isubb (guardOf f) (dstOf f) (Src.ofField f.a) (Src.ofField f.b) f.c)
  | 7 => some (.lop3 (guardOf f) (dstOf f) (Src.ofField f.a) (Src.ofField f.b) (Src.ofField f.c) (f.md / 1 % 256))
  | _ => none

/-- Opcodes 0x30 to 0x3F (R329). -/
def candidate3 (f : Fields) : Option Instr :=
  match f.opc % 16 with
  | 0 => do let rm ← Rm.ofBits (f.md / 1 % 8); return .fadd (guardOf f) (dstOf f) (Src.ofField f.a) (Src.ofField f.b) (f.md / 8 % 2 == 1) rm
  | 1 => do let rm ← Rm.ofBits (f.md / 1 % 8); return .fsub (guardOf f) (dstOf f) (Src.ofField f.a) (Src.ofField f.b) (f.md / 8 % 2 == 1) rm
  | 2 => do let rm ← Rm.ofBits (f.md / 1 % 8); return .fmul (guardOf f) (dstOf f) (Src.ofField f.a) (Src.ofField f.b) (f.md / 8 % 2 == 1) rm
  | 3 => do let rm ← Rm.ofBits (f.md / 1 % 8); return .ffma (guardOf f) (dstOf f) (Src.ofField f.a) (Src.ofField f.b) (Src.ofField f.c) (f.md / 8 % 2 == 1) rm
  | 4 => some (.fmin (guardOf f) (dstOf f) (Src.ofField f.a) (Src.ofField f.b))
  | 5 => some (.fmax (guardOf f) (dstOf f) (Src.ofField f.a) (Src.ofField f.b))
  | 6 => do let cond ← FCond.ofBits (f.md / 1 % 8); return .fcmp (guardOf f) (pdstOf f) (Src.ofField f.a) (Src.ofField f.b) cond
  | 7 => some (.fclass (guardOf f) (pdstOf f) (Src.ofField f.a) (Src.ofField f.b) (f.md / 32 % 2 == 1))
  | 8 => do let rm ← Rm.ofBits (f.md / 1 % 8); return .frcp (guardOf f) (dstOf f) (Src.ofField f.a) (f.md / 8 % 2 == 1) rm
  | 9 => some (.frsq (guardOf f) (dstOf f) (Src.ofField f.a))
  | 10 => do let rm ← Rm.ofBits (f.md / 1 % 8); return .fsqrt (guardOf f) (dstOf f) (Src.ofField f.a) rm
  | 11 => some (.fsinpi (guardOf f) (dstOf f) (Src.ofField f.a))
  | 12 => some (.fcospi (guardOf f) (dstOf f) (Src.ofField f.a))
  | 13 => some (.fexp2 (guardOf f) (dstOf f) (Src.ofField f.a))
  | 14 => some (.flog2 (guardOf f) (dstOf f) (Src.ofField f.a))
  | _ => some (.ftanh (guardOf f) (dstOf f) (Src.ofField f.a))

/-- Opcodes 0x40 to 0x4F (R329). -/
def candidate4 (f : Fields) : Option Instr :=
  match f.opc % 16 with
  | 0 => do let rm ← Rm.ofBits (f.md / 1 % 8); return .frnd (guardOf f) (dstOf f) (Src.ofField f.a) rm
  | 1 => do let rm ← Rm.ofBits (f.md / 1 % 8); return .dadd (guardOf f) (dstOf f) (Src.ofField f.a) (Src.ofField f.b) (f.md / 32 % 2 == 1) (f.md / 8 % 2 == 1) rm
  | 2 => do let rm ← Rm.ofBits (f.md / 1 % 8); return .dmul (guardOf f) (dstOf f) (Src.ofField f.a) (Src.ofField f.b) (f.md / 8 % 2 == 1) rm
  | 3 => do let rm ← Rm.ofBits (f.md / 1 % 8); return .dfma (guardOf f) (dstOf f) (Src.ofField f.a) (Src.ofField f.b) (Src.ofField f.c) (f.md / 8 % 2 == 1) rm
  | 4 => some (.dmin (guardOf f) (dstOf f) (Src.ofField f.a) (Src.ofField f.b))
  | 5 => some (.dmax (guardOf f) (dstOf f) (Src.ofField f.a) (Src.ofField f.b))
  | 6 => do let cond ← FCond.ofBits (f.md / 1 % 8); return .dcmp (guardOf f) (pdstOf f) (Src.ofField f.a) (Src.ofField f.b) cond
  | 7 => do let rm ← Rm.ofBits (f.md / 1 % 8); return .drcp (guardOf f) (dstOf f) (Src.ofField f.a) (f.md / 8 % 2 == 1) rm
  | 8 => do let rm ← Rm.ofBits (f.md / 1 % 8); return .dsqrt (guardOf f) (dstOf f) (Src.ofField f.a) rm
  | 9 => do let rm ← Rm.ofBits (f.md / 1 % 8); return .hadd2 (guardOf f) (dstOf f) (Src.ofField f.a) (Src.ofField f.b) (f.md / 32 % 2 == 1) (f.md / 8 % 2 == 1) rm
  | 10 => do let rm ← Rm.ofBits (f.md / 1 % 8); return .hmul2 (guardOf f) (dstOf f) (Src.ofField f.a) (Src.ofField f.b) (f.md / 32 % 2 == 1) (f.md / 8 % 2 == 1) rm
  | 11 => do let rm ← Rm.ofBits (f.md / 1 % 8); return .hfma2 (guardOf f) (dstOf f) (Src.ofField f.a) (Src.ofField f.b) (Src.ofField f.c) (f.md / 32 % 2 == 1) (f.md / 8 % 2 == 1) rm
  | 12 => some (.hmax2 (guardOf f) (dstOf f) (Src.ofField f.a) (Src.ofField f.b) (f.md / 32 % 2 == 1))
  | 13 => some (.hmin2 (guardOf f) (dstOf f) (Src.ofField f.a) (Src.ofField f.b) (f.md / 32 % 2 == 1))
  | 14 => do let cond ← FCond.ofBits (f.md / 1 % 8); return .hcmp2 (guardOf f) f.dst (Src.ofField f.a) (Src.ofField f.b) (f.md / 32 % 2 == 1) cond
  | _ => do let src ← CvtFSrc.ofBits (f.md / 32 % 8); let rm ← Rm.ofBits (f.md / 1 % 8); return .cvtf (guardOf f) (dstOf f) (Src.ofField f.a) (optOf (f.md / 16 % 2) f.c) src (f.md / 8 % 2 == 1) rm

/-- Opcodes 0x50 to 0x5F (R329). -/
def candidate5 (f : Fields) : Option Instr :=
  match f.opc % 16 with
  | 0 => do let tgt ← CvtIDst.ofBits (f.md / 64 % 4); let rm ← Rm.ofBits (f.md / 1 % 8); return .cvti (guardOf f) (dstOf f) (Src.ofField f.a) (optOf (f.md / 16 % 2) f.c) tgt (f.md / 32 % 2 == 1) (f.md / 8 % 2 == 1) rm
  | 1 => do let src ← CvtDSrc.ofBits (f.md / 32 % 8); let rm ← Rm.ofBits (f.md / 1 % 8); return .cvtd (guardOf f) (dstOf f) (Src.ofField f.a) src rm
  | 2 => do let rm ← Rm.ofBits (f.md / 1 % 8); return .pk16 (guardOf f) (dstOf f) (Src.ofField f.a) (Src.ofField f.b) (optOf (f.md / 16 % 2) f.c) (f.md / 32 % 2 == 1) (f.md / 8 % 2 == 1) rm
  | 3 => do let rm ← Rm.ofBits (f.md / 1 % 8); return .unpk16 (guardOf f) (dstOf f) (Src.ofField f.a) ⟨Src.ofField f.b, rm⟩ (f.md / 32 % 2 == 1)
  | 4 => do let tgt ← F8To.ofBits (f.md / 64 % 4); let rm ← Rm.ofBits (f.md / 1 % 8); return .cvt8 (guardOf f) (dstOf f) (Src.ofField f.a) (Src.ofField f.b) (optOf (f.md / 16 % 2) f.c) tgt (f.md / 32 % 2 == 1) (f.md / 8 % 2 == 1) rm
  | 5 => do let src ← F8From.ofBits (f.md / 64 % 4); let rm ← Rm.ofBits (f.md / 1 % 8); return .unpk8 (guardOf f) (dstOf f) (Src.ofField f.a) ⟨Src.ofField f.b, rm⟩ src
  | 6 => do let rm ← Rm.ofBits (f.md / 1 % 8); return .cvt4 (guardOf f) (dstOf f) (Src.ofField f.a) (Src.ofField f.b) (optOf (f.md / 16 % 2) f.c) (f.md / 32 % 2 == 1) (f.md / 8 % 2 == 1) rm
  | 7 => do let rm ← Rm.ofBits (f.md / 1 % 8); return .unpk4 (guardOf f) (dstOf f) (Src.ofField f.a) ⟨Src.ofField f.b, rm⟩
  | 8 => do let fmt ← MxFmt.ofBits (f.md / 64 % 4); let rm ← Rm.ofBits (f.md / 1 % 8); return .mxsc (guardOf f) f.dst f.a f.b (optOf (f.md / 16 % 2) f.c) fmt (f.md / 32 % 2 == 1) (f.md / 8 % 2 == 1) rm
  | 9 => some (.rnd (guardOf f) (dstOf f))
  | 10 => some (.rseed (guardOf f) (Src.ofField f.a))
  | 11 => some (.satq (guardOf f) (dstOf f) (f.md / 16 % 2 == 1) (f.md / 1 % 16))
  | 12 => do let rm ← Rm.ofBits (f.md / 1 % 8); return .fdot2 (guardOf f) (dstOf f) (Src.ofField f.a) (Src.ofField f.b) (Src.ofField f.c) (f.md / 32 % 2 == 1) (f.md / 8 % 2 == 1) rm
  | _ => none

/-- Opcodes 0x70 to 0x7F (R329). -/
def candidate7 (f : Fields) : Option Instr :=
  match f.opc % 16 with
  | 0 => do let mode ← ShflMode.ofBits (f.md / 1 % 4); return .shfl (guardOf f) (dstOf f) (Src.ofField f.a) (Src.ofField f.b) (f.md / 32 % 2 == 1) (f.md / 4 % 8) mode
  | 1 => some (.bfly (guardOf f) f.dst f.a (Src.ofField f.b))
  | 2 => some (.bcast (guardOf f) (dstOf f) (Src.ofField f.a) (Src.ofField f.b) (f.md / 1 % 2 == 1))
  | 3 => do let mode ← VoteMode.ofBits (f.md / 1 % 4); return .vote (guardOf f) (pdstOf f) f.a mode
  | 4 => some (.ballot (guardOf f) (dstOf f) f.a (f.md / 2 % 2 == 1))
  | 5 => do let op ← ReduxOp.ofBits (f.md / 1 % 8); return .redux (guardOf f) (dstOf f) (Src.ofField f.a) op
  | 6 => do let op ← FReduxOp.ofBits (f.md / 1 % 4); return .fredux (guardOf f) (dstOf f) (Src.ofField f.a) op
  | 7 => some (.scan (guardOf f) (dstOf f) (Src.ofField f.a) (f.md / 2 % 2 == 1) (f.md / 1 % 2 == 1))
  | 8 => some (.matchv (guardOf f) (dstOf f) (Src.ofField f.a) (f.md / 2 % 2 == 1) (f.md / 1 % 2 == 1))
  | 9 => some (.pand (guardOf f) (pdstOf f) f.a f.b (f.md / 2 % 2 == 1) (f.md / 1 % 2 == 1))
  | 10 => some (.por (guardOf f) (pdstOf f) f.a f.b (f.md / 2 % 2 == 1) (f.md / 1 % 2 == 1))
  | 11 => some (.pxor (guardOf f) (pdstOf f) f.a f.b (f.md / 2 % 2 == 1) (f.md / 1 % 2 == 1))
  | 12 => some (.pnot (guardOf f) (pdstOf f) f.a)
  | 13 => match f.md / 1 % 4 with
    | 0 => some (.pmov (guardOf f) (pdstOf f) f.a)
    | 1 => some (.pmovGet (guardOf f) (dstOf f) f.a)
    | 2 => some (.pmovSet (guardOf f) f.dst (Src.ofField f.a))
    | _ => none
  | 14 => some (.pcnt (guardOf f) (dstOf f) f.a)
  | _ => some (.elect (guardOf f) (pdstOf f))

/-- Opcodes 0x90 to 0x9F (R329). -/
def candidate9 (f : Fields) : Option Instr :=
  match f.opc % 16 with
  | 0 => do let cond ← BraCond.ofBits (f.md / 1 % 8); return .bra (guardOf f) (Src.ofField f.a) (Src.ofField f.b) cond
  | 1 => some (.brx (guardOf f) (Src.ofField f.a) (Src.ofField f.b))
  | 2 => some (.call (guardOf f) f.dst (Src.ofField f.a) (f.md / 1 % 2 == 1))
  | 3 => some (.ret (guardOf f) (Src.ofField f.a))
  | 4 => some (.enrol f.dst)
  | 5 => some (.rejoin f.a)
  | 6 => some (.exit (guardOf f))
  | 7 => some (.yield (guardOf f))
  | 8 => some (.trap (guardOf f) f.a)
  | 9 => some (.brk (guardOf f) f.a)
  | 10 => match f.md / 1 % 2 with
    | 0 => some (.rte (guardOf f))
    | _ => some (.rteRetry (guardOf f))
  | 11 => match f.md / 1 % 2 with
    | 0 => some (.signal (guardOf f) (Src.ofField f.a) (Src.ofField f.b))
    | _ => some (.signalMbox (guardOf f) (Src.ofField f.a) (Src.ofField f.b))
  | 12 => some (.rswitch (guardOf f) f.dst (Src.ofField f.a))
  | 13 => some (.reggrow (guardOf f) f.dst (Src.ofField f.a))
  | 14 => some (.regshrink (guardOf f) (Src.ofField f.a))
  | _ => some (.sleep (guardOf f) (Src.ofField f.a))

/-- Opcodes 0xA0 to 0xAF (R329). -/
def candidateA (f : Fields) : Option Instr :=
  match f.opc % 16 with
  | 0 => some (.barinit (guardOf f) f.a (Src.ofField f.b))
  | 1 => some (.bararr (guardOf f) f.a (Src.ofField f.b))
  | 2 => some (.barwait (guardOf f) (optOf (f.md / 1 % 2) f.dst) f.a (Src.ofField f.b))
  | 3 => some (.barinval (guardOf f) f.a)
  | 4 => some (.barrarr (guardOf f) (Src.ofField f.a) (Src.ofField f.b))
  | 5 => do let which ← BarqSel.ofBits (f.md / 1 % 4); return .barq (guardOf f) (dstOf f) f.a which
  | 6 => match f.md / 8 % 4 with
    | 0 => do let sc ← HScope.ofBits (f.md / 1 % 8); return .hbarInit (guardOf f) (Src.ofField f.a) (Src.ofField f.b) sc
    | 1 => do let sc ← HScope.ofBits (f.md / 1 % 8); return .hbarArr (guardOf f) (Src.ofField f.a) sc
    | 2 => do let sc ← HScope.ofBits (f.md / 1 % 8); return .hbarWait (guardOf f) (optOf (f.md / 32 % 2) f.dst) (Src.ofField f.a) (Src.ofField f.b) sc
    | _ => do let sc ← HScope.ofBits (f.md / 1 % 8); return .hbarQ (guardOf f) f.dst (Src.ofField f.a) (f.md / 64 % 2 == 1) sc
  | _ => none

/-- Opcodes 0xB0 to 0xBF (R329). -/
def candidateB (f : Fields) : Option Instr :=
  match f.opc % 16 with
  | 0 => do let size ← MemSize.ofBits (f.md / 1 % 8); return .ld (guardOf f) (dstOf f) (Src.ofField f.a) (Src.ofField f.b) (f.md / 8 % 2 == 1) size
  | 1 => do let size ← MemSize.ofBits (f.md / 1 % 8); return .st (guardOf f) (Src.ofField f.a) (Src.ofField f.b) (Src.ofField f.c) size
  | 2 => some (.ldt (guardOf f) f.dst (Src.ofField f.a) f.b (f.md / 8 % 2 == 1))
  | 3 => some (.stt (guardOf f) (Src.ofField f.a) f.b (Src.ofField f.c))
  | 4 => do let el ← FragEl.ofBits (f.md / 1 % 4); return .ldfr (guardOf f) f.dst (Src.ofField f.a) (Src.ofField f.b) (f.md / 4 % 2 == 1) el
  | 5 => do let el ← FragEl.ofBits (f.md / 1 % 4); return .stfr (guardOf f) (Src.ofField f.a) (Src.ofField f.b) f.c (f.md / 4 % 2 == 1) el
  | 6 => do let sc ← Scope.ofBits (f.md / 32 % 8); let op ← AtomOp.ofBits (f.md / 1 % 16); return .atom (guardOf f) f.dst (Src.ofField f.a) (Src.ofField f.b) sc (f.md / 16 % 2 == 1) op
  | 7 => do let sc ← Scope.ofBits (f.md / 32 % 8); return .cas (guardOf f) f.dst (Src.ofField f.a) (Src.ofField f.b) (Src.ofField f.c) sc (f.md / 16 % 2 == 1)
  | 8 => do let op ← AtomOp.ofBits (f.md / 1 % 16); return .ratom (guardOf f) f.dst (Src.ofField f.a) (Src.ofField f.b) (f.md / 16 % 2 == 1) op
  | 9 => match f.md / 8 % 2 with
    | 0 => do let sc ← Scope.ofBits (f.md / 1 % 8); return .fence (guardOf f) sc
    | _ => some (.fenceTc (guardOf f))
  | 10 => some (.publish (guardOf f) (Src.ofField f.a))
  | 11 => some (.mon (guardOf f) (Src.ofField f.a))
  | 12 => some (.mwait (guardOf f) (optOf (f.md / 1 % 2) f.dst) (Src.ofField f.a))
  | 13 => some (.tierpf (guardOf f) f.dst (Src.ofField f.a) (Src.ofField f.b) (Src.ofField f.c))
  | 14 => some (.tierev (guardOf f) f.dst (Src.ofField f.a) (Src.ofField f.b) (Src.ofField f.c))
  | _ => some (.lastuse (guardOf f) (Src.ofField f.a) (Src.ofField f.b))

/-- Opcodes 0xD0 to 0xDF (R329). -/
def candidateD (f : Fields) : Option Instr :=
  match f.opc % 16 with
  | 0 => some (.mma f.dst (Src.ofField f.a) (Src.ofField f.b) (Src.ofField f.c) (f.md / 1 % 2 == 1))
  | 1 => some (.accdrain f.a (Src.ofField f.b) (Src.ofField f.c))
  | 2 => some (.accst f.a (Src.ofField f.b) (Src.ofField f.c))
  | 3 => some (.acctx f.a (Src.ofField f.b))
  | 4 => some (.accwait f.a (Src.ofField f.b) (f.md / 1 % 2 == 1))
  | 5 => some (.accfree f.a (Src.ofField f.b))
  | 6 => match f.md / 1 % 8 with
    | 0 => some (.cbarArr f.a)
    | 1 => some (.cbarWait (optOf (f.md / 8 % 2) f.dst) f.a (Src.ofField f.b))
    | 2 => some (.cbarInit f.a (Src.ofField f.b))
    | 3 => some (.cbarInval f.a)
    | 4 => some (.cbarQ f.dst f.a (f.md / 16 % 2 == 1))
    | _ => none
  | _ => none

/-- Opcodes 0xE0 to 0xEF (R329). -/
def candidateE (f : Fields) : Option Instr :=
  match f.opc % 16 with
  | 0 => some (.copy (guardOf f) f.dst (f.a - 256) (f.b - 256) (f.c - 256))
  | 1 => some (.copymc (guardOf f) f.dst (f.a - 256) (f.b - 256) (f.c - 256) (f.md / 1 % 4))
  | 2 => some (.copyw (guardOf f) f.dst (f.a - 256) (f.b - 256) (f.c - 256))
  | 3 => some (.tready (guardOf f) (f.a - 256))
  | 4 => some (.fork (guardOf f) f.dst (Src.ofField f.a) (Src.ofField f.b) (Src.ofField f.c))
  | 5 => some (.reward (guardOf f) (Src.ofField f.a) (Src.ofField f.b))
  | 6 => some (.slack (guardOf f) f.dst (Src.ofField f.a) (f.b - 256))
  | 7 => some (.sgcancel (guardOf f) (Src.ofField f.a) (Src.ofField f.b))
  | 8 => some (.sgq (guardOf f) f.dst (Src.ofField f.a) (Src.ofField f.b))
  | 9 => some (.tapepush (guardOf f) f.dst (Src.ofField f.a) (Src.ofField f.b) (f.md / 1 % 2 == 1))
  | 10 => some (.launch (guardOf f) f.dst (Src.ofField f.a) (Src.ofField f.b))
  | 11 => some (.rcomb (guardOf f) f.dst f.a (Src.ofField f.b))
  | _ => none

/-- Opcodes 0xF0 to 0xFF (R329). -/
def candidateF (f : Fields) : Option Instr :=
  match f.opc % 16 with
  | 0 => some (.sysrd (guardOf f) (dstOf f) (f.md / 1 % 256))
  | 1 => some (.syswr (guardOf f) (Src.ofField f.a) (f.md / 1 % 256))
  | 2 => some (.dbgmark (guardOf f) (Src.ofField f.a))
  | 3 => some (.perfc (guardOf f) (dstOf f) (f.md / 1 % 16))
  | 4 => some (.icinv (guardOf f) (Src.ofField f.a) (Src.ofField f.b))
  | 5 => some (.ckptmark (guardOf f) (Src.ofField f.a) (Src.ofField f.b) (Src.ofField f.c))
  | _ => none

/-- The instruction that the fields name, before the checks of reserved bits and ranges. -/
def candidate (f : Fields) : Option Instr :=
  match f.opc / 16 with
  | 0 => candidate0 f
  | 1 => candidate1 f
  | 2 => candidate2 f
  | 3 => candidate3 f
  | 4 => candidate4 f
  | 5 => candidate5 f
  | 7 => candidate7 f
  | 9 => candidate9 f
  | 10 => candidateA f
  | 11 => candidateB f
  | 13 => candidateD f
  | 14 => candidateE f
  | 15 => candidateF f
  | _ => none

/-- The opcodes that R330 leaves unassigned. -/
def unassigned (opc : Nat) : Bool :=
  (0x28 ≤ opc && opc ≤ 0x2F) || (0x5D ≤ opc && opc ≤ 0x6F) || (0x80 ≤ opc && opc ≤ 0x8F) || (0xA7 ≤ opc && opc ≤ 0xAF)
    || (0xC0 ≤ opc && opc ≤ 0xCF) || (0xD7 ≤ opc && opc ≤ 0xDF) || (0xEC ≤ opc && opc ≤ 0xEF) || 0xF6 ≤ opc

/-- The instruction of the fields, or the cause R330 and R323 give the word. -/
def decodeFields (f : Fields) : Except Cause Instr :=
  if unassigned f.opc then .error .illegalOpcode
  else match candidate f with
    | none => .error .illegalEncoding
    | some i => if i.wf && i.fields? == some f then .ok i else .error .illegalEncoding

/-- The instruction of a word, or the cause the word raises at every lane of the path (R323, R330). -/
def decode (w : W64) : Except Cause Instr := decodeFields (Fields.ofWord w)

/-- A double word from its bytes, least significant first (R4). -/
def wordOfBytes (bs : List Byte) : W64 :=
  BitVec.ofNat 64 (bs.foldr (fun b n => b.toNat + 256 * n) 0)

/-- The bytes of a double word, least significant first (R4). -/
def bytesOfWord (w : W64) : List Byte :=
  (List.range 8).map fun k => BitVec.ofNat 8 (w.toNat / 2^(8*k))

/-- Decoding of the bytes at an address, with the bytes after the word. Fewer than eight bytes are no word. -/
def decodeBytes (bs : List Byte) : Except Cause (Instr × List Byte) :=
  if bs.length < 8 then .error .illegalEncoding
  else match decode (wordOfBytes (bs.take 8)) with
    | .ok i => .ok (i, bs.drop 8)
    | .error e => .error e

/-- The instruction this decoder reads from a word whose bits are `w`, stored as the hardware stores it (R4). -/
def decodeTableWord (_nbits w : Nat) : Option Instr :=
  match decodeBytes (bytesOfWord (BitVec.ofNat 64 w)) with
  | .ok (i, _) => some i
  | .error _ => none

end Sys2Proof
end

