-- ==== Sys2Proof/Machine/State.lean ====
section
/-!
DEFINITION. The state of one SK-8 package and of what the pod's other packages hold of its concern: every register, table
and queue the manual names, as plain data, and the state after package reset. Tables are sparse: a key that is not listed
reads as the default named beside it.
-/
namespace Sys2Proof.Machine

/-- Why the machine stops. -/
inductive Fault where
  /-- An agent was given the issue that does not exist, has ended or is waiting. Raised by `step`. Safe: the issue stage
  picks only among ready strands (R110). -/
  | notReady
  /-- A control physical or tensor address that the address map does not give (R21, R27, R221). Raised by device accesses
  whose address no rule checks first. Safe: such an address does not exist. -/
  | noSuchAddress
  deriving DecidableEq, Repr

/-- Why an instruction has no meaning here. -/
inductive Refusal where
  /-- An instruction whose meaning is not yet written: its mnemonic. Raised by `exec`. Safe. -/
  | notModelled (mnemonic : String)
  deriving DecidableEq, Repr

/-! ### Threads, strands, groups -/

/-- What holds a lane that does not issue (R113, R115, R121, R165, R368, R382, R422). -/
inductive Wait where
  | rejoin (j : Nat)
  | gather
  | groupWide
  | bar (b : Nat) (ph : Bool) (pd : Option Nat)      -- barrier of the own workgroup
  | hbar (id : Nat)                                   -- an outstanding higher-scope message
  | mwait (pd : Option Nat)
  | sleep (left : Nat)                                -- ticks of Active time left (R382)
  | slack (h : Nat)
  deriving DecidableEq, Repr

/-- One thread of a strand (R58, R107, R112). -/
structure Lane where
  live : Bool                -- R107
  pc : Nat                   -- address of the next word, or of the next clause header
  cwi : Nat                  -- clause word index (R311)
  inClause : Bool            -- pc lies within the clause whose header is hdr
  hdr : Nat                  -- header of the clause that holds pc
  preds : BitVec 96          -- p0 to p95
  lat0 : W64
  lat1 : W64
  lat2 : W64
  lat3 : W64
  clkh : W32                 -- bits [63:32] captured by the latest read of %clk (R317)
  inHandler : Bool           -- R48
  opening : Bool             -- in its handler, whose first clause it has not executed (R47)
  parked : Option Cause      -- R47: the cause whose handler it has yet to enter
  tpc : W64
  taddr : W64
  tcause : Byte
  tflags : Byte
  tlat0 : W64
  tlat1 : W64
  tlat2 : W64
  tlat3 : W64
  thdr : Nat                 -- header of the clause recorded on entry (R48, R51)
  gen : W32                  -- generator state (R295)
  npc : Nat                  -- where a waiting lane continues: address, and whether within its clause
  nin : Bool
  wait : Option Wait
  owed : List (Option Nat)   -- the remote atomic, if any, whose result belongs in each of lat0 to lat3 and is outstanding (R324)
  towed : List (Option Nat)  -- the same of TLAT0 to TLAT3 (R48)
  batch : Option W64         -- %clk of the step in which the lanes of its instruction parked (R47); none until that step ends
  deriving DecidableEq, Repr

/-- A clause in a clause buffer (R307, R308): literals with the patches laid over them (R88). -/
structure Clause where
  hdr : Nat
  cls : Nat
  wait : BitVec 6
  slot : Nat
  yieldHint : Bool
  words : List W64
  lits : List W32
  deriving DecidableEq, Repr

/-- What a path stalls in without leaving the issue (R113). -/
inductive Stall where
  | publish (id : Nat)
  | icinv (id : Nat)
  deriving DecidableEq, Repr

/-- The monitor of a strand or control thread (R421, R422). -/
inductive MonState where
  | disarmed | armed | waiting | fired
  deriving DecidableEq, Repr

/-- A monitor: its state, its line and the ticks of Active time left to a timed wait. -/
structure Monitor where
  st : MonState
  line : Nat                 -- physical line address
  left : Option Nat
  time : W64                 -- of the write that fired it (R422)
  deriving DecidableEq, Repr

/-- The bytes that one lane stores to a line: its virtual address, the physical one, and the bytes. -/
structure StorePart where
  lane : Nat
  va : Nat
  addr : Nat
  bytes : List Byte
  deriving DecidableEq, Repr

/-- A store request in the store queue (R191, R194, R196): what the lanes of one instruction store to one line, in ascending
lanes, and the word's address should its merge fail (R404). -/
structure QStore where
  pc : Nat
  due : W64                  -- deadline (R245)
  whole : Bool               -- the request covers its whole line (R194, R404)
  parts : List StorePart
  issued : W64               -- %clk of its issue (R186)
  deriving DecidableEq, Repr

/-- One strand (R58). -/
structure Strand where
  slot : Nat                 -- %strand
  lanes : List Lane
  jmask : List (BitVec 8)    -- j0 to j7
  u : BitVec 8               -- uniform mask (R114)
  cur : BitVec 8             -- active mask: lanes of the current path (R112)
  swash : Nat                -- swash count (R117)
  gave : Nat                 -- PC of the path that last gave up the issue (R113)
  clause : Option Clause     -- clause buffer
  mon : Monitor
  stall : Option Stall
  stores : List QStore       -- store queue, oldest first
  gAtExit : Tab W32          -- g registers when its last live lane exited (R368)
  vAtExit : Tab W32          -- the words of its lanes in the group's window then
  last : Option W64          -- %clk of its latest issue (R17, R110)
  lastPipe : Nat             -- the pipe of that issue (R109)
  lone : Bool                -- that word shares its clk with no other issue
  since : Option W64         -- %clk from which it has been ready and has not issued (R110)
  chore : Option W64         -- %clk from which something other than a word is next: a fetch, a handler's entry, a yield (the model's own)
  meek : W64                 -- %clk before which it leads no slot while another is ready (R313, R381)
  asked : Option W64         -- DTIME at which the word in which it stalls first asked for memory (R245)
  part : List (Nat × List (List Byte))   -- lanes of that word that have been served, with what they read (R233)
  doneAt : Tab W64           -- by scope code: the logical time at which its latest asynchronous operation of that scope completed (R210)
  deriving DecidableEq, Repr

/-- Group states (R130). -/
inductive GState where
  | loading | running | converging | growing | saved | ended
  deriving DecidableEq, Repr

/-- A pending group-wide instruction (R121): its address, operands and the strands that have arrived. -/
structure GroupWide where
  pc : Nat
  instr : Instr
  vals : List W64
  arrived : List (Nat × BitVec 8)
  deriving DecidableEq, Repr

/-- One strand's contribution to a gather (R368): active lanes and the source values at each lane. -/
structure Contrib where
  strand : Nat
  act : BitVec 8
  vals : List (List W64)
  deriving DecidableEq, Repr

/-- A pending gather (R368). -/
structure Gather where
  pc : Nat
  instr : Instr
  lits : List W32            -- literals of the word's clause
  contribs : List Contrib
  deriving DecidableEq, Repr

/-- A group (R107, R131). Its register window is held as words at n × W + l (R126). -/
structure Group where
  wg : Nat                   -- workgroup
  core : Nat                 -- 256 × die + %core
  idx : Nat                  -- %group
  cls : Nat
  width : Nat                -- W
  base : Nat                 -- window base in the unified store
  regs : Nat                 -- allotment
  win : Tab W32              -- register window, unlisted zero
  gregs : Tab W32            -- g0 to g63, unlisted zero
  copyRole : Bool
  prio : Nat
  entry : Nat
  seq : W32                  -- %seq
  sib : Option Nat           -- %sib
  v3base : Nat               -- v3 of thread 0 (R89)
  st : GState
  savedFrom : GState
  want : Nat                 -- requested count while Growing
  gw : Option GroupWide
  gather : Option Gather
  strands : List Strand
  deriving DecidableEq, Repr

/-- A control thread (R17, R94, R514): its issue state is held as a strand of one lane. -/
structure CThread where
  ctIdx : Nat
  cregs : Tab W64            -- c1 to c63, unlisted zero; c0 reads zero
  unit : Strand
  deferred : Option Nat      -- failing mma of a RESIDUE that has not been returned from (R434)
  due : Bool                 -- that RESIDUE is to be raised at the next instruction boundary (R434)
  savedAccs : List (Nat × Nat × Tab W32)   -- bound accumulators while saved: core, accN, elements (R440)
  deriving DecidableEq, Repr

/-! ### Barriers, workgroups -/

/-- A barrier register: BSTATE and BCOUNT (R157, R158). -/
structure Bar where
  valid : Bool
  err : Bool
  phase : Bool
  ecause : Byte
  expect : Nat
  arrived : Nat
  stray : Nat
  pend : Nat
  waiters : Nat
  time : W64                 -- logical time of its latest arrival (R166, R185)
  deriving DecidableEq, Repr

/-- A barrier that an operation may name: of a workgroup, or of a context at die, package or pod scope (R173). -/
inductive BarRef where
  | wg (w k : Nat)
  | die (cx d k : Nat)
  | pkg (cx k : Nat)
  | pod (cx k : Nat)
  deriving DecidableEq, Repr

/-- A resident workgroup. -/
structure Workgroup where
  kernel : Nat
  idx : Nat                  -- linear index (R92)
  die : Nat
  quad : Nat
  first : Nat                -- quad core of relative core 0
  ncores : Nat
  slot : Nat                 -- barrier-file slot (R156)
  runs : List Nat            -- base of the run on each occupied core (R179)
  l1w : Nat
  bars : Tab Bar
  groups : List Nat
  hasCt : Bool
  sibling : Option (Nat × Nat)   -- context table entry h and sibling index i
  ended : Bool
  saved : Bool
  savedRuns : List (List Byte)   -- contents of its runs while saved (R57)
  deriving DecidableEq, Repr

/-! ### Kernels -/

/-- Kernel states (R104). -/
inductive KState where
  | queued | ranging | ready | dispatching | running | draining | saved | done | aborted
  deriving DecidableEq, Repr

/-- A declared range (R95). -/
structure Range where
  base : Nat
  len : Nat
  read : Bool
  write : Bool
  place : Nat
  deriving DecidableEq, Repr

/-- A group class (R91). -/
structure GClass where
  regs : Nat
  coresel : Nat
  entry : Nat
  copy : Bool
  width : Nat                -- threads
  count : Nat
  deriving DecidableEq, Repr

/-- A patch-table entry (R87). -/
structure Patch where
  w64 : Bool
  poff : Nat
  slot : Nat
  deriving DecidableEq, Repr

/-- How a kernel ended: the cause and the trap data of its completion record (R49, R106). -/
structure Ending where
  cause : Byte
  tpc : W64
  taddr : W64
  deriving DecidableEq, Repr

/-- A kernel: its header (R86), its launch record (R90) and its progress. -/
structure Kernel where
  cx : Nat
  queue : Nat
  rseq : W64                 -- sequence number of the LAUNCH or REVERSE record
  tape : Option Nat          -- tape entry it was launched from
  lrec : Nat                 -- address of the launch record
  st : KState
  savedFrom : KState
  code : Nat
  codelen : Nat
  hregs : Nat
  entries : List Nat
  centry : Option Nat
  patches : List Patch
  pmin : Nat
  params : Nat
  plen : Nat
  pcopy : Nat
  grid : Nat × Nat × Nat
  diemask : Byte
  cores : Nat                -- CORES + 1
  eclass : Nat
  ranges : List Range
  deps : List (Nat × Nat)
  wsz : Nat
  asz : Nat
  ssz : Nat
  l1w : Nat
  classes : List GClass
  pblock : List Byte         -- the parameter block as read when Ranging ended (R88)
  leased : List Nat          -- pages leased (R97), by virtual page base
  placed : List Nat          -- pages whose PLACE has been carried out or dropped (R235)
  nextWg : Nat               -- workgroups placed
  liveWgs : Nat              -- workgroups placed and not ended
  ending : Option Ending     -- first abort cause
  late : Option Cause        -- cause of a failed remote atomic of an exited lane (R262)
  energy : W64
  dstart : W64
  readySince : W64
  handles : Tab (List Byte)  -- shape and buffer records kept per quad: key 4096 × (64 × die + quad) + handle (R199, R406)
  deriving DecidableEq, Repr

/-! ### Contexts and queues -/

/-- Context states (R36, R44). -/
inductive CState where
  | free | building | ready | active | preempting | saved | faulted | draining
  deriving DecidableEq, Repr

/-- An outstanding fault record (R229, R230). -/
structure FaultRec where
  seq : Nat
  va : Nat
  kernels : List Nat
  deriving DecidableEq, Repr

/-- A translation command in progress (R226). -/
structure XCmd where
  op : Nat
  page : Nat
  expiry : W64               -- when the last translation lease granted before it ends
  deriving DecidableEq, Repr

/-- A context: its register block (R34 to R43), its translation block (R218), counters and scheduling data. -/
structure Context where
  st : CState
  saveseq : W32
  fcause : Byte
  rej : Bool
  lastcmd : Byte
  trapbase : W64
  savebase : W64
  shapebase : W64
  sgbase : W64
  floor : W16
  ceil : W16
  cur : W16
  phase : BitVec 3
  phased : Bool              -- PHASE has been written in this step (the model's own)
  rlease : W32
  tlease : W32
  res : Bool
  keyslot : Byte
  ckptdest : W64
  epoch : W32
  cerr : Bool
  wakestall : W64
  energy : W64
  savelen : W64
  satthr : List W32          -- SATTHR0 to SATTHR15
  satcnt : Tab W32           -- counter k of core c at 16 × c + k (R291)
  perf : Tab W64             -- counter n of core c at 8 × c + n (R457)
  xrootc : W64
  xroott : W64
  xfring : W64
  xfcfg : W64
  xfseq : W64
  xfhead : W64
  xres : BitVec 3            -- XCSTAT.RES
  xcmd : Option XCmd         -- XCSTAT.BUSY while some
  faults : List FaultRec
  dieBars : Tab Bar          -- barrier k of die d at 64 × d + k
  pkgBars : Tab Bar
  podBars : Tab Bar
  restoring : Bool           -- a restore runs in Active (R44)
  bySched : Bool             -- the pre-emption under way is the scheduler's (R82)
  waitSince : Option W64     -- DTIME at which it began to wait for a slot (R82)
  dispatched : W64           -- %clk of its latest Dispatch (R82)
  deriving DecidableEq, Repr

/-- Queue states (R64, R84). -/
inductive QState where
  | disabled | idle | armed | dispatching | blocked | stalled | draining
  deriving DecidableEq, Repr

/-- Stall causes (R64). -/
inductive SCause where
  | none | badtype | badrec | waitto | fault | revabort
  deriving DecidableEq, Repr

/-- A record taken and not yet complete (R74). -/
structure TakenRec where
  seq : Nat
  typ : Nat
  dstart : W64
  deriving DecidableEq, Repr

/-- A running REVERSE (R78, R79): the pending run, the kernel entry being run, the count launched and complete. -/
structure Reverse where
  seq : Nat
  dstart : W64
  run : List Nat             -- pending UPD entries, in push order
  todo : List Nat            -- entries of the present group still to launch
  group : Option Nat         -- index to which QTAPEDEPTH falls when the group completes
  kernel : Option Nat        -- kernel now running
  entry : Nat                -- its tape index
  count : Nat
  mark : Option W32          -- the mark that ends the pop once the pending run is done
  stopping : Bool
  since : W64                -- DTIME at which the previous kernel completed (R80)
  first : Nat                -- operation number from which its kernels are numbered (the model's own field)
  deriving DecidableEq, Repr

/-- A queue (R62 to R64). -/
structure Queue where
  qtail : W64
  qhead : W64
  qcseq : W64
  qchead : W64
  qring : W64
  qcring : W64
  qtape : W64
  depth : Nat
  qiseq : W64
  qicseq : W64
  qwait : W64
  cx : Nat
  clog2 : Nat
  rlog2 : Nat
  devtail : Bool
  prio : Nat
  scause : SCause
  hold : Nat
  tovf : Bool
  wake : Bool
  rej : Bool
  lastcmd : Byte
  st : QState
  ready : Option W64         -- DTIME at which the head record became ready
  sigWake : Bool             -- a QWAKE write has ended the hold of a WAIT of mode SIGNAL
  taken : List TakenRec
  rev : Option Reverse
  stallRev : Bool            -- Stalled in a REVERSE
  disp : Option (List Byte)  -- the record read in Dispatching (R84)
  stallTyp : Nat             -- TYPE read when it stalled (R74)
  deriving DecidableEq, Repr

/-! ### Sample groups -/

/-- Descriptor states (R134). -/
inductive SgState where
  | free | forming | running | gathering | scored | failed | released
  deriving DecidableEq, Repr

/-- One sibling of a live descriptor. -/
structure Sibling where
  grp : Nat
  reward : W32
  posted : Bool
  adv : W32
  status : Byte
  live : Bool
  deriving DecidableEq, Repr

/-- The live copy of a descriptor (R134, R135). -/
structure SgDesc where
  gen : W32
  narr : Nat
  k : Nat
  qfail : Bool
  part : Bool
  nonfinite : Bool
  zv : Bool
  st : SgState
  eps : W32
  quorum : Nat
  timeout : W64
  forkwait : W32
  arrays : W64
  mu64 : W64
  sigma64 : W64
  mu32 : W32
  sigma32 : W32
  elapsed : W64
  arrivedM : W64
  cancelledM : W64
  endedM : W64
  die : Nat
  core : Nat
  pseq : W32
  kernel : Nat
  parent : Nat
  entry : Nat
  pd : Nat
  fwait : Nat                -- fork-wait ticks counted
  sibs : List Sibling
  origin : Option Group      -- the parent as it stood when its `fork` completed, while the siblings wait to be placed (R140)
  deriving DecidableEq, Repr

/-! ### Matrix unit -/

/-- States of a physical accumulator tile (R432). -/
inductive TileState where
  | free | bound | draining | orphan
  deriving DecidableEq, Repr

/-- A physical accumulator tile: element (i, j) at 32 × i + j, unlisted +0.0. -/
structure AccTile where
  st : TileState
  pending : Nat
  wg : Nat                   -- workgroup of the control thread that bound it
  acc : Nat                  -- accN
  data : Tab W32
  deriving DecidableEq, Repr

/-- An mma that has been issued and has not ended (R431). -/
structure MmaOp where
  id : Nat
  wg : Nat
  core : Nat
  tile : Nat                 -- physical tile; the accumulator while its workgroup is saved; 32 when its tile was unbound
  ca : W64
  cb : W64
  cs : W64
  pc : Nat
  hdr : Nat
  heldBy : Bool              -- held under R434
  deriving DecidableEq, Repr

/-- What a drain does with its tile (R435 to R437). -/
inductive DrainKind where
  | regs (grp reg : Nat)
  | window (off pitch : Nat)
  | entry (e : Nat)
  deriving DecidableEq, Repr

/-- A drain in flight: `settled` once the whole tile is read; its converted elements wait to be written. -/
structure DrainOp where
  id : Nat
  wg : Nat
  core : Nat
  tile : Option Nat          -- none: an unbound accumulator, +0.0 everywhere
  acc : Nat
  kind : DrainKind
  cc : W64
  settled : Bool
  vals : List W32
  range : Option Nat         -- its range-scoreboard entry
  after : List Nat           -- mma operations of its tile that come before it
  deriving DecidableEq, Repr

/-! ### Engines -/

/-- A shape record (R405). -/
structure ShapeRec where
  base : Nat
  fill : W32
  perm : Nat
  rank : Nat
  size : Nat                 -- element bytes
  ext : List Nat
  stride : List Nat
  box : List Nat
  deriving DecidableEq, Repr

/-- A buffer record (R199). -/
structure BufRec where
  view : Nat
  len : Nat
  deriving DecidableEq, Repr

/-- Where a copy writes (R445 to R447). -/
inductive CopyDst where
  | buffer (b : BufRec) (off : Nat)
  | window (core wg : Nat) (rec : ShapeRec)
  | multi (rec : ShapeRec) (recv : List (Nat × Nat × Nat))   -- receivers: core, workgroup, barrier
  deriving DecidableEq, Repr

/-- An entry of a range scoreboard (R206): a byte range of one core's store, by store offset. -/
structure RangeEntry where
  id : Nat
  core : Nat
  lo : Nat
  hi : Nat
  op : Nat
  full : Bool                -- every byte of the destination has been written
  saved : Bool               -- in the save image (R52, R57)
  deriving DecidableEq, Repr

/-- An accepted copy-engine operation (R443, R448). -/
structure CopyOp where
  id : Nat
  ag : Agent
  kernel : Nat
  core : Nat
  src : ShapeRec
  x : List Int
  dst : CopyDst
  bar : Option BarRef
  fetched : List (Nat × List Byte)   -- source lines read so far, by address (R204)
  due : W64                  -- deadline (R245)
  failed : Option Cause      -- the cause of the first source line that failed (R444)
  deriving DecidableEq, Repr

/-- A tier move (R423). -/
structure TierOp where
  id : Nat
  ag : Agent
  kernel : Nat
  src : Nat
  dst : Nat
  len : Nat
  bar : BarRef
  moved : List Byte          -- source bytes read so far, ascending (R423)
  due : W64                  -- deadline (R245)
  deriving DecidableEq, Repr

/-- A remote atomic of one lane (R416). -/
structure RatomOp where
  id : Nat
  ag : Agent
  lane : Nat
  kernel : Nat
  addr : Nat
  w64 : Bool
  op : AtomOp
  val : W64
  pend : Nat                 -- the pending register write
  applied : Option (W64 ⊕ Cause)
  due : W64                  -- deadline (R245)
  deriving DecidableEq, Repr

/-- A failed remote atomic not yet reported at a fence (R262, R418). -/
structure RatomFail where
  ag : Agent
  lane : Nat
  addr : Nat
  cause : Cause
  pod : Bool                 -- destination scope pod; else pkg
  deriving DecidableEq, Repr

/-- An engine or remote arrival on its way to a barrier (R161, R171). -/
structure Arrival where
  id : Nat
  ag : Option Agent          -- issuer of a `barrarr`
  bar : BarRef
  n : Nat
  cause : Option Cause
  engine : Bool              -- lowers PEND
  deriving DecidableEq, Repr

/-- A higher-scope barrier message (R394) and, once applied, its reply. -/
structure HMsg where
  id : Nat
  ag : Agent
  act : BitVec 8             -- active lanes at issue
  pc : Nat
  hdr : Nat
  bar : BarRef
  op : Nat                   -- 0 init, 1 arrive, 2 wait, 3 query
  val : Nat                  -- n, or the parity
  pd : Option Nat
  d : Nat
  bc : Bool
  waiting : Bool             -- a wait counted in WAITERS
  reply : Option (Option Cause × Bool × W64)
  deriving DecidableEq, Repr

/-- One register result to come (R327). -/
inductive RegWrite where
  | vreg (n lane : Nat) (v : W32)
  | greg (n : Nat) (v : W32)
  | creg (n : Nat) (v : W64)
  deriving DecidableEq, Repr

/-- The long-latency results of one word (R327): slot 7 names none. `ready` once the values are known. -/
structure Pending where
  id : Nat
  ag : Agent
  slot : Nat
  ready : Bool
  writes : List RegWrite
  deriving DecidableEq, Repr

/-- A `publish` that waits (R202). -/
structure PubOp where
  id : Nat
  ag : Agent
  act : BitVec 8
  cx : Nat
  kernel : Nat
  handle : Nat
  buf : BufRec
  before : List Nat          -- engine writes accepted before it
  remote : Option Nat        -- another rank that holds the frames
  sent : Bool
  deriving DecidableEq, Repr

/-- The front selector of a buffer (R222). -/
structure Front where
  cx : Nat
  view : Nat
  len : Nat
  sel : Bool
  deriving DecidableEq, Repr

/-- An `icinv` that waits for acknowledgements (R459). -/
structure IcinvOp where
  id : Nat
  ag : Agent
  cx : Nat
  addr : Nat
  len : Nat
  dropped : Bool
  acks : List Nat            -- ranks yet to acknowledge
  deriving DecidableEq, Repr

/-- An entry of a tensor-lifetime table (R244). -/
structure LastUse where
  id : Nat
  ag : Agent
  die : Nat
  spans : List (Nat × Nat)   -- physical byte ranges homed on the die
  after : List Nat           -- engine operations of the issuer outstanding at its issue
  written : List Nat         -- lines written after the `lastuse` was issued
  deriving DecidableEq, Repr

/-- A checkpoint mark (R59): the copies outstanding, by buffer handle and destination. -/
structure CkptMark where
  cx : Nat
  kernel : Nat
  epoch : W32
  dest : Nat
  bufs : List (Nat × Nat)    -- handle, OFF
  deriving DecidableEq, Repr

/-- A checkpoint copy in progress: one per buffer (R59). -/
structure CkptCopy where
  cx : Nat
  handle : Nat
  buf : BufRec
  dest : Nat
  due : W64                  -- deadline (R245)
  deriving DecidableEq, Repr

/-! ### Collectives and router sums -/

/-- Tile-table entry states (R268). -/
inductive TState where
  | empty | armed | fired | complete | error
  deriving DecidableEq, Repr

/-- A tile-table entry (R268) and what it has received (R270, R272). -/
structure TileEntry where
  fmt : Nat
  op : Nat
  cx : Nat
  roff : Nat
  st : TState
  inv : Bool
  ovf : Bool
  ecause : Byte
  skind : Bool
  src : Nat
  bar : Nat
  bv : Bool
  rstride : Nat
  rcnt : Nat
  rbase : Nat
  got : List Contribution    -- contributions taken while Fired
  waiting : List Contribution -- contributions in the pending store
  result : Option Contribution -- the result from position 0
  own : List W32             -- source elements read at Fire
  firedAt : W64
  contextKernel : Nat
  issuer : Option Agent      -- strand or control thread of the latest `tready` or `acctx` (R209)
  deriving DecidableEq, Repr

/-- One member's packet in a round (R276, R453). -/
structure Packet where
  pos : Nat
  ag : Agent
  grp : Nat
  d : Nat
  vals : List W32
  act : List Bool            -- lanes that supplied their element
  range : Nat
  deriving DecidableEq, Repr

/-- An open round of a reduction descriptor (R276 to R278). -/
structure Round where
  die : Nat
  desc : Nat
  cx : Nat
  n : Nat
  bar : Nat
  timeout : Nat
  elapsed : Nat
  member : List Nat
  packets : List Packet
  deriving DecidableEq, Repr

/-! ### Memory service -/

/-- An L1 copy of a line (R184, R189). -/
structure L1Line where
  core : Nat
  line : Nat
  data : List Byte
  wts : W64
  lease : W64
  priv : Bool
  dirty : Bool               -- holds stores to a Private page not yet written back (R184)
  deriving DecidableEq, Repr

/-- Logical time of a line at its home slice (R188). -/
structure LineTime where
  wts : W64
  rts : W64
  deriving DecidableEq, Repr

/-- A miss in flight (R195): the requester's unit and the line. -/
structure Miss where
  id : Nat
  unit : Nat
  cx : Nat
  page : Nat
  line : Nat
  due : W64                  -- deadline (R245)
  at_ : W64                  -- %clk at which it was taken
  deriving DecidableEq, Repr

/-- A dirty line that has not been written back (R187, R244): the bytes last written back. -/
structure Dirty where
  line : Nat
  old : List Byte
  key : Option Nat           -- the key slot under which they were written
  deriving DecidableEq, Repr

/-- A memory request that its channel has yet to serve (R245, R246): its requester, class, deadline and physical address. -/
structure MemReq where
  who : Nat
  cls : Nat
  due : W64
  at_ : Nat
  deriving DecidableEq, Repr

/-- A translation in a TLB (R225). -/
structure TlbEntry where
  unit : Nat                 -- 0 to 2047 a core TLB, 2048 + quad a quad TLB, 4096 + quad a shape walker
  cx : Nat
  vpage : Nat
  size : Nat
  pte : W64
  expiry : W64
  deriving DecidableEq, Repr

/-- A page in a state that a walk alone does not show (R231). -/
structure PageInfo where
  cx : Nat
  vpage : Nat
  leases : Nat               -- residency leases
  moving : Option (Nat × Byte)   -- PLACE, and the dies it names
  first : Option Nat         -- the unit that filled the first translation (R192)
  shared : Bool              -- classification (R192)
  discard : Bool             -- replicas to be discarded once their leases expire
  repl : List (Nat × Nat)    -- replicas: die and frame (R235, R236)
  due : W64                  -- deadline of a move (R245)
  deriving DecidableEq, Repr

/-- Tide states (R237). -/
inductive Tide where
  | active | idle | retention | off
  deriving DecidableEq, Repr

/-- A segment of the tide map: its state, a wake in progress, and the time of its last access. -/
structure Segment where
  tide : Tide
  waking : Bool
  last : W64
  deriving DecidableEq, Repr

/-- PHASETAB (R239). -/
structure PhaseTab where
  rett : W16
  idlet : W16
  keep : Nat
  deriving DecidableEq, Repr

/-- The states of a line in the control-space agent of a die (R193). -/
inductive Moesi where
  | modified | owned | exclusive | shared | invalid
  deriving DecidableEq, Repr

/-- A row being spared (R250). -/
structure RowSpare where
  id : Nat
  stack : Nat
  bank : Nat
  row : Nat
  deriving DecidableEq, Repr

/-- A control-space write on its way to its home, or applied there and not yet acknowledged by the mirror (R265). -/
structure HomeW where
  id : Nat
  ag : Option Agent          -- the issuer; none: a host core
  byPage : Bool              -- its addresses go by the tables of `cx`; not so a host core's physical address
  cx : Nat
  core : Nat                 -- unit whose program time the write takes (R188)
  shared : Bool
  parts : List StorePart
  applied : Bool             -- the home has it, and its mirror has yet to acknowledge
  issued : W64               -- %clk of the store's issue (R186)
  due : Option (Nat × W64)   -- requester and deadline (R245, R246)
  deriving DecidableEq, Repr

/-- An update of a Replicated page (R215): the dies yet to apply it. -/
structure RepUpdate where
  id : Nat
  ag : Option Agent          -- none: of another package
  cx : Nat
  addr : Nat
  bytes : List Byte
  t : W64
  dies : List Nat
  bound : W64                -- lease bound of the line before it (R215, R216)
  prev : W64                 -- time of the update before it
  issued : W64               -- %clk of the store's issue (R186)
  due : Option (Nat × W64)   -- requester and deadline (R245, R246)
  deriving DecidableEq, Repr

/-- An incoming engine write from another rank (R201, R264). -/
structure InWrite where
  id : Nat
  rank : Nat
  cx : Nat
  ofs : Nat
  data : List Byte
  deriving DecidableEq, Repr

/-- The memory block (R237, R239, R242, R245, R246). -/
structure MemBlock where
  segs : Tab Segment         -- unlisted: Active, no wake
  phasetab : List PhaseTab
  tideRej : Bool
  tideSeg : Nat
  replpool : W32
  dlbudget : W64
  dlmiss : Tab W64
  deriving DecidableEq, Repr

/-! ### Fabric and management -/

/-- Port states (R252, R258). -/
inductive LState where
  | down | training | up | degraded | lost
  deriving DecidableEq, Repr

/-- A flit (R253): the payload as its bytes, `resent` counts its replays. -/
structure Flit where
  seq : Nat
  vc : Nat
  kind : Nat
  payload : List Byte
  resent : Nat
  deriving DecidableEq, Repr

/-- A fabric port (R252, R255, R256). -/
structure Port where
  st : LState
  lanes : Byte
  peer : Nat
  replays : W32
  crcerr : W32
  failures : Nat
  expect : Nat               -- next SEQ expected
  nextSeq : Nat
  unacked : List Flit        -- held until acknowledged
  sendq : List Flit          -- to send, resent flits first
  credits : List Nat         -- per channel
  wantReplay : Bool          -- a replay request is to be sent
  retryWait : Bool           -- a failed training waits its 100 µs
  deriving DecidableEq, Repr

/-- The fabric block (R251, R252). -/
structure Fabric where
  topo : Bool
  mv : Bool
  mirr : Nat
  podsize : Nat
  rank : Nat
  peermap : W64
  lostmap : W64
  collto : W32
  ports : List Port
  table : Tab (List Nat)     -- route table of R259: ports that reach each rank
  route : Tab Nat            -- route in use: port of channel vc to rank t at 8 × t + vc
  rebuilding : List Nat      -- lost ranks whose directory is being rebuilt (R266)
  retired : Byte             -- dies that training has retired, whose segments are never used (R508)
  deriving DecidableEq, Repr

/-- Power-up states (R505, R507). -/
inductive MState where
  | reset | authenticating | training | ready | failed
  deriving DecidableEq, Repr

/-- A record of the trace stream (R458). -/
structure TraceRec where
  dtime : W64
  cx : Nat
  die : Nat
  core : Nat
  strand : Nat
  a : W32
  deriving DecidableEq, Repr

/-- The management block and the management core (R504 to R511). -/
structure Mgmt where
  bootn : W32
  fail : Byte
  dieok : Byte
  rej : Bool
  st : MState
  fwbase : W64
  fwlen : W64
  mout : W64
  moseq : W64
  mohead : W64
  mwake : W64
  tracemask : List W64
  lost : Nat                 -- records dropped while the ring was full
  image : List Byte          -- the image in the management core's private memory
  trace : List TraceRec
  seqdie : Nat               -- sequencer die (R15)
  coolOut : Bool             -- coolant outside its envelope (R30)
  hot : Bool                 -- temperature has risen (R31)
  mhz : Nat                  -- arithmetic clock
  softCount : Tab Nat        -- soft errors corrected per stack (R249)
  rowCount : Tab Nat         -- corrected errors per row
  residue : Tab Nat          -- residue mismatches per core (R306)
  spares : List RowSpare
  spareUsed : Tab Nat        -- spare rows taken per bank (R250)
  deriving DecidableEq, Repr

/-- What another package asks of this one (R174, R204, R212, R261, R270). -/
inductive PeerMsg where
  | bar (k op val : Nat)       -- to pod barrier k, held here: 0 init, 1 arrive, 2 wait, 4 a wait withdrawn (R174)
  | mirror (k : Nat) (b : Bar) -- from the holder of pod barrier k to its mirror (R174)
  | read (va n : Nat)          -- a copy reads bytes of this rank (R204, R261)
  | ratom (va : Nat) (w64 : Bool) (op : AtomOp) (val : W64)   -- a remote atomic on this rank (R212, R261)
  | icinv (va n : Nat)         -- an `icinv` of that rank reaches this one's instruction caches (R459)
  | refuse (die i : Nat) (perm : Bool)   -- a rank refuses what an entry has sent: ILLEGAL_ENCODING (R270) or PERMISSION (R261)
  deriving DecidableEq, Repr

/-- What happens next: a device step, an issue by one agent, time that passes, or a residue mismatch at the lanes of the next
checked word (R305, R306). -/
inductive Turn where
  | event (i : Instr)
  | issue (ag : Agent)
  | also (ag : Agent)          -- an issue in the clk of the step before (R109)
  | elapse (clks : Nat)
  | upset (lanes : BitVec 8)
  | fetch (id line : Nat)      -- an engine operation reads one source line (R204, R423)
  | peer (rank cx : Nat) (m : PeerMsg) -- a request of another package reaches this one (R174, R261)
  | flit (port src dest vc : Nat) (data : List Byte) -- a flit of a message between two ranks leaves a port (R255, R256, R260)
  | hbmTrained (dies : Byte)   -- the HBM stacks of every die have trained or failed: the dies that trained (R508)
  | serve (i : Nat)            -- a memory channel serves the i-th request that waits (R246)
  | choose (q : Nat)           -- the scheduler chooses the head record of a queue (R80, R84)
  | race (sw : Turn) (dev : Instr) -- a device update in the clk of a write by software (R7)
  deriving DecidableEq, Repr

/-- The state of the package. -/
structure State where
  turns : List Turn          -- the order in which agents act: the free choice of R8 to R11, R110, R513
  focus : Option Agent       -- the agent that issues while no turn is listed
  fresh : Nat                -- free values drawn (the model's own field)
  nextId : Nat               -- next operation number (the model's own field)
  stallOn : Option Nat       -- the counter of R457 that the latest stall is one of (the model's own field)
  dtime : W64
  clk : W64                  -- %clk
  part : Nat                 -- clk passed that make no tick yet, in thousandths of the arithmetic clock's rate (R5)
  mem : List Host.Cell       -- physical bytes: see Ops
  keys : Tab Nat             -- key slot under which each HBM or capacity line was last written (R247, R248)
  dropped : List (Nat × Nat) -- physical bytes, first and end, that read as zero under any key until written: of segments that were Off (R238)
  mgmt : Mgmt
  fab : Fabric
  mb : MemBlock
  ctxs : Tab Context
  queues : Tab Queue
  lastTake : Option W64      -- DTIME at which the scheduler took the last record (R80)
  kernels : Tab Kernel
  wgs : Tab Workgroup
  groups : Tab Group
  cts : Tab CThread          -- by workgroup
  seqs : Tab W32             -- launch-sequence count per core (R107)
  sgs : Tab SgDesc           -- live descriptor h of context c at 4096 × c + h
  accs : Tab AccTile         -- physical tile i of core c at 32 × c + i
  mmas : List MmaOp
  drains : List DrainOp
  collq : Tab (List W32)     -- staging slot i of die d at 512 × d + i (R268)
  ranges : List RangeEntry
  copies : List CopyOp
  tiers : List TierOp
  ratoms : List RatomOp
  ratomFails : List RatomFail
  arrivals : List Arrival
  hmsgs : List HMsg
  pend : List Pending
  pubs : List PubOp
  fronts : List Front
  gens : Tab Nat             -- GEN and SEL after the latest publish of a context by a handle, by 4096 × context + handle (R199)
  icinvs : List IcinvOp
  icache : Tab (List Byte)   -- instruction-cache lines: line l of core c at 2^64 × c + l
  lastuses : List LastUse
  marks : List CkptMark
  ckpts : List CkptCopy
  tiles : Tab TileEntry      -- entry i of die d at 4096 × d + i
  rounds : List Round
  l1 : List L1Line
  lines : Tab LineTime
  pts : Tab W64              -- 0 to 2047 cores, 2048 to 2559 quad control cores, 2560 host cores, 2561 the device (the model's own)
  ptsAt : Tab W64            -- %clk / 64 when that program time was set (R190)
  floors : List (Nat × Nat × W64) -- ranges whose lines have a write time of at least this (R192, R202, R208)
  misses : List Miss
  dirty : List Dirty
  reqs : List MemReq         -- requests of units whose accesses take effect at once, by issue: they have yet to be served (R245, R246)
  tlbs : List TlbEntry
  pages : List PageInfo
  inval : List (Nat × Nat)   -- lines of a die on which no new lease is granted (R193)
  dir : Tab Moesi            -- state of line l in the agent of die d (R193): 8 × (l / 64) + d, unlisted invalid
  homes : List HomeW
  reps : List RepUpdate
  inWrites : List InWrite
  hostReply : Option (Nat × Bool × W64)   -- the last answer to a host core: host core, bus error, value
  upset : BitVec 8           -- lanes at which the next checked multiplication meets a residue mismatch (R306)
  deriving DecidableEq, Repr

/-! ### Reset values -/

/-- A lane before anything has set it: not live. -/
def Lane.init : Lane :=
  ⟨false, 0, 0, false, 0, 0, 0, 0, 0, 0, 0, false, false, none, 0, 0, 0, 0, 0, 0, 0, 0, 0, 1, 0, false, none, [], [], none⟩

/-- A barrier register at reset (R157, R158): invalid. -/
def Bar.init : Bar := ⟨false, false, false, 0, 0, 0, 0, 0, 0, 0⟩

/-- A monitor that is not armed. -/
def Monitor.init : Monitor := ⟨.disarmed, 0, none, 0⟩

/-- A strand whose lanes `m` are live: masks as at placement (R89, R114). -/
def Strand.init (slot : Nat) (m : BitVec 8) (lanes : List Lane) : Strand :=
  ⟨slot, lanes, List.replicate 8 0, m, m, 0, 0, none, Monitor.init, none, [], [], [], none, 0, false, none, none, 0, none, [], []⟩

/-- A context's registers at reset: R35 to R43, R218. -/
def Context.init : Context :=
  ⟨.free, 0, 0, false, 0, 0, 0, 0, 0, 0, 0, 0, 0, false, 0x0000C350, 0x00004E20, false, 0, 0, 0, false, 0, 0, 0,
   List.replicate 16 0, [], [], 0, 0, 0, 0, 0, 0, 0, none, [], [], [], [], false, false, none, 0⟩

/-- A queue's registers at reset: all zero (R62). -/
def Queue.init : Queue :=
  ⟨0, 0, 0, 0, 0, 0, 0, 0, 0, 0, 0, 0, 0, 0, false, 0, .none, 0, false, false, false, 0, .disabled, none, false, [],
   none, false, none, 0⟩

/-- A tile-table entry at reset: all zero (R268). -/
def TileEntry.init : TileEntry :=
  ⟨0, 0, 0, 0, .empty, false, false, 0, false, 0, 0, false, 0, 0, 0, [], [], none, [], 0, 0, none⟩

/-- A free accumulator tile. -/
def AccTile.init : AccTile := ⟨.free, 0, 0, 0, []⟩

/-- A segment at reset: Active (R237). -/
def Segment.init : Segment := ⟨.active, false, 0⟩

/-- A port at reset: Down (R251, R252). -/
def Port.init : Port :=
  ⟨.down, 0, 0, 0, 0, 0, 0, 0, [], [], List.replicate 6 0, false, false⟩

/-- PHASETABp at reset (R239). -/
def PhaseTab.init (p : Nat) : PhaseTab := ⟨0x03E8, 0x0004, 96 * p⟩

/-- The memory block at reset (R237, R239, R242, R245). -/
def MemBlock.init : MemBlock :=
  ⟨[], (List.range 8).map PhaseTab.init, false, 0, 0, 0x0000800010000400, []⟩

/-- The fabric block at reset (R251, R252). -/
def Fabric.init : Fabric :=
  ⟨false, false, 0, 1, 0, 0, 0, 0x000F4240, List.replicate 12 Port.init, [], [], [], 0⟩

/-- The management block at reset (R504, R505); BOOTN is given. -/
def Mgmt.init (bootn : W32) : Mgmt :=
  ⟨bootn, 0, 0, false, .reset, 0, 0, 0, 0, 0, 0, List.replicate 4 0, 0, [], [], 0, false, false, 1900, [], [], [], [], []⟩

/-- The package right after package reset with the given BOOTN and memory (R507). -/
def State.afterReset (bootn : W32) (mem : List Host.Cell) (keys : Tab Nat) : State :=
  ⟨[], none, 0, 0, none, 0, 0, 0, mem, keys, [], Mgmt.init bootn, Fabric.init, MemBlock.init, [], [], none, [], [], [], [], [], [], [],
   [], [], [], [], [], [], [], [], [], [], [], [], [], [], [], [], [], [], [], [], [], [], [], [], [], [], [], [], [], [], [],
   [], [], [], [], [], none, 0⟩

/-- The machine right after reset: power-on with an empty memory. -/
def State.reset : State := State.afterReset 1 [] []

end Sys2Proof.Machine
end

