-- ==== Sys2Proof/Machine/Bits.lean ====
section
/-!
DEFINITION. Bits, bytes and lane masks: the helpers that the operations share.
-/
namespace Sys2Proof.Machine

/-- Bits [hi:lo] of a number. -/
def bits (n hi lo : Nat) : Nat := n / 2^lo % 2^(hi + 1 - lo)

/-- Bit `k` of a number. -/
def bitAt (n k : Nat) : Bool := n / 2^k % 2 == 1

/-- Two's-complement reading of the low `w` bits (R345: s(x)). -/
def sgn (w n : Nat) : Int := if n % 2^w < 2^(w-1) then (n % 2^w : Int) else (n % 2^w : Int) - 2^w

/-- The low `w` bits of an integer, as a number. -/
def wrap (w : Nat) (x : Int) : Nat := (x % (2^w : Int)).toNat

/-- The number whose little-endian bytes are given (R4). -/
def leNat : List Byte → Nat
  | [] => 0
  | b :: t => b.toNat + 256 * leNat t

/-- The `n` little-endian bytes of a number (R4). -/
def leBytes : Nat → Nat → List Byte
  | 0, _ => []
  | n + 1, v => BitVec.ofNat 8 v :: leBytes n (v / 256)

/-- Lane `l` is in a mask. -/
def inMask (m : BitVec 8) (l : Nat) : Bool := m.getLsbD l

/-- The mask of the lanes 0 to 7 for which `p` holds. -/
def maskOf (p : Nat → Bool) : BitVec 8 :=
  BitVec.ofNat 8 ((List.range 8).foldl (fun n l => if p l then n + 2^l else n) 0)

/-- The lanes of a mask, in ascending order. -/
def lanesOf (m : BitVec 8) : List Nat := (List.range 8).filter (inMask m)

/-- `l` with entry `k` changed by `f`. -/
def modAt {α : Type} (l : List α) (k : Nat) (f : α → α) : List α :=
  match l, k with
  | [], _ => []
  | a :: t, 0 => f a :: t
  | a :: t, k + 1 => a :: modAt t k f

/-- The `k`-th entry of a list, with a default. -/
def nth {α : Type} (l : List α) (k : Nat) (d : α) : α := (l[k]?).getD d

/-- Low word of a double word. -/
def lo32 (v : W64) : W32 := v.setWidth 32
/-- High word of a double word. -/
def hi32 (v : W64) : W32 := (v >>> 32).setWidth 32
/-- A double word of two words. -/
def cat32 (h l : W32) : W64 := (h ++ l).setWidth 64

/-- The first entry satisfying `p`, with its index from `i`. -/
def findIdxFrom {α : Type} (p : α → Bool) : List α → Nat → Option (Nat × α)
  | [], _ => none
  | a :: t, i => if p a then some (i, a) else findIdxFrom p t (i + 1)

/-- `x` raised to the largest of a list. -/
def maxOf (l : List Nat) : Nat := l.foldl max 0

/-- The predicate index that stands for "this lane was not active at the word it waits in". -/
def inactive : Nat := 96

end Sys2Proof.Machine

namespace Sys2Proof

/-- Codes of the trap causes (R45). -/
def Cause.code : Cause → Nat
  | .illegalOpcode => 0x01
  | .illegalEncoding => 0x02
  | .uniformDivergent => 0x03
  | .nonuniformOperand => 0x04
  | .align => 0x05
  | .addrTag => 0x06
  | .permission => 0x07
  | .lease => 0x08
  | .integrity => 0x09
  | .peerLost => 0x0A
  | .copyRights => 0x0B
  | .roleConflict => 0x0C
  | .barBusy => 0x0D
  | .mwaitTimeout => 0x0E
  | .soft => 0x0F
  | .brk => 0x10
  | .saturation => 0x11
  | .residue => 0x12
  | .reduceTimeout => 0x13
  | .sgFault => 0x14
  | .priv => 0x15

end Sys2Proof

namespace Sys2Proof.Machine

/-- All causes, in ascending order of code. -/
def allCauses : List Cause :=
  [.illegalOpcode, .illegalEncoding, .uniformDivergent, .nonuniformOperand, .align, .addrTag, .permission, .lease,
   .integrity, .peerLost, .copyRights, .roleConflict, .barBusy, .mwaitTimeout, .soft, .brk, .saturation, .residue,
   .reduceTimeout, .sgFault, .priv]

/-- The cause of a code, if it is one (R45). -/
def causeOf (n : Nat) : Option Cause := allCauses.find? fun c => c.code == n

end Sys2Proof.Machine

namespace Sys2Proof

/-- The causes with which an engine operation ends on its barrier (R161, R423, R444). -/
def Cause.endsEngine (c : Cause) : Bool := c == .peerLost || c == .permission || c == .integrity

/-- The priority of R46: the position of a cause among those that apply to one lane. The instruction's own causes come
last, by code. -/
def Cause.rank : Cause → Nat
  | .illegalOpcode => 0
  | .illegalEncoding => 1
  | .priv => 2
  | .copyRights => 3
  | .roleConflict => 4
  | .nonuniformOperand => 5
  | .uniformDivergent => 6
  | .align => 7
  | .addrTag => 8
  | .lease => 9
  | .permission => 10
  | .integrity => 11
  | .peerLost => 12
  | c => 20 + c.code

/-- Causes after which `rte` resumes at the next word (R50). -/
def Cause.after : Cause → Bool
  | .soft | .brk | .saturation | .mwaitTimeout | .peerLost | .reduceTimeout | .residue | .sgFault => true
  | _ => false

end Sys2Proof
end

