-- ==== Sys2Proof/Machine/Numbers.lean ====
section
/-!
DEFINITION. Number formats and arithmetic (R279 to R304): unpacked values, rounding, the exact operations, conversions, the
special functions, and the generator step.
-/
namespace Sys2Proof.Machine

/-- The floating-point formats (R279). -/
inductive Fmt where
  | f64 | f32 | f16 | bf16 | e4m3 | e5m2 | e2m1
  deriving DecidableEq, Repr

/-- Width of the exponent field (R279). -/
def Fmt.eb : Fmt → Nat
  | .f64 => 11
  | .f32 => 8
  | .f16 => 5
  | .bf16 => 8
  | .e4m3 => 4
  | .e5m2 => 5
  | .e2m1 => 2

/-- Width of the mantissa field (R279). -/
def Fmt.mb : Fmt → Nat
  | .f64 => 52
  | .f32 => 23
  | .f16 => 10
  | .bf16 => 7
  | .e4m3 => 3
  | .e5m2 => 2
  | .e2m1 => 1

/-- Exponent bias (R279). -/
def Fmt.bias (f : Fmt) : Nat := 2^(f.eb - 1) - 1

/-- Width of an encoding. -/
def Fmt.width (f : Fmt) : Nat := 1 + f.eb + f.mb

/-- Code of the largest finite magnitude (R279). -/
def Fmt.maxCode : Fmt → Nat
  | .e4m3 => 0x7E
  | .e2m1 => 0x7
  | f => (2^f.eb - 1) * 2^f.mb - 1

/-- Code of the magnitude that an overflow or an infinity gives (R286, R287): E4M3 has its NaN there, E2M1 its maximum. -/
def Fmt.bigCode : Fmt → Nat
  | .e4m3 => 0x7F
  | .e2m1 => 0x7
  | f => (2^f.eb - 1) * 2^f.mb

/-- The canonical NaN (R279, R287: E2M1 has none and takes 0). -/
def Fmt.nan : Fmt → Nat
  | .f64 => 0x7FF8000000000000
  | .f32 => 0x7FC00000
  | .f16 => 0x7E00
  | .bf16 => 0x7FC0
  | .e4m3 => 0x7F
  | .e5m2 => 0x7F
  | .e2m1 => 0

/-- A value of any format: the value of `fin n m e` is (−1)^n × m × 2^e. -/
inductive Fp where
  | nan
  | inf (neg : Bool)
  | fin (neg : Bool) (m : Nat) (e : Int)
  deriving DecidableEq, Repr

/-- The sign bit in place. -/
def Fmt.signed (f : Fmt) (neg : Bool) (code : Nat) : Nat := (if neg then 2^(f.eb + f.mb) else 0) + code

/-- The value an encoding stands for (R279). -/
def Fmt.unpack (f : Fmt) (x : Nat) : Fp :=
  let neg := bitAt x (f.eb + f.mb)
  let mag := x % 2^(f.eb + f.mb)
  let e := mag / 2^f.mb
  let m := mag % 2^f.mb
  if f.maxCode < mag then (if mag = f.bigCode && f != .e4m3 then .inf neg else .nan)
  else if e = 0 then .fin neg m (1 - (f.bias : Int) - f.mb)
  else .fin neg (2^f.mb + m) ((e : Int) - f.bias - f.mb)

/-- What rounding decides (R285): whether to go up from `n`, with `r / 2^sh` the discarded fraction. -/
def roundUp (rm : Rm) (v : Nat) (neg : Bool) (n r sh : Nat) : Bool :=
  match rm with
  | .rn => decide (2^sh < 2 * r) || (2 * r == 2^sh && n % 2 == 1)
  | .rz => false
  | .rd => neg && decide (0 < r)
  | .ru => !neg && decide (0 < r)
  | .rs => decide (2^32 ≤ r * 2^32 / 2^sh + v)

/-- The magnitude m × 2^e in units of 2^q, rounded (R285). -/
def roundTo (rm : Rm) (v : Nat) (neg : Bool) (m : Nat) (e q : Int) : Nat :=
  if q ≤ e then m * 2^((e - q).toNat)
  else
    let sh := (q - e).toNat
    let n := m / 2^sh
    if roundUp rm v neg n (m % 2^sh) sh then n + 1 else n

/-- The result of an overflow (R286). -/
def Fmt.overflow (f : Fmt) (rm : Rm) (sat neg : Bool) : Nat :=
  let big := match rm with
    | .rn => true
    | .rs => true
    | .rz => false
    | .rd => neg
    | .ru => !neg
  f.signed neg (if sat || !big then f.maxCode else f.bigCode)

/-- A finite value rounded to a format (R285, R286); zero keeps its sign. -/
def Fmt.round (f : Fmt) (rm : Rm) (v : Nat) (sat neg : Bool) (m : Nat) (e : Int) : Nat :=
  if m = 0 then f.signed neg 0
  else
    let emin : Int := 1 - (f.bias : Int)
    let lg : Int := Nat.log2 m + e
    let ex := if lg < emin then emin else lg
    let n := roundTo rm v neg m e (ex - f.mb)
    let code := if n < 2^f.mb then n else ((ex + f.bias).toNat) * 2^f.mb + (n - 2^f.mb)
    if f.maxCode < code then f.overflow rm sat neg else f.signed neg code

/-- A value in a format as an arithmetic result (R350): infinities stay under SAT. -/
def Fmt.pack (f : Fmt) (rm : Rm) (sat : Bool) : Fp → Nat
  | .nan => f.nan
  | .inf neg => f.signed neg f.bigCode
  | .fin neg m e => f.round rm 0 sat neg m e

/-- A value converted to a format (R287). -/
def Fmt.convert (f : Fmt) (rm : Rm) (v : Nat) (sat : Bool) : Fp → Nat
  | .nan => f.nan
  | .inf neg => f.signed neg (if sat then f.maxCode else f.bigCode)
  | .fin neg m e => f.round rm v sat neg m e

/-- The exact magnitude exceeds the largest finite value of the format (R290). -/
def Fmt.exceeds (f : Fmt) : Fp → Bool
  | .nan => false
  | .inf _ => true
  | .fin _ m e =>
    match f.unpack f.maxCode with
    | .fin _ mm me => if me ≤ e then decide (mm < m * 2^((e - me).toNat)) else decide (mm * 2^((me - e).toNat) < m)
    | _ => false

/-- m × 2^e as a multiple of 2^q, for q ≤ e. -/
def scaled (neg : Bool) (m : Nat) (e q : Int) : Int :=
  let x : Int := m * 2^((e - q).toNat)
  if neg then -x else x

/-- An exact product (R350): NaN when invalid. -/
def Fp.mul : Fp → Fp → Fp
  | .nan, _ => .nan
  | _, .nan => .nan
  | .inf a, .inf b => .inf (a != b)
  | .inf a, .fin b m _ => if m = 0 then .nan else .inf (a != b)
  | .fin a m _, .inf b => if m = 0 then .nan else .inf (a != b)
  | .fin a m e, .fin b n f => .fin (a != b) (m * n) (e + f)

/-- The value with its sign turned. -/
def Fp.neg : Fp → Fp
  | .nan => .nan
  | .inf a => .inf (!a)
  | .fin a m e => .fin (!a) m e

/-- The least exponent among finite terms. -/
def minExp : List Fp → Int → Int
  | [], q => q
  | .fin _ _ e :: t, q => minExp t (if e < q then e else q)
  | _ :: t, q => minExp t q

/-- The exact sum of terms (R282, R350, R351): `rd` says whether the mode is rd. -/
def Fp.sum (rd : Bool) (ts : List Fp) : Fp :=
  if ts.any (· == .nan) then .nan
  else
    let pos := ts.any (· == .inf false)
    let neg := ts.any (· == .inf true)
    if pos && neg then .nan
    else if pos then .inf false
    else if neg then .inf true
    else
      let q := minExp ts 0
      let x := ts.foldl (fun x t => match t with | .fin n m e => x + scaled n m e q | _ => x) (0 : Int)
      if x = 0 then
        let zero := fun s => ts.all fun t => match t with | .fin n m _ => m == 0 && n == s | _ => false
        .fin (if zero true then true else if zero false then false else rd) 0 0
      else .fin (decide (x < 0)) x.natAbs q

/-- The mode is rd. -/
def isRd (rm : Rm) : Bool := rm == .rd

/-- A rounded sum of terms. -/
def Fmt.sum (f : Fmt) (rm : Rm) (sat : Bool) (ts : List Fp) : Nat := f.pack rm sat (Fp.sum (isRd rm) ts)

/-- A value is NaN. -/
def Fmt.isNan (f : Fmt) (x : Nat) : Bool := f.unpack x == .nan

/-- A magnitude order of encodings that are not NaN: −0 below +0 (R272). -/
def Fmt.key (f : Fmt) (x : Nat) : Int :=
  let mag := x % 2^(f.eb + f.mb)
  if bitAt x (f.eb + f.mb) then -(mag : Int) - 1 else mag

/-- The value order of encodings that are not NaN: −0 equals +0. -/
def Fmt.val (f : Fmt) (x : Nat) : Int :=
  let mag := x % 2^(f.eb + f.mb)
  if bitAt x (f.eb + f.mb) then -(mag : Int) else mag

/-- The larger or smaller operand (R272, R352). -/
def Fmt.extreme (f : Fmt) (max : Bool) (a b : Nat) : Nat :=
  if f.isNan a || f.isNan b then f.nan
  else if (f.key a < f.key b) = max then b % 2^f.width else a % 2^f.width

/-- A condition of `fcmp`, `dcmp` and `hcmp2` (R352). -/
def Fmt.cmp (f : Fmt) (c : FCond) (a b : Nat) : Bool :=
  let un := f.isNan a || f.isNan b
  let x := f.val a
  let y := f.val b
  match c with
  | .eq => !un && x == y
  | .ne => un || x != y
  | .lt => !un && decide (x < y)
  | .le => !un && decide (x ≤ y)
  | .gt => !un && decide (y < x)
  | .ge => !un && decide (y ≤ x)
  | .un => un
  | .ord => !un

/-- The class of a value (R352). -/
def Fmt.cls (f : Fmt) (x : Nat) : Nat :=
  match f.unpack x with
  | .nan => 8
  | .inf n => if n then 0 else 7
  | .fin n m _ =>
    let sub := decide (m < 2^f.mb)
    if m = 0 then (if n then 3 else 4) else if n then (if sub then 2 else 1) else (if sub then 5 else 6)

/-! ### Integers -/

/-- A finite value rounded to an integer (R288: q = 1). -/
def roundInt (rm : Rm) (v : Nat) (neg : Bool) (m : Nat) (e : Int) : Int :=
  let n := roundTo rm v neg m e 0
  if neg then -(n : Int) else n

/-- A conversion to an integer between bounds (R288): the result, and whether a bound replaced it (R290). -/
def toInt (rm : Rm) (v : Nat) (lo hi : Int) : Fp → Int × Bool
  | .nan => (0, false)
  | .inf neg => (if neg then lo else hi, true)
  | .fin neg m e =>
    let x := roundInt rm v neg m e
    if hi < x then (hi, true) else if x < lo then (lo, true) else (x, false)

/-- An integer as an exact value; zero is +0. -/
def ofInt (x : Int) : Fp := .fin (decide (x < 0)) x.natAbs 0

/-! ### Division, roots and the special functions

A result that is not dyadic is carried to far more bits than any format holds, its lowest bit set when bits were dropped, so
that its one rounding is that of the exact value. -/

/-- m × 2^e with a sticky bit below. -/
def sticky (neg : Bool) (m : Nat) (e : Int) (more : Bool) : Fp := .fin neg (2 * m + (if more then 1 else 0)) (e - 1)

/-- 1 / x (R353). -/
def Fp.recip : Fp → Fp
  | .nan => .nan
  | .inf n => .fin n 0 0
  | .fin n m e =>
    if m = 0 then .inf n
    else
      let k := Nat.log2 m + 80
      sticky n (2^k / m) (-(k : Int) - e) (2^k % m != 0)

/-- An exact quotient x / y (R150); NaN when invalid. -/
def Fp.quot : Fp → Fp → Fp
  | .nan, _ => .nan
  | _, .nan => .nan
  | .inf _, .inf _ => .nan
  | .inf a, .fin b _ _ => .inf (a != b)
  | .fin a _ _, .inf b => .fin (a != b) 0 0
  | .fin a m e, .fin b n f =>
    if n = 0 then (if m = 0 then .nan else .inf (a != b))
    else
      let k := Nat.log2 n + 80
      sticky (a != b) (m * 2^k / n) (e - f - (k : Int)) (m * 2^k % n != 0)

/-- One step of the integer square root: `r` gains bit `2^k` when its square stays within `n`. -/
def isqrtBit (n r k : Nat) : Nat := if (r + 2^k) * (r + 2^k) ≤ n then r + 2^k else r

/-- Integer square root, by bits from 2^(k-1) down. -/
def isqrtFrom (n : Nat) : Nat → Nat → Nat
  | 0, r => r
  | k + 1, r => isqrtFrom n k (isqrtBit n r k)

/-- Integer square root. -/
def isqrt (n : Nat) : Nat := isqrtFrom n (Nat.log2 n / 2 + 1) 0

/-- √x of a finite positive value. -/
def rootFin (m : Nat) (e : Int) : Fp :=
  let up : Nat := 160 + (e % 2).toNat
  let n := m * 2^up
  let r := isqrt n
  sticky false r ((e - up) / 2) (r * r != n)

/-- √x (R353). -/
def Fp.sqrt : Fp → Fp
  | .nan => .nan
  | .inf n => if n then .nan else .inf false
  | .fin n m e => if m = 0 then .fin n 0 0 else if n then .nan else rootFin m e

/-- 1 / √x (R353). -/
def Fp.rsqrt : Fp → Fp
  | .nan => .nan
  | .inf n => if n then .nan else .fin false 0 0
  | .fin n m e =>
    if m = 0 then .inf n
    else if n then .nan
    else
      -- 1/√(m 2^e) = √(2^k / m) 2^(−(k+e)/2), with k + e even
      let k : Nat := 2 * Nat.log2 m + 200 + (e % 2).toNat
      let q := 2^k / m
      let r := isqrt q
      sticky false r (-((k : Int) + e) / 2) (r * r != q || 2^k % m != 0)

/-- Bits of the fixed-point numbers below. -/
def fixBits : Nat := 200
/-- 1 in fixed point. -/
def fix1 : Int := 2^200
/-- π in fixed point. -/
def fixPi : Int := 5048344754617993871973410141242436836214643421488662971535368
/-- ln 2 in fixed point. -/
def fixLn2 : Int := 1113844574712631719546256151097547306333272293549090750737802

/-- Product in fixed point. -/
def fmulx (a b : Int) : Int := a * b / fix1

/-- Σ of the terms t_k, t_(k+1) = t_k × x / d(k), `n` of them. -/
def fixSeries (x : Int) (d : Nat → Int) : Nat → Nat → Int → Int
  | 0, _, _ => 0
  | n + 1, k, t => t + fixSeries x d n (k + 1) (fmulx t x / d k)

/-- e^x in fixed point, for 0 ≤ x < 1. -/
def fixExp (x : Int) : Int := fixSeries x (fun k => k + 1) 60 0 fix1

/-- sin(√t) / √t in fixed point, for 0 ≤ t < 3. -/
def fixSinc (t : Int) : Int := fixSeries (-t) (fun k => (2 * k + 2) * (2 * k + 3)) 60 0 fix1

/-- Σ z^(2k+1) / (2k+1), `n` terms, from the power `p` = z^(2k+1); `w` = z². -/
def fixAtanh (w : Int) : Nat → Nat → Int → Int
  | 0, _, _ => 0
  | n + 1, k, p => p / (2 * k + 1) + fixAtanh w n (k + 1) (fmulx p w)

/-- ln x in fixed point, for 1 ≤ x < 2. -/
def fixLn (x : Int) : Int :=
  let z := (x - fix1) * fix1 / (x + fix1)
  2 * fixAtanh (fmulx z z) 80 0 z

/-- A non-negative dyadic in fixed point. -/
def toFix (m : Nat) (e : Int) : Int :=
  if 0 ≤ e + 200 then m * 2^((e + 200).toNat) else m / 2^((-e - 200).toNat)

/-- A fixed-point result that is not exact. -/
def ofFix (neg : Bool) (x : Int) : Fp := sticky neg x.toNat (-200) true

/-- sin(π r) for a dyadic r = m × 2^e with 0 < r ≤ 1/2. -/
def sinPiQuarter (neg : Bool) (m : Nat) (e : Int) : Fp :=
  if m * 2 = 2^((-e).toNat) && e < 0 then .fin neg 1 0
  else
    let x := fmulx fixPi (toFix m e)
    let c := fmulx fixPi (fixSinc (fmulx x x))
    sticky neg (m * c.toNat) (e - 200) true

/-- m × 2^e modulo 2, as a multiple of 2^(−p). -/
def mod2 (m : Nat) (e : Int) (p : Nat) : Nat :=
  if 0 ≤ e + p then m * 2^((e + p).toNat) % 2^(p + 1) else 0

/-- sin(π x) (R353). -/
def Fp.sinpi : Fp → Fp
  | .nan => .nan
  | .inf _ => .nan
  | .fin n m e =>
    let p := (-e).toNat
    let r := mod2 m e p
    let neg := n != decide (2^p < r)
    let r := r % 2^p
    if r = 0 then .fin n 0 0
    else sinPiQuarter neg (if 2^p < 2 * r then 2^p - r else r) (-(p : Int))

/-- cos(π x) (R353). -/
def Fp.cospi : Fp → Fp
  | .nan => .nan
  | .inf _ => .nan
  | .fin _ m e =>
    let p := (-e).toNat + 1
    let r := mod2 m e p
    let r := if 2^p < r then 2^(p + 1) - r else r
    let h := 2^(p - 1)
    if r = h then .fin false 0 0
    else if r < h then sinPiQuarter false (h - r) (-(p : Int)) else sinPiQuarter true (r - h) (-(p : Int))

/-- 2^x (R353). -/
def Fp.exp2 : Fp → Fp
  | .nan => .nan
  | .inf n => if n then .fin false 0 0 else .inf false
  | .fin n m e =>
    if m = 0 then .fin false 1 0
    else if 10 ≤ Nat.log2 m + e then .fin false 1 (if n then -1024 else 1024)
    else
      let x := toFix m e
      let x := if n then -x else x
      let k := x / fix1
      let f := x % fix1
      if f = 0 then .fin false 1 k
      else match ofFix false (fixExp (fmulx f fixLn2)) with
        | .fin s a b => .fin s a (b + k)
        | y => y

/-- log2 x (R353). -/
def Fp.log2 : Fp → Fp
  | .nan => .nan
  | .inf n => if n then .nan else .inf false
  | .fin n m e =>
    if m = 0 then .inf true
    else if n then .nan
    else
      let lg := Nat.log2 m
      let k : Int := lg + e
      if m = 2^lg then ofInt k
      else
        let y := k * fix1 + fixLn (toFix m (-(lg : Int))) * fix1 / fixLn2
        if y < 0 then ofFix true (-y) else ofFix false y

/-- tanh x (R353). -/
def Fp.tanh : Fp → Fp
  | .nan => .nan
  | .inf n => .fin n 1 0
  | .fin n m e =>
    if m = 0 then .fin n 0 0
    else if Nat.log2 m + e < -13 then .fin n m e      -- a − a³/3 rounds to a
    else if 4 ≤ Nat.log2 m + e then .fin n 1 0        -- 1 − 2e^(−2a) rounds to 1
    else
      let y := 2 * toFix m e
      let k := y / fixLn2
      let w := fixExp (y - k * fixLn2) * 2^k.toNat
      ofFix n ((w - fix1) * fix1 / (w + fix1))

/-! ### Generator (R295 to R297) -/

/-- `rnd_step` (R296). -/
def rndStep (x : W32) : W32 :=
  let x := x ^^^ (x <<< 13)
  let x := x ^^^ (x >>> 17)
  x ^^^ (x <<< 5)

/-- `rseed` at thread index `i` (R296). -/
def rseed (s : W32) (i : Nat) : W32 :=
  let x := s ^^^ (0x9E3779B9 * BitVec.ofNat 32 (i + 1))
  if x = 0 then 1 else x

/-! ### Sums of fixed shape -/

/-- round_rn_fp32(a + b) on FP32 encodings. -/
def addRn (a b : Nat) : Nat := Fmt.f32.sum .rn false [Fmt.f32.unpack a, Fmt.f32.unpack b]

/-- The pairwise tree of R301 over exact values; each addition rounds to FP32. -/
def treeStep : List Fp → List Fp
  | a :: b :: t => Fmt.f32.unpack (Fmt.f32.sum .rn false [a, b]) :: treeStep t
  | l => l

/-- `n` levels of the tree. -/
def treeSum : Nat → List Fp → Fp
  | 0, l => l.headD (.fin false 0 0)
  | n + 1, l => treeSum n (treeStep l)

/-- The tree of `fredux.sum` over the lanes (R303), `w` wide, from node `i`. -/
def reduxTree (x : Nat → Nat) (w : Nat) : Nat → Nat → Nat
  | 0, i => x i
  | n + 1, i =>
    let v := x i
    let v := if 2 * i + 1 < w then addRn v (reduxTree x w n (2 * i + 1)) else v
    if 2 * i + 2 < w then addRn v (reduxTree x w n (2 * i + 2)) else v

/-- The E8M0 scale of values (R300) for a format with exponent `emax` of its largest value. -/
def mxScale (emax : Int) (xs : List Fp) : Nat :=
  if xs.any (fun x => match x with | .fin _ _ _ => false | _ => true) then 0xFF
  else
    match xs.filterMap (fun x => match x with | .fin _ m e => if m = 0 then none else some (Nat.log2 m + e) | _ => none) with
    | [] => 0
    | a :: t =>
      let e := t.foldl (fun a b => if a < b then b else a) a - emax
      ((if e < -127 then -127 else if 127 < e then 127 else e) + 127).toNat

end Sys2Proof.Machine
end

