-- ==== Sys2Proof/Machine/Memory.lean ====
section
/-!
DEFINITION. Physical memory: one list of (address, byte) pairs in canonical form, and the physical address map.
-/
namespace Sys2Proof.Machine

/-- The byte at an address; an unlisted address reads 0 (notes/assumptions/1). -/
def memGet : List Host.Cell → Nat → Byte
  | [], _ => 0
  | (j, v) :: t, a => if j = a then v else memGet t a

/-- `m` with byte `v` at `a`, in canonical form: writing 0 removes the entry. -/
def memSet : List Host.Cell → Nat → Byte → List Host.Cell
  | [], a, v => if v = 0 then [] else [(a, v)]
  | (j, w) :: t, a, v =>
    if a < j then (if v = 0 then (j, w) :: t else (a, v) :: (j, w) :: t)
    else if a = j then (if v = 0 then t else (a, v) :: t)
    else (j, w) :: memSet t a v

/-- The canonical form above a bound: addresses strictly rising, no zero byte listed. -/
def memWfFrom : Option Nat → List Host.Cell → Bool
  | _, [] => true
  | lo, (a, v) :: t => (match lo with | none => true | some b => decide (b < a)) && v != 0 && memWfFrom (some a) t

/-- The canonical form of memory. -/
def Memory.wf (m : List Host.Cell) : Bool := memWfFrom none m

/-- The `n` bytes from `a`. -/
def memRead (m : List Host.Cell) : Nat → Nat → List Byte
  | _, 0 => []
  | a, n + 1 => memGet m a :: memRead m (a + 1) n

/-- `m` with the bytes of a list from `a` on. -/
def memWrite (m : List Host.Cell) : Nat → List Byte → List Host.Cell
  | _, [] => m
  | a, b :: t => memWrite (memSet m a b) (a + 1) t

/-- Physical address of tensor byte `o` of rank `r` (R26, R27). -/
def tensorPhys (r o : Nat) : Nat := 2^60 + r * 2^48 + o

/-- Physical address of byte `o` of the unified store of core `c` (256 × die + %core) (R178). -/
def storePhys (c o : Nat) : Nat := 2^62 + c * 2^20 + o

/-- A physical address of the HBM node or capacity node of some rank. -/
def isTensor (a : Nat) : Bool := decide (2^60 ≤ a) && decide (a < 2^61)

/-- A physical address of a unified store. -/
def isStore (a : Nat) : Bool := decide (2^62 ≤ a)

/-- The 64 B line of a physical address (R184). -/
def lineOf (a : Nat) : Nat := a / 64 * 64

/-- Node offsets of R27. -/
def inHbm (o : Nat) : Bool := decide (o < 0xC000000000)
/-- Capacity node, the whole of it (R27). -/
def inCap (o : Nat) : Bool := decide (0x100000000000 ≤ o) && decide (o < 0x11C000000000)

/-- R22: capacity segments 820 to 823 of rank 0 in a pod of odd size hold the second mirror region. A pod of size 1, which runs
without a mirror, is taken to have none (DESIGN CHOICE, log entry 101). -/
def inSecondMirror (rank podsize o : Nat) : Bool :=
  rank == 0 && podsize % 2 == 1 && podsize != 1 && decide (0x11A000000000 ≤ o) && decide (o < 0x11C000000000)

/-- The segment of a node offset (R237). -/
def segOf (o : Nat) : Option Nat :=
  if inHbm o then some (o / 2^30) else if inCap o then some (768 + (o - 0x100000000000) / 2^35) else none

/-- The die of an HBM segment (R237). -/
def segDie (s : Nat) : Nat := s / 96

/-- The rank that mirrors a package's control home (R21, R22); none in a pod of size 1. -/
def mirrorOf (rank podsize : Nat) : Option Nat :=
  if podsize ≤ 1 then none
  else
    let p := if rank % 2 = 0 then rank + 1 else rank - 1
    some (if p < podsize then p else 0)

/-- The home rank of a control physical address (R221). -/
def homeRank (a : Nat) : Nat := a / 2^37 % 64

/-! ### Tables of the state -/

/-- Context `c`; one that is not listed has its reset registers. -/
def State.ctx (s : State) (c : Nat) : Context := tabGet s.ctxs Context.init c
/-- `s` with context `c` changed by `f`. -/
def State.modCtx (s : State) (c : Nat) (f : Context → Context) : State := { s with ctxs := tabSet s.ctxs c (f (s.ctx c)) }
/-- Queue `q`. -/
def State.queue (s : State) (q : Nat) : Queue := tabGet s.queues Queue.init q
/-- `s` with queue `q` changed by `f`. -/
def State.modQueue (s : State) (q : Nat) (f : Queue → Queue) : State :=
  { s with queues := tabSet s.queues q (f (s.queue q)) }
/-- Kernel `k`, if there is one. -/
def State.kernel? (s : State) (k : Nat) : Option Kernel := tabFind? s.kernels k
/-- `s` with kernel `k` changed by `f`. -/
def State.modKernel (s : State) (k : Nat) (f : Kernel → Kernel) : State :=
  match s.kernel? k with
  | none => s
  | some x => { s with kernels := tabSet s.kernels k (f x) }
/-- Workgroup `w`, if there is one. -/
def State.wg? (s : State) (w : Nat) : Option Workgroup := tabFind? s.wgs w
/-- `s` with workgroup `w` changed by `f`. -/
def State.modWg (s : State) (w : Nat) (f : Workgroup → Workgroup) : State :=
  match s.wg? w with
  | none => s
  | some x => { s with wgs := tabSet s.wgs w (f x) }
/-- Group `g`, if there is one. -/
def State.group? (s : State) (g : Nat) : Option Group := tabFind? s.groups g
/-- `s` with group `g` changed by `f`. -/
def State.modGroup (s : State) (g : Nat) (f : Group → Group) : State :=
  match s.group? g with
  | none => s
  | some x => { s with groups := tabSet s.groups g (f x) }
/-- The control thread of workgroup `w`, if there is one. -/
def State.ct? (s : State) (w : Nat) : Option CThread := tabFind? s.cts w
/-- `s` with the control thread of workgroup `w` changed by `f`. -/
def State.modCt (s : State) (w : Nat) (f : CThread → CThread) : State :=
  match s.ct? w with
  | none => s
  | some x => { s with cts := tabSet s.cts w (f x) }
/-- Segment `g` of the tide map. -/
def State.seg (s : State) (g : Nat) : Segment := tabGet s.mb.segs Segment.init g
/-- `s` with segment `g` changed by `f`. -/
def State.modSeg (s : State) (g : Nat) (f : Segment → Segment) : State :=
  { s with mb := { s.mb with segs := tabSet s.mb.segs g (f (s.seg g)) } }
/-- Tile-table entry `i` of die `d`. -/
def State.tile (s : State) (d i : Nat) : TileEntry := tabGet s.tiles TileEntry.init (4096 * d + i)
/-- `s` with tile-table entry `i` of die `d` changed by `f`. -/
def State.modTile (s : State) (d i : Nat) (f : TileEntry → TileEntry) : State :=
  { s with tiles := tabSet s.tiles (4096 * d + i) (f (s.tile d i)) }
/-- Physical accumulator tile `i` of core `c`. -/
def State.acc (s : State) (c i : Nat) : AccTile := tabGet s.accs AccTile.init (32 * c + i)
/-- `s` with physical tile `i` of core `c` changed by `f`. -/
def State.modAcc (s : State) (c i : Nat) (f : AccTile → AccTile) : State :=
  { s with accs := tabSet s.accs (32 * c + i) (f (s.acc c i)) }
/-- The live descriptor `h` of context `c`, if there is one (R135). -/
def State.sg? (s : State) (c h : Nat) : Option SgDesc := tabFind? s.sgs (4096 * c + h)
/-- `s` with live descriptor `h` of context `c` set. -/
def State.setSg (s : State) (c h : Nat) (d : SgDesc) : State := { s with sgs := tabSet s.sgs (4096 * c + h) d }

/-- The package is Ready (R508: before that every command is refused). -/
def State.isReady (s : State) : Bool := s.mgmt.st == .ready

/-- A new operation number. -/
def State.takeId (s : State) : Nat × State := (s.nextId, { s with nextId := s.nextId + 1 })

/-- The next free value: a value that nothing constrains. -/
def State.free (s : State) : W64 × State := (Config.freeValue s.fresh, { s with fresh := s.fresh + 1 })

/-- One clk passes with nothing else (a stall; R317 %clk). -/
def State.tick (s : State) : State := { s with clk := s.clk + 1 }

/-- The strand that an agent issues for: of a group, or the one-lane strand of a control thread. -/
def State.unit? (s : State) : Agent → Option Strand
  | .strand g k => (s.group? g).bind fun x => x.strands[k]?
  | .ctl w => (s.ct? w).map fun c => c.unit

/-- `s` with the strand of an agent changed by `f`. -/
def State.modUnit (s : State) (ag : Agent) (f : Strand → Strand) : State :=
  match ag with
  | .strand g k => s.modGroup g fun x => { x with strands := modAt x.strands k f }
  | .ctl w => s.modCt w fun c => { c with unit := f c.unit }

/-- The workgroup of an agent. -/
def State.wgOf (s : State) : Agent → Option Nat
  | .strand g _ => (s.group? g).map fun x => x.wg
  | .ctl w => some w

/-- The kernel of an agent. -/
def State.kidOf (s : State) (ag : Agent) : Option Nat := (s.wgOf ag).bind fun w => (s.wg? w).map fun x => x.kernel

/-- The core of a workgroup's relative core `r`, as 256 × die + %core (R16, R92). -/
def Workgroup.coreAt (w : Workgroup) (r : Nat) : Nat := 256 * w.die + 4 * w.quad + w.first + r

/-- The core on which an agent issues: a strand's own, a control thread's relative core 0 (R317). -/
def State.coreOf (s : State) : Agent → Nat
  | .strand g _ => ((s.group? g).map fun x => x.core).getD 0
  | .ctl w => ((s.wg? w).map fun x => x.coreAt 0).getD 0

/-- The bytes of a group's register window as store bytes: byte `o` of the window (R126, R181). -/
def winByte (win : Tab W32) (o : Nat) : Byte := BitVec.ofNat 8 ((tabGet win 0 (o / 4)).toNat / 2^(8 * (o % 4)))

/-- The register window with byte `o` set. -/
def winSetByte (win : Tab W32) (o : Nat) (b : Byte) : Tab W32 :=
  let w := (tabGet win 0 (o / 4)).toNat
  let k := 2^(8 * (o % 4))
  tabSet win (o / 4) (BitVec.ofNat 32 (w - (w / k % 256) * k + b.toNat * k))

/-- The bytes from window offset `o`. -/
def winRead (win : Tab W32) : Nat → Nat → List Byte
  | _, 0 => []
  | o, n + 1 => winByte win o :: winRead win (o + 1) n

/-- The register window with bytes from `o` on set. -/
def winWrite (win : Tab W32) : Nat → List Byte → Tab W32
  | _, [] => win
  | o, b :: t => winWrite (winSetByte win o b) (o + 1) t

/-- Memory with the `n` bytes at `b` replaced by those at `a`. -/
def memMove (m : List Host.Cell) (a b n : Nat) : List Host.Cell :=
  m.filter (fun c => decide (c.1 < b))
    ++ (m.filter fun c => decide (a ≤ c.1) && decide (c.1 < a + n)).map (fun c => (c.1 - a + b, c.2))
    ++ m.filter fun c => decide (b + n ≤ c.1)

end Sys2Proof.Machine
end

