-- ==== Sys2Proof/Machine/Paths.lean ====
section
/-!
DEFINITION. Paths of a strand (R111 to R118), latches (R324), and the release of waiting lanes. A control thread is a
strand of one lane.
-/
namespace Sys2Proof.Machine

/-- The lane takes part in a path: live, not waiting, not waiting for its handler (R112, R47). -/
def Lane.runs (l : Lane) : Bool := l.live && l.wait.isNone && l.parked.isNone

/-- Two lanes stand at one place (R112). -/
def Lane.same (a b : Lane) : Bool :=
  a.pc == b.pc && a.cwi == b.cwi && a.inHandler == b.inHandler && a.inClause == b.inClause

/-- Lane `k` of a strand; a lane that is not there is not live. -/
def Strand.lane (u : Strand) (k : Nat) : Lane := nth u.lanes k Lane.init

/-- `u` with the lanes of a mask changed by `f`. -/
def Strand.mapLanes (u : Strand) (p : Nat → Bool) (f : Nat → Lane → Lane) : Strand :=
  { u with lanes := u.lanes.mapIdx fun k l => if p k then f k l else l }

/-- The lanes that form one path with lane `k` (R112). -/
def Strand.pathOf (u : Strand) (k : Nat) : BitVec 8 :=
  maskOf fun j => (u.lane j).runs && (u.lane j).same (u.lane k)

/-- The lanes of the current path that still run. -/
def Strand.path (u : Strand) : BitVec 8 := maskOf fun j => inMask u.cur j && (u.lane j).runs

/-- Order of paths from address `p` on: ascending PC, cyclically, then the clause word index, then lanes outside a
handler first (R113; the last two are DEDUCED, notes/assumptions/7). -/
def pathKey (p : Nat) (l : Lane) : Nat × Nat × Nat × Nat :=
  (if p < l.pc then 0 else 1, l.pc, l.cwi, if l.inHandler then 1 else 0)

/-- Lexicographic order of path keys. -/
def keyLt (a b : Nat × Nat × Nat × Nat) : Bool :=
  decide (a.1 < b.1) || (a.1 == b.1 && (decide (a.2.1 < b.2.1) || (a.2.1 == b.2.1 &&
    (decide (a.2.2.1 < b.2.2.1) || (a.2.2.1 == b.2.2.1 && decide (a.2.2.2 < b.2.2.2))))))

/-- The lane among `ks` with the least key. -/
def leastBy (key : Nat → Nat × Nat × Nat × Nat) : List Nat → Option Nat
  | [] => none
  | k :: t => match leastBy key t with
    | none => some k
    | some j => if keyLt (key j) (key k) then some j else some k

/-- The current path after a change. A split leaves the part with the lowest PC current (R113), and lanes that have come to the
place of the current path join it (R112). When no lane of the current path runs, the next path in cyclic PC order from `p` takes the
issue, and the swash count starts again (R117); a path that waits while no other can issue is still the current one. A split of the current
path, and lanes that join it, are no change of the current path: the count goes on (DESIGN CHOICE, log entry 138). -/
def Strand.settle (u : Strand) (p : Nat) : Strand :=
  match leastBy (fun k => (0, (u.lane k).pc, (u.lane k).cwi, if (u.lane k).inHandler then 1 else 0)) (lanesOf u.path) with
  | some k => { u with cur := u.pathOf k }
  | none =>
    match leastBy (fun k => pathKey p (u.lane k)) ((List.range 8).filter fun k => (u.lane k).runs) with
    | some k => { u with cur := u.pathOf k, swash := 0, gave := p, stall := none }
    | none => { u with gave := p, stall := none }

/-- Lanes have parked: those that have not stay the current path, and a path that has parked as a whole is no longer current (R113). -/
def Strand.parkPath (u : Strand) : Strand := { u with cur := u.path }

/-- The path that follows when the current path yields (R117, R381): the next in cyclic PC order, itself when alone. -/
def Strand.yieldPath (u : Strand) : Strand :=
  match lanesOf u.path with
  | [] => u
  | k :: _ =>
    let others := (List.range 8).filter fun j => (u.lane j).runs && !inMask u.cur j
    match leastBy (fun j => pathKey (u.lane k).pc (u.lane j)) others with
    | none => u
    | some j => { u with cur := u.pathOf j, swash := 0 }

/-- The latches after a word whose result at the lane is `r` (R324). -/
def Lane.shift (l : Lane) (r : W64) : Lane := { l with lat3 := l.lat2, lat2 := l.lat1, lat1 := l.lat0, lat0 := r, owed := none :: l.owed.take 3 }

/-- Where a word that transfers no control continues (R307, R311): the next word, or the next clause header. -/
def Clause.next (c : Clause) (l : Lane) : Nat × Bool :=
  if l.cwi + 1 < c.words.length then (l.pc + 8, true)
  else (c.hdr + 8 * (1 + c.words.length + c.lits.length / 2), false)

/-- The lane at its continuation: one that leaves the first clause of its handler has executed it (R47). -/
def Lane.goto (l : Lane) (to_ : Nat × Bool) : Lane :=
  { l with pc := to_.1, inClause := to_.2, cwi := if to_.2 then l.cwi + 1 else 0, opening := l.opening && to_.2 }

/-- The lane starts to wait, its word not yet executed: it continues at `to_` (R113, R170). -/
def Lane.hold (l : Lane) (w : Wait) (to_ : Nat × Bool) : Lane := { l with wait := some w, npc := to_.1, nin := to_.2 }

/-- The lane's wait ends with result `r` in lat0 (R324). -/
def Lane.resume (l : Lane) (r : W64) : Lane := ({ l with wait := none }.shift r).goto (l.npc, l.nin)

/-- The lane's wait is withdrawn: the word counts as not executed (R54, R170, R369). -/
def Lane.withdraw (l : Lane) : Lane := { l with wait := none }

/-- A predicate of a lane. -/
def Lane.pred (l : Lane) (p : Nat) : Bool := l.preds.getLsbD p

/-- The lane with predicate `p` set to `b`. -/
def Lane.setPred (l : Lane) (p : Nat) (b : Bool) : Lane :=
  { l with preds := if b then l.preds ||| BitVec.ofNat 96 (2^p) else l.preds &&& ~~~(BitVec.ofNat 96 (2^p)) }

/-- Lane `l` of strand `k` was active in the group-wide instruction that its group has pending. -/
def Group.arrivedAt (g : Group) (k l : Nat) : Bool :=
  match g.gw with
  | some w => w.arrived.any fun a => a.1 == k && inMask a.2 l
  | none => false

/-- The live lanes of a strand. -/
def Strand.liveMask (u : Strand) : BitVec 8 := maskOf fun k => (u.lane k).live

/-- A strand is live while any of its lanes is (R107). -/
def Strand.live (u : Strand) : Bool := u.liveMask != 0

/-- The rejoin masks whose lanes have all arrived or exited (R115). -/
def Strand.rejoinReady (u : Strand) (j : Nat) : Bool :=
  let m := nth u.jmask j 0
  m != 0 && (lanesOf m).all fun k => !(u.lane k).live || (u.lane k).wait == some (.rejoin j)

/-- Releases one rejoin mask, if it is ready (R115): the waiting lanes go on at the word after their `rejoin`, the mask is
cleared and U becomes the released lanes. Lanes that wait at a `rejoin` of the register but have left the mask, which another path's
`enrol` has replaced, wait on (DESIGN CHOICE, log entry 111). -/
def Strand.rejoinRelease (u : Strand) (j : Nat) : Strand :=
  if u.rejoinReady j then
    let m := maskOf fun k => inMask (nth u.jmask j 0) k && (u.lane k).live
    let u := u.mapLanes (inMask m) fun _ l => l.resume 0
    { u with jmask := modAt u.jmask j fun _ => 0, u := if m = 0 then u.u else m }
  else u

/-- Every rejoin mask that has become ready is released. -/
def Strand.rejoinAll (u : Strand) : Strand := (List.range 8).foldl Strand.rejoinRelease u

/-- The lanes of `m` leave the strand (R114, R380): they leave every rejoin mask and U. -/
def Strand.exitLanes (u : Strand) (m : BitVec 8) : Strand :=
  let u := u.mapLanes (inMask m) fun _ l => { l with live := false, wait := none, parked := none }
  { u with jmask := u.jmask.map fun x => x &&& ~~~m, u := u.u &&& ~~~m }

/-- Releases the lanes that wait in a way `w` selects, lane k with `r k` in lat0. -/
def Strand.release (u : Strand) (w : Wait → Bool) (r : Nat → W64) : Strand :=
  let u' := u.mapLanes (fun k => match (u.lane k).wait with | some x => w x | none => false) fun k l => l.resume (r k)
  u'.settle u'.gave

end Sys2Proof.Machine
end

