-- ==== Sys2Proof/Machine/Translate.lean ====
section
/-!
DEFINITION. Addresses: the spaces of R26 to R29, page-table walks and TLBs (R218 to R225), classification (R192), the tide map
as an access sees it (R240, R241), integrity keys (R247, R248), logical time (R188, R189) and monitors (R421).
-/
namespace Sys2Proof.Machine

/-- Where a virtual address lies, once R26 to R29 admit it. -/
inductive Space where
  | ctl                      -- control space
  | block                    -- register blocks (R96)
  | own (o : Nat)            -- own rank's range, by node offset
  | other (r o : Nat)        -- another rank's range
  | window (sel peer o : Nat)
  deriving DecidableEq, Repr

/-- First control address of the register blocks (R96). -/
def blockBase : Nat := 0xFFF000000000

/-- The space of a virtual address; none where R29 gives ADDR_TAG whatever the access. -/
def spaceOf (f : Fabric) (va : Nat) : Option Space :=
  match va / 2^62 with
  | 0 => if va < 2^48 then some (if blockBase ≤ va then .block else .ctl) else none
  | 1 => none
  | 2 =>
    let r := bits va 61 48
    let o := va % 2^48
    if r < f.podsize && (inHbm o || inCap o) && !(inSecondMirror r f.podsize o) then
      some (if r = f.rank then .own o else .other r o)
    else none
  | _ =>
    let sel := bits va 23 22
    let peer := bits va 21 20
    if bits va 61 24 = 0 && (sel == 1 || (sel == 0 && peer == 0)) then some (.window sel peer (va % 2^20)) else none

/-! ### Page tables -/

/-- A leaf a walk has found: where the entry lies, its value, the bytes it translates and its page size. -/
structure Leaf where
  at_ : Nat
  pte : Nat
  span : Nat
  psize : Nat
  deriving DecidableEq, Repr

/-- Page-table entry fields (R220). -/
def pteV (e : Nat) : Bool := bitAt e 63
def pteLeaf (e : Nat) : Bool := bitAt e 62
def pteRd (e : Nat) : Bool := bitAt e 61
def pteWr (e : Nat) : Bool := bitAt e 60
def pteEx (e : Nat) : Bool := bitAt e 59
def pteDual (e : Nat) : Bool := bitAt e 58
def pteS64 (e : Nat) : Bool := bitAt e 57
def pteNr (e : Nat) : Bool := bitAt e 56
def pteState (e : Nat) : Nat := bits e 54 52
def pteFrame (e : Nat) : Nat := bits e 47 12 * 4096
def pteRepset (e : Nat) : Nat := bits e 7 0

/-- An entry with its PSTATE set (R220, R223). -/
def pteSetState (e st : Nat) : Nat := e - pteState e * 2^52 + st * 2^52
/-- An entry with one bit set to `b`. -/
def pteSetBit (e k : Nat) (b : Bool) : Nat := (if bitAt e k then e - 2^k else e) + (if b then 2^k else 0)

/-- Bytes that a leaf at a level translates (R221). -/
def levelSpan : Nat → Nat
  | 1 => 2^30
  | 2 => 2^21
  | _ => 2^12

/-- An entry is malformed at its level (R221); `va` says in which node a tensor frame must lie. The second mirror region lies in
no node (R22), and neither do the segments of a retired die, which are never used (R508; DEDUCED, log entry 155). -/
def pteMalformed (fb : Fabric) (lvl va e : Nat) (leaf : Bool) (psize : Nat) : Bool :=
  let f := pteFrame e
  let tensor := va / 2^62 == 2
  let o := va % 2^48
  let inNode (x : Nat) : Bool := if inHbm o then inHbm x && !fb.retired.getLsbD (segDie (x / 2^30)) else inCap x && !(inSecondMirror fb.rank fb.podsize x)
  if leaf then
    lvl == 0 || f % psize != 0 ||
      (if tensor then !inNode f || !inNode (f + psize - 1) || (pteDual e && !inNode (f + 2 * psize - 1)) else decide (2^43 ≤ f))
  else decide (2^43 ≤ f)

/-- A walk from a table (R219): the leaf, resident or not, or the kind of fault of R229. -/
def walkFrom (fb : Fabric) (m : List Host.Cell) (va : Nat) : Nat → Nat → Nat → Except Nat Leaf
  | 0, _, _ => .error 3
  | n + 1, lvl, base =>
    let pa := base + 8 * (va % 2^48 / 2^(39 - 9 * lvl) % 512)
    let e := leNat (memRead m pa 8)
    let leaf := lvl == 3 || pteLeaf e
    let psize := if lvl == 3 && pteS64 e then 2^16 else levelSpan lvl
    if !pteV e then .error 1
    else if pteMalformed fb lvl va e leaf psize then .error 3
    else if leaf then .ok ⟨pa, e, levelSpan lvl, psize⟩
    else walkFrom fb m va n (lvl + 1) (pteFrame e)

/-- The entries that a walk from a table reads (R219). -/
def walkReads (fb : Fabric) (m : List Host.Cell) (va : Nat) : Nat → Nat → Nat → List Nat
  | 0, _, _ => []
  | n + 1, lvl, base =>
    let pa := base + 8 * (va % 2^48 / 2^(39 - 9 * lvl) % 512)
    let e := leNat (memRead m pa 8)
    pa :: (if lvl == 3 || pteLeaf e || !pteV e || pteMalformed fb lvl va e false 4096 then [] else walkReads fb m va n (lvl + 1) (pteFrame e))

/-- The valid entries of a table: address and value. V is bit 7 of an entry's last byte (R220). -/
def validEntries (m : List Host.Cell) (base : Nat) : List (Nat × Nat) :=
  (m.filter fun c => decide (base ≤ c.1) && decide (c.1 < base + 4096) && c.1 % 8 == 7 && c.2.getLsbD 7).map fun c =>
    (c.1 - 7, leNat (memRead m (c.1 - 7) 8))

/-- The leaves under a table that translates addresses from `va` on, each with its first address (R219, R221). -/
def leavesUnder (fb : Fabric) (m : List Host.Cell) : Nat → Nat → Nat → Nat → List (Nat × Leaf)
  | 0, _, _, _ => []
  | n + 1, lvl, va, base =>
    (validEntries m base).flatMap fun (a, e) =>
      let va := va + (a - base) / 8 * 2^(39 - 9 * lvl)
      let leaf := lvl == 3 || pteLeaf e
      let psize := if lvl == 3 && pteS64 e then 2^16 else levelSpan lvl
      if pteMalformed fb lvl va e leaf psize then []
      else if leaf then [(va, ⟨a, e, levelSpan lvl, psize⟩)]
      else leavesUnder fb m n (lvl + 1) va (pteFrame e)

/-- The leaf of a virtual address in a context's tables, resident or not. -/
def State.leaf (s : State) (cx va : Nat) : Except Nat Leaf :=
  let root := if va / 2^62 = 2 then (s.ctx cx).xroott else (s.ctx cx).xrootc
  walkFrom s.fab s.mem va 4 0 root.toNat

/-- The directory of the home of a control-space line is being rebuilt after a loss (R266). -/
def State.rebuilding (s : State) (a : Nat) : Bool := decide (a < 2^43) && s.fab.rebuilding.contains (homeRank a)

/-- The walk of an address meets an entry whose home's directory is being rebuilt: it stalls (R266). -/
def State.walkHeld (s : State) (cx va : Nat) : Bool :=
  !s.fab.rebuilding.isEmpty && (walkReads s.fab s.mem va 4 0
    (if va / 2^62 = 2 then (s.ctx cx).xroott else (s.ctx cx).xrootc).toNat).any s.rebuilding

/-- The bytes that a fault of the walk of an address stands for (R229): those of the page of a malformed leaf, or 4 KiB where no leaf says a size. -/
def State.faultSpan (s : State) (cx va : Nat) : Nat :=
  let ps := walkReads s.fab s.mem va 4 0 (if va / 2^62 = 2 then (s.ctx cx).xroott else (s.ctx cx).xrootc).toNat
  let lvl := ps.length - 1
  match ps.getLast? with
  | none => 4096
  | some pa =>
    let e := leNat (memRead s.mem pa 8)
    if !pteV e || !(lvl == 3 || pteLeaf e) then 4096 else if lvl == 3 && pteS64 e then 2^16 else 2^(39 - 9 * lvl)

/-- Every leaf of a context's two trees of tables, with its first address. -/
def State.leaves (s : State) (cx : Nat) : List (Nat × Leaf) :=
  leavesUnder s.fab s.mem 4 0 0 (s.ctx cx).xrootc.toNat
    ++ leavesUnder s.fab s.mem 4 0 (2^63 + s.fab.rank * 2^48) (s.ctx cx).xroott.toNat

/-- The walk of a virtual address in a context's tables (R219): a page that is not resident is the fault of kind 2. -/
def State.walk (s : State) (cx va : Nat) : Except Nat Leaf :=
  match s.leaf cx va with
  | .ok l => if pteNr l.pte then .error 2 else .ok l
  | .error k => .error k

/-- The front selector of the buffer whose view covers an address (R222); a page outside every view has frame 0 as front. -/
def State.frontSel (s : State) (cx va : Nat) : Bool :=
  match s.fronts.find? fun f => f.cx == cx && decide (f.view ≤ va) && decide (va < f.view + f.len) with
  | some f => f.sel
  | none => false

/-- The physical address of a virtual address by an entry: of the front, or of the shadow (R200, R222). -/
def State.physBy (s : State) (cx va pte psize : Nat) (shadow : Bool) : Nat :=
  let second := pteDual pte && (s.frontSel cx va != shadow)
  let o := pteFrame pte + va % psize + (if second then psize else 0)
  if va / 2^62 = 2 then tensorPhys s.fab.rank o else o

/-- The bytes that the leaf itself translates: a 4 KiB part of a 64 KiB page, else the page (R221). -/
def Leaf.base (l : Leaf) (va : Nat) : Nat := va / l.span * l.span

/-- The page of an address by the leaf that translates it (R221). -/
def Leaf.page (l : Leaf) (va : Nat) : Nat := va / l.psize * l.psize

/-- The 4 KiB page of an address. -/
def pageOf (va : Nat) : Nat := va / 4096 * 4096

/-- What the device keeps of a page beyond its entry. -/
def State.page (s : State) (cx vp : Nat) : PageInfo :=
  (s.pages.find? fun p => p.cx == cx && p.vpage == vp).getD ⟨cx, vp, 0, none, none, false, false, [], 0⟩

/-- `s` with what the device keeps of a page set. -/
def State.setPage (s : State) (p : PageInfo) : State :=
  { s with pages := p :: s.pages.filter fun x => !(x.cx == p.cx && x.vpage == p.vpage) }

/-- REPSET of a page (R220): the dies that hold replicas. -/
def PageInfo.repset (p : PageInfo) : Nat := (p.repl.map fun x => 2^x.1).foldl (· + ·) 0

/-- The state of a page with a valid leaf (R231): 1 Mapped, 2 Resident, 3 Leased, 4 Replicated, 5 Moving. -/
def PageInfo.state (p : PageInfo) (l : Leaf) : Nat :=
  if p.moving.isSome then 5 else if !p.repl.isEmpty then 4 else if p.leases ≠ 0 then 3 else if pteNr l.pte then 1 else 2

/-- The state of the page of an address. -/
def State.pageState (s : State) (cx va : Nat) (l : Leaf) : Nat := (s.page cx (l.page va)).state l

/-- The quad of a core (R14, R16). -/
def quadOf (core : Nat) : Nat := core / 256 * 64 + core % 256 / 4

/-- The TLB entry of a unit that translates an address now (R225). -/
def State.tlbHit (s : State) (u cx va : Nat) : Option TlbEntry :=
  s.tlbs.find? fun e => e.unit == u && e.cx == cx && decide (e.vpage ≤ va) && decide (va < e.vpage + e.size)
    && decide (s.dtime.toNat < e.expiry.toNat)

/-- Entries a TLB holds (R19): core, quad, shape walker. -/
def tlbCap (u : Nat) : Nat := if u < 2048 then 96 else if u < 4096 then 4096 else 512

/-- The translation lease of a context (R38): values below 1000 ticks act as 1000. -/
def Context.tleaseTicks (c : Context) : Nat := max c.tlease.toNat 1000

/-- The residency-lease period of a context (R38). -/
def Context.rleaseTicks (c : Context) : Nat := max c.rlease.toNat 10000

/-- A TLB fill (R225): the oldest entry leaves a full TLB (notes/assumptions/6). -/
def State.tlbFill (s : State) (u cx va : Nat) (l : Leaf) : State :=
  let e : TlbEntry :=
    ⟨u, cx, va / l.span * l.span, l.span, BitVec.ofNat 64 l.pte, s.dtime + BitVec.ofNat 64 (s.ctx cx).tleaseTicks⟩
  let rest := s.tlbs.filter fun x => !(x.unit == u && x.cx == cx && x.vpage == e.vpage)
  let mine := rest.filter fun x => x.unit == u
  let rest := if mine.length < tlbCap u then rest else
    match findIdxFrom (fun x => x.unit == u) rest 0 with
    | some (i, _) => rest.eraseIdx i
    | none => rest
  { s with tlbs := rest ++ [e] }

/-- The physical bytes of a frame, or of the two frames of a DUAL page: first address and length. -/
def State.frames (s : State) (va : Nat) (l : Leaf) : Nat × Nat :=
  let n := if pteDual l.pte then 2 * l.psize else l.psize
  (if va / 2^62 = 2 then tensorPhys s.fab.rank (pteFrame l.pte) else pteFrame l.pte, n)

/-! ### Logical time (R188 to R190) -/

/-- Unsigned maximum. -/
def umax64 (a b : W64) : W64 := if a.toNat < b.toNat then b else a

/-- The number of the 64 clk that run now. -/
def State.span (s : State) : W64 := s.clk >>> 6

/-- The program time of a unit: it has risen by one every 64 clk since it was last set (R188, R190). `ptsAt` is the number of the 64 clk up
to which the advance is in `pts`. -/
def State.ptsOf (s : State) (u : Nat) : W64 := tabGet s.pts 0 u + BitVec.ofNat 64 (s.span.toNat - (tabGet s.ptsAt 0 u).toNat)

/-- `s` with the program time of a unit set. -/
def State.setPts (s : State) (u : Nat) (t : W64) : State :=
  { s with pts := tabSet s.pts u t, ptsAt := tabSet s.ptsAt u (umax64 (tabGet s.ptsAt 0 u) s.span) }

/-- The program time of a unit rises to `t`, if it is below it. -/
def State.raisePts (s : State) (u : Nat) (t : W64) : State := s.setPts u (umax64 (s.ptsOf u) t)

/-- The unit whose program time an agent's accesses take (R188): the core of a strand, the quad control core of a control thread. -/
def unitOf (ag : Agent) (core : Nat) : Nat := match ag with | .ctl _ => 2048 + quadOf core | .strand .. => core

/-- The unit of the device's own writes: after the host cores' (DESIGN CHOICE, log entry 114). -/
def devUnit : Nat := 2561

/-- A time at or after every event so far: the largest program time (DESIGN CHOICE, log entry 114). -/
def State.devNow (s : State) : W64 := (s.pts.map Prod.fst).foldl (fun t u => umax64 t (s.ptsOf u)) s.span

/-- An access of a unit to a register block takes its place in the single order (R185): at or after every event so far (DESIGN CHOICE, log
entry 114). -/
def State.blockTime (s : State) (u : Nat) : State := s.raisePts u s.devNow

/-- The time of the last event that touched a whole range in which a byte lies: a publish, a reclassification, a retirement. -/
def State.floorOf (s : State) (x : Nat) : W64 :=
  s.floors.foldl (fun t f => if f.1 ≤ x ∧ x < f.2.1 then umax64 t f.2.2 else t) 0

/-- Logical time of a line (R188). -/
def State.lineTime (s : State) (x : Nat) : LineTime :=
  let t := tabGet s.lines ⟨0, 0⟩ x
  let f := s.floorOf x
  ⟨umax64 t.wts f, umax64 t.rts f⟩

/-- Every line of a range has a write time of at least `t` from here on. -/
def State.setFloor (s : State) (a n : Nat) (t : W64) : State :=
  { s with floors := (a, a + n, t) :: s.floors.filter fun f => !(f.1 == a && f.2.1 == a + n) }

/-- A page becomes Shared (R192): the first core's lines are written back, and the page has that core's time. -/
def State.publicAt (s : State) (a n : Nat) (t : W64) : State :=
  { s with l1 := s.l1.filter fun x => !(x.priv && decide (a ≤ x.line) && decide (x.line < a + n)) }.setFloor a n t

/-- Bytes [a, a + n) change at one point in the single order, by an event of the device (R185, R202, R208): above the lease of every copy
of their lines, and at or after every event so far. The agents' copies of control-space lines are invalidated (R193). -/
def State.homeWrites (s : State) (a n : Nat) : State :=
  let hit := fun (x : Nat) => decide (a < x + 64) && decide (x < a + n)
  let r := s.lines.foldl (fun t e => if hit e.1 then umax64 t e.2.rts else t) (s.floors.foldl (fun t f =>
    if f.1 < a + n ∧ a < f.2.1 then umax64 t f.2.2 else t) 0)
  let t := umax64 s.devNow (r + 1)
  let s := { s with
    l1 := if a < 2^43 then s.l1.filter fun l => !hit l.line else s.l1
    dir := if a < 2^43 then s.dir.filter fun e => !hit (e.1 / 8 * 64) else s.dir }
  (s.setFloor (lineOf a) (lineOf (a + n + 63) - lineOf a) t).setPts devUnit t

/-- The deadline of a request of a class that was issued at a DTIME (R245). -/
def State.dueFrom (s : State) (t : W64) (cls : Nat) : W64 := t + BitVec.ofNat 64 (bits s.mb.dlbudget.toNat (16 * cls + 15) (16 * cls))

/-- The deadline of a request of a class that is issued now. -/
def State.dueIn (s : State) (cls : Nat) : W64 := s.dueFrom s.dtime cls

/-- A request of requester `i` is served: after its deadline it counts in DLMISS (R246). -/
def State.served (s : State) (i : Nat) (due : W64) : State :=
  if due.toNat < s.dtime.toNat then { s with mb := { s.mb with dlmiss := tabSet s.mb.dlmiss i (tabGet s.mb.dlmiss 0 i + 1) } } else s

/-- A request of a class goes to the channel of a physical address (R245). Service order never changes the single order (R246): the access has
its effect at once, and the request is served later. -/
def State.request (s : State) (who cls a : Nat) : State := { s with reqs := s.reqs ++ [⟨who, cls, s.dueIn cls, a⟩] }

/-- A request to a virtual address, if a page maps it. -/
def State.requestAt (s : State) (who cls cx va : Nat) : State :=
  match s.walk cx va with
  | .ok l => s.request who cls (s.physBy cx va l.pte l.psize false)
  | .error _ => s

/-- A request comes before another at a channel (R246): those whose deadline has passed first, earliest first; then by class, and earliest
deadline. -/
def State.reqBefore (s : State) (x y : MemReq) : Bool :=
  let past := fun (r : MemReq) => decide (r.due.toNat < s.dtime.toNat)
  let sooner := decide (x.due.toNat < y.due.toNat)
  match past x, past y with
  | true, true => sooner
  | true, false => true
  | false, true => false
  | false, false => decide (x.cls < y.cls) || (x.cls == y.cls && sooner)

/-- Raw bytes into physical memory. -/
def State.setMem (s : State) (a : Nat) (bs : List Byte) : State := { s with mem := memWrite s.mem a bs }

/-- Classification at a fill (R192): the first filler keeps the page Private, a second makes it Shared, and the first core's lines
of the page lose their private mark. -/
def State.classify (s : State) (cx va filler : Nat) (l : Leaf) : State :=
  let p := s.page cx (l.page va)
  match p.first with
  | none => s.setPage { p with first := some filler }
  | some f =>
    if f = filler || p.shared then s
    else
      let s := s.setPage { p with shared := true }
      let (pa, n) := s.frames va l
      s.publicAt pa n (s.ptsOf f)

/-- The page of an address is Shared (R192). -/
def State.pageShared (s : State) (cx va : Nat) : Bool :=
  match s.walk cx va with
  | .ok l => (s.page cx (l.page va)).shared
  | .error _ => false

/-- Page size of a TLB entry. -/
def TlbEntry.psize (e : TlbEntry) : Nat := if e.size = 4096 && pteS64 e.pte.toNat then 2^16 else e.size

/-- Translation of an address for a filler (R192, R224): through the TLBs `us` in order, then by a walk that fills them. The shape walker
translates the page of the access alone, none ahead of it, where R19 has it translate up to 16 (DESIGN CHOICE, log entry 157). -/
def State.translate (s : State) (us : List Nat) (filler cx va : Nat) : Except Nat Leaf × State :=
  match us.findSome? fun u => s.tlbHit u cx va with
  | some e =>
    let l : Leaf := ⟨0, e.pte.toNat, e.size, e.psize⟩
    (.ok l, s.classify cx va filler l)
  | none =>
    match s.walk cx va with
    | .error k => (.error k, s)
    | .ok l => (.ok l, (us.foldl (fun s u => s.tlbFill u cx va l) s).classify cx va filler l)

/-- The walk of an address that no TLB of `us` translates is a request of the core whose access it is for (R246). -/
def State.walkRequest (s : State) (who : Nat) (us : List Nat) (cx va : Nat) : State :=
  if (us.findSome? fun u => s.tlbHit u cx va).isSome then s
  else match s.walk cx va with
    | .ok l => s.request who 0 l.at_
    | .error _ => s

/-- The TLBs of a core's own accesses (R224). -/
def coreTlbs (core : Nat) : List Nat := [core, 2048 + quadOf core]

/-- A lane that raises PERMISSION discards the entry that translated it (R225). -/
def State.tlbDrop (s : State) (us : List Nat) (cx va : Nat) : State :=
  { s with tlbs := s.tlbs.filter fun e => !(us.contains e.unit && e.cx == cx && decide (e.vpage ≤ va) && decide (va < e.vpage + e.size)) }

/-! ### Segments -/

/-- The segment of a tensor physical address of the own rank. -/
def State.segOfPhys (s : State) (a : Nat) : Option Nat :=
  if isTensor a && (a - 2^60) / 2^48 == s.fab.rank then segOf ((a - 2^60) % 2^48) else none

/-- An access may proceed: its segment is Active (R238, R241). -/
def State.segReady (s : State) (a : Nat) : Bool :=
  match s.segOfPhys a with
  | none => true
  | some g => (s.seg g).tide == .active && !(s.seg g).waking

/-- An access to a segment that is not Active (R241): it starts the wake, and counts in WAKESTALL when the segment is in
Retention or Off and no wake is under way. -/
def State.wakeFor (s : State) (cx a : Nat) : State :=
  match s.segOfPhys a with
  | none => s
  | some g =>
    let x := s.seg g
    if x.waking || x.tide == .active then s
    else
      let s := s.modSeg g fun x => { x with waking := true, last := s.dtime }
      if x.tide == .idle then s else s.modCtx cx fun c => { c with wakestall := c.wakestall + 1 }

/-- An access marks the time of its segment (R240). -/
def State.touch (s : State) (a : Nat) : State :=
  match s.segOfPhys a with
  | none => s
  | some g => s.modSeg g fun x => { x with last := s.dtime }

/-! ### Integrity -/

/-- Ranges without the bytes [a, z). -/
def cutRanges (a z : Nat) (rs : List (Nat × Nat)) : List (Nat × Nat) :=
  (rs.flatMap fun r => [(r.1, min r.2 a), (max r.1 z, r.2)]).filter fun r => decide (r.1 < r.2)

/-- What of ranges lies in [a, z). -/
def partRanges (a z : Nat) (rs : List (Nat × Nat)) : List (Nat × Nat) :=
  (rs.map fun r => (max r.1 a, min r.2 z)).filter fun r => decide (r.1 < r.2)

/-- The line of an address reads under a context's key (R247, R248): control space and stores carry no code; a line of a
segment that lost its data reads zero under any key (R238). -/
def State.lineGood (s : State) (cx a : Nat) : Bool :=
  if isTensor a then
    match tabFind? s.keys (a / 64) with
    | some k => k == (s.ctx cx).keyslot.toNat
    | none => s.dropped.any fun r => decide (r.1 ≤ a) && decide (a < r.2)
  else true

/-- Every line of a byte range reads under the context's key. -/
def State.bytesGood (s : State) (cx a n : Nat) : Bool :=
  (List.range ((a + n + 63) / 64 - a / 64)).all fun k => s.lineGood cx (lineOf a + 64 * k)

/-- The lines of a byte range are marked as written under the context's key. -/
def State.setKeys (s : State) (cx a n : Nat) : State :=
  if isTensor a then
    { s with keys := (List.range ((a + n + 63) / 64 - a / 64)).foldl (fun t k => tabSet t (a / 64 + k) (s.ctx cx).keyslot.toNat) s.keys }
  else s

/-- The bytes last written back are kept for each HBM line that becomes dirty (R187, R244); a line of a pending `lastuse`
that is written after it is kept. -/
def State.markDirty (s : State) (a : Nat) : State :=
  if isTensor a then
    let x := lineOf a
    let s := if s.dirty.any fun d => d.line == x then s
      else { s with dirty := s.dirty ++ [⟨x, memRead s.mem x 64, tabFind? s.keys (x / 64)⟩] }
    { s with lastuses := s.lastuses.map fun l =>
        if (l.spans.any fun p => decide (p.1 ≤ x) && decide (x < p.2)) && !l.written.contains x then { l with written := x :: l.written } else l }
  else s

/-! ### Monitors -/

/-- The lane's `mwait` returns with status `b` (R422). -/
def Lane.mwaitDone (b : Bool) (l : Lane) : Lane :=
  match l.wait with
  | some (.mwait (some p)) => if p = inactive then l.resume 0 else ({ l with wait := none }.setPred p b |>.shift (if b then 1 else 0)).goto (l.npc, l.nin)
  | some (.mwait none) => l.resume 0
  | _ => l

/-- Every path waiting in `mwait` returns with a status (R422). -/
def Strand.mwaitRelease (u : Strand) (b : Bool) : Strand :=
  let u' := { u with lanes := u.lanes.map (Lane.mwaitDone b), mon := { u.mon with st := .disarmed, left := none } }
  u'.settle u'.gave

/-- A strand's monitor sees a write of `n` bytes at `a`, of logical time `t` (R421, R422): an armed one fires, a waiting one releases. -/
def Strand.seeWrite (u : Strand) (a n : Nat) (t : W64) : Strand :=
  if decide (u.mon.line < a + n) && decide (a < u.mon.line + 64) then
    match u.mon.st with
    | .armed => { u with mon := { u.mon with st := .fired, time := t } }
    | .waiting => u.mwaitRelease true
    | _ => u
  else u

/-- A control thread's monitor sees a write; its P form writes a c register (R341, R422). -/
def CThread.seeWrite (c : CThread) (a n : Nat) (t : W64) : CThread :=
  let u := c.unit.seeWrite a n t
  match (c.unit.lane 0).wait, (u.lane 0).wait with
  | some (.mwait (some p)), none =>
    { c with unit := u, cregs := if p = 0 then c.cregs else tabSet c.cregs p 1 }
  | _, _ => { c with unit := u }

/-- A monitor waits for a write that touches `n` bytes at `a`. -/
def Strand.awaits (u : Strand) (a n : Nat) : Bool :=
  u.mon.st == .waiting && decide (u.mon.line < a + n) && decide (a < u.mon.line + 64)

/-- The units on which an `mwait` returns for a write (R422). -/
def State.awaiting (s : State) (a n : Nat) : List Nat :=
  (s.groups.filterMap fun (_, g) => if g.strands.any fun u => u.awaits a n then some g.core else none)
    ++ (s.cts.filterMap fun (w, c) => if c.unit.awaits a n then some (unitOf (.ctl w) (s.coreOf (.ctl w))) else none)

/-- Every monitor of the package sees a write (R421). A wait that it ends is after the write in the single order. -/
def State.fireMonitors (s : State) (a n : Nat) : State :=
  let t := (s.lineTime (lineOf a)).wts
  let s := (s.awaiting a n).foldl (fun s u => s.raisePts u t) s
  { s with
    groups := s.groups.map fun (k, g) => (k, { g with strands := g.strands.map fun u => u.seeWrite a n t })
    cts := s.cts.map fun (k, c) => (k, c.seeWrite a n t) }

/-! ### Writes and reads in the single order -/

/-- Bytes become the content of physical memory at one point in the single order: memory, keys, dirty lines, monitors. -/
def State.poke (s : State) (cx a : Nat) (bs : List Byte) : State :=
  if bs.isEmpty then s
  else (((s.markDirty a).setMem a bs).setKeys cx a bs.length).fireMonitors a bs.length

/-- A store or atomic by unit `c` to a line of a Shared page, or to a unified store, takes its logical time (R185, R189). -/
def State.storeTime (s : State) (c a : Nat) (shared : Bool) : State :=
  if shared || isStore a then
    let x := lineOf a
    let t := umax64 (s.ptsOf c) ((s.lineTime x).rts + 1)
    { s with lines := tabSet s.lines x ⟨t, t⟩ }.setPts c t
  else s

/-- L1 ways of a core (R184): those of every resident workgroup. -/
def State.l1Ways (s : State) (core : Nat) : Nat :=
  (tabVals s.wgs).foldl (fun n w =>
    if !w.ended && !w.saved && decide (w.coreAt 0 ≤ core) && decide (core < w.coreAt 0 + w.ncores) then n + w.l1w else n) 0

/-- The L1 copy from which core `c` may read a line (R189): none where it has no L1 ways (R184). -/
def State.l1Copy (s : State) (c x : Nat) : Option L1Line :=
  if s.l1Ways c = 0 then none
  else s.l1.find? fun l => l.core == c && l.line == x && !l.priv && decide ((s.ptsOf c).toNat ≤ l.lease.toNat)

/-- The bytes that a load by unit `c` finds (R185, R189): its leased L1 copy, or what is at the home slice. -/
def State.peek (s : State) (c a n : Nat) (shared : Bool) : List Byte :=
  if !shared && !isStore a then memRead s.mem a n
  else
    match s.l1Copy c (lineOf a) with
    | some l => (l.data.drop (a - lineOf a)).take n
    | none => memRead s.mem a n

/-- The logical time of a load by unit `c` that was issued in `s0` (R189): the copy's, or at the home slice, where it takes a lease; of a
unified store, of which no copy is ever held, at the store itself. -/
def State.readTime (s s0 : State) (c a : Nat) (shared : Bool) : State :=
  if !shared && !isStore a then s
  else
    let x := lineOf a
    match s0.l1Copy c x with
    | some l => s.raisePts c l.wts
    | none =>
      let t := s.lineTime x
      let now := umax64 (s0.ptsOf c) t.wts
      let lease := if isStore a then now else now + 15
      { s with lines := tabSet s.lines x ⟨t.wts, umax64 t.rts lease⟩ }.raisePts c now

/-- A load by unit `c` (R185, R189). -/
def State.loadAt (s : State) (c a n : Nat) (shared : Bool) : List Byte × State := (s.peek c a n shared, s.readTime s c a shared)

/-- A core's L1 holds a line of a Private page, without a lease (R192). -/
def State.l1Private (s : State) (c x : Nat) : Bool := s.l1.any fun l => l.core == c && l.line == x && l.priv

/-- A load of a line by core `c` is a miss that shares no fill (R195): no copy is held, and no miss on the line came within 16 clk. -/
def State.missNew (s : State) (c a : Nat) : Bool :=
  !(isStore a) && s.l1Ways c != 0 && (s.l1Copy c (lineOf a)).isNone && !s.l1Private c (lineOf a)
    && !(s.misses.any fun m => m.unit == c && m.line == lineOf a && decide ((s.clk - m.at_).toNat < 16))

/-- A load that misses takes a miss-status entry (R195), with its deadline (R245). -/
def State.noteMiss (s : State) (c cx va a : Nat) (due : W64) : State :=
  if s.missNew c a then
    { s with misses := s.misses ++ [⟨s.nextId, c, cx, pageOf va, lineOf a, due, s.clk⟩], nextId := s.nextId + 1 }
  else s

/-- A store by core `c` to a line of a Private page is held in its L1 until it is evicted or reclassified (R184). The content of memory is
kept with every store performed: a Private line has one user, so where its bytes lie shows nowhere (R192). -/
def State.holdDirty (s : State) (c a : Nat) : State :=
  if isStore a || s.l1Ways c = 0 then s
  else
    let x := lineOf a
    { s with l1 := (s.l1.filter fun l => !(l.core == c && l.line == x)) ++ [⟨c, x, memRead s.mem x 64, 0, 0, true, true⟩] }

/-! ### Accesses by the device itself -/

/-- The physical address of a control or own-rank address for a device unit that keeps no TLB (queue scheduler, launch
unit, sample-group unit, routers): by a walk. The fault is the kind of R229. The ADDR of a WAIT or SIGNAL record is translated so
wherever it lies, also in the register blocks, which no table maps (DESIGN CHOICE, log entry 106). -/
def State.devPhys (s : State) (cx va : Nat) (write : Bool) : Except Nat Nat :=
  match s.walk cx va with
  | .error k => .error k
  | .ok l => if (if write then pteWr l.pte else pteRd l.pte) then .ok (s.physBy cx va l.pte l.psize false) else .error 4

/-- A read of `n` bytes by the device; none when the page does not admit it. Reads within one page. -/
def State.devRead (s : State) (cx va n : Nat) : Option (List Byte) :=
  match s.devPhys cx va false with
  | .ok a => if s.bytesGood cx a n then some (memRead s.mem a n) else none
  | .error _ => none

/-- Reads that may cross pages: 8 bytes at a time. -/
def State.devReadN (s : State) (cx va : Nat) : Nat → Option (List Byte)
  | 0 => some []
  | n + 1 =>
    match s.devRead cx va 8, s.devReadN cx (va + 8) n with
    | some a, some b => some (a ++ b)
    | _, _ => none

/-- The walk of an address, or its byte, meets a line whose home's directory is being rebuilt: the access stalls (R266). -/
def State.devHeld (s : State) (cx va : Nat) : Bool :=
  s.walkHeld cx va || match s.walk cx va with | .ok l => s.rebuilding (s.physBy cx va l.pte l.psize false) | .error _ => false

/-- The home of a control-space line has a live mirror (R22, R267). -/
def State.mirrored (s : State) (a : Nat) : Bool :=
  let lost := fun r => bitAt s.fab.lostmap.toNat r
  let h := homeRank a
  decide (a < 2^43) && (if h = s.fab.rank then s.fab.mv
    else match mirrorOf h s.fab.podsize with
      | some m => !lost h && !lost m
      | none => false)

/-- Bytes that the device itself writes, as a store in the single order (R75, R135, R185), with a time of its own. The step is the point at which
it completes: home and mirror hold it from then on (R265). -/
def State.devPoke (s : State) (cx a : Nat) (bs : List Byte) : State := (s.homeWrites a bs.length).poke cx a bs

/-- A write by the device, within one page; none when the page does not admit it. The device is another filler than any core (R192). -/
def State.devWrite (s : State) (cx va : Nat) (bs : List Byte) : Option State :=
  match s.walk cx va with
  | .ok l => if pteWr l.pte then some ((s.classify cx va devUnit l).devPoke cx (s.physBy cx va l.pte l.psize false) bs) else none
  | .error _ => none

/-- A write of the device that R-rules make without a page check; a page that does not admit it leaves memory as it is. -/
def State.devPut (s : State) (cx va : Nat) (bs : List Byte) : State := (s.devWrite cx va bs).getD s

/-- The device writes bytes of any length, 64 at a time, each by the page it lies in. -/
def State.devPutAll (s : State) (cx a : Nat) (bs : List Byte) : Nat → State
  | 0 => s
  | n + 1 => if bs.isEmpty then s else (s.devPut cx a (bs.take 64)).devPutAll cx (a + 64) (bs.drop 64) n

end Sys2Proof.Machine
end

