-- ==== Sys2Proof/Machine/Records.lean ====
section
/-!
DEFINITION. What the device writes about its objects: completion records (R74, R75), management reports (R510), sample-group
descriptors (R134 to R137, R151), and the delivery of scores (R143, R144).
-/
namespace Sys2Proof.Machine

/-- A flag as a number. -/
def flag (b : Bool) : Nat := if b then 1 else 0

/-- What a completion record carries (R74). -/
structure CRec where
  seq : Nat
  typ : Nat
  status : Nat               -- 0 OK, 1 ABORTED, 2 SKIPPED
  cause : Byte
  count : Nat
  markhit : Bool
  tpc : W64
  taddr : W64
  dstart : W64
  mark : W32
  energy : W32
  deriving DecidableEq, Repr

/-- The 56 bytes of a completion record after CSEQ (R74). -/
def CRec.body (r : CRec) (dend : W64) : List Byte :=
  leBytes 8 r.seq
    ++ leBytes 8 (r.count % 2^32 * 2^32 + flag r.markhit * 2^24 + r.cause.toNat * 2^16 + r.status * 2^8 + r.typ)
    ++ leBytes 8 r.tpc.toNat ++ leBytes 8 r.taddr.toNat ++ leBytes 8 r.dstart.toNat ++ leBytes 8 dend.toNat
    ++ leBytes 8 (r.mark.toNat * 2^32 + r.energy.toNat)

/-- A Draining queue with no record taken and incomplete is Disabled (R84). -/
def Queue.quiet (q : Queue) : Queue :=
  if q.st == .draining && q.taken.isEmpty then { q with st := .disabled, rev := none } else q

/-- A completion record is written: its body, then CSEQ, then QCSEQ rises (R75); the record is no longer incomplete. Bytes that a page of the
completion ring does not admit are dropped, and QCSEQ rises all the same (DESIGN CHOICE, log entry 132). -/
def State.complete (s : State) (qid : Nat) (r : CRec) : State :=
  let q := s.queue qid
  let m := q.qcseq.toNat
  let a := q.qcring.toNat + 64 * (m % 2^q.clog2)
  let s := s.devPut q.cx (a + 8) (r.body s.dtime)
  let s := (s.devPut q.cx a (leBytes 8 m)).requestAt 2059 0 q.cx a
  s.modQueue qid fun q => { q with qcseq := q.qcseq + 1, taken := q.taken.filter fun t => t.seq != r.seq }.quiet

/-- A kernel that counts for its context: in Queued to Draining, or Saved (R44). -/
def KState.busy : KState → Bool
  | .done => false
  | .aborted => false
  | _ => true

/-- The Idle event of R44: an Active context with no kernel in Queued to Draining releases its slot. A restore that has nothing left
to bring back ends with it. -/
def State.ctxIdle (s : State) (cx : Nat) : State :=
  if (s.ctx cx).st == .active && !((tabVals s.kernels).any fun k => k.cx == cx && k.st.busy) then
    s.modCtx cx fun c => { c with st := .ready, restoring := false }
  else s

/-- One residency lease of a page ends (R231): at zero its replicas, if it has any, are to be discarded. -/
def State.releasePage (s : State) (cx vp : Nat) : State :=
  let p := s.page cx vp
  s.setPage { p with leases := p.leases - 1, discard := p.discard || (p.leases == 1 && !p.repl.isEmpty) }

/-- The residency lease of a kernel ends (R97, R231). -/
def State.releaseLeases (s : State) (kid : Nat) : State :=
  match s.kernel? kid with
  | none => s
  | some k => (k.leased.foldl (fun s vp => s.releasePage k.cx vp) s).modKernel kid fun k => { k with leased := [] }

/-- A kernel ends: its leases are released and, unless a REVERSE launched it, its completion record is written (R75, R106).
The context may become Idle. -/
def State.finishKernel (s : State) (kid : Nat) : State :=
  match s.kernel? kid with
  | none => s
  | some k =>
    let s := s.releaseLeases kid
    let e := Config.energyOf kid
    let s := s.modKernel kid fun k => { k with st := if k.ending.isSome then .aborted else .done, energy := e }
    let s := s.modCtx k.cx fun c => { c with energy := c.energy + e }
    let s :=
      if k.tape.isSome then s
      else s.complete k.queue
        { seq := k.rseq.toNat, typ := 1, status := if k.ending.isSome then 1 else 0
          cause := match k.ending with | some x => x.cause | none => match k.late with | some c => BitVec.ofNat 8 c.code | none => 0
          count := 1, markhit := false, tpc := (k.ending.map fun x => x.tpc).getD 0
          taddr := (k.ending.map fun x => x.taddr).getD 0, dstart := k.dstart, mark := 0, energy := lo32 e }
    s.ctxIdle k.cx

/-- The instruction caches of the package see a store of a host core or of the management core (R459). -/
def State.codeSees (s : State) (a n : Nat) : State :=
  { s with icache := s.icache.filter fun e => !(decide (64 * (e.1 % 2^64) < a + n) && decide (a < 64 * (e.1 % 2^64) + 64)) }

/-- Marintis, once it runs, reports a record of a kind with its data (R510): none while MOUT is zero, and counted in LOST when the ring is
full. -/
def State.report (s : State) (kind : Nat) (data : List Byte) : State :=
  let m := s.mgmt
  if m.mout = 0 || !(m.st == .training || m.st == .ready) then s
  else if m.mohead.toNat + 256 ≤ m.moseq.toNat then { s with mgmt := { m with lost := min 0xFF (m.lost + 1) } }
  else
    let a := m.mout.toNat + 64 * (m.moseq.toNat % 256)
    let body := leBytes 8 (m.bootn.toNat * 2^32 + kind * 2^8 + m.lost) ++ data
    let body := body ++ List.replicate (56 - body.length) 0
    let s := { s with mgmt := { m with moseq := m.moseq + 1, lost := 0 } }
    -- the ring lies in control space, at the physical addresses of the package's own control home
    (((s.devPoke 0 (a + 8) body).devPoke 0 a (leBytes 8 m.moseq.toNat)).codeSees a 64).request 2058 0 a

/-- A `signal.mbox` (R386, R510): MWAKE holds the latest, and a WAKE record reports each. -/
def State.mailbox (s : State) (cx : Nat) (v : W32) : State :=
  { s with mgmt := { s.mgmt with mwake := BitVec.ofNat 64 (cx * 2^32 + v.toNat) } }.report 1 (leBytes 8 cx ++ leBytes 8 v.toNat)

/-! ### Sample-group descriptors -/

/-- Codes of descriptor states (R134). -/
def SgState.code : SgState → Nat
  | .free => 0
  | .forming => 1
  | .running => 2
  | .gathering => 3
  | .scored => 4
  | .failed => 5
  | .released => 6

/-- CTRL of a descriptor (R134, offset 0x00). -/
def SgDesc.ctrl (d : SgDesc) : Nat :=
  d.gen.toNat * 2^32 + d.narr * 2^24 + d.k * 2^16 + flag d.qfail * 2^11 + flag d.part * 2^10 + flag d.nonfinite * 2^9
    + flag d.zv * 2^8 + d.st.code

/-- The sixteen double words of a descriptor (R134). -/
def SgDesc.words (d : SgDesc) : List Nat :=
  [d.ctrl, d.eps.toNat * 2^32 + d.quorum * 2^16, d.timeout.toNat, d.forkwait.toNat, d.arrays.toNat, d.mu64.toNat,
   d.sigma64.toNat, d.sigma32.toNat * 2^32 + d.mu32.toNat, d.elapsed.toNat, d.arrivedM.toNat, d.cancelledM.toNat,
   d.endedM.toNat, d.die * 2^40 + d.core * 2^32 + d.pseq.toNat, 0, 0, 0]

/-- Address of descriptor `h` of a context (R133). -/
def State.sgAddr (s : State) (cx h : Nat) : Nat := (s.ctx cx).sgbase.toNat + 128 * h

/-- The RO fields of a live descriptor are written back, CTRL last (R135). -/
def State.sgWriteBack (s : State) (cx h : Nat) : State :=
  match s.sg? cx h with
  | none => s
  | some d =>
    let a := s.sgAddr cx h
    let s := [5, 6, 7, 8, 9, 10, 11, 12].foldl (fun s i => s.devPut cx (a + 8 * i) (leBytes 8 (nth d.words i 0))) s
    (s.devPut cx a (leBytes 8 d.ctrl)).requestAt (2068 + d.die) 0 cx a

/-- The pages that a live descriptor leases: its own and those of its arrays (R138, R139). -/
def State.sgPages (s : State) (cx h : Nat) (d : SgDesc) : List Nat :=
  let as := s.sgAddr cx h :: (if d.arrays = 0 then [] else [d.arrays.toNat, d.arrays.toNat + 0x23F])
  (as.filterMap fun a => match s.walk cx a with | .ok l => some (l.page a) | .error _ => none).eraseDups

/-- The live copy of a descriptor goes, with its leases (R135, R139). -/
def State.sgDrop (s : State) (cx h : Nat) : State :=
  match s.sg? cx h with
  | none => s
  | some d =>
    let s := (s.sgPages cx h d).foldl (fun s vp => s.releasePage cx vp) s
    { s with sgs := tabErase s.sgs (4096 * cx + h) }

/-- The result arrays are written (R136). -/
def State.sgWriteArrays (s : State) (cx h : Nat) : State :=
  match s.sg? cx h with
  | none => s
  | some d =>
    if d.arrays = 0 then s
    else
      let a := d.arrays.toNat
      let pad := fun n l => l ++ List.replicate (n - l.length) (0 : Byte)
      s.devPutAll cx a (pad 256 (d.sibs.flatMap fun x => leBytes 4 x.reward.toNat)
        ++ pad 256 (d.sibs.flatMap fun x => leBytes 4 x.adv.toNat) ++ pad 64 (d.sibs.map fun x => x.status)) 10

/-- A descriptor read from memory (R512): Released when STATE reads 6, Free otherwise. -/
def State.sgFromMem (s : State) (cx h : Nat) : Option SgDesc :=
  let a := s.sgAddr cx h
  match s.devReadN cx a 13 with
  | none => none
  | some bs =>
    let w := fun i => leNat ((bs.drop (8 * i)).take 8)
    let c := w 0
    some
      { gen := BitVec.ofNat 32 (c / 2^32), narr := bits c 30 24, k := bits c 22 16, qfail := bitAt c 11, part := bitAt c 10
        nonfinite := bitAt c 9, zv := bitAt c 8, st := if bits c 2 0 = 6 then .released else .free
        eps := BitVec.ofNat 32 (w 1 / 2^32), quorum := bits (w 1) 22 16, timeout := BitVec.ofNat 64 (w 2)
        forkwait := BitVec.ofNat 32 (w 3), arrays := BitVec.ofNat 64 (w 4), mu64 := BitVec.ofNat 64 (w 5)
        sigma64 := BitVec.ofNat 64 (w 6), mu32 := BitVec.ofNat 32 (w 7), sigma32 := BitVec.ofNat 32 (w 7 / 2^32)
        elapsed := BitVec.ofNat 64 (w 8), arrivedM := BitVec.ofNat 64 (w 9), cancelledM := BitVec.ofNat 64 (w 10)
        endedM := BitVec.ofNat 64 (w 11), die := bits (w 12) 42 40, core := bits (w 12) 39 32
        pseq := BitVec.ofNat 32 (w 12), kernel := 0, parent := 0, entry := 0, pd := 0, fwait := 0, sibs := [], origin := none }

/-- The descriptor as a rule reads it (R512): the live copy, or the descriptor in memory. -/
def State.sgSee (s : State) (cx h : Nat) : Option SgDesc :=
  match s.sg? cx h with
  | some d => some d
  | none => s.sgFromMem cx h

/-- The unit has read a word at an address, as one load in the single order at or after every event so far (R147, R512). -/
def State.unitLoad (s : State) (cx va : Nat) : State :=
  match s.walk cx va with
  | .ok l =>
    let s := (s.classify cx va devUnit l).raisePts devUnit s.devNow
    s.readTime s devUnit (s.physBy cx va l.pte l.psize false) true
  | .error _ => s

/-- The descriptor in memory has been read (R512). -/
def State.sgLoad (s : State) (cx h : Nat) : State := (s.unitLoad cx (s.sgAddr cx h)).unitLoad cx (s.sgAddr cx h + 64)

/-- The read of a descriptor in memory stalls for a directory that is being rebuilt (R266). -/
def State.sgHeld (s : State) (cx h : Nat) : Bool := (s.sg? cx h).isNone && s.devHeld cx (s.sgAddr cx h)

/-- A descriptor has been read for unit `u`, at one point in the single order (R147, R512): the later accesses of the unit follow it. -/
def State.sgSeen (s : State) (u cx h : Nat) : State :=
  (if (s.sg? cx h).isSome then s
    else (s.sgLoad cx h).requestAt (2068 + (if u < 2048 then u / 256 else (u - 2048) / 64)) 0 cx (s.sgAddr cx h)).raisePts u s.devNow

/-- The context of a workgroup. -/
def State.cxOfWg (s : State) (w : Nat) : Nat :=
  (((s.wg? w).bind fun x => s.kernel? x.kernel).map fun k => k.cx).getD 0

/-- The context of an agent. -/
def State.cxOf (s : State) (ag : Agent) : Nat := ((s.wgOf ag).map s.cxOfWg).getD 0

/-- The sibling identity of a group: descriptor and index (R140). -/
def State.sibOf (s : State) (g : Group) : Option (Nat × Nat) := (s.wg? g.wg).bind fun w => w.sibling

/-- gS as `slack` returns it (R143, R144). -/
def SgDesc.gs (d : SgDesc) (n : Nat) (status : Nat) : W32 :=
  BitVec.ofNat 32 (n * 2^16 + flag d.qfail * 2^11 + flag d.part * 2^10 + flag d.nonfinite * 2^9 + flag d.zv * 2^8 + status)

/-- The group waits in `slack` on descriptor `h`: it is given gA and gS, and its strands continue (R143, R144, R151). -/
def Group.slackReturn (g : Group) (h : Nat) (ga gs : W32) : Group :=
  if g.strands.any fun u => u.lanes.any fun l => l.wait == some (.slack h) then
    let (da, ds) := match g.gw with | some ⟨_, .slack _ d _ sx, _, _⟩ => (d, sx) | _ => (0, 0)
    { g with
      gregs := tabSet (tabSet g.gregs da ga) ds gs
      gw := none
      strands := g.strands.mapIdx fun k u => u.release (fun w => w == .slack h) fun l => if g.arrivedAt k l then ga.setWidth 64 else 0 }
  else g

/-- The cores of a context on which groups wait in `slack` on a descriptor. -/
def State.slackCores (s : State) (cx h : Nat) : List Nat :=
  s.groups.filterMap fun (_, g) =>
    if s.cxOfWg g.wg == cx && g.strands.any (fun u => u.lanes.any fun l => l.wait == some (.slack h)) then some g.core else none

/-- Results are delivered to every group of the context that waits on the descriptor (R151): to a sibling of it its own
advantage and status, to an observer μ and OBSERVER. `ga` replaces μ for observers on an abort (R144). The delivery follows every store
of the results in the single order. -/
def State.sgDeliver (s : State) (cx h : Nat) (toSiblings : Bool) (ga : Option W32) : State :=
  match s.sg? cx h with
  | none => s
  | some d =>
    let s := (s.slackCores cx h).foldl (fun s c => s.raisePts c s.devNow) s
    { s with groups := s.groups.map fun (gid, g) =>
        if s.cxOfWg g.wg != cx then (gid, g)
        else match s.sibOf g with
          | some (h', i) =>
            if h' = h then
              if toSiblings then
                let x := nth d.sibs i ⟨0, 0, false, 0, 0, false⟩
                (gid, g.slackReturn h x.adv (d.gs d.narr x.status.toNat))
              else (gid, g)
            else (gid, g.slackReturn h (ga.getD d.mu32) (d.gs d.narr 0x80))
          | none => (gid, g.slackReturn h (ga.getD d.mu32) (d.gs d.narr 0x80)) }

end Sys2Proof.Machine
end

