-- ==== Sys2Proof/Machine/Ops.lean ====
section
/-!
DEFINITION. The operations the meanings share: the end of groups and workgroups, the abort of a kernel (R104, R105), the
failure of a context (R44), taking a trap (R45 to R49) and returning from one (R50, R51).
-/
namespace Sys2Proof.Machine

/-- A step's outcome. -/
abbrev Out := Host.Outcome State Fault Refusal

/-- An event that the spec says cannot occur in a state, or that names no operation in flight: the device does not present it (R8), and nothing
happens (DESIGN CHOICE, log entry 144). -/
def State.noEvent (s : State) : Out := .next s

/-! ### Waiters -/

/-- `s` with a barrier changed by `f` (R156, R173). -/
def State.modBar (s : State) (b : BarRef) (f : Bar → Bar) : State :=
  match b with
  | .wg w k => s.modWg w fun x => { x with bars := tabSet x.bars k (f (tabGet x.bars Bar.init k)) }
  | .die cx d k => s.modCtx cx fun c => { c with dieBars := tabSet c.dieBars (64 * d + k) (f (tabGet c.dieBars Bar.init (64 * d + k))) }
  | .pkg cx k => s.modCtx cx fun c => { c with pkgBars := tabSet c.pkgBars k (f (tabGet c.pkgBars Bar.init k)) }
  | .pod cx k => s.modCtx cx fun c => { c with podBars := tabSet c.podBars k (f (tabGet c.podBars Bar.init k)) }

/-- A barrier. -/
def State.bar (s : State) (b : BarRef) : Bar :=
  match b with
  | .wg w k => ((s.wg? w).map fun x => tabGet x.bars Bar.init k).getD Bar.init
  | .die cx d k => tabGet (s.ctx cx).dieBars Bar.init (64 * d + k)
  | .pkg cx k => tabGet (s.ctx cx).pkgBars Bar.init k
  | .pod cx k => tabGet (s.ctx cx).podBars Bar.init k

/-- The workgroup barriers on which a strand or control thread waits (R158: WAITERS counts strands and control threads). -/
def Strand.barWaits (u : Strand) : List Nat :=
  ((List.range 8).filterMap fun k => match (u.lane k).wait with
    | some (.bar b _ _) => some b
    | _ => none).eraseDups

/-- The waits of an agent leave WAITERS, on its workgroup's barriers and on higher-scope ones (R165); an arrival or an init already sent
still reaches its barrier (R173). -/
def State.unwait (s : State) (ag : Agent) : State :=
  match s.unit? ag, s.wgOf ag with
  | some u, some w =>
    let s := u.barWaits.foldl (fun s b => s.modBar (.wg w b) fun x => { x with waiters := x.waiters - 1 }) s
    let mine := s.hmsgs.filter fun m => m.ag == ag
    let s := mine.foldl (fun s m => if m.waiting then s.modBar m.bar fun x => { x with waiters := x.waiters - 1 } else s) s
    { s with hmsgs := s.hmsgs.filter fun m => m.ag != ag || decide (m.op ≤ 1) }
  | _, _ => s

/-- The agents of a group. -/
def Group.agents (g : Group) (gid : Nat) : List Agent := (List.range g.strands.length).map fun k => .strand gid k

/-! ### The end of groups, workgroups and control threads -/

/-- A group ends (R130, End or Exit): its strands stop, its waits and outstanding results go, its window is released. Its registers keep their
last values (R467), which the matrix unit may still read (R433; DEDUCED, log entry 60). -/
def State.endGroup (s : State) (gid : Nat) : State :=
  match s.group? gid with
  | none => s
  | some g =>
    let ags := g.agents gid
    let s := ags.foldl State.unwait s
    let s := { s with
      pend := s.pend.filter fun p => !ags.contains p.ag
      pubs := s.pubs.filter fun p => !ags.contains p.ag
      icinvs := s.icinvs.filter fun p => !ags.contains p.ag }
    s.modGroup gid fun g =>
      { g with st := .ended, gw := none, gather := none
               strands := g.strands.map fun u => { (u.exitLanes u.liveMask) with cur := 0, stall := none, clause := none } }

/-- A tile of workgroup `w` is unbound (R432). -/
def AccTile.unbind (t : AccTile) (w : Nat) : AccTile :=
  if t.wg == w && t.st == .bound then { t with st := .free }
  else if t.wg == w && t.st == .draining then { t with st := .orphan }
  else t

/-- `n` pending drains of a tile are dropped; an orphan with none is Free (R432, R105). -/
def AccTile.dropPending (t : AccTile) (n : Nat) : AccTile :=
  if t.st == .orphan && t.pending - n == 0 then { t with pending := 0, st := .free } else { t with pending := t.pending - n }

/-- A control thread ends (R380). -/
def State.endCt (s : State) (w : Nat) : State :=
  let s := s.unwait (.ctl w)
  let s := { s with pend := s.pend.filter fun (p : Pending) => p.ag != Agent.ctl w }
  -- its accumulators are unbound (R432): a tile with drains pending becomes an orphan
  let s := { s with accs := s.accs.map fun (e : Nat × AccTile) => (e.1, e.2.unbind w) }
  let s := { s with mmas := s.mmas.filter fun (m : MmaOp) => !(m.wg == w && m.heldBy) }
  s.modCt w fun c => { c with deferred := none, due := false, unit := { (c.unit.exitLanes c.unit.liveMask) with cur := 0, stall := none, clause := none } }

/-- A workgroup has ended: every strand and the control thread have exited (R104 Ended). -/
def State.wgDone (s : State) (w : Nat) : Bool :=
  match s.wg? w with
  | none => false
  | some x =>
    x.groups.all (fun g => match s.group? g with | some y => y.st == .ended | none => true)
      && (match s.ct? w with | some c => !c.unit.live | none => true)

/-- The Ended event of a workgroup (R104): the last workgroup of a Running kernel takes it to Draining. -/
def State.wgEnd (s : State) (w : Nat) : State :=
  match s.wg? w with
  | none => s
  | some x =>
    if x.ended || !s.wgDone w then s
    else
      let s := s.modWg w fun x => { x with ended := true }
      s.modKernel x.kernel fun k =>
        let k := { k with liveWgs := k.liveWgs - 1 }
        if k.st == .running && k.liveWgs == 0 then { k with st := .draining } else k

/-! ### Sample groups on an abort -/

/-- ENDED once every sibling has ended (R134). -/
def SgDesc.allEnded (d : SgDesc) : W64 := BitVec.ofNat 64 (2^d.sibs.length - 1)

/-- The Abort event of every live descriptor a kernel forked (R144, R155). Observers of one that was Forming are parked with
SG_FAULT. -/
def State.sgAbort (s : State) (kid : Nat) (park : State → Nat → State) : State :=
  s.sgs.foldl (fun s (key, d) =>
    if d.kernel != kid then s
    else
      let cx := key / 4096
      let h := key % 4096
      match d.st with
      | .forming => park (((s.setSg cx h { d with st := .free }).sgWriteBack cx h).sgDrop cx h) key
      | .running | .gathering =>
        let d' := { d with
          st := .released, mu64 := 0, sigma64 := 0, mu32 := 0, sigma32 := 0, endedM := d.allEnded
          sibs := d.sibs.map fun x => { x with adv := 0, live := false, status := if x.status = 0 then 3 else x.status } }
        let s := s.setSg cx h d'
        let s := (s.sgWriteArrays cx h).sgWriteBack cx h
        let s := s.sgDeliver cx h false (some 0)
        s.sgDrop cx h
      | _ =>
        let s := s.setSg cx h { d with st := .released, endedM := d.allEnded, sibs := d.sibs.map fun x => { x with live := false } }
        let s := s.sgWriteBack cx h
        let s := s.sgDeliver cx h false none
        s.sgDrop cx h) s

/-! ### Traps -/

/-- The lane parks with a cause, at the word it stands at (R47, R48): TPC, TCAUSE, TADDR, TFLAGS, TLAT0 to TLAT3 and the
clause of the word are recorded; its handler is entered later. -/
def Lane.park (l : Lane) (c : Cause) (taddr : W64) (flags : Byte) : Lane :=
  { l with
    parked := some c, wait := none, batch := none
    tpc := BitVec.ofNat 64 l.pc, tcause := BitVec.ofNat 8 c.code, taddr := taddr, tflags := flags
    tlat0 := l.lat0, tlat1 := l.lat1, tlat2 := l.lat2, tlat3 := l.lat3, towed := l.owed
    thdr := if l.inClause then l.hdr else l.pc }

/-- Every lane waiting in `slack` on a descriptor of a context parks with SG_FAULT (R144). -/
def State.parkObservers (s : State) (key : Nat) : State :=
  { s with groups := s.groups.map fun (gid, g) =>
      if s.cxOfWg g.wg == key / 4096 && g.strands.any (fun u => u.lanes.any fun l => l.wait == some (.slack (key % 4096))) then
        (gid, { g with gw := none, strands := g.strands.map fun u =>
          { u with lanes := u.lanes.map fun l => if l.wait == some (.slack (key % 4096)) then l.park .sgFault 0 0 else l } })
      else (gid, g) }

/-- A window copy or `copymc` has begun: the engine has read a source line. -/
def CopyOp.begun (c : CopyOp) : Bool := !c.fetched.isEmpty || c.failed.isSome

/-- Writes into a window rather than a buffer. -/
def CopyOp.toWindow (c : CopyOp) : Bool := match c.dst with | .buffer .. => false | _ => true

/-- The window copies of a kernel that have not retired, the drains that have not settled and the ranges of both are discarded (R105). -/
def State.discardWork (s : State) (kid : Nat) : State :=
  let ws := (s.wgs.filter fun (_, w) => w.kernel == kid).map Prod.fst
  let gone := (s.copies.filter fun c => c.kernel == kid && (match c.dst with | .buffer .. => false | _ => true)).map fun c => c.id
  let drops := (s.drains.filter fun d => ws.contains d.wg && !d.settled).map fun d => d.id
  { s with
    copies := s.copies.filter fun (c : CopyOp) => !gone.contains c.id
    mmas := s.mmas.filter fun (m : MmaOp) => !ws.contains m.wg
    accs := s.accs.map fun (e : Nat × AccTile) =>
      let mine := (s.drains.filter fun (d : DrainOp) =>
        drops.contains d.id && d.tile == some (e.1 % 32) && d.core == e.1 / 32).length
      (e.1, e.2.dropPending mine)
    drains := s.drains.filter fun (d : DrainOp) => !drops.contains d.id
    ranges := s.ranges.filter fun (r : RangeEntry) => !(gone.contains r.op || drops.contains r.op)
    ratomFails := s.ratomFails.filter fun (f : RatomFail) => match s.wgOf f.ag with | some w => !ws.contains w | none => true }

/-- The abort of a kernel (R104, R105) with its ending. In Queued, Ranging and Ready the kernel completes; in Dispatching,
Running and Saved its strands stop, its window copies and their ranges go, its tiles are unbound, and it drains. -/
def State.abortKernel (s : State) (kid : Nat) (e : Ending) : State :=
  match s.kernel? kid with
  | none => s
  | some k =>
    match k.st with
    | .done => s
    | .aborted => s
    | .queued => (s.modKernel kid fun k => { k with ending := some e }).finishKernel kid
    | .ranging => (s.modKernel kid fun k => { k with ending := some e }).finishKernel kid
    | .ready => (s.modKernel kid fun k => { k with ending := some e }).finishKernel kid
    | .draining => (s.discardWork kid).modKernel kid fun k => { k with ending := some (k.ending.getD e) }
    | _ =>
      let ws := (s.wgs.filter fun (_, w) => w.kernel == kid && !w.ended).map Prod.fst
      let gs := (s.groups.filter fun (_, g) => ws.contains g.wg).map Prod.fst
      let s := s.sgAbort kid State.parkObservers
      let s := gs.foldl State.endGroup s
      let s := ws.foldl State.endCt s
      let s := s.discardWork kid
      let s := ws.foldl (fun s w => s.modWg w fun x => { x with ended := true }) s
      s.modKernel kid fun k => { k with ending := some (k.ending.getD e), st := .draining, liveWgs := 0 }

/-- The Failure event of a context (R44): FCAUSE is recorded, every kernel in Ranging to Saved ends with the cause, and the
context is Faulted. -/
def State.ctxFail (s : State) (cx : Nat) (c : Cause) : State :=
  let s := s.modCtx cx fun x => { x with st := .faulted, fcause := BitVec.ofNat 8 c.code, restoring := false, bySched := false }
  let ks := (s.kernels.filter fun (_, k) => k.cx == cx && k.st.busy && k.st != .queued).map Prod.fst
  ks.foldl (fun s k => s.abortKernel k ⟨BitVec.ofNat 8 c.code, 0, 0⟩) s

/-- Handler addresses: the entry of the trap table (R48); outer none where the table cannot be read. -/
def State.handler (s : State) (cx : Nat) (c : Cause) : Option Nat :=
  (s.devRead cx ((s.ctx cx).trapbase.toNat + 8 * c.code) 8).map leNat

/-- The lane's cause ends the kernel (R49). -/
def State.endsKernel (s : State) (cx : Nat) (l : Lane) (c : Cause) : Bool :=
  c == .lease || c == .integrity || (s.ctx cx).trapbase == 0 || l.inHandler || s.handler cx c == some 0

/-- The lanes of a strand that are parked and have not entered their handler. -/
def Strand.parkedLanes (u : Strand) : List (Nat × Cause) :=
  (List.range 8).filterMap fun k => (u.lane k).parked.map fun c => (k, c)

/-- A lane enters its handler (R48). -/
def Lane.enter (l : Lane) (h : Nat) : Lane :=
  { l with parked := none, inHandler := true, opening := true, pc := h, inClause := false, cwi := 0 }

/-- A lane that parked in instruction `b` has entered its handler and not yet executed its first clause, in which it may wait (R47). -/
def Strand.handlerOpens (u : Strand) (b : Option W64) : Bool :=
  u.lanes.any fun l => l.live && l.parked.isNone && l.inHandler && l.opening && l.batch == b

/-- The cause with which lane `k` may enter its handler now: of the sub-strands of one instruction that are parked, that of the lowest cause,
once the one before it has executed its first clause (R47). -/
def Strand.entering (u : Strand) (k : Nat) : Option Cause :=
  (u.lane k).parked.bind fun c =>
    if !u.handlerOpens (u.lane k).batch && u.parkedLanes.all fun p => (u.lane p.1).batch != (u.lane k).batch || decide (c.code ≤ p.2.code)
    then some c else none

/-- The causes with which lanes may enter their handlers now. -/
def Strand.enters (u : Strand) : List Cause := (List.range 8).filterMap u.entering

/-- The trap-table entry of a cause stands in a directory that is being rebuilt: its read stalls (R266). -/
def State.trapHeld (s : State) (cx : Nat) (c : Cause) : Bool :=
  !s.fab.rebuilding.isEmpty && s.devHeld cx ((s.ctx cx).trapbase.toNat + 8 * c.code)

/-- Some sub-strand of an agent's strand may enter its handler now. -/
def State.trapDue (s : State) (ag : Agent) (u : Strand) : Bool := !u.enters.isEmpty && !u.parkedLanes.any fun p => s.trapHeld (s.cxOf ag) p.2

/-- The entry of the parked sub-strands that may enter their handlers (R47 to R49), or the end of the kernel. -/
def State.enterTrap (s : State) (ag : Agent) : State :=
  match s.unit? ag, s.kidOf ag with
  | some u, some kid =>
    let cx := s.cxOf ag
    let ps := u.parkedLanes
    if ps.any fun p => s.trapHeld cx p.2 then s
    else match ps.find? fun (k, c) => s.endsKernel cx (u.lane k) c with
      | some (k, c) => s.abortKernel kid ⟨BitVec.ofNat 8 c.code, (u.lane k).tpc, (u.lane k).taddr⟩
      | none =>
        if u.enters.any fun c => (s.handler cx c).isNone then s.ctxFail cx .permission
        else s.modUnit ag fun _ => u.mapLanes (fun k => (u.entering k).isSome) fun k l =>
          l.enter (((u.entering k).bind (s.handler cx)).getD 0)
  | _, _ => s

/-- A sub-strand that enters its handler is a path like every other (R122). -/
def State.trapStep (s : State) (ag : Agent) : State := (s.enterTrap ag).modUnit ag fun u => u.settle u.gave

/-- The path that issues after a word at address `p`: the lanes that have not parked stay current; where all have, the sub-strand that enters
its handler takes part in the choice of R113 (R122). -/
def State.resettle (s : State) (ag : Agent) (p : Nat) (parked : Bool) : State :=
  let s := if parked then (s.modUnit ag Strand.parkPath).enterTrap ag else s
  s.modUnit ag fun u => u.settle p

/-- Lanes raise causes at the word they stand at (R46 to R49): each parks with its cause, address and flags, and the
sub-strand of lowest cause enters its handler. -/
def State.raise (s : State) (ag : Agent) (cs : List (Nat × Cause × W64 × Byte)) : State :=
  if cs.isEmpty then s
  else
    let p := match s.unit? ag with
      | some u => (match lanesOf u.path with | k :: _ => (u.lane k).pc | [] => u.gave)
      | none => 0
    let s := s.modUnit ag fun u => cs.foldl (fun u (k, c, a, f) => u.mapLanes (fun j => j == k) fun _ l => l.park c a f) u
    s.resettle ag p true

/-! ### Return from a trap -/

/-- The code word at an address: a fetch needs EX (R97, R220). -/
def State.codeWord (s : State) (cx va : Nat) : Option Nat :=
  match s.walk cx va with
  | .ok l => if pteEx l.pte then some (leNat (memRead s.mem (s.physBy cx va l.pte l.psize false) 8)) else none
  | .error _ => none

/-- COUNT and LITS of the clause header at an address, if one can be fetched there (R308). -/
def State.clauseShape (s : State) (cx hdr : Nat) : Option (Nat × Nat) :=
  match s.codeWord cx hdr with
  | none => none
  | some w =>
    if bits w 63 60 = 10 && bits w 52 50 ≤ 4 then some (bits w 56 53 + 1, bits w 52 50) else none

/-- A resume point resolved against the recorded clause (R51). -/
def Lane.resolve (l : Lane) (shape : Option (Nat × Nat)) (p : Nat) : Lane :=
  match shape with
  | none => { l with pc := p, inClause := false, cwi := 0 }
  | some (n, lits) =>
    if l.thdr + 8 ≤ p && p < l.thdr + 8 * (n + 1) && (p - l.thdr) % 8 == 0 then
      { l with pc := p, hdr := l.thdr, inClause := true, cwi := (p - l.thdr) / 8 - 1 }
    else if l.thdr + 8 * (n + 1) ≤ p && p ≤ l.thdr + 8 * (1 + n + lits) then
      { l with pc := l.thdr + 8 * (1 + n + lits), inClause := false, cwi := 0 }
    else { l with pc := p, inClause := false, cwi := 0 }

/-- A lane returns from its handler (R50, R384). -/
def Lane.rte (l : Lane) (retry : Bool) (shape : Option (Nat × Nat)) : Lane :=
  let deferred := l.tflags.getLsbD 1
  let reported := l.tflags.getLsbD 0
  let resumeAfter := match causeOf l.tcause.toNat with | some c => c.after | none => false
  let after := !deferred && !retry && (reported || resumeAfter)
  let p := if deferred then l.taddr.toNat else if after then l.tpc.toNat + 8 else l.tpc.toNat
  let l := { l with lat0 := l.tlat0, lat1 := l.tlat1, lat2 := l.tlat2, lat3 := l.tlat3, owed := l.towed }
  let l := if after && l.tcause.toNat != Cause.code .saturation then l.shift 0 else l
  ({ l with inHandler := false, opening := false }).resolve shape p

/-! ### Outstanding results -/

/-- The writes of a long-latency result land (R327). -/
def State.landWrites (s : State) (ag : Agent) (ws : List RegWrite) : State :=
  match ag with
  | .strand g k => s.modGroup g fun x => ws.foldl (fun x w => match w with
      | .vreg n l v => { x with win := tabSet x.win (n * x.width + (8 * k + l)) v }
      | .greg n v => { x with gregs := tabSet x.gregs n v }
      | .creg _ _ => x) x
  | .ctl w => s.modCt w fun c => ws.foldl (fun c w => match w with
      | .creg n v => if n = 0 then c else { c with cregs := tabSet c.cregs n v }
      | _ => c) c

/-- Two agents issue for one group. -/
def sameGroup : Agent → Agent → Bool
  | .strand g _, .strand h _ => g == h
  | .ctl w, .ctl v => w == v
  | _, _ => false

/-- Every result of the agent's group whose value is known lands, in issue order (R327): the device may complete it at any
time before a word needs it. -/
def State.landReady (s : State) (ag : Agent) : State :=
  let mine := s.pend.filter fun p => sameGroup p.ag ag && p.ready
  let s := mine.foldl (fun s p => s.landWrites p.ag p.writes) s
  { s with pend := s.pend.filter fun p => !(sameGroup p.ag ag && p.ready) }

/-- The slots that an agent's outstanding results keep set (R327). -/
def State.slotsSet (s : State) (ag : Agent) : BitVec 6 :=
  BitVec.ofNat 6 ((List.range 6).foldl (fun n k => if s.pend.any fun p => p.ag == ag && p.slot == k then n + 2^k else n) 0)

end Sys2Proof.Machine
end

