-- ==== Sys2Proof/Machine/Operands.lean ====
section
/-!
DEFINITION. Operands: the issue of one word as its operands see it, every source form (R315 to R320, R324, R325), special
registers (R317), and the destinations (R316, R341).
-/
namespace Sys2Proof

/-- A type is 64 bits wide. -/
def Ty.is64 : Ty → Bool
  | .i64 => true
  | .f64 => true
  | .f32x2 => true
  | _ => false

end Sys2Proof

namespace Sys2Proof.Machine

/-- The issue of one word by one path. -/
structure Env where
  ag : Agent
  ctl : Bool                 -- a control-thread stream
  gid : Nat
  k : Nat                    -- strand of the group
  grp : Group                -- the group; of no use in a control-thread stream
  ct : CThread               -- the control thread; of no use in a group stream
  wid : Nat
  wg : Workgroup
  kid : Nat
  kern : Kernel
  cx : Nat
  core : Nat
  u : Strand
  cl : Clause
  lane0 : Lane               -- the lowest lane of the path
  path : BitVec 8
  act : BitVec 8             -- active lanes (R313)
  clk : W64
  rank : Nat
  rdClk : Bool               -- the word reads %clk (R317)

/-- The unit whose program time the accesses of the word take (R188). -/
def Env.unit (e : Env) : Nat := unitOf e.ag e.core

/-- A group that is not there. -/
def Group.init : Group :=
  ⟨0, 0, 0, 0, 0, 0, 0, [], [], false, 0, 0, 0, none, 0, .ended, .ended, 0, none, none, []⟩

/-- A control thread that is not there. -/
def CThread.init : CThread := ⟨0, [], Strand.init 0 0 [], none, false, []⟩

/-- The lane passes a guard (R313). -/
def Lane.passes (l : Lane) (g : Guard) : Bool :=
  match g with
  | .always => true
  | .ifSet p => l.pred p
  | .ifClear p => !l.pred p

/-- An exact integer in a floating-point format (R319). -/
def constFp (f : Fmt) (x : Int) : Nat := f.pack .rn false (ofInt x)

/-- The integers of inline constants 0 to 23 (R319). -/
def constInt (k : Nat) : Int := if k < 16 then k else nth [16, 24, 31, 32, 63, 64, 127, -1] (k - 16) 0

/-- The value of inline constants 24 to 30 in halves and infinity (R319): m × 2^e. -/
def constHigh (f : Fmt) (k : Nat) : Nat :=
  match k with
  | 24 => f.pack .rn false (.fin false 1 (-1))
  | 25 => f.pack .rn false (.fin false 1 0)
  | 26 => f.pack .rn false (.fin false 1 1)
  | 27 => f.pack .rn false (.fin false 1 2)
  | 28 => f.pack .rn false (.fin true 1 (-1))
  | 29 => f.pack .rn false (.fin true 1 0)
  | 30 => f.pack .rn false (.inf false)
  | _ => f.nan

/-- An inline constant in a format. -/
def constIn (f : Fmt) (k : Nat) : Nat := if k < 24 then constFp f (constInt k) else constHigh f k

/-- The value of an inline constant for a use (R319). -/
def constVal (ty : Ty) (k : Nat) : W64 :=
  match ty with
  | .i32 => if k < 24 then BitVec.ofNat 64 (wrap 32 (constInt k)) else BitVec.ofNat 64 (constIn .f32 k)
  | .f32 => BitVec.ofNat 64 (constIn .f32 k)
  | .f64 => BitVec.ofNat 64 (constIn .f64 k)
  | .f16 => BitVec.ofNat 64 (constIn .f16 k * 65537)
  | .bf16 => BitVec.ofNat 64 (constIn .bf16 k * 65537)
  | .f32x2 => BitVec.ofNat 64 (constIn .f32 k * 4294967297)
  | _ => if k < 24 then BitVec.ofInt 64 (constInt k) else BitVec.ofNat 64 (constIn .f32 k)

/-- A special register at lane `l` of the strand (R317). -/
def Env.special (e : Env) (is64 : Bool) (n l : Nat) : W64 :=
  let one := fun (x : Nat) => if e.ctl then (0 : W64) else BitVec.ofNat 64 x
  match n with
  | 240 => one (8 * e.k + l)
  | 241 => one e.u.slot
  | 242 => one e.grp.idx
  | 243 => BitVec.ofNat 64 (e.core % 256)
  | 244 => BitVec.ofNat 64 (e.core % 256 / 4)
  | 245 => BitVec.ofNat 64 (e.core / 256)
  | 246 => BitVec.ofNat 64 e.rank
  | 247 => if is64 then e.clk else (lo32 e.clk).setWidth 64
  | 248 => (e.u.lane l).clkh.setWidth 64
  | 250 => 1
  | 251 => 0x3F800000
  | 252 => 0xFFFFFFFF
  | 253 => match (if e.ctl then e.wg.sibling.map Prod.snd else e.grp.sib) with
    | some i => BitVec.ofNat 64 i
    | none => 0xFFFFFFFF
  | 254 => if e.ctl then 0 else e.grp.seq.setWidth 64
  | _ => 0

/-- Vector register `n` of lane `l` of the strand (R126). -/
def Env.vreg (e : Env) (n l : Nat) : W32 := tabGet e.grp.win 0 (n * e.grp.width + (8 * e.k + l))

/-- g register `n` (R120). -/
def Env.greg (e : Env) (n : Nat) : W32 := tabGet e.grp.gregs 0 n

/-- c register `n`; c0 reads as zero (R315). -/
def Env.creg (e : Env) (n : Nat) : W64 := if n = 0 then 0 else tabGet e.ct.cregs 0 n

/-- A latch (R324). -/
def Lane.latch (l : Lane) (n : Nat) : W64 :=
  match n with
  | 0 => l.lat0
  | 1 => l.lat1
  | 2 => l.lat2
  | _ => l.lat3

/-- What a source field supplies at a lane (R315), of which a 32-bit use takes the low word. -/
def Env.raw (e : Env) (ty : Ty) (a : Src) (l : Nat) : W64 :=
  match a with
  | .reg n => if e.ctl then e.creg n else if ty.is64 then cat32 (e.vreg (n + 1) l) (e.vreg n l) else (e.vreg n l).setWidth 64
  | .spec n => e.special ty.is64 n l
  | .g n => if ty.is64 then cat32 (e.greg (n + 1)) (e.greg n) else (e.greg n).setWidth 64
  | .lat r hi =>
    let x := (e.u.lane l).latch r
    if hi && !ty.is64 then (hi32 x).setWidth 64 else x
  | .const k => constVal ty k
  | .lit j => if ty.is64 then cat32 (nth e.cl.lits (j + 1) 0) (nth e.cl.lits j 0) else (nth e.cl.lits j 0).setWidth 64

/-- The value of a source at a lane (R315): a 32-bit use in bits [31:0], zero above. -/
def Env.src (e : Env) (ty : Ty) (a : Src) (l : Nat) : W64 :=
  if ty.is64 then e.raw ty a l else (lo32 (e.raw ty a l)).setWidth 64

/-- A source as a number. -/
def Env.n (e : Env) (ty : Ty) (a : Src) (l : Nat) : Nat := (e.src ty a l).toNat

/-- A source as a signed number. -/
def Env.i (e : Env) (ty : Ty) (a : Src) (l : Nat) : Int := sgn (if ty.is64 then 64 else 32) (e.n ty a l)

/-- A predicate source; in a control-thread stream a c register that is not zero (R341, R342). -/
def Env.psrc (e : Env) (p l : Nat) : Bool := if e.ctl then e.creg p != 0 else (e.u.lane l).pred p

/-- The lowest active lane. -/
def Env.low (e : Env) : Nat := (lanesOf e.act).headD 0

/-- A lane that has read %clk holds the high half of the count (R317). -/
def Env.seen (e : Env) (k : Nat) (l : Lane) : Lane := if e.rdClk && inMask e.act k then { l with clkh := hi32 e.clk } else l

/-- The active lanes include every lane of U (R114, R120, R121). -/
def Env.coversU (e : Env) : Bool := e.ctl || (e.u.u &&& ~~~e.act) == 0

/-! ### Results -/

/-- A write by one lane to one destination. -/
inductive Res where
  | d32 (d : Dst) (v : W32)
  | d64 (d : Dst) (v : W64)
  | p (n : Nat) (b : Bool)
  deriving DecidableEq, Repr

/-- What a word does at one active lane: its writes, its lat0, the change of its own lane state, and a cause with its TADDR
and TFLAGS. A lane with a cause writes nothing, unless `late` (SATURATION: R292, R324). -/
structure LaneOut where
  lane : Nat
  res : List Res
  lat : W64
  cause : Option (Cause × W64 × Byte)
  late : Bool
  gen : Option W32           -- generator state afterwards

/-- A lane's results with no cause. -/
def LaneOut.ok (l : Nat) (res : List Res) (lat : W64) : LaneOut := ⟨l, res, lat, none, false, none⟩

/-- A lane with a cause. -/
def LaneOut.bad (l : Nat) (c : Cause) (taddr : W64 := 0) (flags : Byte := 0) : LaneOut := ⟨l, [], 0, some (c, taddr, flags), false, none⟩

/-- The write of a register result of a type, with its lat0. -/
def LaneOut.reg (l : Nat) (d : Dst) (ty : Ty) (v : W64) : LaneOut :=
  if ty.is64 then .ok l [.d64 d v] v else .ok l [.d32 d (lo32 v)] ((lo32 v).setWidth 64)

/-- A predicate result. -/
def LaneOut.pd (l : Nat) (p : PDst) (b : Bool) : LaneOut :=
  .ok l (match p with | .pred n => [.p n b] | .lat0 => []) (if b then 1 else 0)

/-- One write into a group (R120: g registers are one per group). -/
def Group.put (g : Group) (k l : Nat) (r : Res) : Group :=
  let v := fun (g : Group) n (x : W32) => { g with win := tabSet g.win (n * g.width + (8 * k + l)) x }
  match r with
  | .d32 (.reg n) x => v g n x
  | .d64 (.reg n) x => v (v g n (lo32 x)) (n + 1) (hi32 x)
  | .d32 (.g n) x => { g with gregs := tabSet g.gregs n x }
  | .d64 (.g n) x => { g with gregs := tabSet (tabSet g.gregs n (lo32 x)) (n + 1) (hi32 x) }
  | .p n b => { g with strands := modAt g.strands k fun u => u.mapLanes (fun j => j == l) fun _ x => x.setPred n b }
  | _ => g

/-- One write into a control thread (R341): a 32-bit result is zero-extended, a predicate names a c register. -/
def CThread.put (c : CThread) (r : Res) : CThread :=
  let w := fun n (x : W64) => if n = 0 then c else { c with cregs := tabSet c.cregs n x }
  match r with
  | .d32 (.reg n) x => w n (x.setWidth 64)
  | .d64 (.reg n) x => w n x
  | .p n b => w n (if b then 1 else 0)
  | _ => c

/-- One write by lane `l` of an agent. -/
def State.put (s : State) (ag : Agent) (l : Nat) (r : Res) : State :=
  match ag with
  | .strand g k => s.modGroup g fun x => x.put k l r
  | .ctl w => s.modCt w fun c => c.put r

/-- The g-register writes of a lane. -/
def Res.isG : Res → Bool
  | .d32 (.g _) _ => true
  | .d64 (.g _) _ => true
  | _ => false

end Sys2Proof.Machine
end

