-- ==== Sys2Proof/Machine/Forms.lean ====
section
/-!
DEFINITION. The operands of each instruction word, by kind and width (R314, R339, R344, R349, R355, R367, R376, R388, R397,
R401, R427, R441, R442, R450, R454): what the shared checks of the issue (Issue.lean) look at.
-/
namespace Sys2Proof

/-- The width of a system register's value (R455). -/
def SysReg.ty (i : Nat) : Ty :=
  if i = 0 || i = 3 || i = 7 || i = 8 || i = 0x10 || i = 0x12 || (0x14 ≤ i && i ≤ 0x17) || (0x40 ≤ i && i ≤ 0x4F) then .i64 else .i32

/-- `barq` without `.handle` gives a double word (R388). -/
def BarqSel.ty : BarqSel → Ty
  | .handle => .i32
  | _ => .i64

/-- Source value of `cvtf` (R355). -/
def CvtFSrc.ty : CvtFSrc → Ty
  | .f64 => .f64
  | .i32 => .i32
  | .u32 => .i32
  | .i64 => .i64
  | .u64 => .i64
  | .f16 => .f16
  | .bf16 => .bf16

/-- Result of `cvti` (R355). -/
def CvtIDst.ty : CvtIDst → Ty
  | .i32 => .i32
  | .u32 => .i32
  | .i64 => .i64
  | .u64 => .i64

/-- Source value of `cvtd` (R355). -/
def CvtDSrc.ty : CvtDSrc → Ty
  | .f32 => .f32
  | .i32 => .i32
  | .u32 => .i32
  | .i64 => .i64
  | .u64 => .i64

/-- Data width of an access (R401). -/
def MemSize.ty : MemSize → Ty
  | .b64 => .i64
  | .b128 => .b128
  | _ => .i32

/-- Operand b of an atomic (R319, R413). -/
def AtomOp.ty (op : AtomOp) (w64 : Bool) : Ty :=
  match op with
  | .fadd => if w64 then .f64 else .f32
  | _ => if w64 then .i64 else .i32

end Sys2Proof

namespace Sys2Proof.Machine

/-- The operands of a word: data sources and register results with the width of their use; vector registers named directly,
as first register and count; g registers named directly, with their count; predicate sources and destinations. -/
structure Form where
  opc : Nat
  gd : Guard
  srcs : List (Src × Ty)
  dsts : List (Dst × Ty)
  vsrc : List (Nat × Nat)
  vdst : List (Nat × Nat)
  gsrc : List (Nat × Nat)
  psrc : List Nat
  pdst : List Nat

/-- The registers of an optional destination. -/
def optList (o : Option Nat) : List Nat := o.toList

/-- The predicates of a compare's destination. -/
def pdstList : PDst → List Nat
  | .pred n => [n]
  | .lat0 => []

/-- The operands of each word; a device step has none. -/
def formOf? : Instr → Option Form
  | .nop gd => some ⟨0x0, gd, [], [], [], [], [], [], []⟩
  | .mov gd d a w64 => some ⟨0x1, gd, [(a, if w64 then .i64 else .i32)], [(d, if w64 then .i64 else .i32)], [], [], [], [], []⟩
  | .iadd gd d a b _ => some ⟨0x2, gd, [(a, .i32), (b, .i32)], [(d, .i32)], [], [], [], [], []⟩
  | .isub gd d a b _ => some ⟨0x3, gd, [(a, .i32), (b, .i32)], [(d, .i32)], [], [], [], [], []⟩
  | .imul gd d a b => some ⟨0x4, gd, [(a, .i32), (b, .i32)], [(d, .i32)], [], [], [], [], []⟩
  | .imulh gd d a b _ => some ⟨0x5, gd, [(a, .i32), (b, .i32)], [(d, .i32)], [], [], [], [], []⟩
  | .imad gd d a b c => some ⟨0x6, gd, [(a, .i32), (b, .i32), (c, .i32)], [(d, .i32)], [], [], [], [], []⟩
  | .idiv gd d a b w64 _ => some ⟨0x7, gd, [(a, if w64 then .i64 else .i32), (b, if w64 then .i64 else .i32)], [(d, if w64 then .i64 else .i32)], [], [], [], [], []⟩
  | .irem gd d a b w64 _ => some ⟨0x8, gd, [(a, if w64 then .i64 else .i32), (b, if w64 then .i64 else .i32)], [(d, if w64 then .i64 else .i32)], [], [], [], [], []⟩
  | .imin gd d a b _ => some ⟨0x9, gd, [(a, .i32), (b, .i32)], [(d, .i32)], [], [], [], [], []⟩
  | .imax gd d a b _ => some ⟨0xa, gd, [(a, .i32), (b, .i32)], [(d, .i32)], [], [], [], [], []⟩
  | .iabs gd d a _ => some ⟨0xb, gd, [(a, .i32)], [(d, .i32)], [], [], [], [], []⟩
  | .ineg gd d a _ => some ⟨0xc, gd, [(a, .i32)], [(d, .i32)], [], [], [], [], []⟩
  | .iand gd d a b => some ⟨0xd, gd, [(a, .i32), (b, .i32)], [(d, .i32)], [], [], [], [], []⟩
  | .ior gd d a b => some ⟨0xe, gd, [(a, .i32), (b, .i32)], [(d, .i32)], [], [], [], [], []⟩
  | .ixor gd d a b => some ⟨0xf, gd, [(a, .i32), (b, .i32)], [(d, .i32)], [], [], [], [], []⟩
  | .iandn gd d a b => some ⟨0x11, gd, [(a, .i32), (b, .i32)], [(d, .i32)], [], [], [], [], []⟩
  | .inot gd d a => some ⟨0x10, gd, [(a, .i32)], [(d, .i32)], [], [], [], [], []⟩
  | .shl gd d a b => some ⟨0x12, gd, [(a, .i32), (b, .i32)], [(d, .i32)], [], [], [], [], []⟩
  | .shr gd d a b => some ⟨0x13, gd, [(a, .i32), (b, .i32)], [(d, .i32)], [], [], [], [], []⟩
  | .sar gd d a b => some ⟨0x14, gd, [(a, .i32), (b, .i32)], [(d, .i32)], [], [], [], [], []⟩
  | .rotl gd d a b => some ⟨0x15, gd, [(a, .i32), (b, .i32)], [(d, .i32)], [], [], [], [], []⟩
  | .bfe gd d a b _ => some ⟨0x16, gd, [(a, .i32), (b, .i32)], [(d, .i32)], [], [], [], [], []⟩
  | .bfi gd d a b c => some ⟨0x17, gd, [(a, .i32), (b, .i32), (c, .i32)], [(d, .i32)], [], [], [], [], []⟩
  | .popc gd d a => some ⟨0x18, gd, [(a, .i32)], [(d, .i32)], [], [], [], [], []⟩
  | .clz gd d a => some ⟨0x19, gd, [(a, .i32)], [(d, .i32)], [], [], [], [], []⟩
  | .ctz gd d a => some ⟨0x1a, gd, [(a, .i32)], [(d, .i32)], [], [], [], [], []⟩
  | .brev gd d a => some ⟨0x1b, gd, [(a, .i32)], [(d, .i32)], [], [], [], [], []⟩
  | .icmp gd p a b w64 _ _ => some ⟨0x1c, gd, [(a, if w64 then .i64 else .i32), (b, if w64 then .i64 else .i32)], [], [], [], [], [], pdstList p⟩
  | .sel gd d a b p w64 => some ⟨0x1d, gd, [(a, if w64 then .i64 else .i32), (b, if w64 then .i64 else .i32)], [(d, if w64 then .i64 else .i32)], [], [], [], [p], []⟩
  | .iadd64 gd d a b _ => some ⟨0x1e, gd, [(a, .i64), (b, .i64)], [(d, .i64)], [], [], [], [], []⟩
  | .imad64 gd d a b c _ => some ⟨0x1f, gd, [(a, .i32), (b, .i32), (c, .i64)], [(d, .i64)], [], [], [], [], []⟩
  | .shf64 gd d a b _ => some ⟨0x20, gd, [(a, .i64), (b, .i32)], [(d, .i64)], [], [], [], [], []⟩
  | .lea gd d a b _ _ => some ⟨0x21, gd, [(a, .i64), (b, .i32)], [(d, .i64)], [], [], [], [], []⟩
  | .ext gd d a w64 _ _ => some ⟨0x22, gd, [(a, .i32)], [(d, if w64 then .i64 else .i32)], [], [], [], [], []⟩
  | .bmrg gd d a b c _ => some ⟨0x23, gd, [(a, .i32), (b, .i32), (c, .i32)], [(d, .i32)], [], [], [], [], []⟩
  | .dot4 gd d a b c _ _ => some ⟨0x24, gd, [(a, .i32), (b, .i32), (c, .i32)], [(d, .i32)], [], [], [], [], []⟩
  | .iaddc gd d a b p => some ⟨0x25, gd, [(a, .i32), (b, .i32)], [(d, .i32)], [], [], [], [p], []⟩
  | .isubb gd d a b p => some ⟨0x26, gd, [(a, .i32), (b, .i32)], [(d, .i32)], [], [], [], [p], []⟩
  | .lop3 gd d a b c _ => some ⟨0x27, gd, [(a, .i32), (b, .i32), (c, .i32)], [(d, .i32)], [], [], [], [], []⟩
  | .fadd gd d a b _ _ => some ⟨0x30, gd, [(a, .f32), (b, .f32)], [(d, .i32)], [], [], [], [], []⟩
  | .fsub gd d a b _ _ => some ⟨0x31, gd, [(a, .f32), (b, .f32)], [(d, .i32)], [], [], [], [], []⟩
  | .fmul gd d a b _ _ => some ⟨0x32, gd, [(a, .f32), (b, .f32)], [(d, .i32)], [], [], [], [], []⟩
  | .ffma gd d a b c _ _ => some ⟨0x33, gd, [(a, .f32), (b, .f32), (c, .f32)], [(d, .i32)], [], [], [], [], []⟩
  | .fmin gd d a b => some ⟨0x34, gd, [(a, .f32), (b, .f32)], [(d, .i32)], [], [], [], [], []⟩
  | .fmax gd d a b => some ⟨0x35, gd, [(a, .f32), (b, .f32)], [(d, .i32)], [], [], [], [], []⟩
  | .fcmp gd p a b _ => some ⟨0x36, gd, [(a, .f32), (b, .f32)], [], [], [], [], [], pdstList p⟩
  | .fclass gd p a b f64 => some ⟨0x37, gd, [(a, if f64 then .f64 else .f32), (b, .i32)], [], [], [], [], [], pdstList p⟩
  | .frcp gd d a _ _ => some ⟨0x38, gd, [(a, .f32)], [(d, .i32)], [], [], [], [], []⟩
  | .frsq gd d a => some ⟨0x39, gd, [(a, .f32)], [(d, .i32)], [], [], [], [], []⟩
  | .fsqrt gd d a _ => some ⟨0x3a, gd, [(a, .f32)], [(d, .i32)], [], [], [], [], []⟩
  | .fsinpi gd d a => some ⟨0x3b, gd, [(a, .f32)], [(d, .i32)], [], [], [], [], []⟩
  | .fcospi gd d a => some ⟨0x3c, gd, [(a, .f32)], [(d, .i32)], [], [], [], [], []⟩
  | .fexp2 gd d a => some ⟨0x3d, gd, [(a, .f32)], [(d, .i32)], [], [], [], [], []⟩
  | .flog2 gd d a => some ⟨0x3e, gd, [(a, .f32)], [(d, .i32)], [], [], [], [], []⟩
  | .ftanh gd d a => some ⟨0x3f, gd, [(a, .f32)], [(d, .i32)], [], [], [], [], []⟩
  | .frnd gd d a _ => some ⟨0x40, gd, [(a, .f32)], [(d, .i32)], [], [], [], [], []⟩
  | .dadd gd d a b _ _ _ => some ⟨0x41, gd, [(a, .f64), (b, .f64)], [(d, .f64)], [], [], [], [], []⟩
  | .dmul gd d a b _ _ => some ⟨0x42, gd, [(a, .f64), (b, .f64)], [(d, .f64)], [], [], [], [], []⟩
  | .dfma gd d a b c _ _ => some ⟨0x43, gd, [(a, .f64), (b, .f64), (c, .f64)], [(d, .f64)], [], [], [], [], []⟩
  | .dmin gd d a b => some ⟨0x44, gd, [(a, .f64), (b, .f64)], [(d, .f64)], [], [], [], [], []⟩
  | .dmax gd d a b => some ⟨0x45, gd, [(a, .f64), (b, .f64)], [(d, .f64)], [], [], [], [], []⟩
  | .dcmp gd p a b _ => some ⟨0x46, gd, [(a, .f64), (b, .f64)], [], [], [], [], [], pdstList p⟩
  | .drcp gd d a _ _ => some ⟨0x47, gd, [(a, .f64)], [(d, .f64)], [], [], [], [], []⟩
  | .dsqrt gd d a _ => some ⟨0x48, gd, [(a, .f64)], [(d, .f64)], [], [], [], [], []⟩
  | .hadd2 gd d a b bf16 _ _ => some ⟨0x49, gd, [(a, if bf16 then .bf16 else .f16), (b, if bf16 then .bf16 else .f16)], [(d, .i32)], [], [], [], [], []⟩
  | .hmul2 gd d a b bf16 _ _ => some ⟨0x4a, gd, [(a, if bf16 then .bf16 else .f16), (b, if bf16 then .bf16 else .f16)], [(d, .i32)], [], [], [], [], []⟩
  | .hfma2 gd d a b c bf16 _ _ => some ⟨0x4b, gd, [(a, if bf16 then .bf16 else .f16), (b, if bf16 then .bf16 else .f16), (c, if bf16 then .bf16 else .f16)], [(d, .i32)], [], [], [], [], []⟩
  | .hmax2 gd d a b bf16 => some ⟨0x4c, gd, [(a, if bf16 then .bf16 else .f16), (b, if bf16 then .bf16 else .f16)], [(d, .i32)], [], [], [], [], []⟩
  | .hmin2 gd d a b bf16 => some ⟨0x4d, gd, [(a, if bf16 then .bf16 else .f16), (b, if bf16 then .bf16 else .f16)], [(d, .i32)], [], [], [], [], []⟩
  | .hcmp2 gd p a b bf16 _ => some ⟨0x4e, gd, [(a, if bf16 then .bf16 else .f16), (b, if bf16 then .bf16 else .f16)], [], [], [], [], [], [p, p + 1]⟩
  | .cvtf gd d a _ src _ _ => some ⟨0x4f, gd, [(a, src.ty)], [(d, .i32)], [], [], [], [], []⟩
  | .cvti gd d a _ tgt f64 _ _ => some ⟨0x50, gd, [(a, if f64 then .f64 else .f32)], [(d, tgt.ty)], [], [], [], [], []⟩
  | .cvtd gd d a src _ => some ⟨0x51, gd, [(a, src.ty)], [(d, .f64)], [], [], [], [], []⟩
  | .pk16 gd d a b _ _ _ _ => some ⟨0x52, gd, [(a, .f32), (b, .f32)], [(d, .i32)], [], [], [], [], []⟩
  | .unpk16 gd d a b bf16 => some ⟨0x53, gd, [(a, if bf16 then .bf16 else .f16), (b.src, .i32)], [(d, .i32)], [], [], [], [], []⟩
  | .cvt8 gd d a b _ _ x1 _ _ => some ⟨0x54, gd, [(a, if x1 then .f32 else .f32x2), (b, if x1 then .f32 else .f32x2)], [(d, .i32)], [], [], [], [], []⟩
  | .unpk8 gd d a b _ => some ⟨0x55, gd, [(a, .i32), (b.src, .i32)], [(d, .i32)], [], [], [], [], []⟩
  | .cvt4 gd d a b _ x1 _ _ => some ⟨0x56, gd, [(a, if x1 then .f32 else .f32x2), (b, if x1 then .f32 else .f32x2)], [(d, .i32)], [], [], [], [], []⟩
  | .unpk4 gd d a b => some ⟨0x57, gd, [(a, .i32), (b.src, .i32)], [(d, .i32)], [], [], [], [], []⟩
  | .mxsc gd d a s _ fmt _ _ _ => some ⟨0x58, gd, [], [], [(a, 32), (s, 1)], [(d, fmt.regs), (s, 1)], [], [], []⟩
  | .rnd gd d => some ⟨0x59, gd, [], [(d, .i32)], [], [], [], [], []⟩
  | .rseed gd a => some ⟨0x5a, gd, [(a, .i32)], [], [], [], [], [], []⟩
  | .satq gd d _ _ => some ⟨0x5b, gd, [], [(d, .i32)], [], [], [], [], []⟩
  | .fdot2 gd d a b c bf16 _ _ => some ⟨0x5c, gd, [(a, if bf16 then .bf16 else .f16), (b, if bf16 then .bf16 else .f16), (c, .f32)], [(d, .i32)], [], [], [], [], []⟩
  | .shfl gd d a b w64 _ _ => some ⟨0x70, gd, [(a, if w64 then .i64 else .i32), (b, .i32)], [(d, if w64 then .i64 else .i32)], [], [], [], [], []⟩
  | .bfly gd x y m => some ⟨0x71, gd, [(m, .i32)], [], [(x, 1), (y, 1)], [(x, 1)], [], [], []⟩
  | .bcast gd d a b w64 => some ⟨0x72, gd, [(a, if w64 then .i64 else .i32), (b, .i32)], [(d, if w64 then .i64 else .i32)], [], [], [], [], []⟩
  | .vote gd p q _ => some ⟨0x73, gd, [], [], [], [], [], [q], pdstList p⟩
  | .ballot gd d q m64 => some ⟨0x74, gd, [], [(d, if m64 then .i64 else .i32)], [], [], [], [q], []⟩
  | .redux gd d a _ => some ⟨0x75, gd, [(a, .i32)], [(d, .i32)], [], [], [], [], []⟩
  | .fredux gd d a _ => some ⟨0x76, gd, [(a, .f32)], [(d, .i32)], [], [], [], [], []⟩
  | .scan gd d a _ f => some ⟨0x77, gd, [(a, if f then .f32 else .i32)], [(d, .i32)], [], [], [], [], []⟩
  | .matchv gd d a m64 w64 => some ⟨0x78, gd, [(a, if w64 then .i64 else .i32)], [(d, if m64 then .i64 else .i32)], [], [], [], [], []⟩
  | .pand gd p q r _ _ => some ⟨0x79, gd, [], [], [], [], [], [q] ++ [r], pdstList p⟩
  | .por gd p q r _ _ => some ⟨0x7a, gd, [], [], [], [], [], [q] ++ [r], pdstList p⟩
  | .pxor gd p q r _ _ => some ⟨0x7b, gd, [], [], [], [], [], [q] ++ [r], pdstList p⟩
  | .pnot gd p q => some ⟨0x7c, gd, [], [], [], [], [], [q], pdstList p⟩
  | .pmov gd p q => some ⟨0x7d, gd, [], [], [], [], [], [q], pdstList p⟩
  | .pmovGet gd d q => some ⟨0x7d, gd, [], [(d, .i32)], [], [], [], (List.range 32).map (q + ·), []⟩
  | .pmovSet gd p a => some ⟨0x7d, gd, [(a, .i32)], [], [], [], [], [], (List.range 32).map (p + ·)⟩
  | .pcnt gd d q => some ⟨0x7e, gd, [], [(d, .i32)], [], [], [], [q], []⟩
  | .elect gd p => some ⟨0x7f, gd, [], [], [], [], [], [], pdstList p⟩
  | .bra gd t a cond => some ⟨0x90, gd, if cond == .always then [(t, .i32)] else [(t, .i32), (a, .i32)], [], [], [], [], [], []⟩
  | .brx gd a b => some ⟨0x91, gd, [(a, .i32), (b, .i32)], [], [], [], [], [], []⟩
  | .call gd d a _ => some ⟨0x92, gd, [(a, .i32)], [(.reg d, .i32)], [], [], [], [], []⟩
  | .ret gd a => some ⟨0x93, gd, [(a, .i32)], [], [], [], [], [], []⟩
  | .enrol _ => some ⟨0x94, .always, [], [], [], [], [], [], []⟩
  | .rejoin _ => some ⟨0x95, .always, [], [], [], [], [], [], []⟩
  | .exit gd => some ⟨0x96, gd, [], [], [], [], [], [], []⟩
  | .yield gd => some ⟨0x97, gd, [], [], [], [], [], [], []⟩
  | .trap gd _ => some ⟨0x98, gd, [], [], [], [], [], [], []⟩
  | .brk gd _ => some ⟨0x99, gd, [], [], [], [], [], [], []⟩
  | .rte gd => some ⟨0x9a, gd, [], [], [], [], [], [], []⟩
  | .rteRetry gd => some ⟨0x9a, gd, [], [], [], [], [], [], []⟩
  | .signal gd a b => some ⟨0x9b, gd, [(a, .i32), (b, .i32)], [], [], [], [], [], []⟩
  | .signalMbox gd a b => some ⟨0x9b, gd, [(a, .i32), (b, .i32)], [], [], [], [], [], []⟩
  | .rswitch gd p a => some ⟨0x9c, gd, [(a, .i64)], [], [], [], [], [], [p]⟩
  | .reggrow gd p n => some ⟨0x9d, gd, [(n, .i32)], [], [], [], [], [], [p]⟩
  | .regshrink gd n => some ⟨0x9e, gd, [(n, .i32)], [], [], [], [], [], []⟩
  | .sleep gd a => some ⟨0x9f, gd, [(a, .i32)], [], [], [], [], [], []⟩
  | .barinit gd _ n => some ⟨0xa0, gd, [(n, .i32)], [], [], [], [], [], []⟩
  | .bararr gd _ n => some ⟨0xa1, gd, [(n, .i32)], [], [], [], [], [], []⟩
  | .barwait gd p _ ph => some ⟨0xa2, gd, [(ph, .i32)], [], [], [], [], [], optList p⟩
  | .barinval gd _ => some ⟨0xa3, gd, [], [], [], [], [], [], []⟩
  | .barrarr gd h n => some ⟨0xa4, gd, [(h, .i32), (n, .i32)], [], [], [], [], [], []⟩
  | .barq gd d _ which => some ⟨0xa5, gd, [], [(d, which.ty)], [], [], [], [], []⟩
  | .hbarInit gd i n _ => some ⟨0xa6, gd, [(i, .i32), (n, .i32)], [], [], [], [], [], []⟩
  | .hbarArr gd i _ => some ⟨0xa6, gd, [(i, .i32)], [], [], [], [], [], []⟩
  | .hbarWait gd p i ph _ => some ⟨0xa6, gd, [(i, .i32), (ph, .i32)], [], [], [], [], [], optList p⟩
  | .hbarQ gd d i _ _ => some ⟨0xa6, gd, [(i, .i32)], [(.reg d, .i64)], [], [], [], [], []⟩
  | .ld gd d a o _ size => some ⟨0xb0, gd, [(a, .i64), (o, .i32)], [(d, size.ty)], [], [], [], [], []⟩
  | .st gd a o s size => some ⟨0xb1, gd, [(a, .i64), (o, .i32), (s, size.ty)], [], [], [], [], [], []⟩
  | .ldt gd d h x _ => some ⟨0xb2, gd, [(h, .i32)], [(.reg d, .i32)], [(x, 1)], [], [], [], []⟩
  | .stt gd h x s => some ⟨0xb3, gd, [(h, .i32), (s, .i32)], [], [(x, 1)], [], [], [], []⟩
  | .ldfr gd d a b _ _ => some ⟨0xb4, gd, [(a, .i64), (b, .i32)], [], [], [(d, 8)], [], [], []⟩
  | .stfr gd a b s _ _ => some ⟨0xb5, gd, [(a, .i64), (b, .i32)], [], [(s, 8)], [], [], [], []⟩
  | .atom gd d a b _ w64 op => some ⟨0xb6, gd, [(a, .i64), (b, op.ty w64)], [(.reg d, if w64 then .i64 else .i32)], [], [], [], [], []⟩
  | .cas gd d a x y _ w64 => some ⟨0xb7, gd, [(a, .i64), (x, if w64 then .i64 else .i32), (y, if w64 then .i64 else .i32)], [(.reg d, if w64 then .i64 else .i32)], [], [], [], [], []⟩
  | .ratom gd d a b w64 op => some ⟨0xb8, gd, [(a, .i64), (b, op.ty w64)], [(.reg d, if w64 then .i64 else .i32)], [], [], [], [], []⟩
  | .fence gd _ => some ⟨0xb9, gd, [], [], [], [], [], [], []⟩
  | .fenceTc gd => some ⟨0xb9, gd, [], [], [], [], [], [], []⟩
  | .publish gd h => some ⟨0xba, gd, [(h, .i32)], [], [], [], [], [], []⟩
  | .mon gd a => some ⟨0xbb, gd, [(a, .i64)], [], [], [], [], [], []⟩
  | .mwait gd p t => some ⟨0xbc, gd, [(t, .i32)], [], [], [], [], [], optList p⟩
  | .tierpf gd _ d s n => some ⟨0xbd, gd, [(d, .i64), (s, .i64), (n, .i32)], [], [], [], [], [], []⟩
  | .tierev gd _ d s n => some ⟨0xbe, gd, [(d, .i64), (s, .i64), (n, .i32)], [], [], [], [], [], []⟩
  | .lastuse gd a n => some ⟨0xbf, gd, [(a, .i64), (n, .i32)], [], [], [], [], [], []⟩
  | .mma _ a b s _ => some ⟨0xd0, .always, [(a, .i64), (b, .i64), (s, .i64)], [], [], [], [], [], []⟩
  | .accdrain _ w c => some ⟨0xd1, .always, [(w, .i64), (c, .i64)], [], [], [], [], [], []⟩
  | .accst _ w c => some ⟨0xd2, .always, [(w, .i64), (c, .i64)], [], [], [], [], [], []⟩
  | .acctx _ e => some ⟨0xd3, .always, [(e, .i64)], [], [], [], [], [], []⟩
  | .accwait _ k _ => some ⟨0xd4, .always, [(k, .i64)], [], [], [], [], [], []⟩
  | .accfree _ k => some ⟨0xd5, .always, [(k, .i64)], [], [], [], [], [], []⟩
  | .cbarArr _ => some ⟨0xd6, .always, [], [], [], [], [], [], []⟩
  | .cbarWait p _ ph => some ⟨0xd6, .always, [(ph, .i64)], (optList p).map (fun n => (.reg n, .i64)), [], [], [], [], []⟩
  | .cbarInit _ n => some ⟨0xd6, .always, [(n, .i64)], [], [], [], [], [], []⟩
  | .cbarInval _ => some ⟨0xd6, .always, [], [], [], [], [], [], []⟩
  | .cbarQ d _ _ => some ⟨0xd6, .always, [], [(.reg d, .i64)], [], [], [], [], []⟩
  | .copy gd _ h x d => some ⟨0xe0, gd, [], [], [], [], [(h, 1), (x, 1), (d, 2)], [], []⟩
  | .copymc gd l h x d m => some ⟨0xe1, gd, [], [], [], [], [(l, m + 1), (h, 1), (x, 1), (d, 1)], [], []⟩
  | .copyw gd _ h x d => some ⟨0xe2, gd, [], [], [], [], [(h, 1), (x, 1), (d, 1)], [], []⟩
  | .tready gd i => some ⟨0xe3, gd, [], [], [], [], [(i, 1)], [], []⟩
  | .fork gd p h k e => some ⟨0xe4, gd, [(h, .i32), (k, .i32), (e, .i32)], [], [], [], [], [], [p]⟩
  | .reward gd h x => some ⟨0xe5, gd, [(h, .i32), (x, .f32)], [], [], [], [], [], []⟩
  | .slack gd d h s => some ⟨0xe6, gd, [(h, .i32)], [], [], [], [(d, 1), (s, 1)], [], []⟩
  | .sgcancel gd h i => some ⟨0xe7, gd, [(h, .i32), (i, .i32)], [], [], [], [], [], []⟩
  | .sgq gd d h which => some ⟨0xe8, gd, [(h, .i32), (which, .i32)], [(.reg d, .i64)], [], [], [], [], []⟩
  | .tapepush gd p a b _ => some ⟨0xe9, gd, [(a, .i64), (b, .i64)], [], [], [], [], [], [p]⟩
  | .launch gd p a q => some ⟨0xea, gd, [(a, .i64), (q, .i32)], [], [], [], [], [], [p]⟩
  | .rcomb gd d a r => some ⟨0xeb, gd, [(r, .i64)], [(.reg d, .i32)], [(a, 1)], [], [], [], []⟩
  | .sysrd gd d idx => some ⟨0xf0, gd, [], [(d, SysReg.ty idx)], [], [], [], [], []⟩
  | .syswr gd a idx => some ⟨0xf1, gd, [(a, SysReg.ty idx)], [], [], [], [], [], []⟩
  | .dbgmark gd a => some ⟨0xf2, gd, [(a, .i32)], [], [], [], [], [], []⟩
  | .perfc gd d _ => some ⟨0xf3, gd, [], [(d, .i64)], [], [], [], [], []⟩
  | .icinv gd a n => some ⟨0xf4, gd, [(a, .i64), (n, .i32)], [], [], [], [], [], []⟩
  | .ckptmark gd a n e => some ⟨0xf5, gd, [(a, .i64), (n, .i32), (e, .i32)], [], [], [], [], [], []⟩
  | _ => none

end Sys2Proof.Machine
end

