-- ==== Sys2Proof/Machine/Issue.lean ====
section
/-!
DEFINITION. The issue of one instruction word: the checks of its fields (R310, R313 to R325, R331), the waits at issue (R207,
R327, R363), and what its issue does to the lanes of its path (R112, R120, R317, R324).
-/
namespace Sys2Proof.Machine

/-- The word names the special %clk. -/
def Form.readsClk (f : Form) : Bool := f.srcs.any fun a => a.1 == .spec 247

/-- An agent issues: its group or control thread is not held, and its context is Active (R44, R52, R130). -/
def State.env? (s : State) (ag : Agent) (gd : Guard) (rdClk : Bool) : Option Env :=
  match s.unit? ag, s.wgOf ag with
  | some u, some wid =>
    match s.wg? wid with
    | none => none
    | some wg =>
      match s.kernel? wg.kernel, u.clause, lanesOf u.path with
      | some kern, some cl, k0 :: _ =>
        let l := u.lane k0
        let ctl := match ag with | .ctl _ => true | _ => false
        let (gid, k) := match ag with | .strand g k => (g, k) | .ctl _ => (0, 0)
        let grp := (s.group? gid).getD Group.init
        let runs := (s.ctx kern.cx).st == .active && !(s.ctx kern.cx).restoring
          && (ctl || grp.st == .running || grp.st == .converging)
        if runs && l.inClause && cl.hdr == l.hdr then
          some
            { ag := ag, ctl := ctl, gid := gid, k := k, grp := grp
              ct := (s.ct? wid).getD CThread.init, wid := wid, wg := wg, kid := wg.kernel, kern := kern, cx := kern.cx
              core := s.coreOf ag, u := u, cl := cl, lane0 := l, path := u.path
              act := maskOf fun j => inMask u.path j && (u.lane j).passes gd
              clk := s.clk, rank := s.fab.rank, rdClk := rdClk }
        else none
      | _, _, _ => none
  | _, _ => none

/-! ### Field checks -/

/-- The engine class of an opcode (R310). -/
def classOf (opc : Nat) : Nat :=
  if opc < 0x28 then 0 else if opc < 0x60 then 1 else if opc < 0x80 then 2 else if opc < 0xB0 then 3
  else if opc < 0xC0 then 4 else if opc < 0xE0 then 5 else if opc < 0xF0 then 6 else 7

/-- The control transfers (R310). -/
def isTransfer (opc : Nat) : Bool := opc == 0x90 || opc == 0x91 || opc == 0x92 || opc == 0x93 || opc == 0x96 || opc == 0x9A

/-- The opcodes a stream may issue (R331). -/
def permitted (ctl : Bool) (opc : Nat) : Bool :=
  if ctl then
    decide (opc < 0x28) || opc == 0x90 || opc == 0x91 || opc == 0x92 || opc == 0x93 || opc == 0x96 || opc == 0x97
      || opc == 0x98 || opc == 0x9F || opc == 0x9A || opc == 0xA6 || opc == 0xB0 || opc == 0xB1 || opc == 0xB6
      || opc == 0xB7 || opc == 0xB9 || opc == 0xBB || opc == 0xBC || (decide (0xD0 ≤ opc) && decide (opc < 0xD7))
      || opc == 0xF0
  else !(decide (0xD0 ≤ opc) && decide (opc < 0xD7))

/-- Registers that a use takes. -/
def tyWords : Ty → Nat
  | .b128 => 4
  | ty => if ty.is64 then 2 else 1

/-- A register index of a use, in its stream (R315, R316, R401): pairs and quads are aligned; c registers are not paired. -/
def regOk (ctl : Bool) (size n : Nat) (ty : Ty) : Bool :=
  if ctl then decide (n < 64) && ty != .b128
  else n % tyWords ty == 0 && decide (n + tyWords ty ≤ size)

/-- A source in its stream and clause (R315, R320, R325). -/
def srcOk (ctl : Bool) (cl : Clause) (w : Nat) (a : Src × Ty) : Bool :=
  match a.1 with
  | .reg n => regOk ctl 240 n a.2
  | .spec _ => a.2 != .b128
  | .g n => !ctl && regOk false 64 n a.2
  | .lat r hi => decide (cl.cls ≤ 2) && decide (r + 1 ≤ w) && !(hi && a.2.is64)
  | .const _ => true
  | .lit j => decide (j < cl.lits.length) && !(a.2.is64 && j % 2 == 1)

/-- A destination in its stream (R316). -/
def dstOk (ctl : Bool) (d : Dst × Ty) : Bool :=
  match d.1 with
  | .reg n => regOk ctl 240 n d.2
  | .g n => !ctl && regOk false 64 n d.2
  | .lat0 => true

/-- The fields of a word in its stream and clause, beyond what decoding tests (R310, R313 to R325). -/
def Form.ok (f : Form) (ctl : Bool) (cl : Clause) (w : Nat) : Bool :=
  let last := w + 1 == cl.words.length
  (classOf f.opc == cl.cls || (last && isTransfer f.opc)) && (!isTransfer f.opc || last)
    && (!ctl || f.gd == .always)
    && f.srcs.all (srcOk ctl cl w) && f.dsts.all (dstOk ctl)
    && f.gsrc.all (fun g => decide (g.1 + g.2 ≤ 64) && (g.2 != 2 || f.opc != 0xE0 || g.1 % 2 == 0))
    && (!ctl || (f.psrc.all (· < 64) && f.pdst.all (· < 64)))

/-- The cause that the word's own fields raise at every lane of the path (R323). -/
def Form.cause (f : Form) (ctl : Bool) (cl : Clause) (w : Nat) : Option Cause :=
  if !permitted ctl f.opc then some .illegalOpcode
  else if !f.ok ctl cl w then some .illegalEncoding
  else none

/-! ### Registers of a word -/

/-- The vector registers a word names: first register and count. -/
def Form.vregs (f : Form) : List (Nat × Nat) :=
  (f.srcs.filterMap fun a => match a.1 with | .reg n => some (n, tyWords a.2) | _ => none)
    ++ (f.dsts.filterMap fun a => match a.1 with | .reg n => some (n, tyWords a.2) | _ => none) ++ f.vsrc ++ f.vdst

/-- The g registers a word names. -/
def Form.gregs (f : Form) : List (Nat × Nat) :=
  (f.srcs.filterMap fun a => match a.1 with | .g n => some (n, tyWords a.2) | _ => none)
    ++ (f.dsts.filterMap fun a => match a.1 with | .g n => some (n, tyWords a.2) | _ => none) ++ f.gsrc

/-- A vector index is at or above the allotment (R126). -/
def Form.beyond (f : Form) (e : Env) : Bool := !e.ctl && f.vregs.any fun r => decide (e.grp.regs < r.1 + r.2)

/-- A write that has yet to land meets a register of the word (R327). -/
def Form.meets (f : Form) (e : Env) (ag : Agent) (w : RegWrite) : Bool :=
  match w with
  | .vreg n _ _ => ag == e.ag && f.vregs.any fun r => decide (r.1 ≤ n) && decide (n < r.1 + r.2)
  | .greg n _ => f.gregs.any fun r => decide (r.1 ≤ n) && decide (n < r.1 + r.2)
  | .creg n _ => f.vregs.any (fun r => r.1 == n) || f.psrc.contains n || f.pdst.contains n

/-- The clause waits on a slot: its first word does not issue (R327). -/
def State.slotWait (s : State) (e : Env) : Bool := e.u.stall.isNone && e.lane0.cwi == 0 && (s.slotsSet e.ag &&& e.cl.wait) != 0

/-- The word waits for a result that is not yet known (R327). -/
def State.scoreboardWait (s : State) (e : Env) (f : Form) : Bool :=
  s.pend.any fun p => sameGroup p.ag e.ag && p.writes.any (f.meets e p.ag)

/-- Bytes [lo, hi) of a core's store overlap a recorded range (R206, R207). -/
def State.rangeHit (s : State) (core lo hi : Nat) : Bool :=
  s.ranges.any fun r => r.core == core && !r.saved && decide (r.lo < hi) && decide (lo < r.hi)

/-- A core's range scoreboard has no free entry (R206). -/
def State.rangesFull (s : State) (core : Nat) : Bool := decide (64 ≤ (s.ranges.filter fun r => r.core == core && !r.saved).length)

/-- A register of the word overlaps a recorded range (R207, R363). -/
def State.rangeWait (s : State) (e : Env) (f : Form) : Bool :=
  !e.ctl && f.vregs.any fun r => (List.range r.2).any fun j =>
    let lo := e.grp.base + 4 * ((r.1 + j) * e.grp.width + 8 * e.k)
    s.rangeHit e.core lo (lo + 32)

/-- The word stalls for a clk, by what counter `n` of performance counts (R457). -/
def State.stallTick (s : State) (n : Nat) : State := { s.tick with stallOn := some n }

/-! ### What an issue does -/

/-- The outcome of a lane, if the word was active there. -/
def outOf (outs : List LaneOut) (l : Nat) : Option LaneOut := outs.find? fun o => o.lane == l

/-- R120: the g results are those of the lowest active lane; a lane whose g results differ has NONUNIFORM_OPERAND. Where that lane
itself raises a cause, the lowest lane without one takes its place (DESIGN CHOICE, log entry 112). The generator of every active lane has
stepped (R296, R297). -/
def gResolve (outs : List LaneOut) : List LaneOut :=
  let gs := fun (o : LaneOut) => o.res.filter Res.isG
  match outs.find? fun o => o.cause.isNone || o.late with
  | none => outs
  | some o => outs.map fun x =>
    if (x.cause.isNone || x.late) && gs x != gs o then { LaneOut.bad x.lane .nonuniformOperand with gen := x.gen } else x

/-- The lane after the word (R324): a cause keeps its latches, SATURATION has shifted them; otherwise it goes on. -/
def Lane.after (l : Lane) (o : Option LaneOut) (next : Nat × Bool) : Lane :=
  match o with
  | none => (l.shift 0).goto next
  | some o =>
    let l := match o.gen with | some g => { l with gen := g } | none => l
    match o.cause with
    | none => (l.shift o.lat).goto next
    | some (c, a, f) => if o.late then (l.shift o.lat).park c a f else l.park c a f

/-- The register results of a lane, as writes to land (R327). -/
def Res.lands (ctl : Bool) (l : Nat) (r : Res) : List RegWrite :=
  match r with
  | .d32 (.reg n) v => if ctl then [.creg n (v.setWidth 64)] else [.vreg n l v]
  | .d64 (.reg n) v => if ctl then [.creg n v] else [.vreg n l (lo32 v), .vreg (n + 1) l (hi32 v)]
  | .d32 (.g n) v => [.greg n v]
  | .d64 (.g n) v => [.greg n (lo32 v), .greg (n + 1) (hi32 v)]
  | _ => []

/-- The writes of a lane: its predicates at once, its registers at once or as a long-latency result. -/
def State.putAll (s : State) (ag : Agent) (long : Bool) (o : LaneOut) : State :=
  o.res.foldl (fun s r => match r with | .p _ _ => s.put ag o.lane r | _ => if long then s else s.put ag o.lane r) s

/-- Counter `n` of performance of a core rises (R457). -/
def State.count (s : State) (cx core n k : Nat) : State :=
  s.modCtx cx fun c => { c with perf := tabSet c.perf (8 * core + n) (tabGet c.perf 0 (8 * core + n) + BitVec.ofNat 64 k) }

/-- The pipe of an engine class (R109); the matrix words of control threads have the quad control core. -/
def pipeOf (cls : Nat) : Nat :=
  match cls with
  | 0 => 0
  | 1 => 0
  | 2 => 1
  | 3 => 2
  | 7 => 2
  | 5 => 4
  | _ => 3

/-- The word that issues. -/
def Env.word (e : Env) : W64 := nth e.cl.words e.lane0.cwi 0

/-- The pipe of a word at a place in a clause: that of the clause's class, and the flow unit for a control transfer at its end (R109, R310). -/
def Clause.pipe (c : Clause) (cwi : Nat) : Nat :=
  let opc := (nth c.words cwi 0).toNat / 2^56
  if cwi + 1 = c.words.length ∧ (opc ≤ 0x9A ∧ 0x90 ≤ opc ∧ opc ∉ [0x94, 0x95, 0x97, 0x98, 0x99]) then 2 else pipeOf c.cls

/-- The pipe of the word that issues. -/
def Env.pipe (e : Env) : Nat := e.cl.pipe e.lane0.cwi

/-- No strand of the core has issued on the word's pipe in this clk: the word opens an issue slot (R110, R457). -/
def State.opensSlot (s : State) (e : Env) : Bool :=
  !s.groups.any fun (_, g) => g.core == e.core && g.strands.any fun u => u.last == some s.clk && u.lastPipe == e.pipe

/-- Words that share their clk with no other issue, but under R110: those that act on barriers, sample groups, queues, engines, system
registers and saturation counters, stores and atomics, which may meet a register block, and `exit`. Their order within one clk, which R9, R163,
R177, R362, R393 and R395 fix, is then the order of clks. -/
def isLone (opc : Nat) : Bool := opc == 0x5B || opc == 0x96 || opc == 0xB1 || opc == 0xB6 || opc == 0xB7 || (decide (0x9B ≤ opc) && decide (opc < 0xB0)) || decide (0xBA ≤ opc)

/-- The word has issued: the strand's latest issue is noted (R17, R110), the issue is counted, with the slot that it opens, and one clk
passes (R317, R457). -/
def State.issued (s : State) (e : Env) : State :=
  let t := s.modUnit e.ag fun u => { u with last := some s.clk, lastPipe := e.pipe, lone := isLone (e.word.toNat / 2^56), since := none, asked := none, part := [] }
  if e.ctl then t.tick else ((t.count e.cx e.core 0 1).count e.cx e.core 1 (if s.opensSlot e then 1 else 0)).tick

/-- The word has issued with these outcomes: results are written, latches shift, every lane of the path that has no cause
goes to `next`, and the lanes with causes trap (R47 to R49). `long`: register results are long-latency (R327). -/
def State.finishTo (s : State) (e : Env) (outs : List LaneOut) (long : Bool) (next : Nat → Nat × Bool) : State :=
  let outs := gResolve outs
  let good := outs.filter fun o => o.cause.isNone || o.late
  let s := good.foldl (fun s o => s.putAll e.ag long o) s
  let ws := good.flatMap fun o => o.res.flatMap (Res.lands e.ctl o.lane)
  let s := if long && !ws.isEmpty then
      { s with pend := s.pend ++ [⟨s.nextId, e.ag, e.cl.slot, true, ws⟩], nextId := s.nextId + 1 } else s
  let s := s.modUnit e.ag fun u =>
    { u.mapLanes (inMask e.path) (fun k l => (e.seen k l).after (outOf outs k) (next k)) with swash := min 511 (u.swash + 1) }
  let s := s.issued e
  s.resettle e.ag e.lane0.pc (outs.any fun o => o.cause.isSome)

/-- The word has issued and control goes on to the next word. -/
def State.finish (s : State) (e : Env) (outs : List LaneOut) (long : Bool := false) : State :=
  s.finishTo e outs long fun k => e.cl.next (e.u.lane k)

/-- Every lane of the path raises a cause; the word reads nothing (R323). -/
def State.raisePath (s : State) (e : Env) (c : Cause) : State :=
  s.finish { e with rdClk := false } ((lanesOf e.path).map fun l => .bad l c)

/-- Every active lane raises a cause. -/
def State.raiseAct (s : State) (e : Env) (c : Cause) (taddr : W64 := 0) : State :=
  s.finish e ((lanesOf e.act).map fun l => .bad l c taddr)

/-- The word has a g-register destination. -/
def Form.writesG (f : Form) : Bool := f.dsts.any fun d => match d.1 with | .g _ => true | _ => false

/-- An index that R455 lists. -/
def sysListed (n : Nat) : Bool := decide (n ≤ 9) || (decide (0x10 ≤ n) && decide (n ≤ 0x17)) || (decide (0x40 ≤ n) && decide (n ≤ 0x4F))

/-- An index of a word that raises ILLEGAL_ENCODING at the active lanes, before every other cause of theirs (R46, R455, R457). -/
def badIndex : Instr → Bool
  | .sysrd _ _ idx => !sysListed idx
  | .syswr _ _ idx => !sysListed idx
  | .perfc _ _ n => decide (8 ≤ n)
  | _ => false

/-- A value that a field of the word gives is not allowed: every lane of the path raises ILLEGAL_ENCODING (R366, R367, R376, R323). -/
def badField (i : Instr) (e : Env) : Bool :=
  match i with
  | .bfly _ _ _ m => !([1, 2, 4, 8, 16, 32].contains (e.n .i32 m 0))
  | .bra _ t a cond => e.n .i32 t 0 % 8 != 0 || (cond != .always && e.ctl && !srcOk true e.cl e.lane0.cwi (a, .i64))
  | .call _ _ t x => !x && e.n .i32 t 0 % 8 != 0
  | .slack _ d _ sx => d == sx
  | .sgq _ _ _ sel => decide (0x80 ≤ e.n .i32 sel 0) || (decide (0x10 ≤ e.n .i32 sel 0) && decide (e.n .i32 sel 0 < 0x40))
  | _ => false

/-! ### Uniform operands -/

/-- R119: the lanes whose operands equal those of the lowest active lane, and the causes of the others. -/
def Env.uniform (e : Env) (vals : Nat → List W64) : BitVec 8 × List LaneOut :=
  let v := vals e.low
  (maskOf fun l => inMask e.act l && vals l == v,
    ((lanesOf e.act).filter fun l => vals l != v).map fun l => .bad l .nonuniformOperand)

/-- Lanes of a mask with no result. -/
def done (m : BitVec 8) : List LaneOut := (lanesOf m).map fun l => .ok l [] 0

/-- Lanes of a mask with one cause. -/
def allBad (m : BitVec 8) (c : Cause) (taddr : W64 := 0) : List LaneOut := (lanesOf m).map fun l => .bad l c taddr

/-- Lanes of a mask with one predicate result. -/
def allPd (m : BitVec 8) (p : Nat) (b : Bool) : List LaneOut := (lanesOf m).map fun l => .ok l [.p p b] (if b then 1 else 0)

/-- The lanes of a word with a g destination that does not cover U (R120): UNIFORM_DIVERGENT, but where a uniform operand differs
NONUNIFORM_OPERAND, which comes first (R46, R372). -/
def Env.divergent (e : Env) (i : Instr) : List LaneOut :=
  let (m, bads) := match i with
    | .bcast _ _ _ b _ => e.uniform fun l => [e.src .i32 b l]
    | _ => (e.act, [])
  bads ++ allBad m .uniformDivergent

/-- A word's issue: the checks of its fields, its waits, and then `body`. -/
def State.word (s : State) (i : Instr) (body : Env → State → Out) : Out :=
  match s.focus, formOf? i with
  | some ag, some f =>
    let s := s.landReady ag
    match s.env? ag f.gd f.readsClk with
    | none => .fault .notReady
    | some e =>
      if s.slotWait e then .next s.tick
      else match f.cause e.ctl e.cl e.lane0.cwi <|> (if badField i e then some .illegalEncoding else none) with
      | some c => .next (s.raisePath e c)
      | none =>
        if e.u.stall.isNone && s.scoreboardWait e f then .next s.tick
        else if e.u.stall.isNone && s.rangeWait e f then .next (s.stallTick 5)
        else if e.act != 0 && (f.beyond e || badIndex i) then .next (s.raiseAct e .illegalEncoding)
        else if f.writesG && e.act != 0 && !e.coversU then .next (s.finish e (e.divergent i))
        else body e s
  | _, _ => .fault .notReady

/-- A word that computes each active lane's results from that lane's operands. -/
def State.lanewise (s : State) (i : Instr) (f : Env → Nat → LaneOut) : Out :=
  s.word i fun e s => .next (s.finish e ((lanesOf e.act).map (f e)))

/-- A word with one register result of a type. -/
def State.alu (s : State) (i : Instr) (d : Dst) (ty : Ty) (f : Env → Nat → W64) : Out :=
  s.lanewise i fun e l => .reg l d ty (f e l)

/-- Residue mismatches of a core are counted and reported, each of them (R306, R510). -/
def State.mismatch (s : State) (core : Nat) : Nat → State
  | 0 => s
  | n + 1 =>
    let s := { s with mgmt := { s.mgmt with residue := tabSet s.mgmt.residue core (tabGet s.mgmt.residue 0 core + 1) } }
    (s.report 5 (leBytes 8 (core / 256) ++ leBytes 8 (core % 256))).mismatch core n

/-- A lane-wise word whose multiplication is checked modulo 3 while CTXMODE.RES is set (R305): a lane with a mismatch raises
RESIDUE and writes nothing (R306); NONUNIFORM_OPERAND at a g destination comes before it (R46). -/
def State.checked (s : State) (i : Instr) (f : Env → Nat → LaneOut) : Out :=
  s.word i fun e s =>
    let up := if (s.ctx e.cx).res then s.upset &&& e.act else 0
    let outs := (gResolve ((lanesOf e.act).map (f e))).map fun o => if inMask up o.lane && o.cause.isNone then .bad o.lane .residue else o
    .next (({ s with upset := 0 }.mismatch e.core (lanesOf up).length).finish e outs)

/-- A checked word with one register result of a type. -/
def State.mul (s : State) (i : Instr) (d : Dst) (ty : Ty) (f : Env → Nat → W64) : Out :=
  s.checked i fun e l => .reg l d ty (f e l)

end Sys2Proof.Machine
end

