-- ==== Sys2Proof/Machine/Flags.lean ====
section
/-!
DEFINITION. Conditions and carries: the tests of `icmp` (R347), `bra` (R377) and `vote` (R370), and the carry and borrow of
`iaddc` and `isubb` (R348). SK-8 has no flag register: results of tests are predicates.
-/
namespace Sys2Proof.Machine

/-- The condition of `icmp` on two integers (R344, R347). -/
def icond (c : ICond) (x y : Int) : Bool :=
  match c with
  | .eq => x == y
  | .ne => x != y
  | .lt => decide (x < y)
  | .le => decide (x ≤ y)
  | .gt => decide (y < x)
  | .ge => decide (y ≤ x)

/-- The test of `bra` on its condition value (R377). -/
def braTest (c : BraCond) (x : Int) : Bool :=
  match c with
  | .always => true
  | .z => x == 0
  | .nz => x != 0
  | .neg => decide (x < 0)
  | .nneg => decide (0 ≤ x)

/-- Sum with carry in, and carry out (R348). -/
def addCarry (a b : Nat) (c : Bool) : W32 × Bool :=
  let x := a + b + (if c then 1 else 0)
  (BitVec.ofNat 32 x, decide (2^32 ≤ x))

/-- Difference with borrow in, and borrow out (R348). -/
def subBorrow (a b : Nat) (c : Bool) : W32 × Bool :=
  let x : Int := (a : Int) - b - (if c then 1 else 0)
  (BitVec.ofInt 32 x, decide (x < 0))

/-- A guard-like negation of a predicate source (R367). -/
def negIf (n : Bool) (b : Bool) : Bool := n != b

end Sys2Proof.Machine
end

