-- ==== Sys2Proof/Machine/Access.lean ====
section
/-!
DEFINITION. Accesses of device code: the checks of R399 in the order of R46, where an access lands, the waits of R207, R216
and R241, and the store queue (R191, R196, R404).
-/
namespace Sys2Proof.Machine

/-! ### The lease (R95 to R97, R232) -/

/-- The declared ranges and the implicit ones that carry a right, as first address and end (R95, R96). -/
def Kernel.spans (k : Kernel) (write : Bool) : List (Nat × Nat) :=
  ((k.ranges.filter fun r => r.len != 0 && (if write then r.write else r.read)).map fun r => (r.base, r.base + r.len))
    ++ (if write then [] else
      [(k.code, k.code + k.codelen), (k.params, k.params + k.plen)] ++ (if k.pcopy = 0 then [] else [(k.pcopy, k.pcopy + k.plen)]))

/-- Ranges that together cover [a, z). -/
def covers (rs : List (Nat × Nat)) : Nat → Nat → Nat → Bool
  | 0, a, z => decide (z ≤ a)
  | n + 1, a, z =>
    if z ≤ a then true
    else match rs.find? fun r => decide (r.1 ≤ a) && decide (a < r.2) with
      | some r => covers rs n r.2 z
      | none => false

/-- Bytes a to a + n − 1 lie in ranges of a kernel with a right. -/
def Kernel.leases (k : Kernel) (write : Bool) (a n : Nat) : Bool :=
  let rs := k.spans write
  covers rs (rs.length + 1) a (a + n)

/-! ### Views of the unified store (R181, R182) -/

/-- An area of a view. -/
inductive Area where
  | wwin | awin | stage
  deriving DecidableEq, Repr

/-- The area of a workgroup's run that holds view offsets o to o + n − 1, and their run offset. -/
def Kernel.area (k : Kernel) (o n : Nat) : Option (Area × Nat) :=
  let w := 4096 * k.wsz
  let a := 4096 * k.asz
  let st := 4096 * k.ssz
  if o < 0x10000 then none
  else
    let r := o - 0x10000
    if r + n ≤ w then some (.wwin, r)
    else if w ≤ r && r + n ≤ w + a then some (.awin, r)
    else if w + a ≤ r && r + n ≤ w + a + st then some (.stage, r)
    else none

/-- The base of a workgroup's run on a core (256 × die + %core), if the workgroup occupies the core. -/
def Workgroup.runOn (w : Workgroup) (core : Nat) : Option Nat :=
  if decide (w.coreAt 0 ≤ core) && decide (core < w.coreAt 0 + w.ncores) then w.runs[core - w.coreAt 0]? else none

/-- The core that a window selector names for an issuing core (R28). -/
def windowCore (issuer sel peer : Nat) : Nat := if sel = 0 then issuer else issuer / 4 * 4 + peer

/-- Where an access lands. -/
inductive Loc where
  | phys (a : Nat) (shared : Bool) (repl : Option Nat)   -- repl: the die whose replica a load reads (R214)
  | win (o : Nat)            -- byte o of the issuing group's register window
  | block (a : Nat)          -- a register block
  | held                     -- the walk stalls (R266)
  deriving DecidableEq, Repr

/-- The rights of an access: reads, and writes (an atomic and a `cas` only write: R97, R399). -/
structure Need where
  rd : Bool
  wr : Bool
  atomic : Bool

def Need.load : Need := ⟨true, false, false⟩
def Need.store : Need := ⟨false, true, false⟩
def Need.rmw : Need := ⟨false, true, true⟩

/-- A window access (R181, R182). -/
def Env.window (e : Env) (sel peer o n : Nat) (need : Need) : Except Cause Loc :=
  let core := windowCore e.core sel peer
  if o < 0x10000 then
    if sel = 0 && !e.ctl && decide (o + n ≤ 4 * e.grp.regs * e.grp.width) then .ok (.win o) else .error .permission
  else
    match e.wg.runOn core, e.kern.area o n with
    | some base, some (area, r) =>
      if area = .wwin && need.wr then .error .permission else .ok (.phys (storePhys core (base + r)) false none)
    | _, _ => .error .permission

/-- The home die of a page of the own HBM node: the die that holds its frame (R184, R237). -/
def homeDie (a : Nat) : Nat := (((segOf (a % 2^48)).map segDie).getD 0) % 8

/-- The die whose replica a load by a core reads (R214): its own where the page has one there, the home die otherwise; none where the
page is not Replicated. -/
def State.replicaDie (s : State) (cx va : Nat) (l : Leaf) (core a : Nat) : Option Nat :=
  if s.pageState cx va l == 4 then
    some (if bitAt (s.page cx (l.page va)).repset (core / 256) then core / 256 else homeDie a)
  else none

/-- Where the replica of a byte at home address `a` lies on a die (R214, R236): on the home die, and where no replica is kept, at home. -/
def State.replAddr (s : State) (d a : Nat) : Nat :=
  (s.pages.findSome? fun p => match p.repl.find? fun r => r.1 == d, s.leaf p.cx p.vpage with
    | some r, .ok l =>
      let (b, n) := s.frames p.vpage l
      if b ≤ a ∧ a < b + n ∧ p.vpage / 2^62 = 2 then some (tensorPhys s.fab.rank (r.2 + (a - b))) else none
    | _, _ => none).getD a

/-- Where a load finds its bytes: in the replica that it reads. -/
def State.readsAt (s : State) (a : Nat) (repl : Option Nat) : Nat := match repl with | some d => s.replAddr d a | none => a

/-- A paged access to control space or the own rank: LEASE, PERMISSION, INTEGRITY (R399). A lane that raises PERMISSION drops
the translation (R225). -/
def State.paged (s : State) (e : Env) (tlbs : List Nat) (va n : Nat) (need : Need) : Except Cause Loc × State :=
  if !((!need.rd || e.kern.leases false va n) && (!need.wr || e.kern.leases true va n)) then (.error .lease, s)
  else if (tlbs.findSome? fun u => s.tlbHit u e.cx va).isNone && s.walkHeld e.cx va then (.ok .held, s)
  else
    match (s.walkRequest e.core tlbs e.cx va).translate tlbs e.unit e.cx va with
    | (.error _, s) => (.error .permission, s.tlbDrop tlbs e.cx va)
    | (.ok lf, s) =>
      if (need.rd && !pteRd lf.pte) || (need.wr && !pteWr lf.pte) then (.error .permission, s.tlbDrop tlbs e.cx va)
      else
        let a := s.physBy e.cx va lf.pte lf.psize false
        if (need.rd || need.atomic) && !s.bytesGood e.cx a n then (.error .integrity, s)
        else
          let repl := s.replicaDie e.cx va lf e.core a
          (.ok (.phys a ((s.page e.cx (lf.page va)).shared || repl.isSome) repl), s)

/-- The checks of one access of device code in the spaces of `ld` (R398, R399): ALIGN, ADDR_TAG, LEASE, PERMISSION,
INTEGRITY. -/
def State.locate (s : State) (e : Env) (tlbs : List Nat) (va n align : Nat) (need : Need) : Except Cause Loc × State :=
  if va % align != 0 then (.error .align, s)
  else
    match spaceOf s.fab va with
    | none => (.error .addrTag, s)
    | some (.other _ _) => (.error .addrTag, s)
    | some (.window sel peer o) => (e.window sel peer o n need, s)
    | some .block => (.ok (.block va), s)
    | some (.own o) => if inHbm o then s.paged e tlbs va n need else (.error .addrTag, s)
    | some .ctl => s.paged e tlbs va n need

/-- An access of device code that is translated by the core (R224); a control thread's core is relative core 0. -/
def Env.tlbs (e : Env) : List Nat := coreTlbs e.core

/-! ### The control-space agents (R193, R197, R198) -/

/-- The die of a unit's accesses; 8 for the host cores and the device's own writes. -/
def unitDie (u : Nat) : Nat := if u < 2048 then u / 256 else if u < 2560 then (u - 2048) / 64 else 8

/-- The state of a line in the agent of a die. -/
def State.dirAt (s : State) (die x : Nat) : Moesi := tabGet s.dir .invalid (8 * (x / 64) + die)

/-- `s` with the state of a line in the agent of a die set. -/
def State.setDir (s : State) (die x : Nat) (m : Moesi) : State := { s with dir := tabSet s.dir (8 * (x / 64) + die) m }

/-- A core of a die may still read its copy of a line: its agent does not acknowledge yet (R193). -/
def State.dieHolds (s : State) (die x : Nat) : Bool :=
  s.l1.any fun l => l.core / 256 == die && l.line == x && !l.priv && decide ((s.ptsOf l.core).toNat ≤ l.lease.toNat)

/-- A die's agent grants no new lease on a line until it has acknowledged. -/
def State.noLease (s : State) (die x : Nat) : State :=
  if s.inval.contains (die, x) then s else { s with inval := s.inval ++ [(die, x)] }

/-- The other dies whose agents have yet to acknowledge before an access to a control-space line (R193): the invalidation of every copy
before a write, the downgrade of the owner's before a read. -/
def State.agentsIn (s : State) (die a : Nat) (write : Bool) : List Nat :=
  if a < 2^43 then
    (List.range 8).filter fun d =>
      let m := s.dirAt d (lineOf a)
      d != die && (if write then m != .invalid else m == .modified || m == .exclusive) && s.dieHolds d (lineOf a)
  else []

/-- The invalidations or downgrades that an access asks for are under way. -/
def State.askAgents (s : State) (die a : Nat) (write : Bool) : State :=
  (s.agentsIn die a write).foldl (fun s d => s.noLease d (lineOf a)) s

/-- The directory after a read of a control-space line by a die (R193): an owner elsewhere keeps a shared copy, and the die has the line. -/
def State.ctlShare (s : State) (die a : Nat) : State :=
  let x := lineOf a
  if 2^43 ≤ a ∨ s.dirAt die x != .invalid then s
  else
    let others := (List.range 8).filter fun d => s.dirAt d x != .invalid
    let s := others.foldl (fun s d => match s.dirAt d x with
      | .modified => s.setDir d x .owned
      | .exclusive => s.setDir d x .shared
      | _ => s) s
    let s := { s with inval := s.inval.filter fun p => p != (die, x) }
    if 8 ≤ die then s else s.setDir die x (if others.isEmpty then .exclusive else .shared)

/-- The directory after a write of a control-space line by a die (R193): the die owns it, and no other has a copy. -/
def State.ctlOwn (s : State) (die a : Nat) : State :=
  let x := lineOf a
  if 2^43 ≤ a then s
  else
    let s := ((List.range 8).filter fun d => d != die && s.dirAt d x != .invalid).foldl (fun s d => s.setDir d x .invalid) s
    let s := { s with
      inval := s.inval.filter fun p => p.2 != x
      l1 := s.l1.filter fun l => l.line != x || l.core / 256 == die }
    if 8 ≤ die then s else s.setDir die x .modified

/-! ### Waits -/

/-- Updates of a Replicated page that cover bytes [a, a + n). -/
def State.repsOn (s : State) (a n : Nat) : List RepUpdate :=
  s.reps.filter fun r => decide (r.addr < a + n) && decide (a < r.addr + r.bytes.length)

/-- The first update of a line that the replica of a die has yet to apply (R215): they apply in ascending time. -/
def State.nextRep (s : State) (d a : Nat) : Option RepUpdate :=
  ((s.repsOn (lineOf a) 64).filter fun r => r.dies.contains d).foldl (fun m r => match m with
    | none => some r
    | some x => if r.t.toNat < x.t.toNat then some r else some x) none

/-- The time of the version of a line that a replica holds, and the bound up to which it may grant leases on it (R216). -/
def State.repTimes (s : State) (d a : Nat) : W64 × W64 :=
  match s.nextRep d a with
  | some r => (r.prev, r.bound)
  | none => ((s.lineTime (lineOf a)).wts, (s.lineTime (lineOf a)).rts)

/-- A load of a Replicated page waits (R216): an update of the line is pending, and the load's time lies beyond the bound of the version
that its replica holds. -/
def State.replicaWait (s : State) (u a : Nat) (repl : Option Nat) : Bool :=
  match repl with
  | none => false
  | some d =>
    let t := s.repTimes d a
    !(s.repsOn (lineOf a) 64).isEmpty && (s.l1Copy u (lineOf a)).isNone && decide (t.2.toNat < (umax64 (s.ptsOf u) t.1).toNat)

/-- A result yet to land meets bytes of the group's register window (R327, R403). -/
def State.winPending (s : State) (e : Env) (o n : Nat) : Bool :=
  s.pend.any fun p => p.writes.any fun w => match p.ag, w with
    | .strand g k, .vreg r l _ =>
      let b := 4 * (r * e.grp.width + 8 * k + l)
      g == e.gid && decide (b < o + n) && decide (o < b + 4)
    | _, _ => false

/-- The agents of control space keep a load or an atomic waiting (R193): another die has to acknowledge first, or its own die grants no
lease on the line until it has acknowledged. -/
def State.agentWait (s : State) (u a : Nat) (need : Need) : Bool :=
  let d := unitDie u
  ((need.rd || need.atomic) && !(s.agentsIn d a need.atomic).isEmpty)
    || (need.rd && s.inval.contains (d, lineOf a) && s.dieHolds d (lineOf a) && (s.l1Copy u (lineOf a)).isNone)

/-- The segment of an access: of a load, where the bytes lie that it reads (R241). -/
def State.accessAt (s : State) (need : Need) (a : Nat) (repl : Option Nat) : Nat := if need.rd then s.readsAt a repl else a

/-- The access waits: a recorded range (R207), a segment that is not Active (R241), a home whose directory is being rebuilt (R266), a
control-space agent (R193), or an update of a Replicated page (R216): for an atomic, any. -/
def State.mustWait (s : State) (e : Env) (n : Nat) (need : Need) (l : Loc) : Bool :=
  match l with
  | .phys a shared repl =>
    (isStore a && s.rangeHit ((a - 2^62) / 2^20) (a % 2^20) (a % 2^20 + n))
      || !s.segReady (s.accessAt need a repl) || s.rebuilding a || (shared && s.agentWait e.unit a need)
      || (need.rd && s.replicaWait e.unit a repl) || (need.atomic && repl.isSome && !(s.repsOn (lineOf a) 64).isEmpty)
  | .win o => s.rangeHit e.core (e.grp.base + o) (e.grp.base + o + n) || s.winPending e o n
  | .block _ => false
  | .held => true

/-- The counter of R457 that the wait of an access is one of: a recorded range, a segment that is not Active. -/
def State.waitKind (s : State) (e : Env) (n : Nat) (need : Need) (l : Loc) : Option Nat :=
  match l with
  | .phys a _ repl =>
    if isStore a && s.rangeHit ((a - 2^62) / 2^20) (a % 2^20) (a % 2^20 + n) then some 5
    else if !s.segReady (s.accessAt need a repl) then some 7 else none
  | .win o => if s.rangeHit e.core (e.grp.base + o) (e.grp.base + o + n) then some 5 else none
  | _ => none

/-- Starts what a waiting access needs: the wake of its segment (R241), the answers of the agents (R193). -/
def State.wakeLoc (s : State) (e : Env) (need : Need) (l : Loc) : State :=
  match l with
  | .phys a _ repl =>
    let s := s.wakeFor e.cx (s.accessAt need a repl)
    if need.rd || need.atomic then s.askAgents (unitDie e.unit) a need.atomic else s
  | _ => s

/-! ### Reads and writes -/

/-- Bytes with later bytes laid over them: `a` is the address of the first. -/
def overlay (a : Nat) (bs : List Byte) (b : Nat) (new : List Byte) : List Byte :=
  bs.mapIdx fun k x => if b ≤ a + k && a + k < b + new.length then nth new (a + k - b) x else x

/-- The bytes that a load of physical bytes by a unit finds (R189, R214): a replica holds the updates its die has applied. -/
def State.peekPhys (s : State) (u a n : Nat) (shared : Bool) (repl : Option Nat) : List Byte :=
  match repl with
  | none => s.peek u a n shared
  | some d =>
    if (s.repsOn (lineOf a) 64).isEmpty || (s.l1Copy u (lineOf a)).isSome then s.peek u a n true
    else (s.repsOn a n).foldl (fun bs r => if r.dies.contains d then bs else overlay a bs r.addr r.bytes) (memRead s.mem a n)

/-- What such a load does to logical time (R189, R216), the directory (R193) and the segment's last access (R240). -/
def State.timePhys (s s0 : State) (u a : Nat) (shared : Bool) (repl : Option Nat) : State :=
  let s := match repl with
    | none => s.readTime s0 u a shared
    | some d =>
      if (s.repsOn (lineOf a) 64).isEmpty || (s0.l1Copy u (lineOf a)).isSome then s.readTime s0 u a true
      else s.raisePts u (s.repTimes d a).1
  (s.ctlShare (unitDie u) a).touch (s.readsAt a repl)

/-- A load of physical bytes by a unit. -/
def State.loadPhys (s : State) (u a n : Nat) (shared : Bool) (repl : Option Nat) : List Byte × State :=
  (s.peekPhys u a n shared repl, s.timePhys s u a shared repl)

/-- A store performed at its home (R189) by unit `c`: to a line of a Private page it is held in the core's L1 (R184). -/
def State.storePhysBytes (s : State) (cx c a : Nat) (bs : List Byte) (shared : Bool) : State :=
  let s := ((((s.storeTime c a shared).ctlOwn (unitDie c) a).poke cx a bs)).touch a
  if shared then s else s.holdDirty c a

/-- Bytes become the content of memory, line by line (R187, R194). -/
def State.pokeLines (s : State) (cx a : Nat) (bs : List Byte) : Nat → State
  | 0 => s
  | n + 1 =>
    if bs.isEmpty then s
    else
      let k := 64 - a % 64
      (s.poke cx a (bs.take k)).pokeLines cx (a + k) (bs.drop k) n

/-- Bytes of any length become the content of memory. -/
def State.pokeAll (s : State) (cx a : Nat) (bs : List Byte) : State := s.pokeLines cx a bs (bs.length / 64 + 2)

/-! ### Control-space writes at home and mirror (R22, R265, R267) -/

/-- Where a part of a store lands when it is performed: the front of its page then (R200). -/
def State.landAt (s : State) (cx : Nat) (p : StorePart) : StorePart :=
  if isStore p.addr then p
  else match s.walk cx p.va with
    | .ok l => { p with addr := s.physBy cx p.va l.pte l.psize false }
    | .error _ => p

/-- A request that has been served counts in DLMISS, if it has a deadline (R246). -/
def State.servedAt (s : State) (due : Option (Nat × W64)) : State := match due with | some (i, t) => s.served i t | none => s

/-- A control-space write is performed: home and mirror hold it from this point in the single order on (R185, R265). -/
def State.homeLand (s : State) (h : HomeW) : State :=
  let ps := h.parts.map fun p => if h.byPage then s.landAt h.cx p else p
  ps.foldl (fun s p =>
    let s := s.storePhysBytes h.cx h.core p.addr p.bytes h.shared
    if h.ag.isSome then s else s.codeSees p.addr p.bytes.length) ({ s with homes := s.homes.filter fun x => x.id != h.id }.servedAt h.due)

/-- A control-space write reaches its home: one that has a mirror there is performed once the mirror has acknowledged it (R265). Until then the
home grants no lease on the new value, and no observer sees it. -/
def State.homeApply (s : State) (h : HomeW) : State :=
  if h.parts.any fun p => s.mirrored p.addr then
    { s with homes := (s.homes.filter fun x => x.id != h.id) ++ [{ h with applied := true }] }
  else s.homeLand h

/-- A control-space write, on its way to its home. -/
def State.homeSend (s : State) (ag : Option Agent) (cx core : Nat) (shared : Bool) (parts : List StorePart) (issued : W64)
    (due : Option (Nat × W64)) (byPage : Bool := true) : HomeW × State :=
  let h : HomeW := ⟨s.nextId, ag, byPage, cx, core, shared, parts, false, issued, due⟩
  (h, { s with homes := s.homes ++ [h], nextId := s.nextId + 1 })

/-- The unit of an agent. -/
def State.unitOf (s : State) (ag : Agent) : Nat := Machine.unitOf ag (s.coreOf ag)

/-- A control-space write on its way cannot be performed yet: the home's directory is being rebuilt (R266), or other dies have yet to
acknowledge (R193). -/
def State.homeHeld (s : State) (h : HomeW) : Bool :=
  h.parts.any fun p => s.rebuilding p.addr || !(s.agentsIn (unitDie h.core) p.addr true).isEmpty

/-- The other dies are asked to give up the lines of a control-space write. -/
def State.homeAsk (s : State) (h : HomeW) : State := h.parts.foldl (fun s p => s.askAgents (unitDie h.core) p.addr true) s

/-- Control-space writes on their way to their homes are performed in order, up to one that cannot be yet. -/
def State.homesFrom (s : State) : List HomeW → State
  | [] => s
  | h :: t => if s.homeHeld h then s.homeAsk h else (s.homeApply h).homesFrom t

/-- The agent's control-space writes on their way to their homes are performed, oldest first. -/
def State.homesOf (s : State) (ag : Agent) : State := s.homesFrom (s.homes.filter fun h => h.ag == some ag && !h.applied)

/-! ### The store queue (R191, R196, R404) -/

/-- The oldest store of an agent, if it has one, as it lands now. -/
def State.headStore (s : State) (ag : Agent) : Option QStore :=
  ((s.unit? ag).bind fun u => u.stores.head?).map fun q => { q with parts := q.parts.map (s.landAt (s.cxOf ag)) }

/-- The store leaves its queue. -/
def State.popStore (s : State) (ag : Agent) : State := s.modUnit ag fun u => { u with stores := u.stores.tail }

/-- Physical address of a request: of its first part. -/
def QStore.at_ (q : QStore) : Nat := (q.parts.head?.map fun p => p.addr).getD 0
/-- Virtual address of a request: of its first part. -/
def QStore.va (q : QStore) : Nat := (q.parts.head?.map fun p => p.va).getD 0

/-- The page of an address is Replicated. -/
def State.replicated (s : State) (cx va : Nat) : Bool :=
  match s.walk cx va with
  | .ok l => va / 2^62 == 2 && s.pageState cx va l == 4
  | .error _ => false

/-- The merge of a partial store to a line passes its check (R248, R404). -/
def State.mergeGood (s : State) (cx : Nat) (q : QStore) : Bool := q.whole || s.lineGood cx q.at_

/-- A store whose merge fails is discarded with its threads' later stores, and the kernel ends with INTEGRITY (R404). -/
def State.mergeFail (s : State) (ag : Agent) (kid : Nat) (q : QStore) : State :=
  let s := s.modUnit ag fun u =>
    { u with stores := (u.stores.map fun x =>
        { x with parts := x.parts.filter fun p => !(q.parts.any fun y => y.lane == p.lane) }).filter fun x => !x.parts.isEmpty }
  s.abortKernel kid ⟨BitVec.ofNat 8 (Cause.code .integrity), BitVec.ofNat 64 q.pc, BitVec.ofNat 64 q.va⟩

/-- The oldest store of an agent is performed (R191): one request takes one point in the single order (R194). -/
def State.performStore (s : State) (ag : Agent) : State :=
  match s.headStore ag, s.kidOf ag with
  | some q, some kid =>
    let cx := s.cxOf ag
    let s := s.popStore ag
    let shared := s.pageShared cx q.va
    if q.at_ < 2^43 then
      let (h, s) := s.homeSend (some ag) cx (s.unitOf ag) shared q.parts q.issued (some (s.coreOf ag, q.due))
      s.homeApply h
    else
      let s := s.served (s.coreOf ag) q.due
      if !s.mergeGood cx q then s.mergeFail ag kid q
      else q.parts.foldl (fun s p => s.storePhysBytes cx (s.unitOf ag) p.addr p.bytes shared) s
  | _, _ => s

/-- A store of another agent on its way to its home or to the replicas (R191). -/
def State.inFlight (s : State) (ag : Agent) : List W64 :=
  (s.homes.filterMap fun h => if h.ag == some ag then some h.issued else none)
    ++ s.reps.filterMap fun r => if r.ag == some ag then some r.issued else none

/-- A store that issued in the same slot in a strand of a lower number has yet to be performed (R186). -/
def State.storeBefore (s : State) (ag : Agent) (q : QStore) : Bool :=
  match ag, s.unit? ag with
  | .strand g _, some u =>
    let core := (s.group? g).map fun x => x.core
    s.groups.any fun (i, x) => some x.core == core && (List.range x.strands.length).any fun k =>
      let v := (nth x.strands k u)
      decide (v.slot < u.slot) && ((v.stores.any fun y => y.issued == q.issued) || (s.inFlight (.strand i k)).contains q.issued)
  | _, _ => false

/-- The oldest store of an agent cannot be performed yet: it is for the sequencer (R215), its segment is not Active (R241), its home's
directory is being rebuilt (R266), other dies have yet to acknowledge (R193), or one of its slot comes before it (R186). -/
def State.storeHeld (s : State) (ag : Agent) (q : QStore) : Bool :=
  s.storeBefore ag q || s.replicated (s.cxOf ag) q.va || !s.segReady q.at_ || s.rebuilding q.at_ || !(s.agentsIn (unitDie (s.unitOf ag)) q.at_ true).isEmpty

/-- What a held store waits for is under way. -/
def State.storeAsk (s : State) (ag : Agent) (q : QStore) : State :=
  (s.wakeFor (s.cxOf ag) q.at_).askAgents (unitDie (s.unitOf ag)) q.at_ true

/-- Up to `n` stores of an agent are performed, stopping at one that cannot be yet. -/
def State.drainFor (s : State) (ag : Agent) : Nat → State
  | 0 => s
  | n + 1 =>
    match s.headStore ag with
    | none => s
    | some q =>
      if s.storeHeld ag q || !(s.inFlight ag).isEmpty then s.storeAsk ag q
      else (s.performStore ag).drainFor ag n

/-- The stores of an agent are performed. -/
def State.drain (s : State) (ag : Agent) : State :=
  let s := s.homesOf ag
  match s.unit? ag with
  | none => s
  | some u => s.drainFor ag u.stores.length

/-- No store of the agent is left to perform, nor is one of its own on its way to its home or to the replicas. -/
def State.drained (s : State) (ag : Agent) : Bool := (s.headStore ag).isNone && (s.inFlight ag).isEmpty

/-- The agent's stores come first: when they cannot all be performed yet, the word stalls (R191). -/
def State.afterStores (s : State) (e : Env) (k : State → Out) : Out :=
  let s := s.drain e.ag
  match s.kernel? e.kid with
  | none => .next s.tick
  | some kn =>
    if kn.ending.isSome && (s.unit? e.ag).any (fun u => !u.live) then .next s.tick
    else if s.drained e.ag then k s
    else .next s.tick

end Sys2Proof.Machine
end

