-- ==== Sys2Proof/Machine/Tide.lean ====
section
/-!
DEFINITION. The tide map (R98, R237 to R242): wake and keep sets, PHASE, the timers, and the steps of its segments.
-/
namespace Sys2Proof.Machine

/-! ### Pages and segments of a range -/

/-- The leaves of bytes [a, z), each with the address it was found for: a leaf at a time, a whole page that is not resident or malformed, 4 KiB
where no leaf is found (R229). -/
def State.leavesOf (s : State) (cx : Nat) : Nat → Nat → Nat → List (Nat × Except Nat Leaf)
  | 0, _, _ => []
  | n + 1, a, z =>
    if z ≤ a then []
    else
      let r := s.walk cx a
      let span := match s.leaf cx a with | .ok l => (if pteNr l.pte then l.psize else l.span) | .error _ => s.faultSpan cx a
      (a, r) :: s.leavesOf cx n (a / span * span + span) z

/-- The leaves of a range of `len` bytes. -/
def State.rangeLeaves (s : State) (cx base len : Nat) : List (Nat × Except Nat Leaf) :=
  s.leavesOf cx (len / 4096 + 2) base (base + len)

/-- The segments of a leaf of the own rank: those of its frames. -/
def leafSegs (va : Nat) (l : Leaf) : List Nat :=
  if va / 2^62 = 2 then
    let f := pteFrame l.pte + l.base va % l.psize
    (segOf f).toList ++ (if pteDual l.pte then (segOf (f + l.psize)).toList else [])
  else []

/-- The segments that declared ranges touch, ascending (R98, R240). -/
def State.segsOf (s : State) (cx : Nat) (rs : List Range) : List Nat :=
  let found := rs.flatMap fun r => (s.rangeLeaves cx r.base r.len).flatMap fun (va, x) =>
    match x with
    | .ok l => leafSegs va l
    | .error _ => []
  (List.range 824).filter found.contains

/-- A kernel in Ranging to Draining (R240). -/
def KState.wakes : KState → Bool
  | .ranging => true
  | .ready => true
  | .dispatching => true
  | .running => true
  | .draining => true
  | _ => false

/-- The ranges of a context's kernels in Ranging to Draining. -/
def State.wakeRanges (s : State) (cx : Nat) : List Range :=
  (tabVals s.kernels).flatMap fun k => if k.cx == cx && k.st.wakes then k.ranges else []

/-- The wake set of a context (R240). -/
def State.wakeSet (s : State) (cx : Nat) : List Nat :=
  match s.wakeRanges cx with
  | [] => []
  | rs => s.segsOf cx rs

/-- The entry of PHASETAB of a context's phase (R239). -/
def State.phaseTab (s : State) (cx : Nat) : PhaseTab := nth s.mb.phasetab (s.ctx cx).phase.toNat (PhaseTab.init 0)

/-- The keep set of a context (R240). -/
def State.keepSet (s : State) (cx : Nat) : List Nat := (s.wakeSet cx).take (s.phaseTab cx).keep

/-- A segment starts to wake, unless it is Active. -/
def State.wakeSeg (s : State) (g : Nat) : State :=
  s.modSeg g fun x => if x.tide == .active then x else { x with waking := true }

/-- The controller pre-wakes the keep set of a context (R240). -/
def State.preWake (s : State) (cx : Nat) : State := (s.keepSet cx).foldl State.wakeSeg s

/-- PHASE is written (R39, R73): the keep set is pre-woken as the step ends (R240), of two writes in one clk for the one that stands (R7). -/
def State.setPhase (s : State) (cx v : Nat) : State := s.modCtx cx fun c => { c with phase := BitVec.ofNat 3 v, phased := true }

/-- The contexts whose wake sets hold a segment. -/
def State.wakers (s : State) (g : Nat) : List Nat :=
  (s.ctxs.map Prod.fst).filter fun cx => (s.wakeSet cx).contains g

/-- A segment lies in some keep set. -/
def State.kept (s : State) (g : Nat) : Bool := (s.ctxs.map Prod.fst).any fun cx => (s.keepSet cx).contains g

/-- The largest of a timer among the contexts whose wake sets hold the segment; of those a 0, which means never, is the
largest (R239, R240). -/
def State.segTimer (s : State) (g : Nat) (f : PhaseTab → Nat) : Nat :=
  let ts := match s.wakers g with
    | [] => [f (nth s.mb.phasetab 0 (PhaseTab.init 0))]
    | cs => cs.map fun cx => f (s.phaseTab cx)
  if ts.contains 0 then 0 else maxOf ts

/-- A replica-pool segment (R236): one of the last 4 × RPOOL[d] of a die's 96. -/
def State.poolSeg (s : State) (g : Nat) : Bool :=
  decide (g < 768) && decide (96 ≤ g % 96 + 4 * bits s.mb.replpool.toNat (4 * (g / 96) + 3) (4 * (g / 96)))

/-- A segment of the second mirror region of R22. -/
def State.mirrorSeg (s : State) (g : Nat) : Bool :=
  decide (768 ≤ g) && inSecondMirror s.fab.rank s.fab.podsize (0x100000000000 + (g - 768) * 2^35)

/-- Pool segments are never Off (R236): one that is Off when it comes into a pool is Active at once (DESIGN CHOICE, log entry 127). -/
def State.poolOn (s : State) : State :=
  ((s.mb.segs.map Prod.fst).filter fun g => s.poolSeg g && (s.seg g).tide == .off).foldl (fun s g =>
    s.modSeg g fun x => { x with tide := .active, waking := false }) s

/-! ### Steps -/

/-- OFF of a segment (R238, R242): refused in a wake set, a replica pool or the second mirror region; its data is lost. -/
def State.segOff (s : State) (g : Nat) : State :=
  let s := { s with mb := { s.mb with tideSeg := g } }
  if 824 ≤ g then s
  else if !(s.wakers g).isEmpty || s.poolSeg g || s.mirrorSeg g then { s with mb := { s.mb with tideRej := true } }
  else
    let lo := if g < 768 then g * 2^30 else 0x100000000000 + (g - 768) * 2^35
    let a := tensorPhys s.fab.rank lo
    let n := if g < 768 then 2^30 else 2^35
    let out := fun (x : Nat) => !(decide (a ≤ x) && decide (x < a + n))
    { (s.modSeg g fun x => { x with tide := .off, waking := false }) with
      mem := s.mem.filter fun c => out c.1
      keys := s.keys.filter fun e => out (64 * e.1)
      dirty := s.dirty.filter fun d => out d.line
      l1 := s.l1.filter fun d => out d.line
      dropped := (a, a + n) :: cutRanges a (a + n) s.dropped }

/-- ON of a segment (R242). -/
def State.segOn (s : State) (g : Nat) : State :=
  let s := { s with mb := { s.mb with tideSeg := g } }
  if g < 824 then s.wakeSeg g else s

/-- A write of TIDECMD is refused before Ready (R508). -/
def State.tideRefused (s : State) : State := { s with mb := { s.mb with tideRej := true } }

/-- OFF. -/
def execOff (seg : Nat) (s : State) : Out := .next (if s.isReady then s.segOff seg else s.tideRefused)

/-- ON. -/
def execOn (seg : Nat) (s : State) : Out := .next (if s.isReady then s.segOn seg else s.tideRefused)

/-- A write of TIDECMD (R242): REJ is cleared by a one, SEG is set, OP is carried out. -/
def State.tideCmd (s : State) (v : Nat) : State :=
  if !s.isReady then s.tideRefused
  else
    let s := { s with mb := { s.mb with tideRej := s.mb.tideRej && !bitAt v 63, tideSeg := bits v 25 16 } }
    match v % 4 with
    | 1 => s.segOff (bits v 25 16)
    | 2 => s.segOn (bits v 25 16)
    | _ => s

/-- TIDECMD_WRITE. -/
def execTidecmdWrite (v : W64) (s : State) : Out := .next (s.tideCmd v.toNat)

/-- IDLE_TIMEOUT (R240): an Active segment outside every keep set, IDLET µs after its last access. -/
def execIdleTimeout (seg : Nat) (s : State) : Out :=
  let x := s.seg seg
  let t := s.segTimer seg fun p => p.idlet.toNat
  if x.tide == .active && !x.waking && t != 0 && decide (x.last.toNat + 1000 * t ≤ s.dtime.toNat) && !s.kept seg
      && decide (seg < 824) then
    .next (s.modSeg seg fun x => { x with tide := .idle, last := s.dtime })
  else s.noEvent

/-- RETENTION_TIMEOUT (R240): an Idle segment, after a further RETT µs. -/
def execRetentionTimeout (seg : Nat) (s : State) : Out :=
  let x := s.seg seg
  let t := s.segTimer seg fun p => p.rett.toNat
  if x.tide == .idle && !x.waking && t != 0 && decide (x.last.toNat + 1000 * t ≤ s.dtime.toNat) && !s.kept seg
      && decide (seg < 824) then
    .next (s.modSeg seg fun x => { x with tide := .retention, last := s.dtime })
  else s.noEvent

/-- SEGMENT_WAKE_DONE (R241): the wake ends; the accesses that wait find the segment Active at their next issue. -/
def execSegmentWakeDone (seg : Nat) (s : State) : Out :=
  if (s.seg seg).waking then .next (s.modSeg seg fun x => { x with tide := .active, waking := false, last := s.dtime })
  else s.noEvent

end Sys2Proof.Machine
end

