-- ==== Sys2Proof/Machine/Launch.lean ====
section
/-!
DEFINITION. Launches (R86 to R102): reading a launch record, the kernel header and the tables they name, the launch checks of
R101, and the conflicts of R99.
-/
namespace Sys2Proof.Machine

/-- The 64-bit word at index `i` of a list of bytes. -/
def wordAt (bs : List Byte) (i : Nat) : Nat := leNat ((bs.drop (8 * i)).take 8)

/-- A kernel before its record has been read. -/
def Kernel.init : Kernel :=
  ⟨0, 0, 0, none, 0, .queued, .queued, 0, 0, 0, [], none, [], 0, 0, 0, 0, (0, 0, 0), 0, 1, 0, [], [], 0, 0, 0, 0, [], [], [],
   [], 0, 0, none, none, 0, 0, 0, []⟩

/-- CENTRY that names no control thread (R86). -/
def noCentry : Nat := 0xFFFFFFFF

/-- A patch-table entry (R87). -/
def patchOf (e : Nat) : Patch := ⟨bitAt e 48, bits e 47 32, e % 2^32⟩

/-- An entry of the range table (R95), with its PLACE. -/
def rangeOf (b f : Nat) : Range := ⟨b, f % 2^48, bitAt f 48, bitAt f 49, bits f 51 50⟩

/-- A group class (R89, R91): the effective count is rounded up to a multiple of 8; 0 stays 0. -/
def classOfWord (hregs c : Nat) : GClass :=
  let r := if bits c 31 24 = 0 then hregs else bits c 31 24
  ⟨(r + 7) / 8 * 8, bits c 20 18, bits c 17 16, bitAt c 14, 8 * 2^(bits c 13 12), c % 2^12⟩

/-- The groups of a workgroup in class order, then group order: class, index in the class, relative core (R89, R91). -/
def Kernel.specs (k : Kernel) : List (GClass × Nat × Nat) :=
  k.classes.flatMap fun c => (List.range c.count).map fun i => (c, i, if c.coresel = 4 then i % k.cores else c.coresel)

/-- Bytes of the register window of a group of a class (R93, R126). -/
def GClass.window (c : GClass) : Nat := 4 * c.regs * c.width

/-- Threads of a workgroup of a kernel (R91). -/
def Kernel.threads (k : Kernel) : Nat := k.classes.foldl (fun n c => n + c.width * c.count) 0

/-- The window of the W, A and stage space of a core, in bytes (R180). -/
def Kernel.runBytes (k : Kernel) : Nat := 4096 * (k.wsz + k.asz + k.ssz)

/-- Register bytes and strands of a workgroup on relative core `r`. -/
def Kernel.onCore (k : Kernel) (r : Nat) : Nat × Nat :=
  (k.specs.filter fun x => x.2.2 == r).foldl (fun (b, n) x => (b + x.1.window, n + x.1.width / 8)) (0, 0)

/-- The limits of check 0x07 (R90, R91, R93, R180) are exceeded. -/
def Kernel.overLimits (k : Kernel) : Bool :=
  k.classes.isEmpty || k.classes.any (fun c => decide (4 < c.coresel) || (c.coresel != 4 && decide (k.cores ≤ c.coresel)))
    || decide (240 < k.wsz) || decide (240 < k.asz) || decide (240 < k.ssz) || decide (240 < k.wsz + k.asz + k.ssz)
    || decide (16384 < k.threads)
    || (List.range k.cores).any fun r =>
      decide (2^20 < (k.onCore r).1 + k.runBytes + 2^16 * k.l1w) || decide (512 < (k.onCore r).2)

/-- An address of a launch record that check 0x03 refuses, with its alignment. -/
def addrBad (x : Nat × Nat) : Bool := decide (2^48 ≤ x.1) || x.1 % x.2 != 0

/-- Check 0x03: the addresses of a launch record (R101). -/
def launchAddrBad (code params pcopy ranges : Nat) : Bool :=
  [(code, 128), (params, 8), (pcopy, 64), (ranges, 16)].any addrBad

/-- A patch entry that check 0x04 refuses. -/
def Patch.bad (p : Patch) (codelen plen : Nat) : Bool :=
  let n := if p.w64 then 8 else 4
  decide (codelen ≤ p.slot) || p.slot % n != 0 || p.poff % n != 0 || decide (plen < p.poff + n)

/-- A range BASE that check 0x08 refuses (R95); an entry of length zero is ignored. -/
def Range.badTag (r : Range) (rank : Nat) : Bool :=
  r.len != 0 && !(decide (r.base < 2^48) || (r.base / 2^62 == 2 && bits r.base 61 48 == rank))

/-- A range that check 0x09 refuses; one of length zero is ignored (R95). -/
def Range.badBits (r : Range) : Bool := r.len != 0 && (r.place == 3 || (r.place == 2 && r.write) || (!r.read && !r.write))

/-- An offset that check 0x05 refuses. -/
def entryBad (codelen o : Nat) : Bool := o % 8 != 0 || decide (codelen ≤ o)

/-- The first of a list of checks that fails. -/
def firstFail : List (Nat × Cause × Bool) → Option (Nat × Cause)
  | [] => none
  | (n, c, b) :: t => if b then some (n, c) else firstFail t

/-- A launch record read with what it names, and the first check of R101 that fails. `words`: bytes 0x00 to 0xFF; `lrec`: its
control address; `par`: the tape entry's PARAMS, 0 to keep the record's (R77). The ranges that the record declares are read
whatever check fails, an address that check 0x03 refuses being read by no unit (R99). A header that cannot be read fails check
0x01, a patch table 0x04, a range table 0x09 (DESIGN CHOICE: the manual names no check for them). -/
def State.parseLaunch (s : State) (cx q : Nat) (rseq : W64) (tape : Option Nat) (lrec : Nat) (rec : List Byte) (par : Nat) :
    Kernel × Option (Nat × Cause) :=
  let w := wordAt rec
  let code := w 2
  let params := if par = 0 then w 3 else par
  let k : Kernel := { Kernel.init with
    cx := cx, queue := q, rseq := rseq, tape := tape, lrec := lrec, code := code, params := params, pcopy := w 4
    grid := (w 5 % 2^32, w 5 / 2^32, w 6 % 2^32), diemask := BitVec.ofNat 8 (bits (w 6) 47 40), cores := bits (w 6) 37 36 + 1
    eclass := bits (w 6) 35 32, plen := bits (w 8) 31 16 }
  let h := if addrBad (code, 128) then [] else (s.devReadN cx code 8).getD []
  let codelen := wordAt h 1 / 2^32
  let nr := bits (w 8) 6 0
  let nd := bits (w 8) 10 8
  let tab := if addrBad (w 7, 16) then none else s.devReadN cx (w 7) (2 * nr)
  let table := (List.range nr).map fun i => rangeOf (wordAt (tab.getD []) (2 * i)) (wordAt (tab.getD []) (2 * i + 1))
  let k := { k with codelen := codelen, hregs := wordAt h 1 % 256, ranges := table.filter fun r => r.len != 0 }
  if launchAddrBad code params (w 4) (w 7) then (k, some (3, .addrTag))
  else
    if wordAt h 0 % 2^48 ≠ 0x00014B484452 ∨ codelen % 8 ≠ 0 ∨ codelen < 0x88 then (k, some (1, .illegalEncoding))
    else
      let used := ((List.range 4).map fun i => w (10 + i)).filter fun c => c % 2^12 != 0
      let patchn := bits (wordAt h 6) 22 16
      let patchoff := wordAt h 6 % 2^16
      let ptab := s.devReadN cx (code + patchoff) patchn
      let win := if bitAt (w 9) 63 then w 9 else wordAt h 2
      let centry := wordAt h 5 % 2^32
      let k := { k with
        entries := [wordAt h 3 % 2^32, wordAt h 3 / 2^32, wordAt h 4 % 2^32, wordAt h 4 / 2^32]
        centry := if centry = noCentry then none else some centry
        patches := (List.range patchn).map fun i => patchOf (wordAt (ptab.getD []) i)
        pmin := wordAt h 7 % 2^16
        classes := used.map (classOfWord k.hregs)
        wsz := win % 2^9, asz := bits win 24 16, ssz := bits win 40 32, l1w := bits win 51 48
        deps := (List.range (min nd 4)).map fun i => (w (14 + 2 * i) % 2^10, w (15 + 2 * i)) }
      let copies := k.classes.filter fun c => c.copy
      let entries := (k.classes.map fun c => nth k.entries c.entry 0) ++ k.centry.toList
      (k, firstFail
        [ (2, .illegalEncoding, k.classes.any fun c => c.regs == 0 || decide (240 < c.regs)),
          (4, .illegalEncoding, decide (64 < patchn) || decide (k.plen < k.pmin) || patchoff % 8 != 0
            || (patchn != 0 && (decide (codelen < patchoff + 8 * patchn) || ptab.isNone))
            || k.patches.any fun p => p.bad codelen k.plen),
          (5, .illegalEncoding, entries.any (entryBad codelen)),
          (6, .roleConflict, !used.isEmpty && !(copies.length == 1 && copies.all fun c => c.count == 1)),
          (7, .illegalEncoding, k.overLimits),
          (8, .addrTag, table.any fun r => r.badTag s.fab.rank),
          (9, .illegalEncoding, decide (64 < nr) || decide (4 < nd) || tab.isNone || table.any Range.badBits),
          (10, .permission, k.deps.any fun d => (s.queue d.1).cx != cx || (d.1 == q && decide (rseq.toNat ≤ d.2))) ])

/-! ### Conflicts (R99) -/

/-- The ranges of a kernel's dependence set, widened to 256 B: first byte, end, WRITE. -/
def Kernel.depSet (k : Kernel) : List (Nat × Nat × Bool) :=
  let imp := [(k.code, k.codelen), (k.params, k.plen)] ++ (if k.pcopy = 0 then [] else [(k.pcopy, k.plen)])
  ((k.ranges.map fun r => (r.base, r.len, r.write)) ++ imp.map fun r => (r.1, r.2, false)).filterMap fun (b, n, w) =>
    if n = 0 then none else some (b / 256 * 256, (b + n + 255) / 256 * 256, w)

/-- Two kernels conflict. -/
def Kernel.conflicts (a b : Kernel) : Bool :=
  a.depSet.any fun x => b.depSet.any fun y => decide (x.1 < y.2.1) && decide (y.1 < x.2.1) && (x.2.2 || y.2.2)

/-- The record conflicts with an earlier kernel of its queue that is not complete (HOLD 1). -/
def State.rangeHeld (s : State) (q : Nat) (k : Kernel) : Bool :=
  (tabVals s.kernels).any fun x => x.queue == q && x.st.busy && x.conflicts k

/-! ### Entering Queued -/

/-- A launch is taken (R101): its kernel is Queued, or its first failing check ends it. Its id is the state's next. -/
def State.launch (s : State) (p : Kernel × Option (Nat × Cause)) : State :=
  let kid := s.nextId
  let s := { s with kernels := tabSet s.kernels kid { p.1 with dstart := s.dtime }, nextId := kid + 1 }
  match p.2 with
  | none => s
  | some (n, c) =>
    (s.modKernel kid fun k => { k with ending := some ⟨BitVec.ofNat 8 c.code, BitVec.ofNat 64 k.lrec, BitVec.ofNat 64 n⟩ }).finishKernel kid

end Sys2Proof.Machine
end

