-- ==== Sys2Proof/Machine/Float.lean ====
section
/-!
DEFINITION. Floating-point arithmetic, the generator and the saturation counters: opcodes 0x30 to 0x4E, 0x59 to 0x5C (R349 to
R354, R360, R361).
-/
namespace Sys2Proof.Machine

/-- A source as a value of a format. -/
def Env.fp (e : Env) (f : Fmt) (ty : Ty) (a : Src) (l : Nat) : Fp := f.unpack (e.n ty a l)

/-- A result code. -/
def code (n : Nat) : W64 := BitVec.ofNat 64 n

/-- The format of packed halves. -/
def half (bf16 : Bool) : Fmt := if bf16 then .bf16 else .f16

/-- The type of packed halves as a source. -/
def halfTy (bf16 : Bool) : Ty := if bf16 then .bf16 else .f16

/-- Both halves computed alike (R354). -/
def both (f : Nat → Nat) : W64 := BitVec.ofNat 64 (f 0 + f 1 * 65536)

/-- Half `k` of a packed source. -/
def Env.half (e : Env) (bf16 : Bool) (a : Src) (k l : Nat) : Nat := e.n (halfTy bf16) a l / 65536^k % 65536

/-- `fadd` (R350, R351). -/
def execFadd (gd : Guard) (d : Dst) (a b : Src) (sat : Bool) (rm : Rm) (s : State) : Out :=
  s.alu (.fadd gd d a b sat rm) d .i32 fun e l => code (Fmt.f32.sum rm sat [e.fp .f32 .f32 a l, e.fp .f32 .f32 b l])

/-- `fsub` (R350, R351). -/
def execFsub (gd : Guard) (d : Dst) (a b : Src) (sat : Bool) (rm : Rm) (s : State) : Out :=
  s.alu (.fsub gd d a b sat rm) d .i32 fun e l => code (Fmt.f32.sum rm sat [e.fp .f32 .f32 a l, (e.fp .f32 .f32 b l).neg])

/-- `fmul` (R350, R351). -/
def execFmul (gd : Guard) (d : Dst) (a b : Src) (sat : Bool) (rm : Rm) (s : State) : Out :=
  s.mul (.fmul gd d a b sat rm) d .i32 fun e l => code (Fmt.f32.pack rm sat ((e.fp .f32 .f32 a l).mul (e.fp .f32 .f32 b l)))

/-- `ffma` (R350, R351). -/
def execFfma (gd : Guard) (d : Dst) (a b c : Src) (sat : Bool) (rm : Rm) (s : State) : Out :=
  s.mul (.ffma gd d a b c sat rm) d .i32 fun e l =>
    code (Fmt.f32.sum rm sat [(e.fp .f32 .f32 a l).mul (e.fp .f32 .f32 b l), e.fp .f32 .f32 c l])

/-- `fmin` (R352). -/
def execFmin (gd : Guard) (d : Dst) (a b : Src) (s : State) : Out :=
  s.alu (.fmin gd d a b) d .i32 fun e l => code (Fmt.f32.extreme false (e.n .f32 a l) (e.n .f32 b l))

/-- `fmax` (R352). -/
def execFmax (gd : Guard) (d : Dst) (a b : Src) (s : State) : Out :=
  s.alu (.fmax gd d a b) d .i32 fun e l => code (Fmt.f32.extreme true (e.n .f32 a l) (e.n .f32 b l))

/-- `fcmp` (R352). -/
def execFcmp (gd : Guard) (p : PDst) (a b : Src) (cond : FCond) (s : State) : Out :=
  s.lanewise (.fcmp gd p a b cond) fun e l => .pd l p (Fmt.f32.cmp cond (e.n .f32 a l) (e.n .f32 b l))

/-- `fclass` (R352). -/
def execFclass (gd : Guard) (p : PDst) (a b : Src) (f64 : Bool) (s : State) : Out :=
  s.lanewise (.fclass gd p a b f64) fun e l =>
    let f := if f64 then Fmt.f64 else Fmt.f32
    .pd l p (bitAt (e.n .i32 b l) (f.cls (e.n (if f64 then .f64 else .f32) a l)))

/-- `frcp` (R353). -/
def execFrcp (gd : Guard) (d : Dst) (a : Src) (sat : Bool) (rm : Rm) (s : State) : Out :=
  s.alu (.frcp gd d a sat rm) d .i32 fun e l => code (Fmt.f32.pack rm sat (e.fp .f32 .f32 a l).recip)

/-- `frsq` (R353). -/
def execFrsq (gd : Guard) (d : Dst) (a : Src) (s : State) : Out :=
  s.alu (.frsq gd d a) d .i32 fun e l => code (Fmt.f32.pack .rn false (e.fp .f32 .f32 a l).rsqrt)

/-- `fsqrt` (R353). -/
def execFsqrt (gd : Guard) (d : Dst) (a : Src) (rm : Rm) (s : State) : Out :=
  s.alu (.fsqrt gd d a rm) d .i32 fun e l => code (Fmt.f32.pack rm false (e.fp .f32 .f32 a l).sqrt)

/-- `fsinpi` (R353). -/
def execFsinpi (gd : Guard) (d : Dst) (a : Src) (s : State) : Out :=
  s.alu (.fsinpi gd d a) d .i32 fun e l => code (Fmt.f32.pack .rn false (e.fp .f32 .f32 a l).sinpi)

/-- `fcospi` (R353). -/
def execFcospi (gd : Guard) (d : Dst) (a : Src) (s : State) : Out :=
  s.alu (.fcospi gd d a) d .i32 fun e l => code (Fmt.f32.pack .rn false (e.fp .f32 .f32 a l).cospi)

/-- `fexp2` (R353). -/
def execFexp2 (gd : Guard) (d : Dst) (a : Src) (s : State) : Out :=
  s.alu (.fexp2 gd d a) d .i32 fun e l => code (Fmt.f32.pack .rn false (e.fp .f32 .f32 a l).exp2)

/-- `flog2` (R353). -/
def execFlog2 (gd : Guard) (d : Dst) (a : Src) (s : State) : Out :=
  s.alu (.flog2 gd d a) d .i32 fun e l => code (Fmt.f32.pack .rn false (e.fp .f32 .f32 a l).log2)

/-- `ftanh` (R353). -/
def execFtanh (gd : Guard) (d : Dst) (a : Src) (s : State) : Out :=
  s.alu (.ftanh gd d a) d .i32 fun e l => code (Fmt.f32.pack .rn false (e.fp .f32 .f32 a l).tanh)

/-- The integer value nearest to a value in a mode, as FP32 (R354): q = 1; zero keeps the sign. -/
def frndVal (rm : Rm) (x : Fp) : Nat :=
  match x with
  | .fin neg m e => Fmt.f32.round .rn 0 false neg (roundTo rm 0 neg m e 0) 0
  | y => Fmt.f32.pack rm false y

/-- `frnd` (R354). -/
def execFrnd (gd : Guard) (d : Dst) (a : Src) (rm : Rm) (s : State) : Out :=
  s.alu (.frnd gd d a rm) d .i32 fun e l => code (frndVal rm (e.fp .f32 .f32 a l))

/-- `dadd` (R350). -/
def execDadd (gd : Guard) (d : Dst) (a b : Src) (sub sat : Bool) (rm : Rm) (s : State) : Out :=
  s.alu (.dadd gd d a b sub sat rm) d .i64 fun e l =>
    code (Fmt.f64.sum rm sat [e.fp .f64 .f64 a l, if sub then (e.fp .f64 .f64 b l).neg else e.fp .f64 .f64 b l])

/-- `dmul` (R350). -/
def execDmul (gd : Guard) (d : Dst) (a b : Src) (sat : Bool) (rm : Rm) (s : State) : Out :=
  s.mul (.dmul gd d a b sat rm) d .i64 fun e l => code (Fmt.f64.pack rm sat ((e.fp .f64 .f64 a l).mul (e.fp .f64 .f64 b l)))

/-- `dfma` (R350). -/
def execDfma (gd : Guard) (d : Dst) (a b c : Src) (sat : Bool) (rm : Rm) (s : State) : Out :=
  s.mul (.dfma gd d a b c sat rm) d .i64 fun e l =>
    code (Fmt.f64.sum rm sat [(e.fp .f64 .f64 a l).mul (e.fp .f64 .f64 b l), e.fp .f64 .f64 c l])

/-- `dmin` (R352). -/
def execDmin (gd : Guard) (d : Dst) (a b : Src) (s : State) : Out :=
  s.alu (.dmin gd d a b) d .i64 fun e l => code (Fmt.f64.extreme false (e.n .f64 a l) (e.n .f64 b l))

/-- `dmax` (R352). -/
def execDmax (gd : Guard) (d : Dst) (a b : Src) (s : State) : Out :=
  s.alu (.dmax gd d a b) d .i64 fun e l => code (Fmt.f64.extreme true (e.n .f64 a l) (e.n .f64 b l))

/-- `dcmp` (R352). -/
def execDcmp (gd : Guard) (p : PDst) (a b : Src) (cond : FCond) (s : State) : Out :=
  s.lanewise (.dcmp gd p a b cond) fun e l => .pd l p (Fmt.f64.cmp cond (e.n .f64 a l) (e.n .f64 b l))

/-- `drcp` (R353). -/
def execDrcp (gd : Guard) (d : Dst) (a : Src) (sat : Bool) (rm : Rm) (s : State) : Out :=
  s.alu (.drcp gd d a sat rm) d .i64 fun e l => code (Fmt.f64.pack rm sat (e.fp .f64 .f64 a l).recip)

/-- `dsqrt` (R353). -/
def execDsqrt (gd : Guard) (d : Dst) (a : Src) (rm : Rm) (s : State) : Out :=
  s.alu (.dsqrt gd d a rm) d .i64 fun e l => code (Fmt.f64.pack rm false (e.fp .f64 .f64 a l).sqrt)

/-- Half `k` of a packed source as a value. -/
def Env.hv (e : Env) (bf16 : Bool) (a : Src) (k l : Nat) : Fp := (Sys2Proof.Machine.half bf16).unpack (e.half bf16 a k l)

/-- `hadd2` (R354). -/
def execHadd2 (gd : Guard) (d : Dst) (a b : Src) (bf16 sat : Bool) (rm : Rm) (s : State) : Out :=
  s.alu (.hadd2 gd d a b bf16 sat rm) d .i32 fun e l => both fun k => (half bf16).sum rm sat [e.hv bf16 a k l, e.hv bf16 b k l]

/-- `hmul2` (R354). -/
def execHmul2 (gd : Guard) (d : Dst) (a b : Src) (bf16 sat : Bool) (rm : Rm) (s : State) : Out :=
  s.mul (.hmul2 gd d a b bf16 sat rm) d .i32 fun e l => both fun k => (half bf16).pack rm sat ((e.hv bf16 a k l).mul (e.hv bf16 b k l))

/-- `hfma2` (R354). -/
def execHfma2 (gd : Guard) (d : Dst) (a b c : Src) (bf16 sat : Bool) (rm : Rm) (s : State) : Out :=
  s.mul (.hfma2 gd d a b c bf16 sat rm) d .i32 fun e l =>
    both fun k => (half bf16).sum rm sat [(e.hv bf16 a k l).mul (e.hv bf16 b k l), e.hv bf16 c k l]

/-- `hmax2` (R352, R354). -/
def execHmax2 (gd : Guard) (d : Dst) (a b : Src) (bf16 : Bool) (s : State) : Out :=
  s.alu (.hmax2 gd d a b bf16) d .i32 fun e l =>
    both fun k => (half bf16).extreme true (e.half bf16 a k l) (e.half bf16 b k l)

/-- `hmin2` (R352, R354). -/
def execHmin2 (gd : Guard) (d : Dst) (a b : Src) (bf16 : Bool) (s : State) : Out :=
  s.alu (.hmin2 gd d a b bf16) d .i32 fun e l =>
    both fun k => (half bf16).extreme false (e.half bf16 a k l) (e.half bf16 b k l)

/-- `hcmp2` (R352): the low half to pD, the high half to pD+1. -/
def execHcmp2 (gd : Guard) (p : Nat) (a b : Src) (bf16 : Bool) (cond : FCond) (s : State) : Out :=
  s.lanewise (.hcmp2 gd p a b bf16 cond) fun e l =>
    let c := fun k => (half bf16).cmp cond (e.half bf16 a k l) (e.half bf16 b k l)
    .ok l [.p p (c 0), .p (p + 1) (c 1)] (BitVec.ofNat 64 (flag (c 0) + 2 * flag (c 1)))

/-- `fdot2` (R354): one rounding of the exact value. -/
def execFdot2 (gd : Guard) (d : Dst) (a b c : Src) (bf16 sat : Bool) (rm : Rm) (s : State) : Out :=
  s.mul (.fdot2 gd d a b c bf16 sat rm) d .i32 fun e l =>
    code (Fmt.f32.sum rm sat [(e.hv bf16 a 0 l).mul (e.hv bf16 b 0 l), (e.hv bf16 a 1 l).mul (e.hv bf16 b 1 l), e.fp .f32 .f32 c l])

/-- The thread index in kernel (R108). -/
def Env.thread (e : Env) (l : Nat) : Nat := e.wg.idx * e.kern.threads + e.grp.v3base + 8 * e.k + l

/-- `rnd` (R296, R360): one step at each active lane. -/
def execRnd (gd : Guard) (d : Dst) (s : State) : Out :=
  s.lanewise (.rnd gd d) fun e l =>
    let g := rndStep (e.u.lane l).gen
    { LaneOut.reg l d .i32 (g.setWidth 64) with gen := some g }

/-- `rseed` (R296, R360): no register result. -/
def execRseed (gd : Guard) (a : Src) (s : State) : Out :=
  s.lanewise (.rseed gd a) fun e l =>
    { LaneOut.ok l [] 0 with gen := some (Sys2Proof.Machine.rseed (lo32 (e.src .i32 a l)) (e.thread l)) }

/-- Saturation counter `k` of a context on a core (R291). -/
def State.satCount (s : State) (cx core k : Nat) : W32 := tabGet (s.ctx cx).satcnt 0 (16 * core + k)

/-- `satq` (R361): every active lane reads, and then `.clr` clears once. -/
def execSatq (gd : Guard) (d : Dst) (clr : Bool) (k : Nat) (s : State) : Out :=
  s.word (.satq gd d clr k) fun e s =>
    let v := s.satCount e.cx e.core k
    let s := if clr && e.act != 0 then s.modCtx e.cx fun c => { c with satcnt := tabSet c.satcnt (16 * e.core + k) 0 } else s
    .next (s.finish e ((lanesOf e.act).map fun l => .reg l d .i32 (v.setWidth 64)))

end Sys2Proof.Machine
end

