-- ==== Sys2Proof/Machine/Integer.lean ====
section
/-!
DEFINITION. Integer and logic instructions, opcodes 0x00 to 0x27 (R344 to R348).
-/
namespace Sys2Proof.Machine

/-- clampS of R345. -/
def clampS (x : Int) : Int := max (-(2^31)) (min x (2^31 - 1))

/-- clampU of R345. -/
def clampU (x : Int) : Int := max 0 (min x (2^32 - 1))

/-- A 32-bit result of an integer. -/
def w32 (x : Int) : W64 := BitVec.ofNat 64 (wrap 32 x)

/-- A 64-bit result of an integer. -/
def w64 (x : Int) : W64 := BitVec.ofInt 64 x

/-- A sum or difference under a saturation mode (R345): the signed and the unsigned exact result. -/
def satMode (m : SatMode) (s u : Int) : W64 :=
  match m with
  | .wrap => w32 s
  | .ssat => w32 (clampS s)
  | .usat => w32 (clampU u)

/-- The type of a form's operands under its W64 bit. -/
def wide (b : Bool) : Ty := if b then .i64 else .i32

/-- An operand read as signed, or as unsigned. -/
def Env.su (e : Env) (u : Bool) (ty : Ty) (a : Src) (l : Nat) : Int := if u then e.n ty a l else e.i ty a l

/-- `nop` (R345). -/
def execNop (gd : Guard) (s : State) : Out := s.lanewise (.nop gd) fun _ l => .ok l [] 0

/-- `mov` (R345). -/
def execMov (gd : Guard) (d : Dst) (a : Src) (w : Bool) (s : State) : Out :=
  s.alu (.mov gd d a w) d (wide w) fun e l => e.src (wide w) a l

/-- `iadd` (R345). -/
def execIadd (gd : Guard) (d : Dst) (a b : Src) (sat : SatMode) (s : State) : Out :=
  s.alu (.iadd gd d a b sat) d .i32 fun e l => satMode sat (e.i .i32 a l + e.i .i32 b l) (e.n .i32 a l + e.n .i32 b l)

/-- `isub` (R345). -/
def execIsub (gd : Guard) (d : Dst) (a b : Src) (sat : SatMode) (s : State) : Out :=
  s.alu (.isub gd d a b sat) d .i32 fun e l =>
    satMode sat (e.i .i32 a l - e.i .i32 b l) ((e.n .i32 a l : Int) - e.n .i32 b l)

/-- `imul` (R345). -/
def execImul (gd : Guard) (d : Dst) (a b : Src) (s : State) : Out :=
  s.mul (.imul gd d a b) d .i32 fun e l => w32 (e.i .i32 a l * e.i .i32 b l)

/-- `imulh` (R345). -/
def execImulh (gd : Guard) (d : Dst) (a b : Src) (u : Bool) (s : State) : Out :=
  s.mul (.imulh gd d a b u) d .i32 fun e l => w32 (e.su u .i32 a l * e.su u .i32 b l / 2^32)

/-- `imad` (R345). -/
def execImad (gd : Guard) (d : Dst) (a b c : Src) (s : State) : Out :=
  s.mul (.imad gd d a b c) d .i32 fun e l => w32 (e.i .i32 a l * e.i .i32 b l + e.i .i32 c l)

/-- Quotient and remainder (R346) of values of `n` bits: division by zero gives all ones and the dividend. -/
def divRem (x y : Int) : Int × Int := if y = 0 then (-1, x) else (Int.tdiv x y, Int.tmod x y)

/-- `idiv` (R346); the overflowing quotient wraps. -/
def execIdiv (gd : Guard) (d : Dst) (a b : Src) (w u : Bool) (s : State) : Out :=
  s.alu (.idiv gd d a b w u) d (wide w) fun e l => w64 (divRem (e.su u (wide w) a l) (e.su u (wide w) b l)).1

/-- `irem` (R346). -/
def execIrem (gd : Guard) (d : Dst) (a b : Src) (w u : Bool) (s : State) : Out :=
  s.alu (.irem gd d a b w u) d (wide w) fun e l => w64 (divRem (e.su u (wide w) a l) (e.su u (wide w) b l)).2

/-- `imin` (R345). -/
def execImin (gd : Guard) (d : Dst) (a b : Src) (u : Bool) (s : State) : Out :=
  s.alu (.imin gd d a b u) d .i32 fun e l => w32 (min (e.su u .i32 a l) (e.su u .i32 b l))

/-- `imax` (R345). -/
def execImax (gd : Guard) (d : Dst) (a b : Src) (u : Bool) (s : State) : Out :=
  s.alu (.imax gd d a b u) d .i32 fun e l => w32 (max (e.su u .i32 a l) (e.su u .i32 b l))

/-- A result under `.ssat` of `iabs` and `ineg` (R345). -/
def ssatIf (b : Bool) (x : Int) : W64 := w32 (if b then clampS x else x)

/-- `iabs` (R345). -/
def execIabs (gd : Guard) (d : Dst) (a : Src) (ssat : Bool) (s : State) : Out :=
  s.alu (.iabs gd d a ssat) d .i32 fun e l => ssatIf ssat (e.i .i32 a l).natAbs

/-- `ineg` (R345). -/
def execIneg (gd : Guard) (d : Dst) (a : Src) (ssat : Bool) (s : State) : Out :=
  s.alu (.ineg gd d a ssat) d .i32 fun e l => ssatIf ssat (-(e.i .i32 a l))

/-- `and` (R345). -/
def execIand (gd : Guard) (d : Dst) (a b : Src) (s : State) : Out :=
  s.alu (.iand gd d a b) d .i32 fun e l => e.src .i32 a l &&& e.src .i32 b l

/-- `or` (R345). -/
def execIor (gd : Guard) (d : Dst) (a b : Src) (s : State) : Out :=
  s.alu (.ior gd d a b) d .i32 fun e l => e.src .i32 a l ||| e.src .i32 b l

/-- `xor` (R345). -/
def execIxor (gd : Guard) (d : Dst) (a b : Src) (s : State) : Out :=
  s.alu (.ixor gd d a b) d .i32 fun e l => e.src .i32 a l ^^^ e.src .i32 b l

/-- `andn` (R345). -/
def execIandn (gd : Guard) (d : Dst) (a b : Src) (s : State) : Out :=
  s.alu (.iandn gd d a b) d .i32 fun e l => e.src .i32 a l &&& ~~~(e.src .i32 b l)

/-- `not` (R345). -/
def execInot (gd : Guard) (d : Dst) (a : Src) (s : State) : Out :=
  s.alu (.inot gd d a) d .i32 fun e l => ~~~(e.src .i32 a l)

/-- `shl` (R345). -/
def execShl (gd : Guard) (d : Dst) (a b : Src) (s : State) : Out :=
  s.alu (.shl gd d a b) d .i32 fun e l => if e.n .i32 b l < 32 then w32 ((e.n .i32 a l * 2^(e.n .i32 b l) : Nat)) else 0

/-- `shr` (R345). -/
def execShr (gd : Guard) (d : Dst) (a b : Src) (s : State) : Out :=
  s.alu (.shr gd d a b) d .i32 fun e l => if e.n .i32 b l < 32 then w32 ((e.n .i32 a l / 2^(e.n .i32 b l) : Nat)) else 0

/-- `sar` (R345). -/
def execSar (gd : Guard) (d : Dst) (a b : Src) (s : State) : Out :=
  s.alu (.sar gd d a b) d .i32 fun e l => w32 (e.i .i32 a l / 2^(min (e.n .i32 b l) 31))

/-- `rotl` (R345). -/
def execRotl (gd : Guard) (d : Dst) (a b : Src) (s : State) : Out :=
  s.alu (.rotl gd d a b) d .i32 fun e l =>
    let x := e.n .i32 a l
    let n := e.n .i32 b l % 32
    w32 ((x * 2^n + x / 2^(32 - n) : Nat))

/-- `bfe` (R345). -/
def execBfe (gd : Guard) (d : Dst) (a b : Src) (sg : Bool) (s : State) : Out :=
  s.alu (.bfe gd d a b sg) d .i32 fun e l =>
    let c := e.n .i32 b l
    let len := min (bits c 15 8) 32
    let f := wrap len (e.su (!sg) .i32 a l / 2^(bits c 7 0))
    if len = 0 then 0 else if sg then w32 (sgn len f) else w32 f

/-- `bfi` (R345). -/
def execBfi (gd : Guard) (d : Dst) (a b c : Src) (s : State) : Out :=
  s.alu (.bfi gd d a b c) d .i32 fun e l =>
    let x := e.n .i32 c l
    let pos := bits x 7 0
    let len := min (bits x 15 8) 32
    let m : W32 := BitVec.ofNat 32 ((2^len - 1) * 2^pos)
    let v : W32 := BitVec.ofNat 32 (e.n .i32 a l * 2^pos)
    ((lo32 (e.src .i32 b l) &&& ~~~m) ||| (v &&& m)).setWidth 64

/-- Number of set bits among the low `n`. -/
def popCount (x : Nat) : Nat → Nat
  | 0 => 0
  | n + 1 => popCount x n + (if bitAt x n then 1 else 0)

/-- Number of clear bits above the highest set bit, of 32. -/
def leadZeros (x : Nat) : Nat := if x = 0 then 32 else 31 - Nat.log2 x

/-- Number of clear bits below the lowest set bit, from bit `k`, of `n` bits. -/
def trailZeros (x : Nat) : Nat → Nat → Nat
  | 0, k => k
  | n + 1, k => if bitAt x k then k else trailZeros x n (k + 1)

/-- The low `n` bits in reverse order. -/
def revBits (x : Nat) : Nat → Nat
  | 0 => 0
  | n + 1 => (if bitAt x 0 then 2^n else 0) + revBits (x / 2) n

/-- `popc` (R345). -/
def execPopc (gd : Guard) (d : Dst) (a : Src) (s : State) : Out :=
  s.alu (.popc gd d a) d .i32 fun e l => w32 (popCount (e.n .i32 a l) 32)

/-- `clz` (R345). -/
def execClz (gd : Guard) (d : Dst) (a : Src) (s : State) : Out :=
  s.alu (.clz gd d a) d .i32 fun e l => w32 (leadZeros (e.n .i32 a l))

/-- `ctz` (R345). -/
def execCtz (gd : Guard) (d : Dst) (a : Src) (s : State) : Out :=
  s.alu (.ctz gd d a) d .i32 fun e l => w32 (trailZeros (e.n .i32 a l) 32 0)

/-- `brev` (R345). -/
def execBrev (gd : Guard) (d : Dst) (a : Src) (s : State) : Out :=
  s.alu (.brev gd d a) d .i32 fun e l => w32 (revBits (e.n .i32 a l) 32)

/-- `icmp` (R347). -/
def execIcmp (gd : Guard) (p : PDst) (a b : Src) (w u : Bool) (cond : ICond) (s : State) : Out :=
  s.lanewise (.icmp gd p a b w u cond) fun e l => .pd l p (icond cond (e.su u (wide w) a l) (e.su u (wide w) b l))

/-- `sel` (R347). -/
def execSel (gd : Guard) (d : Dst) (a b : Src) (p : Nat) (w : Bool) (s : State) : Out :=
  s.alu (.sel gd d a b p w) d (wide w) fun e l => if e.psrc p l then e.src (wide w) a l else e.src (wide w) b l

/-- `iadd64` (R347). -/
def execIadd64 (gd : Guard) (d : Dst) (a b : Src) (sub : Bool) (s : State) : Out :=
  s.alu (.iadd64 gd d a b sub) d .i64 fun e l =>
    if sub then e.src .i64 a l - e.src .i64 b l else e.src .i64 a l + e.src .i64 b l

/-- `imad64` (R347). -/
def execImad64 (gd : Guard) (d : Dst) (a b c : Src) (u : Bool) (s : State) : Out :=
  s.mul (.imad64 gd d a b c u) d .i64 fun e l => w64 (e.su u .i32 a l * e.su u .i32 b l + e.i .i64 c l)

/-- `shf64` (R347). -/
def execShf64 (gd : Guard) (d : Dst) (a b : Src) (mode : ShfMode) (s : State) : Out :=
  s.alu (.shf64 gd d a b mode) d .i64 fun e l =>
    let x := e.n .i64 a l
    let n := e.n .i32 b l
    match mode with
    | .left => if n < 64 then w64 ((x * 2^n : Nat)) else 0
    | .lr => if n < 64 then w64 ((x / 2^n : Nat)) else 0
    | .ar => w64 (e.i .i64 a l / 2^(min n 63))
    | .rot => w64 ((x * 2^(n % 64) + x / 2^(64 - n % 64) : Nat))

/-- `lea` (R347). -/
def execLea (gd : Guard) (d : Dst) (a b : Src) (u : Bool) (sh : Nat) (s : State) : Out :=
  s.alu (.lea gd d a b u sh) d .i64 fun e l => w64 (e.i .i64 a l + e.su u .i32 b l * 2^sh)

/-- Bits of an `ext` width (R344). -/
def extBits : ExtWidth → Nat
  | .w8 => 8
  | .w16 => 16
  | .w32 => 32

/-- `ext` (R347). -/
def execExt (gd : Guard) (d : Dst) (a : Src) (w sg : Bool) (width : ExtWidth) (s : State) : Out :=
  s.alu (.ext gd d a w sg width) d (wide w) fun e l =>
    let n := extBits width
    if sg then w64 (sgn n (e.n .i32 a l)) else w64 ((e.n .i32 a l % 2^n : Nat))

/-- One result byte of `bmrg` from its control byte (R348). -/
def mergeByte (y f : Nat) : Nat :=
  let z := y / 2^(8 * (f % 8)) % 256
  let z := if bitAt f 3 then revBits z 8 else z
  let z := if bitAt f 4 then 255 - z else z
  match bits f 6 5 with
  | 0 => z
  | 1 => 0
  | 2 => 255
  | _ => if bitAt z 0 then 255 else 0

/-- `bmrg` (R348). -/
def execBmrg (gd : Guard) (d : Dst) (a b c : Src) (swap : Bool) (s : State) : Out :=
  s.alu (.bmrg gd d a b c swap) d .i32 fun e l =>
    let lo := if swap then e.n .i32 b l else e.n .i32 a l
    let hi := if swap then e.n .i32 a l else e.n .i32 b l
    let f := e.n .i32 c l
    w32 (([0, 1, 2, 3].map fun k => mergeByte (hi * 2^32 + lo) (f / 2^(8 * k) % 256) * 2^(8 * k)).foldl (· + ·) 0 : Nat)

/-- `dot4` (R348). -/
def execDot4 (gd : Guard) (d : Dst) (a b c : Src) (ub ua : Bool) (s : State) : Out :=
  s.mul (.dot4 gd d a b c ub ua) d .i32 fun e l =>
    let byte := fun (u : Bool) (x k : Nat) => if u then ((x / 2^(8 * k) % 256 : Nat) : Int) else sgn 8 (x / 2^(8 * k))
    w32 ([0, 1, 2, 3].foldl (fun t k => t + byte ua (e.n .i32 a l) k * byte ub (e.n .i32 b l) k) (e.i .i32 c l))

/-- `iaddc` (R348): pC is read, then written; lat0 receives d. -/
def execIaddc (gd : Guard) (d : Dst) (a b : Src) (p : Nat) (s : State) : Out :=
  s.lanewise (.iaddc gd d a b p) fun e l =>
    let (x, c) := addCarry (e.n .i32 a l) (e.n .i32 b l) (e.psrc p l)
    .ok l [.d32 d x, .p p c] (x.setWidth 64)

/-- `isubb` (R348). -/
def execIsubb (gd : Guard) (d : Dst) (a b : Src) (p : Nat) (s : State) : Out :=
  s.lanewise (.isubb gd d a b p) fun e l =>
    let (x, c) := subBorrow (e.n .i32 a l) (e.n .i32 b l) (e.psrc p l)
    .ok l [.d32 d x, .p p c] (x.setWidth 64)

/-- The bits of `lop3` (R348), from bit `n` down. -/
def lop3Bits (t a b c : Nat) : Nat → Nat
  | 0 => 0
  | n + 1 =>
    lop3Bits t a b c n
      + (if bitAt t (4 * (a / 2^n % 2) + 2 * (b / 2^n % 2) + c / 2^n % 2) then 2^n else 0)

/-- `lop3` (R348). -/
def execLop3 (gd : Guard) (d : Dst) (a b c : Src) (t : Nat) (s : State) : Out :=
  s.alu (.lop3 gd d a b c t) d .i32 fun e l => w32 (lop3Bits t (e.n .i32 a l) (e.n .i32 b l) (e.n .i32 c l) 32)

end Sys2Proof.Machine
end

