-- ==== Sys2Proof/Machine/CrossLane.lean ====
section
/-!
DEFINITION. Cross-lane instructions, opcodes 0x70 to 0x7F (R366 to R375): the group-scope forms and their gather (R368), and
the predicate forms.
-/
namespace Sys2Proof.Machine

/-- What a group-scope form computes from: the group's width, the active lanes, and source `n` at each lane of the group. -/
structure Gathered where
  w : Nat
  act : Nat → Bool
  v : Nat → Nat → W64

/-- The active lanes of a group, in ascending order. -/
def Gathered.lanes (g : Gathered) : List Nat := (List.range g.w).filter g.act

/-- A mask of lanes as a number. -/
def maskNat (l : List Nat) : Nat := l.foldl (fun n k => n + 2^k) 0

/-- The mask of a `.m64` form or of a 32-bit one (R373). -/
def maskOut (l : Nat) (d : Dst) (m64 : Bool) (m : Nat) : LaneOut := .reg l d (wide m64) (BitVec.ofNat 64 (if m64 then m else m % 2^32))

/-- The source lane of `shfl` (R370). -/
def shflSrc (w segw : Nat) (mode : ShflMode) (i k : Nat) : Nat :=
  let seg := if segw = 0 then w else min (2^segw) w
  let base := i - i % seg
  match mode with
  | .idx => if k < seg then base + k else i
  | .up => if k ≤ i ∧ base ≤ i - k then i - k else i
  | .down => if i + k < base + seg then i + k else i
  | .xor => if k < seg then i ^^^ k else i

/-- The identity and step of `redux` (R374). -/
def reduxVal (op : ReduxOp) (xs : List Nat) : Nat :=
  let sg := sgn 32
  let pick := fun (f : Nat → Int) (better : Int → Int → Bool) =>
    match xs with
    | [] => 0
    | x :: t => t.foldl (fun a b => if better (f b) (f a) then b else a) x
  match op with
  | .add => xs.foldl (· + ·) 0 % 2^32
  | .min => pick sg fun a b => decide (a < b)
  | .max => pick sg fun a b => decide (b < a)
  | .umin => pick (fun x => (x : Int)) fun a b => decide (a < b)
  | .umax => pick (fun x => (x : Int)) fun a b => decide (b < a)
  | .and => xs.foldl (· &&& ·) (2^32 - 1)
  | .or => xs.foldl (· ||| ·) 0
  | .xor => xs.foldl (· ^^^ ·) 0

/-- −0.0 in FP32. -/
def negZero : Nat := 0x80000000

/-- `fredux` (R303, R374). -/
def freduxVal (op : FReduxOp) (g : Gathered) : Nat :=
  let x := fun (id : Nat) i => if g.act i then (g.v 0 i).toNat else id
  match op with
  | .sum => reduxTree (x negZero) g.w 6 0
  | .max => (List.range g.w).foldl (fun a i => Fmt.f32.extreme true a (x 0xFF800000 i)) 0xFF800000
  | .min => (List.range g.w).foldl (fun a i => Fmt.f32.extreme false a (x 0x7F800000 i)) 0x7F800000

/-- The inclusive scan up to lane `n` (R304, R374). -/
def scanTo (f : Bool) (g : Gathered) : Nat → Nat
  | 0 => if g.act 0 then (g.v 0 0).toNat else if f then negZero else 0
  | n + 1 =>
    let x := if g.act (n + 1) then (g.v 0 (n + 1)).toNat else if f then negZero else 0
    if f then addRn (scanTo f g n) x else (scanTo f g n + x) % 2^32

/-- The scan result of lane `i` (R374). -/
def scanVal (f excl : Bool) (g : Gathered) (i : Nat) : Nat :=
  if excl then (match i with | 0 => if f then negZero else 0 | n + 1 => scanTo f g n) else scanTo f g i

/-- The sources that a group-scope form contributes at a lane (R368). -/
def gatherVals (i : Instr) (e : Env) (l : Nat) : List W64 :=
  let p := fun q => if e.psrc q l then (1 : W64) else 0
  match i with
  | .shfl _ _ a b w _ _ => [e.src (wide w) a l, e.src .i32 b l]
  | .bfly _ x y m => [(e.vreg x l).setWidth 64, (e.vreg y l).setWidth 64, e.src .i32 m l]
  | .bcast _ _ a b w => [e.src (wide w) a l, e.src .i32 b l]
  | .vote _ _ q _ => [p q]
  | .ballot _ _ q _ => [p q]
  | .redux _ _ a _ => [e.src .i32 a l]
  | .fredux _ _ a _ => [e.src .f32 a l]
  | .scan _ _ a _ f => [e.src (if f then .f32 else .i32) a l]
  | .matchv _ _ a _ w => [e.src (wide w) a l]
  | .pcnt _ _ q => [p q]
  | _ => []

/-- The result of a group-scope form at lane `i` of the group; its lane is the lane of its strand. -/
def gatherCalc (ins : Instr) (g : Gathered) (i : Nat) : LaneOut :=
  let l := i % 8
  let n := fun k j => (g.v k j).toNat
  let set := fun j => n 0 j != 0
  match ins with
  | .shfl _ d _ _ w segw mode => .reg l d (wide w) (g.v 0 (shflSrc g.w segw mode i (n 1 i)))
  | .bfly _ x y _ =>
    let m := n 2 i
    let j := i ^^^ m
    let (x', y') := if i / m % 2 = 0 then (g.v 0 i, g.v 0 j) else (g.v 1 j, g.v 1 i)
    .ok l [.d32 (.reg x) (lo32 x'), .d32 (.reg y) (lo32 y')] x'
  | .bcast _ d _ _ w => .reg l d (wide w) (g.v 0 (if n 1 i < g.w then n 1 i else i))
  | .vote _ p _ mode =>
    let t := match mode with
      | .all => g.lanes.all set
      | .any => g.lanes.any set
      | .uni => g.lanes.all set || g.lanes.all fun j => !set j
    .pd l p t
  | .ballot _ d _ m64 => maskOut l d m64 (maskNat (g.lanes.filter set))
  | .redux _ d _ op => .reg l d .i32 (BitVec.ofNat 64 (reduxVal op (g.lanes.map (n 0))))
  | .fredux _ d _ op => .reg l d .i32 (BitVec.ofNat 64 (freduxVal op g))
  | .scan _ d _ excl f => .reg l d .i32 (BitVec.ofNat 64 (scanVal f excl g i))
  | .matchv _ d _ m64 _ => maskOut l d m64 (maskNat (g.lanes.filter fun j => n 0 j == n 0 i))
  | .pcnt _ d _ => .reg l d .i32 (BitVec.ofNat 64 (g.lanes.filter set).length)
  | .elect _ p =>
    .pd l p (g.lanes.head? == some i)
  | _ => .ok l [] 0

/-- The environment of strand `j` as its lanes stand; a strand with no live lane has the g registers and the vector registers of its
end (R368). -/
def Env.ofStrand (e : Env) (j : Nat) (u : Strand) : Env :=
  { e with k := j, u := u, grp := if u.live then e.grp else { e.grp with gregs := u.gAtExit, win := u.vAtExit } }

/-- A strand's contribution as it stands (R368). -/
def contribOf (i : Instr) (e : Env) : Contrib := ⟨e.k, e.act, (List.range 8).map (gatherVals i e)⟩

/-- All contributions of a group: those given, and for the strands with no live lane their values with no active lane. -/
def gathered (w : Nat) (cs : List Contrib) : Gathered :=
  let find := fun i => cs.find? fun (c : Contrib) => c.strand == i / 8
  { w := w
    act := fun i => match find i with | some c => inMask c.act (i % 8) | none => false
    v := fun n i => match find i with | some c => nth (nth c.vals (i % 8) []) n 0 | none => 0 }

/-- The lanes of a strand that waited for a gather go on with its results (R368). -/
def State.gatherEnd (s : State) (gid : Nat) (c : Contrib) (outs : List LaneOut) : State :=
  let ag := Agent.strand gid c.strand
  let outs := gResolve outs
  let s := (outs.filter fun o => o.cause.isNone).foldl (fun s o => s.putAll ag false o) s
  let p := ((s.unit? ag).map fun u => u.gave).getD 0
  let s := s.modUnit ag fun u => u.mapLanes (fun k => (u.lane k).wait == some .gather) fun k l =>
    ({ l with wait := none }).after (outOf outs k) (l.npc, l.nin)
  s.resettle ag p (outs.any fun o => o.cause.isSome)

/-- A pending gather completes once every live strand has contributed (R368). -/
def State.gatherCheck (s : State) (gid : Nat) (e : Env) : State :=
  match s.group? gid with
  | none => s
  | some g =>
    match g.gather with
    | none => s
    | some ga =>
      let waitsFor := (List.range g.strands.length).filter fun j =>
        (nth g.strands j (Strand.init 0 0 [])).live && !(ga.contribs.any fun c => c.strand == j)
      if !waitsFor.isEmpty then s
      else
        let dead := (List.range g.strands.length).filter fun j => !(ga.contribs.any fun c => c.strand == j)
        let e := { e with grp := g, gid := gid, cl := { e.cl with lits := ga.lits } }
        let deadCs := dead.map fun j =>
          contribOf ga.instr { e.ofStrand j (nth g.strands j (Strand.init 0 0 [])) with act := 0 }
        let x := gathered g.width (ga.contribs ++ deadCs)
        let s := s.modGroup gid fun g => { g with gather := none }
        ga.contribs.foldl (fun s c =>
          if ((nth g.strands c.strand (Strand.init 0 0 [])).live) then
            s.gatherEnd gid c ((lanesOf c.act).map fun l => gatherCalc ga.instr x (8 * c.strand + l))
          else s) s

/-- The lanes of a path start to wait, its word not yet executed; the agent's next path takes the issue (R113). -/
def State.holdPath (s : State) (e : Env) (w : Wait) : State :=
  let s := s.modUnit e.ag fun u =>
    let u := u.mapLanes (inMask e.path) fun k l => (e.seen k l).hold w (e.cl.next (e.u.lane k))
    { u with swash := min 511 (u.swash + 1) }.settle e.lane0.pc
  s.issued e

/-- Lanes with a cause park; the others of the path wait for the gather. -/
def State.holdSome (s : State) (e : Env) (w : Wait) (bads : List LaneOut) : State :=
  if bads.isEmpty then s.holdPath e w
  else
    let m := maskOf fun l => inMask e.path l && !(bads.any fun b => b.lane == l)
    (s.holdPath { e with path := m } w).raise e.ag (bads.filterMap fun b => b.cause.map fun c => (b.lane, c))

/-- A group-scope form (R368): a group of 8 carries it out at once; a wider group gathers. `bads`: lanes of the path whose
operands raise a cause, the others being active. -/
def State.groupScope (s : State) (i : Instr) (e : Env) (bads : List LaneOut) : State :=
  let e := { e with act := maskOf fun l => inMask e.act l && !(bads.any fun b => b.lane == l) }
  if e.grp.width = 8 then
    let x := gathered 8 [{ contribOf i e with strand := 0 }]
    s.finish e (bads ++ (lanesOf e.act).map (gatherCalc i x))
  else
    match e.grp.gather with
    | some ga =>
      if ga.pc != e.lane0.pc || ga.contribs.any fun c => c.strand == e.k then
        s.finish e (bads ++ allBad e.act .uniformDivergent)
      else
        let s := s.holdSome e .gather bads
        let s := s.modGroup e.gid fun g => { g with gather := some { ga with contribs := ga.contribs ++ [contribOf i e] } }
        s.gatherCheck e.gid e
    | none =>
      let s := s.holdSome e .gather bads
      let s := s.modGroup e.gid fun g => { g with gather := some ⟨e.lane0.pc, i, e.cl.lits, [contribOf i e]⟩ }
      s.gatherCheck e.gid e

/-- `shfl` (R370). -/
def execShfl (gd : Guard) (d : Dst) (a b : Src) (w : Bool) (wseg : Nat) (mode : ShflMode) (s : State) : Out :=
  s.word (.shfl gd d a b w wseg mode) fun e s => .next (s.groupScope (.shfl gd d a b w wseg mode) e [])

/-- `bfly` (R371): an m at or above the width raises ILLEGAL_ENCODING at the active lanes (R367); with none the strand contributes (R368). -/
def execBfly (gd : Guard) (x y : Nat) (m : Src) (s : State) : Out :=
  s.word (.bfly gd x y m) fun e s =>
    if e.act ≠ 0 ∧ e.grp.width ≤ e.n .i32 m 0 then .next (s.raiseAct e .illegalEncoding)
    else .next (s.groupScope (.bfly gd x y m) e [])

/-- `bcast` (R372): b is uniform (R119). -/
def execBcast (gd : Guard) (d : Dst) (a b : Src) (w : Bool) (s : State) : Out :=
  s.word (.bcast gd d a b w) fun e s =>
    .next (s.groupScope (.bcast gd d a b w) e (e.uniform fun l => [e.src .i32 b l]).2)

/-- `vote` (R373). -/
def execVote (gd : Guard) (p : PDst) (q : Nat) (mode : VoteMode) (s : State) : Out :=
  s.word (.vote gd p q mode) fun e s => .next (s.groupScope (.vote gd p q mode) e [])

/-- `ballot` (R373). -/
def execBallot (gd : Guard) (d : Dst) (q : Nat) (m64 : Bool) (s : State) : Out :=
  s.word (.ballot gd d q m64) fun e s => .next (s.groupScope (.ballot gd d q m64) e [])

/-- `redux` (R374). -/
def execRedux (gd : Guard) (d : Dst) (a : Src) (op : ReduxOp) (s : State) : Out :=
  s.word (.redux gd d a op) fun e s => .next (s.groupScope (.redux gd d a op) e [])

/-- `fredux` (R303, R374). -/
def execFredux (gd : Guard) (d : Dst) (a : Src) (op : FReduxOp) (s : State) : Out :=
  s.word (.fredux gd d a op) fun e s => .next (s.groupScope (.fredux gd d a op) e [])

/-- `scan` (R304, R374). -/
def execScan (gd : Guard) (d : Dst) (a : Src) (excl f : Bool) (s : State) : Out :=
  s.word (.scan gd d a excl f) fun e s => .next (s.groupScope (.scan gd d a excl f) e [])

/-- `match` (R373). -/
def execMatchv (gd : Guard) (d : Dst) (a : Src) (m64 w : Bool) (s : State) : Out :=
  s.word (.matchv gd d a m64 w) fun e s => .next (s.groupScope (.matchv gd d a m64 w) e [])

/-- `pcnt` (R373). -/
def execPcnt (gd : Guard) (d : Dst) (q : Nat) (s : State) : Out :=
  s.word (.pcnt gd d q) fun e s => .next (s.groupScope (.pcnt gd d q) e [])

/-- `elect` (R373). -/
def execElect (gd : Guard) (p : PDst) (s : State) : Out :=
  s.word (.elect gd p) fun e s => .next (s.groupScope (.elect gd p) e [])

/-- A predicate form of R375. -/
def State.predForm (s : State) (i : Instr) (p : PDst) (f : Env → Nat → Bool) : Out :=
  s.lanewise i fun e l => .pd l p (f e l)

/-- `pand` (R375). -/
def execPand (gd : Guard) (p : PDst) (q r : Nat) (nb na : Bool) (s : State) : Out :=
  s.predForm (.pand gd p q r nb na) p fun e l => negIf na (e.psrc q l) && negIf nb (e.psrc r l)

/-- `por` (R375). -/
def execPor (gd : Guard) (p : PDst) (q r : Nat) (nb na : Bool) (s : State) : Out :=
  s.predForm (.por gd p q r nb na) p fun e l => negIf na (e.psrc q l) || negIf nb (e.psrc r l)

/-- `pxor` (R375). -/
def execPxor (gd : Guard) (p : PDst) (q r : Nat) (nb na : Bool) (s : State) : Out :=
  s.predForm (.pxor gd p q r nb na) p fun e l => negIf na (e.psrc q l) != negIf nb (e.psrc r l)

/-- `pnot` (R375). -/
def execPnot (gd : Guard) (p : PDst) (q : Nat) (s : State) : Out := s.predForm (.pnot gd p q) p fun e l => !e.psrc q l

/-- `pmov` (R375). -/
def execPmov (gd : Guard) (p : PDst) (q : Nat) (s : State) : Out := s.predForm (.pmov gd p q) p fun e l => e.psrc q l

/-- `pmov.get` (R375): predicates q to q+31, those at or above 96 as 0. -/
def execPmovGet (gd : Guard) (d : Dst) (q : Nat) (s : State) : Out :=
  s.alu (.pmovGet gd d q) d .i32 fun e l =>
    BitVec.ofNat 64 (maskNat ((List.range 32).filter fun k => decide (q + k < 96) && e.psrc (q + k) l))

/-- `pmov.set` (R375): predicates p to p+31 below 96. -/
def execPmovSet (gd : Guard) (p : Nat) (a : Src) (s : State) : Out :=
  s.lanewise (.pmovSet gd p a) fun e l =>
    let ks := (List.range 32).filter fun k => decide (p + k < 96)
    .ok l (ks.map fun k => .p (p + k) (bitAt (e.n .i32 a l) k))
      (BitVec.ofNat 64 (maskNat (ks.filter fun k => bitAt (e.n .i32 a l) k)))

end Sys2Proof.Machine
end

