-- ==== Sys2Proof/Machine/Barrier.lean ====
section
/-!
DEFINITION. Barriers (R156 to R177) and the instructions on them, opcodes 0xA0 to 0xA6 (R388 to R395), with the steps that
carry their arrivals and messages.
-/
namespace Sys2Proof.Machine

/-! ### The register -/

/-- BSTATE (R157). -/
def Bar.state (b : Bar) : Nat :=
  flag b.valid * 2^63 + flag b.err * 2^62 + flag b.phase * 2^61 + b.ecause.toNat * 2^48 + b.expect * 2^16 + b.arrived

/-- BCOUNT (R158). -/
def Bar.count (b : Bar) : Nat := b.stray * 2^32 + b.pend * 2^16 + b.waiters

/-- `barinit` (R167). -/
def Bar.start (b : Bar) (n : Nat) : Bar :=
  { b with expect := n, arrived := 0, phase := false, err := false, ecause := 0, stray := 0, valid := true }

/-- BAR_BUSY applies (R167). -/
def Bar.busy (b : Bar) : Bool := b.waiters != 0 || b.pend != 0

/-- An arrival of count `n` (R162), with the cause of an engine's error (R161): the register, and whether a phase completes. -/
def Bar.arrive (b : Bar) (n : Nat) (engine : Bool) (err : Option Cause) : Bar × Bool :=
  let b := if engine then { b with pend := b.pend - 1 } else b
  if !b.valid then ({ b with stray := min (b.stray + n) 0xFFFF }, false)
  else
    let b := match err with
      | none => b
      | some c => { b with err := true, ecause := if b.ecause = 0 then BitVec.ofNat 8 c.code else b.ecause }
    if n = 0 then (b, false)
    else if b.arrived + n < b.expect then ({ b with arrived := b.arrived + n }, false)
    else
      ({ b with stray := min (b.stray + (b.arrived + n - b.expect)) 0xFFFF, arrived := 0, phase := !b.phase }, true)

/-- What a wait returns (R164): its status, and the cause it raises without pd. -/
def Bar.outcome (b : Bar) : Bool × Option Cause :=
  if !b.valid then (false, none)
  else if b.err then (false, causeOf b.ecause.toNat)
  else (true, none)

/-! ### Waiters -/

/-- A waiting lane returns with a status (R164): pd is written elsewhere; without pd a cause parks it as reported. -/
def Lane.barReturn (l : Lane) (pd : Option Nat) (st : Bool) (c : Option Cause) : Lane :=
  match pd with
  | some p => if p = inactive then l.resume 0 else l.resume (if st then 1 else 0)
  | none => match c with
    | some c => l.park c 0 1
    | none => l.resume 0

/-- The lanes of an agent that wait as `w` says return (R164), at time `t` of the single order or after it (R166). -/
def State.returnWaits (s : State) (ag : Agent) (w : Wait → Option (Option Nat)) (st : Bool) (c : Option Cause) (t : W64) : State :=
  match s.unit? ag with
  | none => s
  | some u =>
    let of := fun k => (u.lane k).wait.bind w
    if (List.range 8).all fun k => (of k).isNone then s
    else
      let s := (List.range 8).foldl (fun s k => match of k with
        | some (some p) => if p = inactive then s else s.put ag k (.p p st)
        | _ => s) s
      let s := s.modUnit ag fun u =>
        let u := u.mapLanes (fun k => (of k).isSome) fun k l => l.barReturn ((of k).getD none) st c
        u.settle u.gave
      (s.raisePts (s.unitOf ag) t).trapStep ag

/-- The agents of a workgroup. -/
def State.agentsOf (s : State) (w : Nat) : List Agent :=
  match s.wg? w with
  | none => []
  | some x =>
    (x.groups.flatMap fun g => match s.group? g with | some y => y.agents g | none => [])
      ++ (if x.hasCt then [.ctl w] else [])

/-- The waiters of a barrier are released with its present outcome (R164); WAITERS is zero. A wait on a barrier held outside
the workgroups gets its reply (R394). -/
def State.releaseBar (s : State) (b : BarRef) : State :=
  let (st, c) := (s.bar b).outcome
  let t := (s.bar b).time
  let s := s.modBar b fun x => { x with waiters := 0 }
  match b with
  | .wg w k =>
    (s.agentsOf w).foldl (fun s ag =>
      s.returnWaits ag (fun x => match x with | .bar j _ pd => if j = k then some pd else none | _ => none) st c t) s
  | _ =>
    { s with hmsgs := s.hmsgs.map fun m =>
        if m.waiting && m.bar == b then
          { m with waiting := false, reply := some (if m.pd.isSome then none else c, st, 0) }
        else m }

/-- An arrival is applied (R162, R166). In the single order it comes at or after every event so far (DESIGN CHOICE, log entry 114: the
spec gives a barrier event no logical time). -/
def State.arriveAt (s : State) (b : BarRef) (n : Nat) (engine : Bool) (err : Option Cause) : State :=
  let (x, fin) := (s.bar b).arrive n engine err
  let s := s.modBar b fun _ => { x with time := s.devNow }
  if fin then s.releaseBar b else s

/-- `barinval` (R168). -/
def State.invalBar (s : State) (b : BarRef) : State :=
  if (s.bar b).valid then (s.modBar b fun x => { x with valid := false, time := s.devNow }).releaseBar b else s

/-- An engine operation is accepted (R161). -/
def State.pendUp (s : State) (b : BarRef) : State := s.modBar b fun x => { x with pend := x.pend + 1 }

/-- A later arrival of an engine operation or a remote one. -/
def State.postArrival (s : State) (b : BarRef) (ag : Option Agent) (n : Nat) (engine : Bool) (err : Option Cause) : State :=
  { s with arrivals := s.arrivals ++ [⟨s.nextId, ag, b, n, err, engine⟩], nextId := s.nextId + 1 }

/-! ### Strand-uniform words (R119, R160, R389) -/

/-- The lanes that carry out a word with uniform operands, and the causes of the others: ILLEGAL_ENCODING by the lane's own
value, NONUNIFORM_OPERAND, and UNIFORM_DIVERGENT where the word must cover U. -/
def Env.strandOp (e : Env) (vals : Nat → List W64) (illegal : Nat → Bool) (needU : Bool) : BitVec 8 × List LaneOut :=
  let v := vals e.low
  let bads := ((lanesOf e.act).filterMap fun l =>
    if illegal l then some (LaneOut.bad l .illegalEncoding) else if vals l != v then some (.bad l .nonuniformOperand) else none)
  let m := maskOf fun l => inMask e.act l && !(bads.any fun b => b.lane == l)
  if needU && !e.coversU then (0, bads ++ allBad m .uniformDivergent) else (m, bads)

/-- A strand-uniform word: when lanes carry it out, `act` does its work once for them and gives their outcomes. -/
def State.strandWord (s : State) (e : Env) (mb : BitVec 8 × List LaneOut) (work : State → State × List LaneOut) : Out :=
  if mb.1 = 0 then .next (s.finish e mb.2)
  else s.afterStores e fun s =>
    let (s, outs) := work s
    .next (s.finish e (mb.2 ++ outs))

/-- The barrier that an operand bK names (R156). -/
def Env.bar (e : Env) (k : Nat) : BarRef := .wg e.wid k

/-- `barinit` (R167, R390). -/
def execBarinit (gd : Guard) (b : Nat) (n : Src) (s : State) : Out :=
  s.word (.barinit gd b n) fun e s =>
    let v := e.n .i32 n
    let mb := e.strandOp (fun l => [e.src .i32 n l]) (fun l => v l = 0 || 65535 < v l) false
    s.strandWord e mb fun s =>
      if (s.bar (e.bar b)).busy then (s, allBad mb.1 .barBusy)
      else (s.modBar (e.bar b) fun x => x.start (v e.low), done mb.1)

/-- `bararr` (R162, R391). -/
def execBararr (gd : Guard) (b : Nat) (n : Src) (s : State) : Out :=
  s.word (.bararr gd b n) fun e s =>
    let v := e.n .i32 n
    let mb := e.strandOp (fun l => [e.src .i32 n l]) (fun l => 65535 < v l) true
    -- the word has issued before the phase completes: the issuer itself never waits here
    if mb.1 = 0 then .next (s.finish e mb.2)
    else s.afterStores e fun s => .next ((s.finish e (mb.2 ++ done mb.1)).arriveAt (e.bar b) (v e.low) false none)

/-- The lanes of a path start to wait on barrier `k` (R165, R392). -/
def State.holdBar (s : State) (e : Env) (k : Nat) (ph : Bool) (pd : Option Nat) (m : BitVec 8) : State :=
  let counted := match s.unit? e.ag with | some u => u.barWaits.contains k | none => true
  let s := s.modUnit e.ag fun u =>
    let u := u.mapLanes (inMask e.path) fun j l =>
      (e.seen j l).hold (.bar k ph (if inMask m j then pd else some inactive)) (e.cl.next (e.u.lane j))
    { u with swash := min 511 (u.swash + 1) }.settle e.lane0.pc
  let s := if counted then s else s.modBar (.wg e.wid k) fun x => { x with waiters := x.waiters + 1 }
  s.issued e

/-- The outcomes of a wait that returns at issue (R164): with pd, pd gets the status; without it a cause is reported. -/
def waitOuts (m : BitVec 8) (pd : Option Nat) (st : Bool) (c : Option Cause) : List LaneOut :=
  match pd, c with
  | some p, _ => allPd m p st
  | none, some c => (lanesOf m).map fun l => .bad l c 0 1
  | none, none => done m

/-- A wait on a barrier of the workgroup (R164, R392). -/
def State.barWait (s : State) (e : Env) (k : Nat) (ph : Bool) (pd : Option Nat) : Out :=
  let mb := e.strandOp (fun _ => []) (fun _ => false) true
  if mb.1 = 0 then .next (s.finish e mb.2)
  else s.afterStores e fun s =>
    let b := s.bar (.wg e.wid k)
    if !b.valid || b.phase != ph then .next ((s.finish e (waitOuts mb.1 pd b.outcome.1 b.outcome.2)).raisePts e.unit b.time)
    else .next (s.holdBar e k ph pd mb.1)

/-- `barwait` (R164, R165, R392): ph is bit 0 of the lowest active lane's operand. -/
def execBarwait (gd : Guard) (p : Option Nat) (b : Nat) (ph : Src) (s : State) : Out :=
  s.word (.barwait gd p b ph) fun e s => s.barWait e b (bitAt (e.n .i32 ph e.low) 0) p

/-- `barinval` (R168, R390). -/
def execBarinval (gd : Guard) (b : Nat) (s : State) : Out :=
  s.word (.barinval gd b) fun e s =>
    if e.act = 0 then .next (s.finish e [])
    else s.afterStores e fun s => .next ((s.finish e (done e.act)).invalBar (e.bar b))

/-- The workgroup that a remote barrier handle names, for an issuer of a quad (R171). -/
def State.remoteWg (s : State) (e : Env) (h : Nat) : Option Nat :=
  if 2^15 ≤ h then none
  else (s.wgs.find? fun (_, w) =>
    !w.ended && !w.saved && w.coreAt 0 == e.core / 4 * 4 + bits h 14 13 && w.slot == bits h 12 4
      && ((s.kernel? w.kernel).map fun k => k.cx) == some e.cx).map Prod.fst

/-- `barrarr` (R159, R171, R391): one remote arrival, applied when it reaches its target. -/
def execBarrarr (gd : Guard) (h n : Src) (s : State) : Out :=
  s.word (.barrarr gd h n) fun e s =>
    let v := e.n .i32 n
    let mb := e.strandOp (fun l => [e.src .i32 h l, e.src .i32 n l]) (fun l => 65535 < v l) true
    s.strandWord e mb fun s =>
      match s.remoteWg e (e.n .i32 h e.low) with
      | none => (s, allBad mb.1 .permission)
      | some w => (s.postArrival (.wg w (e.n .i32 h e.low % 16)) (some e.ag) (v e.low) false none, done mb.1)

/-- The remote barrier handle of a barrier (R171). -/
def Workgroup.handle (w : Workgroup) (k : Nat) : Nat := w.first * 2^13 + w.slot * 16 + k

/-- `barq` (R393). -/
def execBarq (gd : Guard) (d : Dst) (b : Nat) (which : BarqSel) (s : State) : Out :=
  s.word (.barq gd d b which) fun e s =>
    let mb := e.strandOp (fun _ => []) (fun _ => false) (which != .handle)
    s.strandWord e mb fun s =>
      let x := s.bar (e.bar b)
      let v := match which with
        | .state => x.state
        | .count => x.count
        | .handle => e.wg.handle b
      (s, (lanesOf mb.1).map fun l => .reg l d which.ty (BitVec.ofNat 64 v))

/-! ### Higher-scope barriers (R173, R174, R394) -/

/-- Barriers of a scope (R173). -/
def scopeCount : HScope → Nat
  | .die => 64
  | .pkg => 16
  | .pod => 8

/-- The barrier `i` of a scope for an issuer (R394). -/
def Env.hbar (e : Env) (sc : HScope) (i : Nat) : BarRef :=
  match sc with
  | .die => .die e.cx (e.core / 256) i
  | .pkg => .pkg e.cx i
  | .pod => .pod e.cx i

/-- A message to a barrier's holder. `holds`: the path waits for the reply. -/
def State.hbarSend (s : State) (e : Env) (sc : HScope) (i : Src) (vals : Nat → List W64) (illegal : Nat → Bool) (needU holds : Bool)
    (op val : Nat) (pd : Option Nat) (d : Nat) (bc : Bool) : Out :=
  let n := e.n .i32 i
  let mb := e.strandOp (fun l => e.src .i32 i l :: vals l) (fun l => scopeCount sc ≤ n l || illegal l) needU
  if mb.1 = 0 then .next (s.finish e mb.2)
  else s.afterStores e fun s =>
    let id := s.nextId
    let m : HMsg := ⟨id, e.ag, mb.1, e.lane0.pc, e.lane0.hdr, e.hbar sc (n e.low), op, val, pd, d, bc, false, none⟩
    let s := { s with hmsgs := s.hmsgs ++ [m], nextId := id + 1 }
    if holds then
      let s := s.holdPath { e with path := maskOf fun l => inMask e.path l && !(mb.2.any fun b => b.lane == l) } (.hbar id)
      .next (s.raise e.ag (mb.2.filterMap fun b => b.cause.map fun c => (b.lane, c)))
    else .next (s.finish e (mb.2 ++ done mb.1))

/-- `hbar` init (R394). -/
def execHbarInit (gd : Guard) (i n : Src) (sc : HScope) (s : State) : Out :=
  s.word (.hbarInit gd i n sc) fun e s =>
    let v := e.n .i32 n
    s.hbarSend e sc i (fun l => [e.src .i32 n l]) (fun l => v l = 0 || 65535 < v l) false true 0 (v e.low) none 0 false

/-- `hbar` arrive (R394). -/
def execHbarArr (gd : Guard) (i : Src) (sc : HScope) (s : State) : Out :=
  s.word (.hbarArr gd i sc) fun e s => s.hbarSend e sc i (fun _ => []) (fun _ => false) true false 1 1 none 0 false

/-- `hbar` wait (R394). -/
def execHbarWait (gd : Guard) (p : Option Nat) (i ph : Src) (sc : HScope) (s : State) : Out :=
  s.word (.hbarWait gd p i ph sc) fun e s =>
    s.hbarSend e sc i (fun _ => []) (fun _ => false) true true 2 (e.n .i32 ph e.low % 2) p 0 false

/-- `hbar` query (R394). -/
def execHbarQ (gd : Guard) (d : Nat) (i : Src) (bc : Bool) (sc : HScope) (s : State) : Out :=
  s.word (.hbarQ gd d i bc sc) fun e s => s.hbarSend e sc i (fun _ => []) (fun _ => false) true true 3 0 none d bc

/-! ### Device steps -/

/-- REMOTE_ARRIVAL: a `barrarr` reaches its target (R159, R391); so does an arrival that an engine posts without having raised PEND, with
its cause (R161, R274, R278). -/
def execRemoteArrival (id : Nat) (s : State) : Out :=
  match s.arrivals.find? fun a => a.id == id && !a.engine with
  | none => s.noEvent
  | some a => .next ({ s with arrivals := s.arrivals.filter fun x => x.id != id }.arriveAt a.bar a.n false a.cause)

/-- ENGINE_ARRIVAL: an engine operation that has completed arrives on its barrier (R159, R161, R169). -/
def execEngineArrival (id : Nat) (s : State) : Out :=
  match s.arrivals.find? fun a => a.id == id && a.engine with
  | none => s.noEvent
  | some a => .next ({ s with arrivals := s.arrivals.filter fun x => x.id != id }.arriveAt a.bar a.n true a.cause)

/-- The message `id` changed by `f`. -/
def State.modMsg (s : State) (id : Nat) (f : HMsg → HMsg) : State :=
  { s with hmsgs := s.hmsgs.map fun m => if m.id == id then f m else m }

/-- The rank that holds the pod barriers (R174, R175): rank 0, its mirror once rank 0 is lost, the own rank in a pod of size 1. Where
rank 1 is lost as well it stays rank 1, which answers nothing that this package could know (DESIGN CHOICE, log entry 159). -/
def State.podHolder (s : State) : Nat :=
  if s.fab.podsize ≤ 1 then s.fab.rank else if bitAt s.fab.lostmap.toNat 0 then 1 else 0

/-- A barrier is held by this package (R174). -/
def State.holdsBar (s : State) (b : BarRef) : Bool :=
  match b with
  | .pod _ _ => s.podHolder == s.fab.rank
  | _ => true

/-- A word of a barrier as another package sends it: reserved bits are zero (R157, R158), and one that is valid has members. -/
def barWord (bc : Bool) (v : W64) : W64 :=
  if bc then v &&& 0x0000FFFFFFFFFFFF
  else
    let w := v &&& 0xE0FF0000FFFFFFFF
    if bits w.toNat 31 16 = 0 then w &&& 0x7FFFFFFFFFFFFFFF else w

/-- A message to a pod barrier that another package holds has been applied there (R174): what it finds is free, among the outcomes that
R164, R167, R175 and R261 allow. -/
def State.farReply (s : State) (m : HMsg) : State :=
  if m.op = 1 then { s with hmsgs := s.hmsgs.filter fun x => x.id != m.id }
  else
    let (c, s) := s.free
    let (v, s) := s.free
    let r : Option Cause × Bool × W64 :=
      if c = 0 then (some .permission, false, 0)
      else match m.op with
        | 0 => (if v = 0 then some .barBusy else none, false, 0)
        | 2 => if v = 0 then (none, false, 0) else if v = 1 then (none, true, 0)
               else (if m.pd.isSome then none else some .peerLost, false, 0)
        | _ => (none, false, barWord m.bc v)
    s.modMsg m.id fun m => { m with reply := some r }

/-- HBAR_MESSAGE: a message takes effect at the barrier's holder (R174, R394). -/
def execHbarMessage (id : Nat) (s : State) : Out :=
  match s.hmsgs.find? fun m => m.id == id && !m.waiting && m.reply.isNone with
  | none => s.noEvent
  | some m =>
    if !s.holdsBar m.bar then .next (s.farReply m)
    else
    let b := s.bar m.bar
    match m.op with
    | 0 =>
      if b.busy then .next (s.modMsg id fun m => { m with reply := some (some .barBusy, false, 0) })
      else .next ((s.modBar m.bar fun x => x.start m.val).modMsg id fun m => { m with reply := some (none, false, 0) })
    | 1 => .next ({ s with hmsgs := s.hmsgs.filter fun x => x.id != id }.arriveAt m.bar 1 false none)
    | 2 =>
      if !b.valid || b.phase != (m.val == 1) then
        let (st, c) := b.outcome
        .next (s.modMsg id fun m => { m with reply := some (if m.pd.isSome then none else c, st, 0) })
      else .next ((s.modBar m.bar fun x => { x with waiters := x.waiters + 1 }).modMsg id fun m => { m with waiting := true })
    | _ =>
      .next (s.modMsg id fun m => { m with reply := some (none, false, BitVec.ofNat 64 (if m.bc then b.count else b.state)) })

/-- A lane that waits for a reply goes on (R394). -/
def Lane.hbarReturn (l : Lane) (act : Bool) (m : HMsg) (r : Option Cause × Bool × W64) : Lane :=
  if !act then l.resume 0
  else match r with
    | (some c, _, _) => l.park c 0 (if m.op = 2 then 1 else 0)
    | (none, st, v) => l.resume (if m.op = 3 then v else if m.pd.isSome && st then 1 else 0)

/-- HBAR_REPLY: the holder's reply reaches the issuer (R394). -/
def execHbarReply (id : Nat) (s : State) : Out :=
  match s.hmsgs.find? fun m => m.id == id with
  | none => s.noEvent
  | some m =>
    match m.reply with
    | none => s.noEvent
    | some r =>
      let s := { s with hmsgs := s.hmsgs.filter fun x => x.id != id }
      let s := if r.1.isSome then s else (lanesOf m.act).foldl (fun s l =>
        match m.op, m.pd with
        | 2, some p => s.put m.ag l (.p p r.2.1)
        | 3, _ => s.put m.ag l (.d64 (.reg m.d) r.2.2)
        | _, _ => s) s
      let s := s.modUnit m.ag fun u =>
        let u := u.mapLanes (fun k => (u.lane k).wait == some (.hbar id)) fun k l => l.hbarReturn (inMask m.act k) m r
        u.settle u.gave
      .next ((if m.op = 2 then s.raisePts (s.unitOf m.ag) s.devNow else s).trapStep m.ag)

/-! ### Messages of other packages to the pod barriers held here (R174, R261) -/

/-- A pod-barrier message of another package reaches this one, which holds the barrier: one from a context that is Free or Building here
has no effect (R261). -/
def State.podMessage (s : State) (cx k op val : Nat) : State :=
  let b := s.bar (.pod cx k)
  if !s.holdsBar (.pod cx k) || decide (8 ≤ k) || (s.ctx cx).st == .free || (s.ctx cx).st == .building then s
  else match op with
    | 0 => if b.busy || val == 0 || decide (65535 < val) then s else s.modBar (.pod cx k) fun x => x.start val
    | 1 => s.arriveAt (.pod cx k) 1 false none
    | 2 => if b.valid && b.phase == (val == 1) then s.modBar (.pod cx k) fun x => { x with waiters := x.waiters + 1 } else s
    | 4 => s.modBar (.pod cx k) fun x => { x with waiters := x.waiters - 1 }
    | _ => s

/-- The fields of a barrier are within their widths, and a valid one has members (R157, R158). -/
def Bar.fits (b : Bar) : Bool :=
  (!b.valid || b.expect != 0) && [b.expect, b.arrived, b.stray, b.pend, b.waiters].all fun n => decide (n < 2^16)

/-- The mirror of the pod barriers, rank 1, takes over what their holder sends it (R174). -/
def State.podMirror (s : State) (cx k : Nat) (b : Bar) : State :=
  if s.fab.rank = 1 ∧ s.podHolder = 0 ∧ k < 8 ∧ b.fits then s.modBar (.pod cx k) fun _ => b else s

end Sys2Proof.Machine
end

