-- ==== Sys2Proof/Machine/Fetch.lean ====
section
/-!
DEFINITION. Clauses: the header and its checks (R88, R307 to R309), the instruction cache (R459), CLAUSE_FETCH, SWASH_YIELD and
TRAP_ENTRY.
-/
namespace Sys2Proof.Machine

/-- A header passes the checks of R309 apart from patches. -/
def headerOk (w : Nat) : Bool :=
  bits w 63 60 == 10 && decide (bits w 52 50 ≤ 4) && bits w 43 41 != 6 && w % 2^40 == 0

/-- The clause that a header, its words and its literals form. -/
def clauseOf (hdr w : Nat) (words : List W64) (lits : List W32) : Clause :=
  ⟨hdr, bits w 59 57, BitVec.ofNat 6 (bits w 49 44), bits w 43 41, bitAt w 40, words, lits⟩

/-- Words of a header: instruction words and literal words (R308). -/
def headerLen (w : Nat) : Nat × Nat := (bits w 56 53 + 1, bits w 52 50)

/-- The instruction cache holds 64 B lines by physical address (R459). -/
def icKey (core a : Nat) : Nat := 2^64 * core + a / 64

/-- Eight code bytes through a core's instruction cache (R459): a line that is not there is filled. -/
def State.icRead (s : State) (core a : Nat) : List Byte × State :=
  match tabFind? s.icache (icKey core a) with
  | some line => ((line.drop (a % 64)).take 8, s)
  | none =>
    let line := memRead s.mem (lineOf a) 64
    ((line.drop (a % 64)).take 8, { s with icache := tabSet s.icache (icKey core a) line })

/-- A fetch of the double word at a virtual address (R97, R224, R232): the lease, EX, and the instruction cache. -/
def State.fetchWord (s : State) (k : Kernel) (core va : Nat) : Except Cause Nat × State :=
  if !k.leases false va 8 then (.error .lease, s)
  else if decide (2^48 ≤ va) || decide (blockBase ≤ va) then (.error .addrTag, s)
  else
    match (s.walkRequest core [2048 + quadOf core] k.cx va).translate [2048 + quadOf core] core k.cx va with
    | (.error _, s) => (.error .permission, s)
    | (.ok lf, s) =>
      if !pteEx lf.pte then (.error .permission, s.tlbDrop [2048 + quadOf core] k.cx va)
      else
        let (bs, s) := s.icRead core (s.physBy k.cx va lf.pte lf.psize false)
        (.ok (leNat bs), s)

/-- `n` double words from an address, or the cause of the first that cannot be fetched, with its address. -/
def State.fetchWords (s : State) (k : Kernel) (core va : Nat) : Nat → Except (Cause × Nat) (List W64) × State
  | 0 => (.ok [], s)
  | n + 1 =>
    match s.fetchWord k core va with
    | (.error c, s) => (.error (c, va), s)
    | (.ok w, s) =>
      match s.fetchWords k core (va + 8) n with
      | (.error c, s) => (.error c, s)
      | (.ok ws, s) => (.ok (BitVec.ofNat 64 w :: ws), s)

/-- The literals of literal words, low half first (R87). -/
def litsOf (ws : List W64) : List W32 := ws.flatMap fun w => [lo32 w, hi32 w]

/-- The literals of a clause with the kernel's patches laid over them (R87, R88). `first`: code offset of the first. The entries are
laid in table order: of two that name one literal the later stands (DESIGN CHOICE, log entry 109). -/
def patchLits (k : Kernel) (first : Int) (ls : List W32) : List W32 :=
  k.patches.foldl (fun ls p =>
    let i := ((p.slot : Int) - first).toNat / 4
    if (p.slot : Int) < first ∨ first + 4 * ls.length ≤ p.slot then ls
    else
      let v := leNat ((k.pblock.drop p.poff).take (if p.w64 then 8 else 4))
      let ls := modAt ls i fun _ => BitVec.ofNat 32 v
      if p.w64 then modAt ls (i + 1) fun _ => BitVec.ofNat 32 (v / 2^32) else ls) ls

/-- A patch lies on bytes [lo, hi) of the code; a clause of a handler below CODE has negative offsets (R309). -/
def Kernel.patchOn (k : Kernel) (lo hi : Int) : Bool :=
  k.patches.any fun p => decide ((p.slot : Int) < hi) && decide (lo < (p.slot : Int) + (if p.w64 then 8 else 4))

/-- A line from `lo` on, below `hi`, that the clause needs is not in the instruction cache, and its home's directory is being rebuilt
(R266). -/
def State.codeHeld (s : State) (k : Kernel) (core lo hi : Nat) : Bool :=
  (List.range ((hi + 63) / 64 - lo / 64)).any fun j =>
    match s.walk k.cx (lineOf lo + 64 * j) with
    | .ok l =>
      let a := s.physBy k.cx (lineOf lo + 64 * j) l.pte l.psize false
      s.rebuilding a && (tabFind? s.icache (icKey core a)).isNone
    | .error _ => false

/-- The fetch of a clause stalls (R266): of its header's line, or of a line of its words. -/
def State.fetchHeld (s : State) (k : Kernel) (core hdr : Nat) : Bool :=
  s.codeHeld k core hdr (hdr + 8) || match s.clauseShape k.cx hdr with
    | some (n, l) => s.codeHeld k core hdr (min (hdr + 8 * (1 + n + l)) (k.code + k.codelen))
    | none => false

/-- The clause at a header address, or a cause with its TPC and TADDR (R88, R307, R309). -/
def State.fetchClause (s : State) (k : Kernel) (core hdr : Nat) : Except (Cause × Nat × Nat) Clause × State :=
  let fin := k.code + k.codelen
  if fin ≤ hdr then (.error (.illegalEncoding, hdr, 0), s)
  else
    match s.fetchWord k core hdr with
    | (.error c, s) => (.error (c, hdr, hdr), s)
    | (.ok w, s) =>
      let o : Int := (hdr : Int) - k.code
      let (n, l) := headerLen w
      if !headerOk w || k.patchOn o (o + 8) then (.error (.illegalEncoding, hdr, 0), s)
      else if fin < hdr + 8 * (1 + n + l) then (.error (.illegalEncoding, fin, 0), s)
      else if k.patchOn (o + 8) (o + 8 * (1 + n)) then (.error (.illegalEncoding, hdr, 0), s)
      else
        match s.fetchWords k core (hdr + 8) (n + l) with
        | (.error (c, va), s) => (.error (c, hdr, va), s)
        | (.ok ws, s) =>
          (.ok (clauseOf hdr w (ws.take n) (patchLits k (o + 8 * (1 + n)) (litsOf (ws.drop n)))), s)

/-- The strand of an agent may issue (R44, R130). -/
def State.mayIssue (s : State) (ag : Agent) : Option (Strand × Nat × Kernel) :=
  match s.unit? ag, s.wgOf ag with
  | some u, some wid =>
    match (s.wg? wid).bind fun w => s.kernel? w.kernel with
    | none => none
    | some k =>
      let grp := match ag with | .strand g _ => (s.group? g).map (fun g => g.st == .running || g.st == .converging) | .ctl _ => some true
      if grp == some true && (s.ctx k.cx).st == .active && !(s.ctx k.cx).restoring then some (u, wid, k) else none
  | _, _ => none

/-- CLAUSE_FETCH (R88, R307 to R309): the current path's clause comes into its strand's clause buffer. -/
def execClauseFetch (ag : Agent) (s : State) : Out :=
  match s.mayIssue ag with
  | none => s.noEvent
  | some (u, _, k) =>
    match lanesOf u.path with
    | [] => s.noEvent
    | k0 :: _ =>
      let l := u.lane k0
      let hdr := if l.inClause then l.hdr else l.pc
      if l.inClause && (u.clause.map fun c => c.hdr) == some l.hdr then s.noEvent
      else if s.fetchHeld k (s.coreOf ag) hdr then .next s.tick
      else match s.fetchClause k (s.coreOf ag) hdr with
      | (.ok c, s) =>
        .next (s.modUnit ag fun u =>
          { u.mapLanes (inMask u.path) (fun _ l =>
              if l.inClause then l else { l with inClause := true, hdr := hdr, pc := hdr + 8, cwi := 0 }) with clause := some c }).tick
      | (.error (c, tpc, taddr), s) =>
        let m := u.path
        let s := s.modUnit ag fun u => u.mapLanes (inMask m) fun _ l => { l with pc := tpc, inClause := tpc != hdr, hdr := hdr }
        .next (s.raise ag ((lanesOf m).map fun l => (l, c, BitVec.ofNat 64 taddr, 0))).tick

/-- SWASH_YIELD (R117): at a clause end with a count of 256 or more, the next path becomes current. -/
def execSwashYield (g k : Nat) (s : State) : Out :=
  match s.mayIssue (.strand g k) with
  | none => s.noEvent
  | some (u, _, _) =>
    match lanesOf u.path with
    | [] => s.noEvent
    | k0 :: _ =>
      if !(u.lane k0).inClause && decide (256 ≤ u.swash) && u.yieldPath.cur != u.cur then
        .next (s.modUnit (.strand g k) Strand.yieldPath)
      else s.noEvent


/-- TRAP_ENTRY (R47 to R49): the parked sub-strands whose turn it is enter their handlers, or the kernel ends. -/
def execTrapEntry (ag : Agent) (s : State) : Out :=
  match s.mayIssue ag with
  | none => s.noEvent
  | some (u, _, k) =>
    if s.trapDue ag u then .next (s.trapStep ag) else s.noEvent

end Sys2Proof.Machine
end

