-- ==== Sys2Proof/Machine/Queue.lean ====
section
/-!
DEFINITION. Queues and the scheduler (R61 to R85): the registers of a queue, its commands, readiness and holds, the choice of
R80, the records and the tape.
-/
namespace Sys2Proof.Machine

/-! ### Registers -/

/-- Codes of queue states (R64). -/
def QState.code : QState → Nat
  | .disabled => 0
  | .idle => 1
  | .armed => 2
  | .dispatching => 3
  | .blocked => 4
  | .stalled => 5
  | .draining => 6

/-- Codes of stall causes (R64). -/
def SCause.code : SCause → Nat
  | .none => 0
  | .badtype => 1
  | .badrec => 2
  | .waitto => 3
  | .fault => 4
  | .revabort => 5

/-- QSTAT (R64). -/
def Queue.qstat (q : Queue) : Nat :=
  q.scause.code * 2^24 + q.hold * 2^20 + flag q.tovf * 2^19 + flag q.wake * 2^18 + flag q.rej * 2^16 + q.lastcmd.toNat * 2^8
    + q.st.code

/-- QCFG (R63). -/
def Queue.qcfg (q : Queue) : Nat := q.cx * 2^32 + q.clog2 * 2^24 + q.rlog2 * 2^16 + flag q.devtail * 2^7 + q.prio

/-- A register of a queue block (R62); a write-only or reserved one reads zero. -/
def Queue.read (q : Queue) (off : Nat) : Nat :=
  match off with
  | 0x00 => q.qtail.toNat
  | 0x08 => q.qhead.toNat
  | 0x10 => q.qcseq.toNat
  | 0x18 => q.qchead.toNat
  | 0x28 => q.qstat
  | 0x30 => q.qcfg
  | 0x38 => q.qring.toNat
  | 0x40 => q.qcring.toNat
  | 0x48 => q.qtape.toNat
  | 0x50 => q.depth
  | 0x58 => q.qiseq.toNat
  | 0x60 => q.qicseq.toNat
  | 0x68 => q.qwait.toNat
  | _ => 0

/-- A rejected command or write. -/
def Queue.reject (q : Queue) : Queue := { q with rej := true }

/-- A write of a configuration register, in Disabled only (R62, R63). -/
def Queue.config (q : Queue) (off : Nat) (v : W64) : Queue :=
  if q.st != .disabled then q.reject
  else
    let n := v.toNat
    match off with
    | 0x30 => { q with cx := bits n 39 32, clog2 := bits n 27 24, rlog2 := bits n 20 16, devtail := bitAt n 7, prio := n % 8 }
    | 0x38 => { q with qring := v }
    | 0x40 => { q with qcring := v }
    | 0x48 => { q with qtape := v }
    | 0x58 => { q with qiseq := v }
    | 0x60 => { q with qicseq := v }
    | _ => q.reject

/-- A store to QTAIL (R70, R84). -/
def Queue.raiseTail (q : Queue) (v : W64) : Queue :=
  if q.st == .disabled then q.reject else if q.qtail.toNat < v.toNat then { q with qtail := v } else q

/-- A store to QCHEAD (R70, R84). -/
def Queue.raiseHead (q : Queue) (v : W64) : Queue :=
  if q.st == .disabled then q.reject else if q.qchead.toNat < v.toNat then { q with qchead := v } else q

/-- W1C bits of QSTAT (R64). -/
def Queue.clearStat (q : Queue) (v : W64) : Queue :=
  { q with tovf := q.tovf && !bitAt v.toNat 19, wake := q.wake && !bitAt v.toNat 18, rej := q.rej && !bitAt v.toNat 16 }

/-- A write to QWAKE (R83): WAKE is set; a WAIT of mode SIGNAL that is held, for whatever reason, has its signal. -/
def Queue.signal (q : Queue) : Queue := { q with wake := true, sigWake := q.sigWake || (q.st == .blocked && q.ready.isSome) }

/-! ### Records -/

/-- What the scheduler finds at the head of a ring (R69). -/
inductive Head where
  | notReady
  | fault
  | record (bs : List Byte)
  deriving DecidableEq, Repr

/-- Address of ring slot `k` (R67). -/
def Queue.slotAt (q : Queue) (k : Nat) : Nat := q.qring.toNat + 256 * (k % 2^q.rlog2)

/-- The head record, when it is ready: SEQ, then the whole record (R69). -/
def State.head (s : State) (qid : Nat) : Head :=
  let q := s.queue qid
  if q.qhead.toNat < q.qtail.toNat then
    let a := q.slotAt q.qhead.toNat
    match s.devRead q.cx a 8 with
    | none => .fault
    | some bs =>
      if leNat bs ≠ q.qhead.toNat then .notReady
      else match s.devReadN q.cx a 32 with
        | none => .fault
        | some rec => .record rec
  else .notReady

/-- TYPE of a record (R67). -/
def recType (rec : List Byte) : Nat := wordAt rec 1 % 256
/-- ORDER of a record (R67). -/
def recOrder (rec : List Byte) : Bool := bitAt (wordAt rec 1) 8

/-- A record that stalls its queue (R68). Of an ADDR only the tag and the alignment are tested: bits [61:48] take no part, and the
translation uses bits [47:0] (DESIGN CHOICE, log entry 105). -/
def recError (rec : List Byte) : Option SCause :=
  let t := recType rec
  let addrBad := wordAt rec 2 % 8 != 0 || decide (2^62 ≤ wordAt rec 2)
  if t = 0 ∨ 7 < t then some .badtype
  else if t = 4 ∧ (4 < wordAt rec 4 % 8 ∨ addrBad) then some .badrec
  else if t = 5 ∧ (wordAt rec 4 % 4 = 3 ∨ addrBad) then some .badrec
  else none

/-- The condition of a WAIT (R68): met, or the fault of reading ADDR. -/
def State.waitMet (s : State) (q : Queue) (rec : List Byte) : Except SCause Bool :=
  let v := wordAt rec 3
  match wordAt rec 4 % 8 with
  | 4 => .ok q.sigWake
  | m =>
    match s.devRead q.cx (wordAt rec 2) 8 with
    | none => .error .fault
    | some bs =>
      let x := leNat bs
      .ok (match m with
        | 0 => decide (v ≤ x)
        | 1 => x == v
        | 2 => x != v
        | _ => (x &&& v) != 0)

/-- The context admits dispatch (HOLD 6): Ready or Active, with a CEIL that is not zero (R38, R72). -/
def State.ctxDispatches (s : State) (cx : Nat) : Bool :=
  let c := s.ctx cx
  (c.st == .ready || c.st == .active) && c.ceil != 0

/-- A completion slot is free (R74). -/
def Queue.slotFree (q : Queue) : Bool := decide (q.taken.length + 1 + q.qcseq.toNat ≤ q.qchead.toNat + 2^q.clog2)

/-- The launch that a LAUNCH record asks for. -/
def State.launchOf (s : State) (qid : Nat) (rec : List Byte) : Kernel × Option (Nat × Cause) :=
  let q := s.queue qid
  s.parseLaunch q.cx qid q.qhead none (q.slotAt q.qhead.toNat) rec 0

/-- HOLD of a head record (R72): the first reason that applies, 0 when none does, or the error of testing it. -/
def State.holdOf (s : State) (qid : Nat) (rec : List Byte) : Except SCause Nat :=
  let q := s.queue qid
  let t := recType rec
  let rest := if q.rev.isSome then 4 else if !q.slotFree then 5 else if !s.ctxDispatches q.cx then 6 else 0
  match recError rec with
  | some c => .error c
  | none =>
    if t = 1 ∧ s.rangeHeld qid (s.launchOf qid rec).1 then .ok 1
    else if (recOrder rec || t == 2 || t == 3 || t == 5) && !q.taken.isEmpty then .ok 2
    else if t = 4 then
      match s.waitMet q rec with
      | .error c => .error c
      | .ok b => .ok (if b then rest else 3)
    else .ok rest

/-- The queue stalls (R84): SCAUSE and QWAIT are set; `typ` is the TYPE that was read, for a later SKIP (R74). -/
def Queue.stallWith (q : Queue) (c : SCause) (seq : W64) (typ : Nat) : Queue :=
  { q with st := .stalled, scause := c, qwait := seq, hold := 0, disp := none, stallTyp := typ }

/-- An Idle queue tests its head record (R69, R72, R84). -/
def State.testIdle (s : State) (qid : Nat) : State :=
  match s.head qid with
  | .notReady => s
  | .fault => s.modQueue qid fun q => q.stallWith .fault q.qhead 0
  | .record rec =>
    match s.holdOf qid rec with
    | .error c => s.modQueue qid fun q => q.stallWith c q.qhead (recType rec)
    | .ok h =>
      s.modQueue qid fun q =>
        { q with st := if h = 0 then .armed else .blocked, hold := h, qwait := if h = 0 then q.qwait else q.qhead
                 ready := some (q.ready.getD s.dtime) }

/-- The head record is ready, from now on where it was not before (R69, R80). -/
def State.noteHead (s : State) (qid : Nat) : State :=
  if (s.queue qid).ready.isSome then s else s.modQueue qid fun q => { q with ready := some s.dtime }

/-- An Armed queue whose head record is held again is Blocked (R84, Hold). A head that has become unreadable or wrong is found out
when the record is chosen and read (R84, Dispatching). -/
def State.testArmed (s : State) (qid : Nat) : State :=
  match s.head qid with
  | .notReady => s
  | .fault => s.noteHead qid
  | .record rec =>
    let s := s.noteHead qid
    match s.holdOf qid rec with
    | .ok 0 => s
    | .ok h => s.modQueue qid fun q => { q with st := .blocked, hold := h, qwait := q.qhead }
    | .error _ => s

/-- A Blocked queue tests its head record again: HOLD follows the first reason that still applies (R72, R83), and an error stalls
the queue (R84); where no reason is left, HOLD_RELEASE is to come. A record that becomes ready while a REVERSE continued by RESUME holds the
queue is ready from then on, and QWAIT names it (R62, R72, R80). -/
def State.testBlocked (s : State) (qid : Nat) : State :=
  match s.head qid with
  | .notReady => s
  | .fault => s.modQueue qid fun q => q.stallWith .fault q.qhead 0
  | .record rec =>
    match s.holdOf qid rec with
    | .error c => s.modQueue qid fun q => q.stallWith c q.qhead (recType rec)
    | .ok h => s.modQueue qid fun q =>
        let q := { q with ready := some (q.ready.getD s.dtime) }
        if h = 0 then q else { q with hold := h, qwait := q.qhead }

/-! ### The tape and REVERSE (R77 to R79) -/

/-- Address of tape entry `i` (R77). -/
def Queue.entryAt (q : Queue) (i : Nat) : Nat := q.qtape.toNat + 64 * i

/-- A tape entry's four words that the device reads; none on a fault. -/
def State.tapeEntry (s : State) (q : Queue) (i : Nat) : Option (List Byte) := s.devReadN q.cx (q.entryAt i) 4

/-- How a pop goes on. -/
inductive Pop where
  | kernel                   -- todo holds the next kernels
  | stop                     -- the pop stops
  | bad (c : SCause)
  deriving DecidableEq, Repr

/-- Pops entries until a kernel is to be launched or the pop stops (R78): `d` is the pop position, which QTAPEDEPTH follows
only as groups complete. -/
def State.popTape (s : State) (q : Queue) : Nat → Reverse → Reverse × Pop
  | 0, r => (if r.run.isEmpty then { r with stopping := true } else { r with todo := r.run, run := [], group := some 0, stopping := true },
      if r.run.isEmpty then .stop else .kernel)
  | d + 1, r =>
    match s.tapeEntry q d with
    | none => (r, .bad .fault)
    | some e =>
      match wordAt e 0 % 4 with
      | 1 =>
        if bitAt (wordAt e 0) 8 then s.popTape q d { r with run := d :: r.run }
        else ({ r with todo := d :: r.run, run := [], group := some d }, .kernel)
      | 2 =>
        let r := { r with mark := some (BitVec.ofNat 32 (wordAt e 3)), stopping := true }
        if r.run.isEmpty then ({ r with group := some d }, .stop)
        else ({ r with todo := r.run, run := [], group := some d }, .kernel)
      | _ => (r, .bad .badrec)

/-- A REVERSE goes on (R78): with kernels of its group still to launch, nothing; else the group is complete, QTAPEDEPTH falls
to its index, and the pop continues from there. At a popped mark QTAPEDEPTH falls before the pending run is launched, so that it does not stay
above that run where one of its kernels is aborted (R78 against R79: DEDUCED, log entry 145). A TAPECLR meanwhile sets QTAPEDEPTH
alone: the pop goes on from its group, whose index QTAPEDEPTH takes again (DESIGN CHOICE, log entry 146). -/
def State.revNext (s : State) (q : Queue) (r : Reverse) : Reverse × Nat × Pop :=
  if !r.todo.isEmpty then (r, q.depth, .kernel)
  else
    let depth := r.group.getD q.depth
    if r.stopping then (r, depth, .stop)
    else
      let r0 := { r with group := none }
      let (r, p) := s.popTape q depth r0
      match p with
      | .bad c => (r0, depth, .bad c)
      | _ => (r, if p == .stop then r.group.getD 0 else if r.mark.isSome then r.group.getD depth else depth, p)

/-- The completion record of a REVERSE (R74, R79): `skip` for one that SKIP ends where no kernel of it was aborted (R84). -/
def Reverse.record (r : Reverse) (e : Option (Ending × Nat)) (skip : Bool) (energy : W64) : CRec :=
  { seq := r.seq, typ := 2, status := if skip then 2 else if e.isSome then 1 else 0, cause := (e.map fun x => x.1.cause).getD 0, count := r.count
    markhit := e.isNone && !skip && r.mark.isSome, tpc := (e.map fun x => x.1.tpc).getD 0, taddr := (e.map fun x => x.1.taddr).getD 0
    dstart := r.dstart, mark := match e with | some x => BitVec.ofNat 32 x.2 | none => if skip then 0 else r.mark.getD 0
    energy := lo32 energy }

/-- Energy of the kernels a REVERSE has run (R74): those of its queue from the tape that carry its sequence number and were launched since it
was taken. -/
def State.revEnergy (s : State) (qid : Nat) (r : Reverse) : W64 :=
  s.kernels.foldl (fun n (i, k) =>
    if decide (r.first ≤ i) && k.queue == qid && k.tape.isSome && k.rseq.toNat == r.seq then n + k.energy else n) 0

/-- A REVERSE completes. -/
def State.revComplete (s : State) (qid : Nat) (r : Reverse) (e : Option (Ending × Nat)) (skip : Bool := false) : State :=
  (s.modQueue qid fun q => { q with rev := none, stallRev := false }).complete qid (r.record e skip (s.revEnergy qid r))

/-- The ending of a REVERSE's aborted kernel. -/
def State.revEnding (s : State) (r : Reverse) : Ending × Nat :=
  ((r.kernel.bind fun k => (s.kernel? k).bind fun x => x.ending).getD ⟨0, 0, 0⟩, r.entry)

/-- A REVERSE meets an error (R79, R84): its queue stalls, or, Draining, the record completes as ABORTED. A fault in reading a tape entry or
the record at LREC is such an error (DESIGN CHOICE, log entry 133). -/
def State.revError (s : State) (qid : Nat) (r : Reverse) (c : SCause) : State :=
  if (s.queue qid).st == .draining then s.revComplete qid r (some (s.revEnding r))
  else s.modQueue qid fun q => { q.stallWith c (BitVec.ofNat 64 r.seq) 2 with stallRev := true, rev := some r }

/-- A running REVERSE whose kernel has ended takes its next step: it finds its next kernel, stops, or meets an error; the error of a
REVERSE whose queue is Stalled on its head record waits for RESUME or SKIP (R84: no error occurs in Stalled). COUNT
counts the kernels that are Done: an Aborted one, which stalls the queue, is left out of it (DESIGN CHOICE, log entry 104). -/
def State.revStep (s : State) (qid : Nat) : State :=
  let q := s.queue qid
  match q.rev with
  | none => s
  | some r =>
    if q.stallRev then s
    else match r.kernel with
    | some kid =>
      match s.kernel? kid with
      | none => s
      | some k =>
        match k.st with
        | .aborted => if q.st == .stalled then s else s.revError qid r .revabort
        | .done =>
          let r := { r with kernel := none, count := r.count + 1, todo := r.todo.tail, since := s.dtime }
          let (r, d, p) := s.revNext q r
          let s0 := s
          let s := s.modQueue qid fun q => { q with rev := some r, depth := d }
          match p with
          | .kernel => s
          | .stop => s.revComplete qid r none
          | .bad c => if q.st == .stalled then s0 else s.revError qid r c
        | _ => s
    | none => s

/-- Every queue is tested again: heads that have become ready, holds that have come to apply, REVERSEs whose kernel is done
(R69, R72, R79, R84). -/
def State.wakeQueue (s : State) (qid : Nat) : State :=
  let s := s.revStep qid
  match (s.queue qid).st with
  | .idle => s.testIdle qid
  | .armed => s.testArmed qid
  | .blocked => s.testBlocked qid
  | _ => s

/-- All queues that have ever been configured. -/
def State.wakeQueues (s : State) : State := (s.queues.map Prod.fst).foldl State.wakeQueue s

/-! ### The choice of R80 -/

/-- The estimate of an energy class in W (R81). -/
def estimate (e : Nat) : Nat := 25 * 2^e

/-- The estimates of a context's kernels in Dispatching or Running (R81). -/
def State.drawn (s : State) (cx : Nat) : Nat :=
  (tabVals s.kernels).foldl (fun n k =>
    if k.cx == cx && (k.st == .dispatching || k.st == .running) then n + estimate k.eclass else n) 0

/-- Work of an energy class fits its context's budget (R81). -/
def State.fits (s : State) (cx : Nat) (e : Option Nat) : Bool :=
  match e with
  | none => true
  | some e => decide (estimate e + s.drawn cx ≤ (s.ctx cx).cur.toNat)

/-- The energy class of the next kernel of a REVERSE: of the launch record that its tape entry names. -/
def State.tapeClass (s : State) (q : Queue) (r : Reverse) : Option Nat :=
  r.todo.head?.bind fun i => (s.tapeEntry q i).bind fun e =>
    (s.devRead q.cx (wordAt e 1 + 0x30) 8).map fun bs => bits (leNat bs) 35 32

/-- A piece of eligible work (R80): the queue, whether it is a REVERSE's next kernel, its PRIO, whether it fits, its age. -/
structure Work where
  q : Nat
  next : Bool
  prio : Nat
  fits : Bool
  age : Nat
  deriving DecidableEq, Repr

/-- The eligible work of a queue (R80). A REVERSE that is not yet taken is estimated by its first kernel alone, and fits where the
tape or that launch record cannot be read (DESIGN CHOICE, log entry 108). A REVERSE that runs when its queue enters Draining goes
on popping and launching (DESIGN CHOICE, log entry 102). -/
def State.workOf (s : State) (qid : Nat) : Option Work :=
  let q := s.queue qid
  match q.st, s.head qid with
  | .armed, .record rec =>
    let e := match recType rec with
      | 1 => some (bits (wordAt rec 6) 35 32)
      | 2 => s.tapeClass q (s.revNext q ⟨0, 0, [], [], none, none, 0, 0, none, false, 0, 0⟩).1
      | _ => none
    some ⟨qid, false, q.prio, s.fits q.cx e, (q.ready.getD 0).toNat⟩
  | .armed, .fault => some ⟨qid, false, q.prio, true, (q.ready.getD 0).toNat⟩
  | _, _ =>
    match q.rev with
    | some r =>
      if r.kernel.isNone && !r.todo.isEmpty && !q.stallRev then
        some ⟨qid, true, q.prio, s.fits q.cx (s.tapeClass q r), r.since.toNat⟩
      else none
    | none => none

/-- The first of two pieces of work comes before the second (R80). -/
def Work.before (a b : Work) : Bool :=
  decide (b.prio < a.prio) || (a.prio == b.prio && ((a.fits && !b.fits) || (a.fits == b.fits &&
    (decide (a.age < b.age) || (a.age == b.age && decide (a.q ≤ b.q))))))

/-- Work that does not fit may be taken only when its context has no kernel in Dispatching or Running (R81). -/
def State.mayTake (s : State) (w : Work) : Bool := w.fits || s.drawn (s.queue w.q).cx == 0

/-- The scheduler chooses the work of queue `qid` (R80). -/
def State.chosen (s : State) (qid : Nat) (next : Bool) : Bool :=
  let all := ((s.queues.map Prod.fst).filterMap s.workOf).filter s.mayTake
  match all.find? fun w => all.all fun x => w.before x with
  | some w => w.q == qid && w.next == next
  | none => false

/-! ### Taking records -/

/-- The scheduler may choose a record: 4 ticks have passed since it took the last, and no record is in Dispatching (R80). -/
def State.takeDue (s : State) : Bool :=
  (match s.lastTake with | none => true | some t => decide (t.toNat + 4 ≤ s.dtime.toNat))
    && !(tabVals s.queues).any fun q => q.st == .dispatching

/-- The scheduler chooses the head record of an Armed queue (R80, R84): its slot is reserved and the record is read (R246). -/
def State.choose (s : State) (qid : Nat) : Out :=
  if s.takeDue && s.chosen qid false then
    let q := s.queue qid
    .next ((s.modQueue qid fun q => { q with st := .dispatching, disp := match s.head qid with | .record rec => some rec | _ => none }).requestAt
      2059 0 q.cx (q.slotAt q.qhead.toNat))
  else s.noEvent

/-- The head record is taken (R71, R73, R84): QHEAD advances, the record is incomplete, and the new head is tested. -/
def State.takeHead (s : State) (qid typ : Nat) : State :=
  ({ s with lastTake := some s.dtime } : State).modQueue qid fun q =>
    { q with taken := q.taken ++ [⟨q.qhead.toNat, typ, s.dtime⟩], qhead := q.qhead + 1, st := .idle, hold := 0, ready := none
             sigWake := false, disp := none }

/-- The completion record of a record that is complete at once. -/
def simpleRec (seq typ status : Nat) (d : W64) : CRec := ⟨seq, typ, status, 0, 0, false, 0, 0, d, 0, 0⟩

/-- A record is taken and complete at once (R73). -/
def State.takeDone (s : State) (qid typ : Nat) : State :=
  let seq := (s.queue qid).qhead.toNat
  (s.takeHead qid typ).complete qid (simpleRec seq typ 0 s.dtime)

/-- The error of a record whose TYPE was read (R73, R84). -/
def State.takeError (s : State) (qid : Nat) (c : SCause) (typ : Nat) : State := s.modQueue qid fun q => q.stallWith c q.qhead typ

/-- A record in Dispatching has its action (R73, R84): a fault in reading it, or a wrong record, is the error of Dispatching. -/
def State.dispatchRec (s : State) (qid typ : Nat) (act : List Byte → State) : Out :=
  if (s.queue qid).st == .dispatching then
    match (s.queue qid).disp with
    | none => .next (s.takeError qid .fault 0)
    | some rec =>
      match recError rec with
      | some c => .next (s.takeError qid c (recType rec))
      | none => if recType rec = typ then .next (act rec) else s.noEvent
  else s.noEvent

/-- A LAUNCH is taken (R73, R101, R104): the kernel is Queued, or a check fails and it is Aborted. -/
def State.takeLaunch (s : State) (q : Nat) (rec : List Byte) : State :=
  let p := s.launchOf q rec
  (s.takeHead q 1).launch p

/-- LAUNCH_RECORD. -/
def execLaunchRecord (q : Nat) (s : State) : Out := s.dispatchRec q 1 (s.takeLaunch q)

/-- The kernel of a tape entry is launched (R77, R78): a LAUNCH-format record at LREC, with the entry's PARAMS. -/
def State.launchTape (s : State) (qid : Nat) (r : Reverse) (i : Nat) : State :=
  let q := s.queue qid
  match s.tapeEntry q i with
  | none => s.revError qid r .fault
  | some e =>
    match s.devReadN q.cx (wordAt e 1) 32 with
    | none => s.revError qid r .fault
    | some rec =>
      let p := s.parseLaunch q.cx qid (BitVec.ofNat 64 r.seq) (some i) (wordAt e 1) rec (wordAt e 2)
      let kid := s.nextId
      ((s.modQueue qid fun q => { q with rev := some { r with kernel := some kid, entry := i } }).launch p).requestAt 2059 0 q.cx (q.entryAt i)

/-- A REVERSE is taken (R73, R78): the pop starts. The age of its first kernel is the take (DESIGN CHOICE, log entry 134). -/
def State.takeReverse (s : State) (q : Nat) : State :=
  let seq := (s.queue q).qhead.toNat
  let s := s.takeHead q 2
  let (r, d, p) := s.revNext (s.queue q) ⟨seq, s.dtime, [], [], none, none, 0, 0, none, false, s.dtime, s.nextId⟩
  let s := s.modQueue q fun x => { x with rev := some r, depth := d }
  match p with
  | .kernel => s
  | .stop => s.revComplete q r none
  | .bad c => s.revError q r c

/-- REVERSE. -/
def execReverse (q : Nat) (s : State) : Out := s.dispatchRec q 2 fun _ => s.takeReverse q

/-- REVERSE_NEXT_KERNEL (R78, R80): the next kernel of a running REVERSE is launched. -/
def execReverseNextKernel (q : Nat) (s : State) : Out :=
  if s.chosen q true then
    match (s.queue q).rev with
    | some r => .next (match r.todo with | i :: _ => s.launchTape q r i | [] => s)
    | none => s.noEvent
  else s.noEvent

/-- The tape refuses a push (R77): TOVF when it is full. -/
def Queue.pushRefused (q : Queue) : Bool :=
  q.depth == 65536 || q.rev.isSome || q.st == .disabled || q.st == .draining

/-- A MARK is taken (R73, R77): a mark entry is pushed; a fault in writing it stalls the queue with the record untaken (DESIGN CHOICE, log
entry 131). -/
def State.takeMark (s : State) (q : Nat) (rec : List Byte) : State :=
  let x := s.queue q
  if x.pushRefused then (s.modQueue q fun x => { x with tovf := x.tovf || x.depth == 65536 }).takeDone q 3
  else
    let a := x.entryAt x.depth
    match s.devWrite x.cx a (leBytes 8 2) with
    | none => s.takeError q .fault 3
    | some s' =>
      match s'.devWrite x.cx (a + 0x18) (leBytes 8 (wordAt rec 2 % 2^32)) with
      | none => s.takeError q .fault 3
      | some s' => (s'.modQueue q fun x => { x with depth := x.depth + 1 }).takeDone q 3

/-- MARK. -/
def execMark (q : Nat) (s : State) : Out := s.dispatchRec q 3 (s.takeMark q)

/-- A WAIT is taken (R73): its condition held when it was chosen; one whose ADDR cannot be read is the error of Dispatching (R84). -/
def State.takeWait (s : State) (q : Nat) (rec : List Byte) : State :=
  match s.waitMet (s.queue q) rec with
  | .ok _ => s.takeDone q 4
  | .error c => s.takeError q c 4

/-- WAIT. -/
def execWait (q : Nat) (s : State) : Out := s.dispatchRec q 4 (s.takeWait q)

/-- What a SIGNAL writes (R68): the store reads nothing, the atomics read the word; none on a fault. -/
def State.signalValue (s : State) (cx : Nat) (rec : List Byte) : Option Nat :=
  let old := (s.devRead cx (wordAt rec 2) 8).map leNat
  match wordAt rec 4 % 4 with
  | 0 => some (wordAt rec 3)
  | 1 => old.map fun x => (x + wordAt rec 3) % 2^64
  | _ => old.map fun x => max x (wordAt rec 3)

/-- A SIGNAL is taken (R73): the write, the wake, the take. -/
def State.takeSignal (s : State) (q : Nat) (rec : List Byte) : State :=
  let x := s.queue q
  match s.signalValue x.cx rec with
  | none => s.takeError q .fault 5
  | some v =>
    match s.devWrite x.cx (wordAt rec 2) (leBytes 8 v) with
    | none => s.takeError q .fault 5
    | some s =>
      let s := if bitAt (wordAt rec 4) 31 then s.modQueue (bits (wordAt rec 4) 25 16) Queue.signal else s
      s.takeDone q 5

/-- SIGNAL_RECORD. -/
def execSignalRecord (q : Nat) (s : State) : Out := s.dispatchRec q 5 (s.takeSignal q)

/-- A PHASE is taken (R73, R240). -/
def State.takePhase (s : State) (q : Nat) (rec : List Byte) : State :=
  (s.setPhase (s.queue q).cx (wordAt rec 2 % 8)).takeDone q 6

/-- PHASE_RECORD. -/
def execPhaseRecord (q : Nat) (s : State) : Out := s.dispatchRec q 6 (s.takePhase q)

/-- NOP_RECORD (R73). -/
def execNopRecord (q : Nat) (s : State) : Out := s.dispatchRec q 7 fun _ => s.takeDone q 7

/-- The record in Dispatching is taken, whatever its type (R84, DISABLE). -/
def State.takeNow (s : State) (q : Nat) : State :=
  match (s.queue q).disp with
  | none => s.takeError q .fault 0
  | some rec =>
    match recError rec, recType rec with
    | some c, t => s.takeError q c t
    | none, 1 => s.takeLaunch q rec
    | none, 2 => s.takeReverse q
    | none, 3 => s.takeMark q rec
    | none, 4 => s.takeWait q rec
    | none, 5 => s.takeSignal q rec
    | none, 6 => s.takePhase q rec
    | none, t => s.takeDone q t

/-! ### Holds -/

/-- HOLD_RELEASE (R72, R84): no hold applies to the head record of a Blocked queue any longer, or testing it is an error. -/
def execHoldRelease (q : Nat) (s : State) : Out :=
  if (s.queue q).st == .blocked then
    match s.head q with
    | .fault => .next (s.takeError q .fault 0)
    | .notReady =>
      -- a REVERSE continued by RESUME holds the queue with no record ready (R84); once it has ended the queue is Armed (log entry 136)
      if (s.queue q).rev.isNone then .next (s.modQueue q fun x => { x with st := .armed, hold := 0 }) else s.noEvent
    | .record rec =>
      match s.holdOf q rec with
      | .ok 0 => .next (s.modQueue q fun x => { x with st := .armed, hold := 0, ready := some (x.ready.getD s.dtime) })
      | .ok _ => s.noEvent
      | .error c => .next (s.takeError q c (recType rec))
  else s.noEvent

/-- WAIT_TIMEOUT (R72): TIMEOUT ticks have passed since the WAIT became ready, and it is held still. -/
def execWaitTimeout (q : Nat) (s : State) : Out :=
  let x := s.queue q
  match s.head q, x.ready with
  | .record rec, some t =>
    let to_ := wordAt rec 4 / 2^32
    match s.holdOf q rec with
    | .ok h =>
      if x.st == .blocked && recType rec == 4 && h != 0 && to_ != 0 && decide (t.toNat + to_ ≤ s.dtime.toNat) then
        .next (s.takeError q .waitto 4)
      else s.noEvent
    | .error _ => s.noEvent
  | _, _ => s.noEvent

/-! ### Commands and writes (R62, R65, R66, R70, R83, R84) -/

/-- A control address an ENABLE accepts: tag 00, [63:48] zero, aligned (R66). -/
def baseOk (a : W64) (align : Nat) : Bool := decide (a.toNat < 2^48) && a.toNat % align == 0

/-- ENABLE (R66). -/
def Queue.enable (q : Queue) (ctxFree : Bool) : Queue :=
  let ok := decide (3 ≤ q.rlog2) && decide (q.rlog2 ≤ 16) && decide (3 ≤ q.clog2) && decide (q.clog2 ≤ 12)
    && baseOk q.qring 256 && baseOk q.qcring 64 && baseOk q.qtape (2^22) && !ctxFree
  if q.st == .disabled && ok then
    { q with qhead := q.qiseq, qtail := q.qiseq, qcseq := q.qicseq, qchead := q.qicseq, st := .idle, lastcmd := 1
             ready := none, sigWake := false, taken := [], rev := none, stallRev := false, hold := 0, scause := .none, disp := none
             stallTyp := 0 }
  else q.reject

/-- The queue stops dispatch (R84, R85): Draining, and Disabled once it is quiet. A REVERSE that stands stalled completes as
ABORTED (DEDUCED: nothing else could complete it). -/
def State.drainQueue (s : State) (qid : Nat) : State :=
  let q := s.queue qid
  let s := s.modQueue qid fun q => { q with st := .draining, hold := 0, scause := .none }
  match q.rev with
  | some r => if q.stallRev then s.revComplete qid r (some (s.revEnding r)) else s.modQueue qid Queue.quiet
  | none => s.modQueue qid Queue.quiet

/-- DISABLE (R84); in Dispatching the record is taken first, and one whose take meets an error stays untaken (DESIGN CHOICE, log entry 135). -/
def State.disable (s : State) (qid : Nat) : State :=
  match (s.queue qid).st with
  | .disabled => s.modQueue qid Queue.reject
  | .draining => s.modQueue qid Queue.reject
  | .dispatching => ((s.takeNow qid).modQueue qid fun q => { q with lastcmd := 2 }).drainQueue qid
  | _ => (s.modQueue qid fun q => { q with lastcmd := 2 }).drainQueue qid

/-- RESUME (R79, R84): the stalled record is tested again, or the aborted kernel is launched again. The timeout of a WAIT goes on
counting from the clock in which its record first became ready (DESIGN CHOICE, log entry 103), and a kernel launched again has the age of the
RESUME (DESIGN CHOICE, log entry 134). A REVERSE that runs while the queue is Stalled on its head is not touched. -/
def State.resumeQ (s : State) (qid : Nat) : State :=
  let q := s.queue qid
  if q.st != .stalled then s.modQueue qid Queue.reject
  else
    let s := s.modQueue qid fun q => { q with scause := .none, lastcmd := 3, stallRev := false }
    match if q.stallRev then q.rev else none with
    | some r =>
      let r := { r with kernel := none, since := s.dtime }
      let (r, d, p) := s.revNext q r
      let s := s.modQueue qid fun q => { q with st := .blocked, hold := 4, rev := some r, depth := d }
      match p with
      | .kernel => s
      | .stop => s.revComplete qid r none
      | .bad c => s.revError qid r c
    | none => s.modQueue qid fun q => { q with st := .idle }

/-- SKIP (R74, R79, R84): the stalled record completes as SKIPPED, with the TYPE read when it stalled; a REVERSE that an aborted
kernel stopped completes as ABORTED, and the head record, untaken, stays as ready as it was (R80, R83). A REVERSE that runs while the queue
is Stalled on its head goes on. -/
def State.skipQ (s : State) (qid : Nat) : State :=
  let q := s.queue qid
  if q.st != .stalled then s.modQueue qid Queue.reject
  else
    let idle := fun (q : Queue) => { q with st := QState.idle, scause := .none, lastcmd := (4 : Byte) }
    match if q.stallRev then q.rev else none with
    | some r =>
      if q.scause == .revabort then (s.modQueue qid idle).revComplete qid r (some (s.revEnding r))
      else (s.modQueue qid idle).revComplete qid r none true
    | none =>
      ((s.modQueue qid fun q => { idle q with qhead := q.qhead + 1, ready := none, sigWake := false })).complete qid (simpleRec q.qhead.toNat q.stallTyp 2 s.dtime)

/-- TAPECLR (R84). -/
def Queue.tapeClr (q : Queue) : Queue :=
  match q.st with
  | .disabled => { q with depth := 0, lastcmd := 5 }
  | .idle => { q with depth := 0, lastcmd := 5 }
  | .stalled => { q with depth := 0, lastcmd := 5 }
  | _ => q.reject

/-- ENABLE. -/
def State.enableQ (s : State) (qid : Nat) : State :=
  s.modQueue qid fun q => q.enable ((s.ctx q.cx).st == .free)

/-- QCMD (R65); before Ready every command is refused (R508). -/
def State.queueCmd (s : State) (qid v : Nat) : State :=
  if !s.isReady then s.modQueue qid Queue.reject
  else match v % 256 with
  | 1 => s.enableQ qid
  | 2 => s.disable qid
  | 3 => s.resumeQ qid
  | 4 => s.skipQ qid
  | 5 => s.modQueue qid Queue.tapeClr
  | _ => s.modQueue qid Queue.reject

/-- A write of a queue register by software (R62, R70, R83). -/
def State.queueWrite (s : State) (qid off : Nat) (v : W64) : State :=
  match off with
  | 0x00 => s.modQueue qid fun q => q.raiseTail v
  | 0x18 => s.modQueue qid fun q => q.raiseHead v
  | 0x20 => s.queueCmd qid v.toNat
  | 0x28 => s.modQueue qid fun q => q.clearStat v
  | 0x70 => s.modQueue qid Queue.signal
  | _ => s.modQueue qid fun q => q.config off v

/-- There is a queue of this identifier (0 to 1023). -/
def queueStep (q : Nat) (f : State → State) (s : State) : Out := if q < 1024 then .next (f s) else s.noEvent

/-- ENABLE. -/
def execEnable (q : Nat) (s : State) : Out := queueStep q (fun s => s.queueCmd q 1) s
/-- DISABLE. -/
def execDisable (q : Nat) (s : State) : Out := queueStep q (fun s => s.queueCmd q 2) s
/-- RESUME. -/
def execResume (q : Nat) (s : State) : Out := queueStep q (fun s => s.queueCmd q 3) s
/-- SKIP. -/
def execSkip (q : Nat) (s : State) : Out := queueStep q (fun s => s.queueCmd q 4) s
/-- TAPECLR. -/
def execTapeclr (q : Nat) (s : State) : Out := queueStep q (fun s => s.queueCmd q 5) s
/-- QTAIL_WRITE. -/
def execQtailWrite (q : Nat) (v : W64) (s : State) : Out := queueStep q (fun s => s.modQueue q fun x => x.raiseTail v) s
/-- QCHEAD_WRITE. -/
def execQcheadWrite (q : Nat) (v : W64) (s : State) : Out := queueStep q (fun s => s.modQueue q fun x => x.raiseHead v) s
/-- QWAKE_WRITE (R83); the value is of no account. -/
def execQwakeWrite (q : Nat) (_v : W64) (s : State) : Out := queueStep q (fun s => s.modQueue q Queue.signal) s
/-- QSTAT_WRITE. -/
def execQstatWrite (q : Nat) (v : W64) (s : State) : Out := queueStep q (fun s => s.modQueue q fun x => x.clearStat v) s

end Sys2Proof.Machine
end

