-- ==== Sys2Proof/Machine/Page.lean ====
section
/-!
DEFINITION. Pages (R218, R226 to R236): the translation block, translation commands, fault records, residency leases, moves and
replication.
-/
namespace Sys2Proof.Machine

/-! ### Fault records (R228 to R230) -/

/-- Every range a kernel leases: base, length and ACC (R95, R96, R229: 1 read, 2 write, 3 both). -/
def Kernel.allRanges (k : Kernel) : List (Nat × Nat × Nat) :=
  (k.ranges.map fun r => (r.base, r.len, flag r.read + 2 * flag r.write))
    ++ [(k.code, k.codelen, 1), (k.params, k.plen, 1)] ++ (if k.pcopy = 0 then [] else [(k.pcopy, k.plen, 3)])

/-- The kernel is aborted with check code 0x0B (R101, R230). -/
def State.refuseKernel (s : State) (kid : Nat) : State :=
  match s.kernel? kid with
  | none => s
  | some k =>
    if k.st == .ranging then
      s.abortKernel kid ⟨BitVec.ofNat 8 (Cause.code .permission), BitVec.ofNat 64 k.lrec, 0x0B⟩
    else s

/-- A fault of a page in Ranging (R228, R229): the kernel waits on the page's record, one for a page that has a leaf, malformed or not, one for
4 KiB where no leaf says the page's size; without a fault ring it is refused; a record that finds no free slot is written later. -/
def State.faultFor (s : State) (kid va kind acc : Nat) : State :=
  match s.kernel? kid with
  | none => s
  | some k =>
    let c := s.ctx k.cx
    let page := match s.leaf k.cx va with | .ok l => l.page va | .error _ => va / s.faultSpan k.cx va * s.faultSpan k.cx va
    if k.st != .ranging then s
    else if c.xfring = 0 then s.refuseKernel kid
    else if c.faults.any fun f => f.va == page then
      s.modCtx k.cx fun c => { c with faults := c.faults.map fun f =>
        if f.va == page && !f.kernels.contains kid then { f with kernels := f.kernels ++ [kid] } else f }
    else
      let n := 2^(c.xfcfg.toNat % 16)
      let q := c.xfseq.toNat
      if q < c.xfhead.toNat + n then
        let a := c.xfring.toNat + 64 * (q % n)
        let body := leBytes 8 page ++ leBytes 8 (k.queue * 2^32 + acc * 2^8 + kind) ++ leBytes 8 k.rseq.toNat
          ++ List.replicate 32 0
        let s := (s.devPut k.cx (a + 8) body).devPut k.cx a (leBytes 8 q)
        s.modCtx k.cx fun c => { c with xfseq := c.xfseq + 1, faults := c.faults ++ [⟨q, page, [kid]⟩] }
      else s

/-- The walks of a kernel in Ranging (R97, R228). -/
def State.rangeWalk (s : State) (kid : Nat) : State :=
  match s.kernel? kid with
  | none => s
  | some k =>
    k.allRanges.foldl (fun s (b, n, acc) =>
      (s.rangeLeaves k.cx b n).foldl (fun s (va, r) => match r with
        | .ok _ => s
        | .error kind => s.faultFor kid va kind acc) s) s

/-- The kernels of a context in Ranging walk again. -/
def State.rewalk (s : State) (cx : Nat) (ks : List Nat) : State :=
  (ks.filter fun k => ((s.kernel? k).map fun x => x.cx == cx && x.st == .ranging) == some true).foldl State.rangeWalk s

/-- Every kernel of a context that is in Ranging. -/
def State.rangingOf (s : State) (cx : Nat) : List Nat :=
  (s.kernels.filter fun (_, k) => k.cx == cx && k.st == .ranging).map Prod.fst

/-- A verdict on a fault record (R230); a SEQ with no outstanding record is ignored. -/
def State.verdict (s : State) (cx seq : Nat) (ok : Bool) : State :=
  match (s.ctx cx).faults.find? fun f => f.seq % 2^62 == seq with
  | none => s
  | some f =>
    let s := s.modCtx cx fun c => { c with faults := c.faults.filter fun x => x.seq != f.seq }
    if ok then s.rewalk cx f.kernels else f.kernels.foldl State.refuseKernel s

/-- RESOLVED. -/
def execResolved (cx seq : Nat) (s : State) : Out := .next (s.verdict cx seq true)
/-- REFUSED. -/
def execRefused (cx seq : Nat) (s : State) : Out := .next (s.verdict cx seq false)

/-- XFHEAD rises as a monotonic maximum; records that waited for a slot are written (R218, R229). -/
def State.raiseXfhead (s : State) (cx : Nat) (v : W64) : State :=
  if (s.ctx cx).xfhead.toNat < v.toNat then
    let s := s.modCtx cx fun c => { c with xfhead := v }
    s.rewalk cx (s.rangingOf cx)
  else s

/-- XFHEAD_WRITE. -/
def execXfheadWrite (cx : Nat) (v : W64) (s : State) : Out := .next (s.raiseXfhead cx v)

/-! ### Page states (R231) -/

/-- The entries of a page: sixteen for a 64 KiB page (R221). -/
def Leaf.entries (l : Leaf) : List Nat :=
  if l.psize = 2^16 then (List.range 16).map fun i => l.at_ / 128 * 128 + 8 * i else [l.at_]

/-- Every entry of a page is rewritten, each by a store of the device in the single order (R223). -/
def State.mapPte (s : State) (l : Leaf) (f : Nat → Nat) : State :=
  l.entries.foldl (fun s a => s.devPoke 0 a (leBytes 8 (f (leNat (memRead s.mem a 8))))) s

/-- The last translation lease granted on a page ends (R225, R227). -/
def State.leaseEnd (s : State) (cx va : Nat) (l : Leaf) : W64 :=
  s.tlbs.foldl (fun t e =>
    if e.cx == cx && decide (e.vpage < l.page va + l.psize) && decide (l.page va < e.vpage + e.size) then umax64 t e.expiry else t)
    s.dtime

/-! ### Translation commands (R226, R227) -/

/-- A page that a command may name: tag 00, or tag 10 with the own rank. -/
def State.pageOk (s : State) (va : Nat) : Bool :=
  decide (va < 2^48) || (va / 2^62 == 2 && bits va 61 48 == s.fab.rank)

/-- XCMD (R226, R227, R231). What the device keeps of an unmapped page goes: it is Private when it is next mapped. -/
def State.xcommand (s : State) (cx op page : Nat) : State :=
  let c := s.ctx cx
  let res := fun (n : Nat) => s.modCtx cx fun c => { c with xres := BitVec.ofNat 3 n }
  -- before Ready every command is refused (R508)
  if c.xcmd.isSome || !s.isReady then s.modCtx cx fun c => { c with rej := true }
  else if op = 0 ∨ 3 < op ∨ !s.pageOk page then res 3
  else match s.leaf cx page with
    | .error _ => res 2
    | .ok l =>
      if 3 ≤ s.pageState cx page l then res 1
      else
        let e := if op = 3 then s.dueIn 2 else s.leaseEnd cx page l
        let s := s.modCtx cx fun c => { c with xres := 0, xcmd := some ⟨op, page, e⟩ }
        match op with
        | 1 =>
          let s := { s with pages := s.pages.filter fun p => !(p.cx == cx && p.vpage == l.page page) }
          s.mapPte l fun e => pteSetState (pteSetBit e 63 false) 6
        | 2 => s.mapPte l fun e => pteSetBit (pteSetBit e 60 false) 59 false
        | _ => s

/-- A translation command as a step: there are 256 contexts. -/
def xStep (cx : Nat) (f : State → State) (s : State) : Out := if cx < 256 then .next (f s) else s.noEvent

/-- UNMAP. -/
def execUnmap (cx page : Nat) (s : State) : Out := xStep cx (fun s => s.xcommand cx 1 page) s
/-- PROTECT. -/
def execProtect (cx page : Nat) (s : State) : Out := xStep cx (fun s => s.xcommand cx 2 page) s
/-- ZERO. -/
def execZero (cx page : Nat) (s : State) : Out := xStep cx (fun s => s.xcommand cx 3 page) s

/-- TRANSLATION_LEASE_EXPIRE (R227, R231): the last lease granted before a pending UNMAP or PROTECT has ended. -/
def execTranslationLeaseExpire (cx page : Nat) (s : State) : Out :=
  match (s.ctx cx).xcmd with
  | some x =>
    if x.page == page && (x.op == 1 || x.op == 2) && decide (x.expiry.toNat ≤ s.dtime.toNat) then
      .next (s.modCtx cx fun c => { c with xcmd := none })
    else s.noEvent
  | none => s.noEvent

/-- Bytes [a, a + n) read as zero under a context's key: in memory, where a `lastuse` drops nothing (R227, R244). -/
def State.zeroBytes (s : State) (cx a n : Nat) : State :=
  let out := fun (x : Nat) => !(decide (a ≤ x) && decide (x < a + n))
  (({ s with mem := s.mem.filter (fun c => out c.1), dirty := s.dirty.filter fun d => out d.line }.setKeys cx a n).homeWrites a n).fireMonitors a n

/-- The segments that a span of node offsets of the own rank touches. -/
def segsFrom (o n : Nat) : List Nat := (segOf o).toList ++ (segOf (o + n - 1)).toList

/-- Every segment of a list is Active and not waking. -/
def State.segsActive (s : State) (gs : List Nat) : Bool := gs.all fun g => (s.seg g).tide == .active && !(s.seg g).waking

/-- The device's own access to segments (R240 to R242): those that are not Active start to wake, and count for the context as a lane's
would; all of them mark the time of the access. -/
def State.segsUse (s : State) (cx : Nat) (gs : List Nat) : State :=
  gs.foldl (fun s g =>
    let x := s.seg g
    if x.waking || x.tide == .active then s.modSeg g fun x => { x with last := s.dtime }
    else
      let s := s.modSeg g fun x => { x with waking := true, last := s.dtime }
      if x.tide == .idle then s else s.modCtx cx fun c => { c with wakestall := c.wakestall + 1 }) s

/-- The segments of a page's frames; none in control space. -/
def State.frameSegs (s : State) (va : Nat) (l : Leaf) : List Nat :=
  if va / 2^62 = 2 then segsFrom (pteFrame l.pte) (s.frames va l).2 else []

/-- ZERO_DONE (R227): every line of the page, both frames of a DUAL page, is written with zeros; segments that are not Active are
woken first (R241). -/
def execZeroDone (cx page : Nat) (s : State) : Out :=
  match (s.ctx cx).xcmd with
  | some x =>
    if x.page == page && x.op == 3 then
      match s.leaf cx page with
      | .ok l =>
        if !s.segsActive (s.frameSegs page l) then .next (s.segsUse cx (s.frameSegs page l))
        else
          let s := ((s.modCtx cx fun c => { c with xcmd := none }).served 2056 x.expiry).segsUse cx (s.frameSegs page l)
          .next (s.zeroBytes cx (s.frames page l).1 (s.frames page l).2)
      | .error _ => .next (s.modCtx cx fun c => { c with xcmd := none })
    else s.noEvent
  | none => s.noEvent

/-! ### Moves and replicas (R234, R235) -/

/-- The tensor bytes a region record may touch, as first address and end. -/
def ShapeRec.span (r : ShapeRec) : Nat × Nat :=
  (r.base, r.base + r.size * (1 + ((r.ext.zip r.stride).map fun (e, st) => (e - 1) * st).foldl (· + ·) 0))

/-- The address ranges that engine operations of a context name (R234). -/
def State.engineSpans (s : State) (cx : Nat) : List (Nat × Nat) :=
  let mine := fun k => ((s.kernel? k).map fun x => x.cx) == some cx
  let own := 2^63 + s.fab.rank * 2^48
  ((s.copies.filter fun c => mine c.kernel).flatMap fun c =>
      c.src.span :: (match c.dst with | .buffer b _ => [(b.view, b.view + b.len)] | _ => []))
    ++ ((s.tiers.filter fun t => mine t.kernel).flatMap fun t => [(t.src, t.src + t.len), (t.dst, t.dst + t.len)])
    ++ ((s.ckpts.filter fun c => c.cx == cx).map fun c => (c.buf.view, c.buf.view + c.buf.len))
    ++ ((s.pubs.filter fun p => p.cx == cx).map fun p => (p.buf.view, p.buf.view + p.buf.len))
    ++ ((s.inWrites.filter fun w => w.cx == cx).map fun w => (own + w.ofs, own + w.ofs + w.data.length))
    ++ ((s.ratoms.filter fun r => mine r.kernel).map fun r => (r.addr, r.addr + 8))
    ++ ((s.tiles.filter fun (_, t) => t.st == .fired && t.cx == cx).map fun (_, t) =>
      (own + t.roff, own + t.roff + 4096 * (if t.op ≤ 3 then 1 else t.rcnt)))

/-- The page is at a quiesce point (R234). -/
def State.quiesced (s : State) (cx va : Nat) (l : Leaf) : Bool :=
  s.pageState cx va l == 2 && !((s.engineSpans cx).any fun (a, z) => decide (a < l.page va + l.psize) && decide (l.page va < z))

/-- The dies of a mask; zero means all eight (R90). -/
def maskDies (m : Byte) : List Nat := (List.range 8).filter fun d => m == 0 || m.getLsbD d

/-- A translation command other than ZERO is pending on the page (R231). -/
def State.pagePending (s : State) (cx va : Nat) (l : Leaf) : Bool :=
  match (s.ctx cx).xcmd with
  | some x => x.op != 3 && decide (l.page va ≤ x.page) && decide (x.page < l.page va + l.psize)
  | none => false

/-- The live workgroups on a die. -/
def State.wgsOn (s : State) (d : Nat) : Nat := ((tabVals s.wgs).filter fun w => w.die == d && !w.ended && !w.saved).length

/-- The die running most workgroups, as PLACE 1 asks for (R95): of the dies of the mask the one on which most workgroups are live
now, the lowest of equals (DESIGN CHOICE, log entry 115: the kernel itself runs none yet). -/
def State.busiest (s : State) (m : Byte) : Nat :=
  let ds := (maskDies m).filter fun d => !s.fab.retired.getLsbD d
  (ds.find? fun d => ds.all fun e => decide (s.wgsOn e ≤ s.wgsOn d)).getD 0

/-- The pages of the own HBM node of which a kernel's ranges request a PLACE, with the request (R95, R234). -/
def State.placePages (s : State) (k : Kernel) : List (Nat × Nat × Leaf) :=
  (k.ranges.filter fun r => r.place == 1 || r.place == 2).flatMap fun r =>
    (s.rangeLeaves k.cx r.base r.len).filterMap fun (va, x) => match x with
      | .ok l => if va / 2^62 == 2 && inHbm (va % 2^48) then some (r.place, va, l) else none
      | .error _ => none

/-- The request of a page is carried out at a quiesce point, or dropped; while a command is pending on the page it waits (R231,
R235). A page that several ranges touch has the request of the first of them in the table (DESIGN CHOICE, log entry 137). -/
def State.placePage (s : State) (kid : Nat) (x : Nat × Nat × Leaf) : State :=
  match s.kernel? kid with
  | none => s
  | some k =>
    let (place, va, l) := x
    if k.placed.contains (l.page va) || s.pagePending k.cx va l then s
    else
      let q := s.quiesced k.cx va l
      let s := s.modKernel kid fun k => { k with placed := k.placed ++ [l.page va] }
      if q then
        let m := if place = 1 then BitVec.ofNat 8 (2^(s.busiest k.diemask)) else k.diemask
        s.setPage { s.page k.cx (l.page va) with moving := some (place, m), due := s.dueIn 2 }
      else s

/-- The PLACE requests of a kernel in Ranging, for the pages that are there (R95, R234, R235). -/
def State.place (s : State) (kid : Nat) : State :=
  match s.kernel? kid with
  | none => s
  | some k => (s.placePages k).foldl (fun s x => s.placePage kid x) s

/-- Ranging goes on (R97, R98, R228, R235): pages are walked again, requests are carried out, and the segments that the ranges touch
are woken. -/
def State.rangeOn (s : State) (kid : Nat) : State :=
  let s := (s.rangeWalk kid).place kid
  match s.kernel? kid with
  | none => s
  | some k => if k.st == .ranging then (s.segsOf k.cx k.ranges).foldl State.wakeSeg s else s

/-- The frames of the own HBM and capacity nodes in use, as first offset and length: those that a leaf or a translation that has not
expired names, and the replicas (R235). -/
def State.usedFrames (s : State) : List (Nat × Nat) :=
  let own := fun (va : Nat) (l : Leaf) => if va / 2^62 = 2 then some (pteFrame l.pte, (s.frames va l).2) else none
  (s.ctxs.flatMap fun (cx, _) => (s.leaves cx).filterMap fun (va, l) => own va l)
    ++ (s.tlbs.filterMap fun e => if s.dtime.toNat < e.expiry.toNat then own e.vpage ⟨0, e.pte.toNat, e.size, e.psize⟩ else none)
    ++ (s.pages.flatMap fun p => match s.leaf p.cx p.vpage with
      | .ok l => p.repl.map fun r => (r.2, (s.frames p.vpage l).2)
      | .error _ => [])

/-- A frame of `n` bytes in the HBM stacks of a die that is free (R235), in the replica pool or outside it (R236). -/
def State.frameFree (s : State) (n align frame die : Nat) (pool : Bool) : Bool :=
  !s.fab.retired.getLsbD die && frame % align == 0 && inHbm (frame + n - 1) && segDie (frame / 2^30) == die && segDie ((frame + n - 1) / 2^30) == die
    && s.poolSeg (frame / 2^30) == pool && s.poolSeg ((frame + n - 1) / 2^30) == pool
    && s.usedFrames.all fun u => decide (frame + n ≤ u.1) || decide (u.1 + u.2 ≤ frame)

/-- The first of `k` places from `a` on, a step apart, that satisfies `p`. -/
def firstPlace (p : Nat → Bool) (step : Nat) : Nat → Nat → Option Nat
  | _, 0 => none
  | a, k + 1 => if p a then some a else firstPlace p step (a + step) k

/-- The lowest free frame of a die. -/
def State.someFrame (s : State) (n align die : Nat) (pool : Bool) : Option Nat :=
  let used := s.usedFrames
  let free := fun a => s.poolSeg (a / 2^30) == pool && s.poolSeg ((a + n - 1) / 2^30) == pool
    && used.all fun u => decide (a + n ≤ u.1) || decide (u.1 + u.2 ≤ a)
  if s.fab.retired.getLsbD die then none else firstPlace free align (die * 96 * 2^30) (96 * 2^30 / align - (n - 1) / align)

/-- Nothing of an earlier mapping of bytes [a, a + n) is left to be dropped by a `lastuse`: its dirty lines are written back, and its pending
ranges end there (R244). -/
def State.newFrame (s : State) (a n : Nat) : State :=
  { s with
    dirty := s.dirty.filter fun d => !(decide (a ≤ d.line) && decide (d.line < a + n))
    lastuses := s.lastuses.map fun x => { x with spans := cutRanges a (a + n) x.spans } }

/-- The data of a page goes to another frame, with its keys, and lines without data read there as before (R235, R238). -/
def State.moveData (s : State) (a b n : Nat) : State :=
  let keys := s.keys.filterMap fun (x, k) => if a / 64 ≤ x ∧ x < (a + n) / 64 then some (x - a / 64 + b / 64, k) else none
  let rest := s.keys.filter fun e => !(decide (b / 64 ≤ e.1) && decide (e.1 < (b + n) / 64))
  let zero := (partRanges a (a + n) s.dropped).map fun r => (r.1 - a + b, r.2 - a + b)
  ({ s with mem := memMove s.mem a b n, keys := keys.foldl (fun t (x, k) => tabSet t x k) rest
            dropped := zero ++ cutRanges b (b + n) s.dropped } : State).newFrame a n |>.newFrame b n |>.homeWrites b n

/-- A replica frame on each die of a mask but the home die; a die with none is skipped, the lowest free frame of a pool is taken
(R235, R236; the choice of the frame is a DESIGN CHOICE, log entry 115). -/
def State.takeReplicas (s : State) (home : Nat) (m : Byte) (n align : Nat) : List (Nat × Nat) :=
  (maskDies m).filterMap fun d => if d = home then none else (s.someFrame n align d true).map fun a => (d, a)

/-- PAGE_MOVE_DONE (R231, R235): a move ends with the page's data in the free frame of the target die that the device has chosen, a
replication with its replicas. A page none of whose dies has a frame keeps its own. The segments that the copy touches are woken
first (R241). -/
def execPageMoveDone (cx page frame : Nat) (s : State) : Out :=
  match s.leaf cx page with
  | .error _ => s.noEvent
  | .ok l =>
    let p := s.page cx (l.page page)
    let (a, n) := s.frames page l
    match p.moving with
    | none => s.noEvent
    | some (kind, m) =>
      if kind = 1 then
        let die := (maskDies m).headD 0
        if frame = pteFrame l.pte then
          if segDie (frame / 2^30) = die ∨ (s.someFrame n l.psize die false).isNone then
            .next ((s.setPage { p with moving := none }).served 2056 p.due)
          else s.noEvent
        else if !s.frameFree n l.psize frame die false then s.noEvent
        else
          let gs := s.frameSegs page l ++ segsFrom frame n
          if !s.segsActive gs then .next (s.segsUse cx gs)
          else
            let s := ((s.segsUse cx gs).setPage { p with moving := none }).moveData a (tensorPhys s.fab.rank frame) n
            .next ((s.mapPte l fun e => e - pteFrame e + frame).served 2056 p.due)
      else
        let rs := s.takeReplicas (segDie (pteFrame l.pte / 2^30)) m n l.psize
        let gs := s.frameSegs page l ++ rs.flatMap fun r => segsFrom r.2 n
        if !s.segsActive gs then .next (s.segsUse cx gs)
        else .next (((s.segsUse cx gs).setPage { p with moving := none, repl := rs }).served 2056 p.due)

/-- REPLICA_DISCARD (R231): the leases on a released Replicated page's replicas have ended. -/
def execReplicaDiscard (cx page : Nat) (s : State) : Out :=
  match s.leaf cx page with
  | .error _ => s.noEvent
  | .ok l =>
    let p := s.page cx (l.page page)
    if p.discard && p.leases == 0 && !p.repl.isEmpty && decide ((s.leaseEnd cx page l).toNat ≤ s.dtime.toNat) then
      .next (s.setPage { p with discard := false, repl := [] })
    else s.noEvent

/-! ### What the device writes into the tables (R220, R223, R231, R248) -/

/-- An entry with the fields that only the device writes: SHARED, PSTATE and REPSET (R220). -/
def pteOwn (p : PageInfo) (l : Leaf) (e : Nat) : Nat :=
  pteSetState (pteSetBit e 55 p.shared) (p.state l) - pteRepset e + p.repset % 256

/-- The leaf of an address was not there in an earlier state: the Map event has come (R231). -/
def State.mapped (s old : State) (cx va : Nat) : Bool :=
  match s.leaf cx va, old.leaf cx va with
  | .ok _, .error _ => true
  | _, _ => false

/-- Another page has frames in common with a page (R248). -/
def State.aliased (s : State) (cx va : Nat) (l : Leaf) : Bool :=
  let n := (s.frames va l).2
  s.ctxs.any fun (c, _) => (s.leaves c).any fun (v, x) =>
    v / 2^62 == 2 && !(c == cx && x.page v == l.page va) && decide (pteFrame x.pte < pteFrame l.pte + n)
      && decide (pteFrame l.pte < pteFrame x.pte + (s.frames v x).2)

/-- A page whose Map event has come starts Private, and no line of its tensor frames counts as written, unless another page maps
the frames too (R231, R248). A line of a segment once Off that nothing has written since still reads as zero under any key (R238). -/
def State.mapLeaf (s old : State) (cx : Nat) (x : Nat × Leaf) : State :=
  if !s.mapped old cx x.1 || x.2.page x.1 != x.1 then s
  else
    let s := { s with pages := s.pages.filter fun p => !(p.cx == cx && p.vpage == x.1) }
    if x.1 / 2^62 != 2 || s.aliased cx x.1 x.2 then s
    else
      let (a, n) := s.frames x.1 x.2
      let in_ := fun (e : Nat × Nat) => decide (a / 64 ≤ e.1) && decide (e.1 < (a + n) / 64)
      ({ s with
        keys := s.keys.filter fun e => !in_ e
        dropped := (s.keys.filter in_).foldl (fun rs e => cutRanges (64 * e.1) (64 * e.1 + 64) rs) s.dropped } : State).newFrame a n

/-- The device's fields of one leaf are as the page's state gives them: a software store leaves them as they were (R6, R220), and
Map and Populate set PSTATE (R231). -/
def State.ownFields (s : State) (cx : Nat) (x : Nat × Leaf) : State :=
  let e := pteOwn (s.page cx (x.2.page x.1)) x.2 x.2.pte
  if e = x.2.pte then s else s.devPoke 0 x.2.at_ (leBytes 8 e)

/-- The tables of a context after a step. -/
def State.pteSync (s old : State) (cx : Nat) : State :=
  let ls := s.leaves cx
  let s := ls.foldl (fun s x => s.mapLeaf old cx x) s
  ls.foldl (fun s x => s.ownFields cx x) s

/-- The tables of every context after a step that changed memory, roots or pages. -/
def State.tableSync (s old : State) : State :=
  let roots := fun (s : State) => s.ctxs.map fun (i, c) => (i, c.xrootc, c.xroott)
  if s.mem = old.mem ∧ s.pages = old.pages ∧ roots s = roots old then s
  else (s.ctxs.map Prod.fst).foldl (fun s cx => s.pteSync old cx) s

/-! ### The translation block (R218) -/

/-- XCSTAT (R226). -/
def Context.xcstat (c : Context) : Nat := flag c.xcmd.isSome * 2^63 + c.xres.toNat * 2^56

/-- A register of a translation block; write-only and reserved ones read zero. -/
def Context.xread (c : Context) (off : Nat) : Nat :=
  match off with
  | 0x00 => c.xrootc.toNat
  | 0x08 => c.xroott.toNat
  | 0x10 => c.xfring.toNat
  | 0x18 => c.xfcfg.toNat
  | 0x20 => c.xfseq.toNat
  | 0x28 => c.xfhead.toNat
  | 0x40 => c.xcstat
  | _ => 0

/-- The context is in Building, Ready or Saved. -/
def Context.settable (c : Context) : Bool := c.st == .building || c.st == .ready || c.st == .saved

/-- A write of a translation block register (R218). -/
def State.xwrite (s : State) (cx off : Nat) (v : W64) : State :=
  let c := s.ctx cx
  let rej := s.modCtx cx fun c => { c with rej := true }
  match off with
  | 0x00 => if c.settable then s.modCtx cx fun c => { c with xrootc := v } else rej
  | 0x08 => if c.settable then s.modCtx cx fun c => { c with xroott := v } else rej
  | 0x10 => if c.st == .building then s.modCtx cx fun c => { c with xfring := v } else rej
  | 0x18 => if c.st == .building then s.modCtx cx fun c => { c with xfcfg := v &&& 0xFF0F } else rej
  | 0x28 => s.raiseXfhead cx v
  | 0x30 => if v.toNat % 4 < 2 then s.verdict cx (v.toNat / 4) (v.toNat % 4 == 0) else s
  | 0x38 => s.xcommand cx (v.toNat % 16) (v.toNat / 4096 * 4096)
  | _ => rej

end Sys2Proof.Machine
end

