-- ==== Sys2Proof/Machine/Kernel.lean ====
section
/-!
DEFINITION. Kernels after their launch checks (R94 to R106): admission, Ranging, the placement of workgroups and the carving of
the unified store (R92, R107, R179), and quiet.
-/
namespace Sys2Proof.Machine

/-! ### Ranging (R97, R98, R100) -/

/-- An explicit dependence is met (R100). -/
def State.depMet (s : State) (d : Nat × Nat) : Bool :=
  let q := s.queue d.1
  decide (d.2 < q.qhead.toNat) && !(q.taken.any fun t => t.seq == d.2)

/-- KERNEL_ADMIT (R102, R104): the dependences are met; leasing and waking start. A launch with an empty grid completes. The kernels
of a Faulted context stay in Queued (R44). -/
def execKernelAdmit (k : Nat) (s : State) : Out :=
  match s.kernel? k with
  | none => s.noEvent
  | some x =>
    if x.st == .queued && (s.ctx x.cx).st != .faulted && x.deps.all s.depMet then
      if x.grid.1 * x.grid.2.1 * x.grid.2.2 = 0 then .next (s.finishKernel k)
      else
        .next (((s.modKernel k fun x => { x with st := .ranging }).rangeOn k).preWake x.cx)
    else s.noEvent

/-- The leaves of every range of a kernel; none while one of them faults. -/
def State.kernelLeaves (s : State) (k : Kernel) : Option (List (Nat × Leaf)) :=
  (k.allRanges.flatMap fun (b, n, _) => s.rangeLeaves k.cx b n).foldr
    (fun (va, r) acc => match r, acc with
      | .ok l, some t => some ((l.page va, l) :: t)
      | _, _ => none) (some [])

/-- Every page of a kernel may be leased now, its PLACE requests are carried out or dropped, and every segment is Active (R97, R98,
R231, R235). -/
def State.leasable (s : State) (k : Kernel) (ls : List (Nat × Leaf)) : Bool :=
  ls.all (fun (va, l) => (s.page k.cx va).moving.isNone && !s.pagePending k.cx va l)
    && (s.placePages k).all (fun x => k.placed.contains (x.2.2.page x.2.1))
    && (s.segsOf k.cx k.ranges).all fun g => (s.seg g).tide == .active && !(s.seg g).waking

/-- One residency lease of a page (R231). -/
def State.leasePage (s : State) (cx : Nat) (x : Nat × Leaf) : State :=
  let p := s.page cx x.1
  s.setPage { p with leases := p.leases + 1, discard := false }

/-- Without duplicates, the first of each kept. -/
def firstEach (ls : List (Nat × Leaf)) : List (Nat × Leaf) :=
  ls.foldr (fun x t => x :: t.filter fun y => y.1 != x.1) []

/-- KERNEL_LEASED (R88, R94, R97, R104): the pages are leased, the parameter block is read and copied; a block that its pages
do not let the device read ends the kernel with PERMISSION (DEDUCED, log entry 15). Bytes of the copy that the pages at PCOPY do not admit are
dropped, and the kernel is Ready all the same (DESIGN CHOICE, log entry 147). -/
def execKernelLeased (k : Nat) (s : State) : Out :=
  match s.kernel? k with
  | none => s.noEvent
  | some x =>
    match s.kernelLeaves x with
    | none => s.noEvent
    | some ls =>
      let ls := firstEach ls
      if x.st == .ranging && s.leasable x ls && !((s.ctx x.cx).faults.any fun f => f.kernels.contains k) then
        let s := ls.foldl (fun s l => s.leasePage x.cx l) s
        let s := s.modKernel k fun x => { x with leased := ls.map Prod.fst }
        match s.devReadN x.cx x.params ((x.plen + 7) / 8) with
        | none => .next (s.abortKernel k ⟨BitVec.ofNat 8 (Cause.code .permission), BitVec.ofNat 64 x.lrec, BitVec.ofNat 64 x.params⟩)
        | some bs =>
          let block := bs.take x.plen
          let s := if x.pcopy = 0 then s else s.devPutAll x.cx x.pcopy block (x.plen / 64 + 1)
          .next (s.modKernel k fun x => { x with st := .ready, pblock := block, readySince := s.dtime })
      else s.noEvent

/-- LEASE_RENEWAL (R97): every RLEASE ticks, until the kernel is Done or Aborted; the leases stay. -/
def execLeaseRenewal (k : Nat) (s : State) : Out :=
  match s.kernel? k with
  | some x => if !x.leased.isEmpty then .next s else s.noEvent
  | none => s.noEvent

/-! ### The unified store of a core (R178, R179) -/

/-- Capacity of the unified store. -/
def storeBytes : Nat := 2^20

/-- A group holds its window and its strand slots: it has not ended, and its workgroup is not saved (R52, R130). -/
def State.holds (s : State) (g : Group) : Bool := g.st != .ended && !((s.wg? g.wg).any fun w => w.saved)

/-- The areas of a core that are not free, as first offset and end: runs and register windows (R179). -/
def State.taken (s : State) (core : Nat) : List (Nat × Nat) :=
  ((tabVals s.wgs).filterMap fun w =>
      if w.ended || w.saved then none
      else match w.runOn core, s.kernel? w.kernel with
        | some b, some k => some (b, b + k.runBytes)
        | _, _ => none)
    ++ ((tabVals s.groups).filterMap fun g =>
      if g.core == core && s.holds g then some (g.base, g.base + 4 * g.regs * g.width) else none)

/-- The areas of a core in which no new area is placed: those that are not free, and the bytes above a window that a group in
Growing waits for (R127). -/
def State.areas (s : State) (core : Nat) : List (Nat × Nat) :=
  s.taken core ++ ((tabVals s.groups).filterMap fun g =>
    if g.core == core && s.holds g && g.st == .growing then some (g.base, g.base + 4 * max g.want g.regs * g.width) else none)

/-- An area [a, a + n) is free of the areas listed. -/
def freeOf (occ : List (Nat × Nat)) (a n : Nat) : Bool := occ.all fun x => decide (a + n ≤ x.1) || decide (x.2 ≤ a)

/-- Rounded up to a multiple. -/
def alignUp (n a : Nat) : Nat := (n + a - 1) / a * a

/-- First fit from the lowest offset, below a limit (R179). -/
def firstFit (occ : List (Nat × Nat)) (limit n align : Nat) : Option Nat :=
  if n = 0 then some 0
  else
    let ok := (0 :: occ.map fun x => alignUp x.2 align).filter fun a => decide (a + n ≤ limit) && freeOf occ a n
    match ok with
    | [] => none
    | a :: t => some (t.foldl min a)

/-- The offsets below the L1 ways of a core (R179: ways are taken from the highest offsets downwards). -/
def State.storeLimit (s : State) (core : Nat) : Nat := storeBytes - 2^16 * s.l1Ways core

/-- Strand slots in use on a core. -/
def State.slotsUsed (s : State) (core : Nat) : List Nat :=
  (tabVals s.groups).flatMap fun g =>
    if g.core == core && s.holds g then g.strands.map fun u => u.slot else []

/-! ### Placement (R17, R43, R92, R107, R156) -/

/-- First quad cores a workgroup of `n` cores may take (R92). -/
def startOk (n first : Nat) : Bool :=
  match n with
  | 1 => decide (first < 4)
  | 2 => first == 0 || first == 2
  | _ => first == 0

/-- Bytes of a context's save image with the given workgroups (R56, R57). -/
def imageBytes (ws : List Workgroup) : Nat :=
  let cores := (ws.flatMap fun w => (List.range w.ncores).map w.coreAt).eraseDups
  let quads := (ws.map fun w => (w.die, w.quad)).eraseDups
  65536 + 65536 * quads.length + 2064 * 1024 * cores.length

/-- The workgroups of a context that have not ended. -/
def State.wgsOf (s : State) (cx : Nat) : List Workgroup :=
  (tabVals s.wgs).filter fun w => !w.ended && ((s.kernel? w.kernel).map fun k => k.cx) == some cx

/-- A place is admissible for a workgroup record, apart from the room on its cores (R17, R43, R92, R156). A control-thread index is free once
its thread has exited (R17, R380). -/
def State.placeOk (s : State) (k : Kernel) (w : Workgroup) (p : Place) : Bool :=
  decide (p.die < 8) && (maskDies k.diemask).contains p.die && s.mgmt.dieok.getLsbD p.die && decide (p.quad < 64)
    && startOk k.cores p.first
    && decide (imageBytes (w :: s.wgsOf k.cx) ≤ (s.ctx k.cx).savelen.toNat)
    && decide (p.slot < 512)
    && (tabVals s.wgs).all (fun x => x.ended || x.saved || x.coreAt 0 != w.coreAt 0 || x.slot != p.slot)
    && (k.centry.isNone || (decide (p.ctIdx < 16)
      && s.cts.all fun (i, c) => match s.wg? i with
        | some x => x.ended || x.saved || !c.unit.live || x.die != p.die || x.quad != p.quad || c.ctIdx != p.ctIdx
        | none => true))

/-- Runs of a workgroup are carved on its cores, lowest first; none where one finds no room. -/
def State.carveRuns (s : State) (k : Kernel) (w : Workgroup) (ways : Nat) : Nat → Option (List Nat)
  | 0 => some []
  | n + 1 =>
    match s.carveRuns k w ways n with
    | none => none
    | some t => (firstFit (s.areas (w.coreAt n)) (s.storeLimit (w.coreAt n) - 2^16 * ways) k.runBytes 4096).map fun b => t ++ [b]

/-- A thread's lane at placement (R89, R107, R295). -/
def laneAt (pc : Nat) (gen : W32) : Lane := { Lane.init with live := true, pc := pc, gen := gen }

/-- The strands of a group at placement; `t0` is the index in kernel of its thread 0. -/
def strandsAt (pc t0 : Nat) (slots : List Nat) : List Strand :=
  slots.mapIdx fun j slot =>
    { Strand.init slot 0xFF ((List.range 8).map fun l => laneAt pc (rseed 0 (t0 + 8 * j + l))) with cur := 0xFF }

/-- A group joins workgroup `wid` on a core: its window is carved, its slots are taken, its launch sequence is drawn; none where
there is no room (R107, R179). `g` holds what does not depend on the core. -/
def State.addGroup (s : State) (g : Group) : Option State :=
  match firstFit (s.areas g.core) (s.storeLimit g.core) (4 * g.regs * g.width) 256 with
  | none => none
  | some base =>
    let slots := g.strands.map fun u => u.slot
    if slots.any (fun x => decide (512 ≤ x) || (s.slotsUsed g.core).contains x) || slots.eraseDups.length != slots.length then none
    else
      let gid := s.nextId
      let seq := tabGet s.seqs 0 g.core
      let s := { s with
        groups := tabSet s.groups gid { g with base := base, seq := seq }
        seqs := tabSet s.seqs g.core (seq + 1), nextId := gid + 1 }
      some (s.modWg g.wg fun w => { w with groups := w.groups ++ [gid] })

/-- The groups of a new workgroup, in class order then group order: each has a strand slot for every strand (R92). -/
def State.addGroups (s : State) (k : Kernel) (wid : Nat) (w : Workgroup) :
    List (GClass × Nat × Nat) → Nat → Nat → List Nat → Option State
  | [], _, _, _ => some s
  | (c, _, r) :: t, i, v3, slots =>
    let n := c.width / 8
    let entry := nth k.entries c.entry 0
    let g : Group :=
      { Group.init with
        wg := wid, core := w.coreAt r, idx := i, cls := ((k.classes.findIdx? fun x => x == c).getD 0), width := c.width
        regs := c.regs, copyRole := c.copy, entry := entry, v3base := v3, st := .loading
        strands := strandsAt (k.code + entry) (w.idx * k.threads + v3) (slots.take n) }
    match if (slots.take n).length = n then s.addGroup g else none with
    | none => none
    | some s => s.addGroups k wid w t (i + 1) (v3 + c.width) (slots.drop n)

/-- The control thread of a workgroup at its start (R94). -/
def ctAt (k : Kernel) (ctIdx : Nat) (xyz : Nat × Nat × Nat) (core0 : Nat) : CThread :=
  let pc := k.code + k.centry.getD 0
  { ctIdx := ctIdx
    cregs := (([k.pcopy, xyz.1, xyz.2.1, xyz.2.2, core0 % 256].zipIdx 1).filter fun (v, _) => v != 0).map fun (v, n) =>
      (n, BitVec.ofNat 64 v)
    unit := { Strand.init 0 1 [laneAt pc 1] with cur := 1 }
    deferred := none, due := false
    savedAccs := [] }

/-- The L1 ways of the cores have room under the areas carved. -/
def State.waysFit (s : State) (w : Workgroup) : Bool :=
  (List.range w.ncores).all fun r => (s.areas (w.coreAt r)).all fun x => x.2 == x.1 || decide (x.2 ≤ s.storeLimit (w.coreAt r))

/-- The x, y and z of a workgroup (R92). -/
def Kernel.xyz (k : Kernel) (lin : Nat) : Nat × Nat × Nat :=
  (lin % k.grid.1, lin / k.grid.1 % k.grid.2.1, lin / (k.grid.1 * k.grid.2.1))

/-- A workgroup's record for a place. -/
def wgAt (kid : Nat) (k : Kernel) (lin : Nat) (p : Place) (sib : Option (Nat × Nat)) : Workgroup :=
  ⟨kid, lin, p.die, p.quad, p.first, k.cores, p.slot, [], k.l1w, [], [], k.centry.isSome, sib, false, false, []⟩

/-- A workgroup record, its runs and its control thread are put in place; none where there is no room. -/
def State.addWg (s : State) (k : Kernel) (w : Workgroup) (p : Place) (ct : Option CThread) : Option (Nat × State) :=
  if !s.placeOk k w p then none
  else match s.carveRuns k w k.l1w k.cores with
    | none => none
    | some runs =>
      let wid := s.nextId
      some (wid, { s with
        wgs := tabSet s.wgs wid { w with runs := runs }
        cts := match ct with | some c => tabSet s.cts wid c | none => s.cts
        nextId := wid + 1 })

/-- A Ready or Dispatching kernel may have its next workgroup placed (R104). -/
def State.placing (s : State) (k : Kernel) : Bool :=
  (k.st == .ready || k.st == .dispatching) && (s.ctx k.cx).st == .active && !(s.ctx k.cx).restoring

/-- WORKGROUP_PLACED (R92, R104): the next workgroup starts at a place the device has chosen, which has room. -/
def execWorkgroupPlaced (k : Nat) (at_ : Place) (s : State) : Out :=
  let none_ := s.noEvent
  match s.kernel? k with
  | none => none_
  | some x =>
    if !s.placing x then none_
    else
      let w := wgAt k x x.nextWg at_ none
      let ct := if x.centry.isSome then some (ctAt x at_.ctIdx (x.xyz x.nextWg) (w.coreAt 0)) else none
      match s.addWg x w at_ ct with
      | none => none_
      | some (wid, s) =>
        match s.addGroups x wid w x.specs 0 0 at_.strands with
        | none => none_
        | some s =>
          if !s.waysFit w then none_
          else
            let total := x.grid.1 * x.grid.2.1 * x.grid.2.2
            .next (s.modKernel k fun x =>
              { x with nextWg := x.nextWg + 1, liveWgs := x.liveWgs + 1, st := if x.nextWg + 1 = total then .running else .dispatching })

/-- The registers of a Loading group are set (R89): v0 to v2 the workgroup, v3 the thread's index in the workgroup. -/
def Group.load (x : Group) (xyz : Nat × Nat × Nat) : Group :=
  let win := (List.range x.width).foldl (fun win l =>
    [(0, xyz.1), (1, xyz.2.1), (2, xyz.2.2), (3, x.v3base + l)].foldl (fun win (n, v) =>
      if v = 0 then win else tabSet win (n * x.width + l) (BitVec.ofNat 32 v)) win) x.win
  { x with win := win, st := .running }

/-- A Loading group of a workgroup is loaded. -/
def State.loadGroup (s : State) (g : Nat) : State :=
  match (s.group? g).bind fun x => s.wg? x.wg with
  | none => s
  | some w => match s.kernel? w.kernel with
    | none => s
    | some k => s.modGroup g fun x => x.load (k.xyz w.idx)

/-- GROUP_LOADED (R89, R130): the registers of every thread are set and the strands become eligible. -/
def execGroupLoaded (g : Nat) (s : State) : Out :=
  match s.group? g with
  | none => s.noEvent
  | some x => if x.st == .loading && (s.ctx (s.cxOfWg x.wg)).st == .active then .next (s.loadGroup g) else s.noEvent

/-! ### Quiet (R104) -/

/-- No copy, remote atomic, collective, a router's sum among them, drain, tier move or checkpoint copy of the kernel is in
flight. -/
def State.quiet (s : State) (kid : Nat) (k : Kernel) : Bool :=
  !(s.copies.any fun c => c.kernel == kid) && !(s.ratoms.any fun r => r.kernel == kid)
    && !(s.tiles.any fun (_, t) => t.st == .fired && t.contextKernel == kid)
    && !(s.drains.any fun d => ((s.wg? d.wg).map fun w => w.kernel) == some kid)
    && !(s.rounds.any fun r => r.cx == k.cx && r.packets.any fun p => s.kidOf p.ag == some kid)
    && !(s.tiers.any fun t => t.kernel == kid)
    && !(s.marks.any fun m => m.kernel == kid)

/-- The strands and control threads of a kernel. -/
def State.kernelAgents (s : State) (kid : Nat) : List Agent :=
  let ws := (s.wgs.filter fun (_, w) => w.kernel == kid).map Prod.fst
  (s.groups.flatMap fun (gid, g) => if ws.contains g.wg then g.agents gid else [])
    ++ (s.cts.filterMap fun (w, _) => if ws.contains w then some (.ctl w) else none)

/-- KERNEL_QUIET (R104, R106): the stores that the kernel's threads issued have been performed (R105, R191). -/
def execKernelQuiet (k : Nat) (s : State) : Out :=
  match s.kernel? k with
  | some x =>
    if x.st == .draining && s.quiet k x then
      let ags := s.kernelAgents k
      let t := ags.foldl State.drain s
      if ags.all t.drained then .next (t.finishKernel k) else s.noEvent
    else s.noEvent
  | none => s.noEvent

end Sys2Proof.Machine
end

