-- ==== Sys2Proof/Machine/GroupOps.lean ====
section
/-!
DEFINITION. Group-wide instructions (R121): arrival and completion; register windows that grow and shrink (R126 to R129); and
what `rswitch`, `reggrow` and `regshrink` do at their completion (R124 to R128).
-/
namespace Sys2Proof.Machine

/-! ### Waiting strands of a group -/

/-- Every strand of a group is changed by `f`, which is given the strand's number. -/
def Group.mapStrands (g : Group) (f : Nat → Strand → Strand) : Group := { g with strands := g.strands.mapIdx f }

/-- The lanes of a strand that wait in a group-wide instruction. -/
def Strand.wideMask (u : Strand) : BitVec 8 := maskOf fun k => (u.lane k).wait == some .groupWide

/-- A predicate of every live lane of a group is written (R125, R127, R141). -/
def Group.setPd (g : Group) (p : Nat) (b : Bool) : Group :=
  g.mapStrands fun _ u => u.mapLanes (inMask u.liveMask) fun _ l => l.setPred p b

/-- A group-wide instruction ends: its strands continue after it, pd being written at every live lane (R121) and entering lat0 of the lanes
that were active (R324). -/
def State.wideDone (s : State) (gid : Nat) (pd : Option (Nat × Bool)) : State :=
  s.modGroup gid fun g =>
    let x := match pd with | some (p, b) => g.setPd p b | none => g
    { x.mapStrands (fun k u => u.release (fun w => w == .groupWide) fun l =>
        match pd with | some (_, b) => if b && g.arrivedAt k l then 1 else 0 | none => 0) with
      gw := none, st := .running, want := 0 }

/-- A group-wide instruction raises a cause at every live lane of the group; nothing else changes (R125, R127, R138). Lanes that are
parked already have their cause; waits of lanes outside the word end, the word that waits counting as not executed. -/
def State.wideTrap (s : State) (gid : Nat) (c : Cause) (taddr : W64 := 0) : State :=
  match s.group? gid with
  | none => s
  | some g =>
    let s := s.modGroup gid fun g => { g with gw := none, gather := none, st := .running, want := 0 }
    (List.range g.strands.length).foldl (fun s k =>
      let u := nth g.strands k (Strand.init 0 0 [])
      let m := maskOf fun l => (u.lane l).live && (u.lane l).parked.isNone
      let s := (s.unwait (.strand gid k)).modUnit (.strand gid k) fun u => u.mapLanes (inMask m) fun _ l => l.withdraw
      s.raise (.strand gid k) ((lanesOf m).map fun l => (l, c, taddr, 0))) s

/-- A pending group-wide instruction raises a cause at the lanes that were active for it; the others go on after it (R453). -/
def State.activeTrap (s : State) (gid : Nat) (c : Cause) (taddr : W64 := 0) : State :=
  let arrived := (((s.group? gid).bind fun g => g.gw).map fun gw => gw.arrived).getD []
  let s := arrived.foldl (fun s (k, m) => s.modUnit (.strand gid k) fun u => u.mapLanes (inMask m) fun _ l => l.withdraw) s
  arrived.foldl (fun s (k, m) => s.raise (.strand gid k) ((lanesOf m).map fun l => (l, c, taddr, 0))) (s.wideDone gid none)

/-! ### Growth of the allotment (R126 to R129) -/

/-- Rounded up to a multiple of 8 (R89, R124, R127). -/
def round8 (n : Nat) : Nat := (n + 7) / 8 * 8

/-- The bytes directly above a group's window, up to `n` registers, are free (R127). -/
def State.growRoom (s : State) (gid n : Nat) : Bool :=
  match s.group? gid with
  | none => false
  | some g =>
    let a := g.base + 4 * g.regs * g.width
    let z := g.base + 4 * n * g.width
    decide (z ≤ s.storeLimit g.core) && freeOf ((s.taken g.core).filter fun x => x.1 != x.2) a (z - a)

/-- The allotment becomes `n`, above the present one; the new registers read as zero (R127). -/
def Group.growTo (g : Group) (n : Nat) : Group := { g with regs := n }

/-- The allotment becomes `n`, below the present one: registers n and above are discarded (R128). -/
def Group.shrinkTo (g : Group) (n : Nat) : Group :=
  if n < g.regs then { g with regs := n, win := g.win.filter fun e => decide (e.1 < n * g.width) } else g

/-- An entry names a clause header below CODELEN (R125, R138). -/
def State.namesClause (s : State) (k : Kernel) (entry : Nat) : Bool :=
  entry % 8 == 0 && decide (entry < k.codelen) && (match s.codeWord k.cx (k.code + entry) with
    | some w => headerOk w
    | none => false)

/-- The role word of `rswitch` (R124): ENTRY, REGS, PRIO, COPY. -/
def roleWord (w : Nat) : Nat × Nat × Nat × Bool := (w / 2^32, bits w 15 8, bits w 5 4, bitAt w 0)

/-- `rswitch` takes effect: role, priority, entry (R125); the allotment has been settled. -/
def State.switchRole (s : State) (gid : Nat) (k : Kernel) (p w : Nat) : State :=
  let (entry, regs, prio, copy) := roleWord w
  let s := s.modGroup gid fun g =>
    let g := if regs = 0 then g else g.shrinkTo (round8 regs)
    { g with copyRole := copy, prio := prio, entry := if entry = 0xFFFFFFFF then g.entry else entry }
  let s := s.wideDone gid (some (p, true))
  if entry = 0xFFFFFFFF then s
  else
    -- the jump ends every other wait of the group's lanes (R165)
    let s := ((s.group? gid).map fun g => g.agents gid).getD [] |>.foldl State.unwait s
    s.modGroup gid fun g => g.mapStrands fun _ u =>
    let m := u.liveMask
    { u.mapLanes (inMask m) (fun _ l =>
        { l with pc := k.code + entry, cwi := 0, inClause := false, inHandler := false, opening := false, wait := none, parked := none })
      with jmask := List.replicate 8 0, u := m, cur := m, swash := if u.path = m then u.swash else 0, clause := none }

/-- A request to grow is settled: granted when there is room, else the group is in Growing (R127). `done` is what follows a
grant. -/
def State.growOr (s : State) (gid n : Nat) (done : State → State) : State :=
  if s.growRoom gid n then done (s.modGroup gid fun g => g.growTo n)
  else s.modGroup gid fun g => { g with st := .growing, want := n }

/-- What follows a grant of the group's pending instruction (R125, R127). -/
def State.granted (s : State) (gid : Nat) (k : Kernel) : State :=
  match (s.group? gid).bind fun g => g.gw with
  | some gw => match gw.instr with
    | .rswitch _ p _ => s.switchRole gid k p (nth gw.vals 0 0).toNat
    | .reggrow _ p _ => s.wideDone gid (some (p, true))
    | _ => s
  | none => s

/-- The kernel of a group. -/
def State.kernelOf (s : State) (gid : Nat) : Option Kernel :=
  ((s.group? gid).bind fun g => s.wg? g.wg).bind fun w => s.kernel? w.kernel

/-- The resident groups of a core (R129: groups in Saved do not count). -/
def State.residents (s : State) (core : Nat) : List (Nat × Group) :=
  s.groups.filter fun (_, g) => g.core == core && g.st != .ended && g.st != .saved

/-- The group of the highest launch sequence. -/
def highestSeq : List (Nat × Group) → Option (Nat × Group)
  | [] => none
  | x :: t => match highestSeq t with
    | none => some x
    | some y => if y.2.seq.toNat < x.2.seq.toNat then some x else some y

/-- R129: when every resident group of a core is in Growing, the request of the highest launch sequence is denied, unless it
can be granted (R9, R130). -/
def State.growDeny (s : State) (core : Nat) : State :=
  let gs := s.residents core
  if gs.isEmpty || gs.any (fun x => x.2.st != .growing) || gs.any (fun x => s.growRoom x.1 x.2.want) then s
  else match highestSeq gs with
    | none => s
    | some (gid, g) => match g.gw.map (fun (x : GroupWide) => x.instr) with
      | some (.rswitch _ p _) => s.wideDone gid (some (p, false))
      | some (.reggrow _ p _) => s.wideDone gid (some (p, false))
      | _ => s.wideDone gid none

/-- GROW_GRANT (R129, R130): the bytes a Growing group needs are free. -/
def execGrowGrant (g : Nat) (s : State) : Out :=
  match s.group? g, s.kernelOf g with
  | some x, some k =>
    if x.st == .growing && s.growRoom g x.want && (s.ctx k.cx).st == .active then
      let s := s.modGroup g fun x => { x.growTo x.want with st := .converging }
      .next (s.granted g k)
    else s.noEvent
  | _, _ => s.noEvent

/-- `reggrow` at its completion (R127). -/
def State.regGrow (s : State) (gid p n : Nat) : State :=
  match s.group? gid with
  | none => s
  | some g =>
    if round8 n ≤ g.regs then s.wideDone gid (some (p, true))
    else (s.growOr gid (round8 n) fun s => s.wideDone gid (some (p, true))).growDeny g.core

/-- `regshrink` at its completion (R128). -/
def State.regShrink (s : State) (gid n : Nat) : State :=
  (s.modGroup gid fun g => g.shrinkTo (round8 n)).wideDone gid none

/-- `rswitch` at its completion (R125). -/
def State.roleSwitch (s : State) (gid p w : Nat) : State :=
  match s.group? gid, s.kernelOf gid with
  | some g, some k =>
    let (entry, regs, _, copy) := roleWord w
    if 240 < regs ∨ (entry ≠ 0xFFFFFFFF ∧ !s.namesClause k entry) then s.wideTrap gid .illegalEncoding
    else
      let other := s.groups.any fun (i, x) => i != gid && x.wg == g.wg && x.st != .ended && x.copyRole
      if copy && !g.copyRole && other then s.wideTrap gid .roleConflict
      else if regs ≠ 0 ∧ g.regs < round8 regs then
        (s.growOr gid (round8 regs) fun s => s.switchRole gid k p w).growDeny g.core
      else s.switchRole gid k p w
  | _, _ => s

/-! ### Arrival (R121) -/

/-- The path waits in a group-wide instruction (R121). -/
def State.holdWide (s : State) (e : Env) (bads : List LaneOut) : State :=
  let m := maskOf fun l => inMask e.path l && !(bads.any fun b => b.lane == l)
  let s := s.modUnit e.ag fun u =>
    { u.mapLanes (inMask m) (fun k l => (e.seen k l).hold .groupWide (e.cl.next (e.u.lane k))) with swash := min 511 (u.swash + 1) }
  s.issued e

/-- A pending group-wide instruction completes once every live strand has arrived (R121). -/
def State.wideCheck (s : State) (gid : Nat) (apply : State → Nat → State) : State :=
  match s.group? gid with
  | none => s
  | some g =>
    match g.gw with
    | none => s
    | some gw =>
      if g.st == .converging && (List.range g.strands.length).all fun k =>
          !(nth g.strands k (Strand.init 0 0 [])).live || gw.arrived.any fun a => a.1 == k then apply s gid
      else s

/-- A path that waits in a group-wide instruction, once it is known that the instruction does not complete at once, gives up the issue of its
strand (R113, R387). -/
def State.widePass (s : State) (e : Env) : State := s.modUnit e.ag fun u => if u.path = 0 then u.settle e.lane0.pc else u

/-- A strand executes a group-wide instruction with uniform operands `vals` of its active lanes (R119, R121). One whose other path waits in it
already raises UNIFORM_DIVERGENT, whatever the address and the operands (DESIGN CHOICE, log entry 148). -/
def State.wideWord (s : State) (e : Env) (i : Instr) (vals : Nat → List W64) (apply : State → Nat → State) : Out :=
  let (m, bads) := e.strandOp vals (fun _ => false) true
  if m = 0 then .next (s.finish e bads)
  else s.afterStores e fun s =>
    let vs := vals e.low
    match (s.group? e.gid).bind fun g => g.gw with
    | some gw =>
      if gw.pc != e.lane0.pc || gw.arrived.any fun a => a.1 == e.k then .next (s.finish e (bads ++ allBad m .uniformDivergent))
      else if gw.vals != vs then .next (s.finish e (bads ++ allBad m .nonuniformOperand))
      else
        let s := s.holdWide e bads
        let s := s.modGroup e.gid fun g => { g with gw := some { gw with arrived := gw.arrived ++ [(e.k, m)] } }
        let s := s.raise e.ag (bads.filterMap fun b => b.cause.map fun c => (b.lane, c))
        .next ((s.wideCheck e.gid apply).widePass e)
    | none =>
      let s := s.holdWide e bads
      let s := s.modGroup e.gid fun g => { g with st := .converging, gw := some ⟨e.lane0.pc, i, vs, [(e.k, m)]⟩ }
      let s := s.raise e.ag (bads.filterMap fun b => b.cause.map fun c => (b.lane, c))
      .next ((s.wideCheck e.gid apply).widePass e)

end Sys2Proof.Machine
end

