-- ==== Sys2Proof/Machine/Shapes.lean ====
section
/-!
DEFINITION. Shape records and buffer records (R199, R405 to R408), the shape walker's reads of them (R406), and element places.
-/
namespace Sys2Proof.Machine

/-- Address of entry `h` of a context's shape table (R37, R405). -/
def State.shapeAddr (s : State) (cx h : Nat) : Nat := (s.ctx cx).shapebase.toNat + 128 * (h % 4096)

/-- The shape record of a table entry (R405); none when KIND is not 0x00 or a value is not allowed (R406). -/
def shapeOf (bs : List Byte) : Option ShapeRec :=
  let w1 := wordAt bs 1
  let rank := bits w1 10 8
  if nth bs 0x7F 0 != 0 || decide (3 < bits w1 19 16) || rank == 0 || decide (3 < bits w1 7 0) then none
  else some
    { base := wordAt bs 0, fill := BitVec.ofNat 32 (w1 / 2^32), perm := bits w1 19 16, rank := rank, size := 2^bits w1 7 0
      ext := (List.range rank).map fun d => leNat ((bs.drop (0x10 + 4 * d)).take 4)
      stride := (List.range rank).map fun d => wordAt (bs.drop 0x30) d % 2^48
      box := (List.range rank).map fun d => (nth bs (0x68 + d) 0).toNat + 1 }

/-- The buffer record of a table entry (R199); none when KIND is not 0x01. -/
def bufOf (bs : List Byte) : Option BufRec :=
  if nth bs 0x7F 0 = 1 then some ⟨wordAt bs 0, wordAt bs 1 % 2^48⟩ else none

/-- The shape walker's unit: its TLB (R19), and its number as a filler of translations (R192). -/
def walkerOf (core : Nat) : Nat := 4096 + quadOf core

/-- The key under which a kernel keeps a table entry on a quad (R406). -/
def handleKey (core h : Nat) : Nat := 4096 * quadOf core + h % 4096

/-- The bytes of a table entry: those kept for the kernel on the quad, or a read by the walker (R406), which drops a translation that refuses it
(R225). -/
def State.handleBytes (s : State) (kid cx core h : Nat) : Except Cause (List Byte) × State :=
  match (s.kernel? kid).bind fun k => tabFind? k.handles (handleKey core h) with
  | some bs => (.ok bs, s)
  | none =>
    let a := s.shapeAddr cx h
    match (s.walkRequest core [walkerOf core] cx a).translate [walkerOf core] (walkerOf core) cx a with
    | (.error _, s) => (.error .permission, s)
    | (.ok l, s) => if pteRd l.pte then (.ok (memRead s.mem (s.physBy cx a l.pte l.psize false) 128), s)
      else (.error .permission, s.tlbDrop [walkerOf core] cx a)

/-- A record of a kind: one whose KIND or values do not fit raises ILLEGAL_ENCODING; a good one is kept (R406). -/
def State.record {α : Type} (s : State) (kid cx core h : Nat) (parse : List Byte → Option α) : Except Cause α × State :=
  match s.handleBytes kid cx core h with
  | (.error c, s) => (.error c, s)
  | (.ok bs, s) =>
    match parse bs with
    | none => (.error .illegalEncoding, s)
    | some r => (.ok r, s.modKernel kid fun k => { k with handles := tabSet k.handles (handleKey core h) bs })

/-- The bank permutation of R408 of a view offset. -/
def swizzle (k o : Nat) : Nat :=
  let lo := o / 16 % 2^k
  o - 16 * lo + 16 * (lo ^^^ (o / 256 % 2^k))

/-- The element is clipped (R407). -/
def ShapeRec.clipped (r : ShapeRec) (xs : List Int) : Bool :=
  (List.range r.rank).any fun d => decide (nth xs d 0 < 0) || decide (((nth r.ext d 0 : Nat) : Int) ≤ nth xs d 0)

/-- The address of an element that is not clipped (R407, R408). -/
def ShapeRec.addr (r : ShapeRec) (xs : List Int) : Nat :=
  let e := (r.base + (List.range r.rank).foldl (fun n d => n + (nth xs d 0).toNat * nth r.stride d 0) 0) % 2^64
  if e / 2^62 = 3 ∧ r.perm ≠ 0 then e - e % 2^20 + swizzle r.perm (e % 2^20) else e

/-- The value of a clipped element (R407). -/
def ShapeRec.fillBytes (r : ShapeRec) : List Byte := (leBytes 4 r.fill.toNat ++ leBytes 4 r.fill.toNat).take r.size

/-- Elements of a box (R443). -/
def ShapeRec.count (r : ShapeRec) : Nat := r.box.foldl (· * ·) 1

/-- The coordinates y of the box, given L(y) (R443). -/
def boxAt : List Nat → Nat → List Int
  | [], _ => []
  | e :: t, n => ((n % e : Nat) : Int) :: boxAt t (n / e)

/-- The coordinates c = x + y of the box element L (R443). -/
def ShapeRec.coords (r : ShapeRec) (x : List Int) (n : Nat) : List Int := (boxAt r.box n).mapIdx fun d y => nth x d 0 + y

end Sys2Proof.Machine
end

