-- ==== Sys2Proof/Machine/Collective.lean ====
section
/-!
DEFINITION. The collective engine: the tile table and its states (R268 to R275); and router combining: reduction descriptors and
their rounds (R276 to R278, R453).
-/
namespace Sys2Proof.Machine

/-! ### Tile-table entries (R268, R269) -/

/-- Codes of entry states (R268); Ready is never observed (R275). -/
def TState.code : TState → Nat
  | .empty => 0
  | .armed => 1
  | .fired => 3
  | .complete => 4
  | .error => 5

/-- Word 0x00 of an entry. -/
def TileEntry.word0 (t : TileEntry) : Nat := t.fmt * 2^59 + t.op * 2^56 + t.cx * 2^48 + t.roff

/-- Word 0x08 of an entry. -/
def TileEntry.word1 (t : TileEntry) : Nat :=
  t.st.code * 2^61 + flag t.inv * 2^57 + flag t.ovf * 2^56 + t.ecause.toNat * 2^48 + flag t.skind * 2^47 + t.src * 2^35
    + t.bar * 2^28 + flag t.bv * 2^27 + t.rstride * 2^13 + t.rcnt * 2^6 + t.rbase

/-- The entry is Empty, Complete or Error: its RW fields may be written (R269). -/
def TileEntry.idle (t : TileEntry) : Bool := t.st == .empty || t.st == .complete || t.st == .error

/-- The fields of word 0x00 of a store; device code does not change CTX (R268), and reserved bits stay zero (R2). -/
def TileEntry.setWord0 (t : TileEntry) (v : Nat) (dev : Bool) : TileEntry :=
  { t with fmt := bits v 62 59, op := bits v 58 56, cx := if dev then t.cx else bits v 55 48, roff := v % 2^48 }

/-- The RW fields of word 0x08 of a store, apart from STATE. -/
def TileEntry.setWord1 (t : TileEntry) (v : Nat) : TileEntry :=
  { t with
    skind := bitAt v 47, src := bits v 46 35, bar := bits v 33 28, bv := bitAt v 27, rstride := bits v 18 13, rcnt := bits v 12 6, rbase := bits v 5 0 }

/-- The rank at a position (R269). -/
def TileEntry.rankAt (t : TileEntry) (j : Nat) : Nat := t.rbase + j * t.rstride

/-- The position of a rank in the set (R269). -/
def TileEntry.position (t : TileEntry) (rank : Nat) : Option Nat := (List.range t.rcnt).find? fun j => t.rankAt j == rank

/-- The checks of an arm (R269). -/
def TileEntry.armOk (t : TileEntry) (rank podsize : Nat) : Bool :=
  decide (t.fmt ≤ 3) && decide (t.op ≤ 4) && !((t.op == 1 || t.op == 2) && (t.fmt == 1 || t.fmt == 2))
    && t.rcnt != 0 && t.rstride != 0 && ((List.range t.rcnt).all fun j => decide (t.rankAt j < podsize)) && (t.position rank).isSome

/-- The rank set holds a rank that has been lost (R264). -/
def TileEntry.lost (t : TileEntry) (lostmap : Nat) : Bool := (List.range t.rcnt).any fun j => bitAt lostmap (t.rankAt j)

/-- A store of STATE 1 (R269, R275): an entry whose rank set holds a lost rank fails with PEER_LOST (R264). -/
def TileEntry.arm (t : TileEntry) (v rank podsize lostmap : Nat) : TileEntry :=
  if !t.idle then t
  else
    let t := { t.setWord1 v with inv := false, ovf := false, ecause := 0, got := [], result := none, own := [] }
    let fail := fun (c : Cause) => { t with st := TState.error, ecause := BitVec.ofNat 8 c.code }
    if !t.armOk rank podsize then fail .illegalEncoding else if t.lost lostmap then fail .peerLost else { t with st := .armed }

/-- A store of STATE 0 (R269, R275): a Fired entry ignores it; an Empty one takes the RW fields. -/
def TileEntry.disarm (t : TileEntry) (v : Nat) : TileEntry :=
  match t.st with
  | .armed => { t with st := .empty, waiting := [] }
  | .fired => t
  | .empty => t.setWord1 v
  | _ => { t with st := .empty }

/-- A store to word 0x08 (R269). -/
def TileEntry.store1 (t : TileEntry) (v rank podsize lostmap : Nat) : TileEntry :=
  if v / 2^61 = 1 then t.arm v rank podsize lostmap
  else if v / 2^61 = 0 then t.disarm v
  else if t.idle then t.setWord1 v else t

/-- The arrival of an entry that a store of STATE 1 has taken straight to Error (R159, R274). -/
def State.armArrival (s : State) (d i v : Nat) (before : TileEntry) : State :=
  let t := s.tile d i
  if v / 2^61 = 1 ∧ before.idle ∧ t.st = .error ∧ t.bv then s.postArrival (.die t.cx d t.bar) none 1 false (causeOf t.ecause.toNat) else s

/-- A store to an entry's word; `dev`: by device code (R268, R269). -/
def State.tileStore (s : State) (d i : Nat) (hi : Bool) (v : Nat) (dev : Bool) : State :=
  if hi then
    (s.modTile d i fun t => t.store1 v s.fab.rank s.fab.podsize s.fab.lostmap.toNat).armArrival d i v (s.tile d i)
  else s.modTile d i fun t => if t.idle then t.setWord0 v dev else t

/-- A die's tile table has this entry (R268). -/
def tileStep (d i : Nat) (f : State → State) (s : State) : Out := if d < 8 ∧ i < 4096 then .next (f s) else s.noEvent

/-- TILE_ARM: a store of STATE 1. -/
def execTileArm (d i : Nat) (v : W64) (s : State) : Out :=
  tileStep d i (fun s =>
    (s.modTile d i fun t => t.arm v.toNat s.fab.rank s.fab.podsize s.fab.lostmap.toNat).armArrival d i (2^61) (s.tile d i)) s

/-- TILE_DISARM: a store of STATE 0. -/
def execTileDisarm (d i : Nat) (v : W64) (s : State) : Out := tileStep d i (fun s => s.modTile d i fun t => t.disarm v.toNat) s

/-- TILE_ENTRY_WRITE: another store. -/
def execTileEntryWrite (d i : Nat) (hi : Bool) (v : W64) (s : State) : Out := tileStep d i (fun s => s.tileStore d i hi v.toNat false) s

/-! ### Reads and writes by engines -/

/-- The pages of a range as an engine finds them: each leaf's first byte of the range, in the front or the shadow. -/
def State.spots (s : State) (cx va n : Nat) (shadow : Bool) : List (Nat × Bool) :=
  (s.rangeLeaves cx va n).filterMap fun (a, r) => match r with
    | .ok l => some (s.physBy cx a l.pte l.psize shadow, s.pageState cx a l == 5)
    | .error _ => none

/-- An engine may read or write a range now: its segments are Active (R241), no page of it is moving (R231), no directory of its lines is being
rebuilt (R266), and for a read no update of a Replicated page is pending on it (R216). -/
def State.rangeReady (s : State) (cx va n : Nat) (shadow : Bool) : Bool :=
  !s.walkHeld cx va && (s.spots cx va n shadow).all fun p =>
    s.segReady p.1 && !p.2 && !s.rebuilding p.1 && (shadow || (s.repsOn (lineOf p.1) (n + 64)).isEmpty)

/-- The segments of a range that are not Active start to wake, and count for the context (R241). -/
def State.rangeWake (s : State) (cx va n : Nat) (shadow : Bool) : State :=
  (s.spots cx va n shadow).foldl (fun s p => s.wakeFor cx p.1) s

/-- The program time of the device's own accesses: at or after every event so far (DESIGN CHOICE, log entry 114). -/
def State.devTick (s : State) : State := s.raisePts devUnit s.devNow

/-- A line, or a part of one, read by an engine at the front through the TLBs `us` (R200, R204, R224): PERMISSION without RD, INTEGRITY on
a line that fails its check. It is one load in the single order, by another filler than any core (R192). -/
def State.engineRead (s : State) (us : List Nat) (cx va n : Nat) : Except Cause (List Byte) × State :=
  match s.translate us devUnit cx va with
  | (.error _, s) => (.error .permission, s)
  | (.ok l, s) =>
    if !pteRd l.pte then (.error .permission, s)
    else
      let a := s.physBy cx va l.pte l.psize false
      if !s.bytesGood cx a n then (.error .integrity, s)
      else
        let s := s.devTick
        (.ok (memRead s.mem a n), (s.readTime s devUnit a (s.page cx (l.page va)).shared).touch a)

/-- Bytes read by an engine line by line. -/
def State.engineReads (s : State) (us : List Nat) (cx va n : Nat) : Nat → Except Cause (List Byte) × State
  | 0 => (.ok [], s)
  | f + 1 =>
    if n = 0 then (.ok [], s)
    else
      let k := min n (64 - va % 64)
      match s.engineRead us cx va k with
      | (.error c, s) => (.error c, s)
      | (.ok a, s) => match s.engineReads us cx (va + k) (n - k) f with
        | (.error c, s) => (.error c, s)
        | (.ok b, s) => (.ok (a ++ b), s)

/-- Bytes of one line written by an engine into a buffer's shadow (R200): the page must carry WR and DUAL, and a part of a line
is merged after the check of the stored line (R248). They fire no monitor (R421). `l2`: the line is allocated in the L2, as by every
engine but a tier move (R243), which leaves nothing of it there for a `lastuse` to drop (R244). -/
def State.shadowWrite (s : State) (us : List Nat) (l2 : Bool) (cx va : Nat) (bs : List Byte) : Option Cause × State :=
  match s.translate us devUnit cx va with
  | (.error _, s) => (some .permission, s)
  | (.ok l, s) =>
    let a := s.physBy cx va l.pte l.psize true
    if !(pteWr l.pte && pteDual l.pte) then (some .permission, s)
    else if decide (bs.length < 64) && !s.bytesGood cx a bs.length then (some .integrity, s)
    else
      let s := if l2 then s.markDirty a else { s with dirty := s.dirty.filter fun d => d.line != lineOf a }
      (none, ((s.setMem a bs).setKeys cx a bs.length).touch a)

/-- Bytes written into a shadow line by line: the first cause met, while the other lines are written (R203, R248). -/
def State.shadowWrites (s : State) (us : List Nat) (l2 : Bool) (cx va : Nat) (bs : List Byte) : Nat → Option Cause × State
  | 0 => (none, s)
  | f + 1 =>
    if bs.isEmpty then (none, s)
    else
      let k := 64 - va % 64
      let (c, s) := s.shadowWrite us l2 cx va (bs.take k)
      let (c', s) := s.shadowWrites us l2 cx (va + k) (bs.drop k) f
      (c <|> c', s)

/-- The address of node offset `o` of the own rank (R26). -/
def State.ownVa (s : State) (o : Nat) : Nat := 2^63 + s.fab.rank * 2^48 + o

/-! ### Combining (R272) -/

/-- The floating-point format of FMT; INT32 has none. -/
def tileFmt (f : Nat) : Option Fmt :=
  match f with
  | 0 => some .f32
  | 1 => some .bf16
  | 2 => some .f16
  | _ => none

/-- Bytes of an element of a tile. -/
def tileElem (f : Nat) : Nat := if f = 1 ∨ f = 2 then 2 else 4

/-- Elements as the bytes of a tile, row-major. -/
def tileBytes (f : Nat) (xs : List W32) : List Byte := xs.flatMap fun x => leBytes (tileElem f) x.toNat

/-- The elements of a tile's bytes. -/
def tileWords (f : Nat) (bs : List Byte) : List W32 :=
  (List.range 1024).map fun k => BitVec.ofNat 32 (leNat ((bs.drop (tileElem f * k)).take (tileElem f)))

/-- An element converted exactly to FP32 (R272); INT32 stays. -/
def tileWiden (f : Nat) (x : W32) : W32 :=
  match tileFmt f with
  | some fm => BitVec.ofNat 32 (Fmt.f32.convert .rn 0 false (fm.unpack x.toNat))
  | none => x

/-- An FP32 code is an infinity. -/
def isInf32 (x : Nat) : Bool := bits x 30 23 == 255 && x % 2^23 == 0

/-- An FP32 sum with its INV and OVF (R272, R277). -/
def combineSum (a b : W32) : W32 × Bool × Bool :=
  let r := addRn a.toNat b.toNat
  (BitVec.ofNat 32 r, Fmt.f32.isNan r, isInf32 r && bits a.toNat 30 23 != 255 && bits b.toNat 30 23 != 255)

/-- op of R272 on two elements of format FMT. -/
def combine (f op : Nat) (a b : W32) : W32 × Bool × Bool :=
  if f = 3 then
    (if op = 0 then a + b else if op = 1 then (if a.toInt < b.toInt then b else a) else (if b.toInt < a.toInt then b else a), false, false)
  else if op = 0 then combineSum a b
  else
    let r := Fmt.f32.extreme (op == 1) a.toNat b.toNat
    (BitVec.ofNat 32 r, Fmt.f32.isNan r, false)

/-- Two lists of elements combined, with the flags of every element. -/
def combineAll (op : W32 → W32 → W32 × Bool × Bool) (xs ys : List W32) : List W32 × Bool × Bool :=
  let rs := (xs.zip ys).map fun p => op p.1 p.2
  (rs.map (·.1), rs.any (·.2.1), rs.any (·.2.2))

/-- A partial result and its flags (R272). -/
abbrev Partial := List W32 × Bool × Bool

/-- v(j) of R272 from the own elements and the partial results of the children. -/
def joinPartials (op : W32 → W32 → W32 × Bool × Bool) (x : List W32) (cs : List Partial) : Partial :=
  cs.foldl (fun a c =>
    let r := combineAll op a.1 c.1
    (r.1, a.2.1 || c.2.1 || r.2.1, a.2.2 || c.2.2 || r.2.2)) (x, false, false)

/-- The heap tree over positions (R272, R277): v(j), for j below n; `f` bounds the depth. -/
def heapValue (op : W32 → W32 → W32 × Bool × Bool) (x : Nat → List W32) (n : Nat) : Nat → Nat → Partial
  | 0, j => (x j, false, false)
  | f + 1, j => joinPartials op (x j) (([2 * j + 1, 2 * j + 2].filter (· < n)).map (heapValue op x n f))

/-- The final result of position 0 in FMT (R272). -/
def tileFinal (f : Nat) (p : Partial) : Partial :=
  match tileFmt f with
  | some .f32 => p
  | some fm =>
    let rs := p.1.map fun x => fm.convert .rn 0 false (Fmt.f32.unpack x.toNat)
    let big := (p.1.zip rs).any fun q => bits q.1.toNat 30 23 != 255 && (match fm.unpack q.2 with | .inf _ => true | _ => false)
    (rs.map (BitVec.ofNat 32), p.2.1, p.2.2 || big)
  | none => p

/-! ### The life of an entry (R270 to R275) -/

/-- The children of position j that exist (R272). -/
def TileEntry.children (t : TileEntry) (j : Nat) : List Nat := [2 * j + 1, 2 * j + 2].filter (· < t.rcnt)

/-- What has been received from a position. -/
def TileEntry.from (t : TileEntry) (p : Nat) : Option Contribution := t.got.find? fun c => c.pos == p

/-- A contribution agrees with the entry (R270). -/
def TileEntry.agrees (t : TileEntry) (c : Contribution) : Bool := c.op == t.op && c.fmt == t.fmt && c.rcnt == t.rcnt

/-- The entry's own partial result, once the children's have come (R272). -/
def TileEntry.partial? (t : TileEntry) (j : Nat) : Option Partial :=
  let cs := (t.children j).filterMap t.from
  if cs.length = (t.children j).length then
    some (joinPartials (combine t.fmt t.op) (t.own.map (tileWiden t.fmt)) (cs.map fun c => (c.data, c.inv, c.ovf)))
  else none

/-- A contribution of the entry's own. -/
def TileEntry.asContribution (t : TileEntry) (j : Nat) (p : Partial) : Contribution := ⟨t.cx, j, t.op, t.fmt, t.rcnt, p.1, p.2.1, p.2.2⟩

/-- The result of a Fired entry, once it is here (R272, R273): computed at position 0, received at the others; of a gather, all
sources. -/
def TileEntry.settle (t : TileEntry) (j : Nat) : TileEntry :=
  if t.result.isSome then t
  else if t.op ≤ 2 then
    if j = 0 then { t with result := (t.partial? 0).map fun p => t.asContribution 0 (tileFinal t.fmt p) } else t
  else if t.op = 3 then
    if j = 0 then { t with result := some (t.asContribution 0 (t.own, false, false)) } else t
  else if (List.range t.rcnt).all fun p => p == j || (t.from p).isSome then
    { t with result := some (t.asContribution j (t.own, false, false)) }
  else t

/-- A contribution comes into a Fired entry: from a child, or the result from position 0; of a gather, any position's source. -/
def TileEntry.take (t : TileEntry) (j : Nat) (c : Contribution) : Option TileEntry :=
  if (t.from c.pos).isSome || c.pos == j || decide (t.rcnt ≤ c.pos) || c.data.length != 1024 then none
  else if t.op ≤ 2 then
    if (t.children j).contains c.pos then some { t with got := t.got ++ [c] }
    else if c.pos = 0 ∧ t.result.isNone then some { t with result := some c } else none
  else if t.op = 3 then
    if c.pos = 0 ∧ t.result.isNone then some { t with result := some c } else none
  else some { t with got := t.got ++ [c] }

/-- The Fail event of an Armed or Fired entry (R274, R275): ECAUSE is recorded, and the entry arrives on BAR; an Armed one has not raised
PEND. It cannot occur in another state. -/
def State.tileFail (s : State) (d i : Nat) (c : Cause) : State :=
  let t := s.tile d i
  if !(t.st == .armed || t.st == .fired) then s
  else
    let s := s.modTile d i fun t => { t with st := .error, ecause := BitVec.ofNat 8 c.code }
    if t.bv then s.postArrival (.die t.cx d t.bar) none 1 (t.st == .fired) (some c) else s

/-- Pending contributions are combined at Fire (R275). -/
def TileEntry.takeAll (t : TileEntry) (j : Nat) : List Contribution → Option TileEntry
  | [] => some t
  | c :: cs => if t.agrees c then ((t.take j c).getD t).takeAll j cs else none

/-- Fire (R271, R275) with the source elements. -/
def State.tileFire (s : State) (d i kid : Nat) (own : List W32) : State :=
  let t := s.tile d i
  let t := { t with st := .fired, own := own, firedAt := s.dtime, contextKernel := kid }
  let s := s.modTile d i fun _ => t
  let s := if t.bv then s.pendUp (.die t.cx d t.bar) else s
  match t.position s.fab.rank with
  | none => s.tileFail d i .illegalEncoding
  | some j =>
    match ({ t with waiting := [] } : TileEntry).takeAll j t.waiting with
    -- a contribution that disagrees is refused (R270)
    | none => (s.modTile d i fun t => { t with waiting := t.waiting.filter t.agrees }).tileFail d i .illegalEncoding
    | some t => s.modTile d i fun _ => t.settle j

/-- The bytes that an entry writes at its own rank, from ROFF on. -/
def TileEntry.len (t : TileEntry) : Nat := 1024 * tileElem t.fmt * (if t.op ≤ 3 then 1 else t.rcnt)

/-- The Ready event and Fire of an entry (R271): from its staging slot, or one tile of the front of buffer SRC at ROFF. -/
def State.tileReady (s : State) (d i kid : Nat) : State :=
  let t := s.tile d i
  if !t.skind then s.tileFire d i kid (tabGet s.collq [] (512 * d + t.src % 512))
  else
    let a := s.ownVa t.roff
    let n := 1024 * tileElem t.fmt
    match (s.devReadN t.cx (s.shapeAddr t.cx t.src) 16).bind bufOf with
    | none => (s.tileFire d i kid []).tileFail d i .permission
    | some b =>
      if a < b.view ∨ b.view + b.len < a + n then (s.tileFire d i kid []).tileFail d i .permission
      else match s.engineReads [] t.cx a n (n / 64 + 2) with
        | (.error c, s) => (s.tileFire d i kid []).tileFail d i c
        | (.ok bs, s) => s.tileFire d i kid (tileWords t.fmt bs)

/-- The source of an entry that reads a buffer may be read now (R231, R241); an instruction that makes it ready waits until then. -/
def State.tileSourceReady (s : State) (t : TileEntry) : Bool :=
  !t.skind || s.rangeReady t.cx (s.ownVa t.roff) (1024 * tileElem t.fmt) false

/-- An entry that would raise PEND of its barrier above 0xFFFF is not made ready yet (R158). -/
def State.tileFull (s : State) (d : Nat) (t : TileEntry) : Bool := t.bv && decide (0xFFFF ≤ (s.bar (.die t.cx d t.bar)).pend)

/-- Contributions in a die's pending store (R270). -/
def State.pendingStore (s : State) (d : Nat) : Nat :=
  s.tiles.foldl (fun n (k, t) => if k / 4096 = d then n + t.waiting.length else n) 0

/-- A contribution passes the checks of R261: its context is neither Free nor Building here, and owns the entry, once that is in use. -/
def State.contributionOk (s : State) (t : TileEntry) (c : Contribution) : Bool :=
  (s.ctx c.cx).st != .free && (s.ctx c.cx).st != .building && (t.st == .empty || c.cx == t.cx)

/-- COLLECTIVE_CONTRIBUTION (R261, R270, R275): one that is refused PERMISSION changes nothing here. -/
def execCollectiveContribution (d i : Nat) (msg : Contribution) (s : State) : Out :=
  let t := s.tile d i
  if 8 ≤ d ∨ 4096 ≤ i then s.noEvent
  else if !s.contributionOk t msg then .next s
  else match t.st with
    | .fired =>
      if !t.agrees msg then .next (s.tileFail d i .illegalEncoding)
      else match t.position s.fab.rank with
        | none => s.noEvent
        | some j => match t.take j msg with
          | none => s.noEvent
          | some t => .next (s.modTile d i fun _ => t.settle j)
    | st =>
      if st == .armed && !t.agrees msg then .next (s.tileFail d i .illegalEncoding)
      else if 64 ≤ s.pendingStore d then s.noEvent
      else .next (s.modTile d i fun t => { t with waiting := t.waiting ++ [msg] })

/-- A rank refuses what an entry has sent: the entry fails with the same cause, ILLEGAL_ENCODING (R270) or PERMISSION (R261, R274). -/
def State.refusedBy (s : State) (d i : Nat) (perm : Bool) : State :=
  if (s.tile d i).st == .fired then s.tileFail d i (if perm then .permission else .illegalEncoding) else s

/-- The places a result is written to, as offset and elements (R272, R273). -/
def TileEntry.outputs (t : TileEntry) (j : Nat) (r : Contribution) : List (Nat × List W32) :=
  if t.op ≤ 3 then [(t.roff, r.data)]
  else (List.range t.rcnt).map fun p =>
    (t.roff + 1024 * tileElem t.fmt * p, if p = j then t.own else ((t.from p).map fun c => c.data).getD [])

/-- COLLECTIVE_RESULT (R272 to R275): the result is written into the own shadow, and the entry is Complete; a page that does not
admit it is a failure (R261). It waits for its segments and for a page that is moving (R231, R241). -/
def execCollectiveResult (d i : Nat) (s : State) : Out :=
  let t := s.tile d i
  match t.st, t.result, t.position s.fab.rank with
  | .fired, some r, some j =>
    let alive := (s.ctx t.cx).st != .free && (s.ctx t.cx).st != .building
    if !s.rangeReady t.cx (s.ownVa t.roff) t.len true then .next (s.rangeWake t.cx (s.ownVa t.roff) t.len true)
    else
    let out := (t.outputs j r).foldl (fun (x : Option Cause × State) o =>
      let bs := tileBytes t.fmt o.2
      let y := x.2.shadowWrites [] true t.cx (s.ownVa o.1) bs (bs.length / 64 + 2)
      (x.1 <|> y.1, y.2)) (none, s.served (2048 + d) (t.firedAt + (s.dueIn 1 - s.dtime)))
    match if alive then out else (some .permission, s) with
    | (some c, s) => .next (s.tileFail d i c)
    | (none, s) =>
      let s := s.modTile d i fun t =>
        { t with st := .complete, inv := decide (t.op ≤ 2) && r.inv, ovf := decide (t.op ≤ 2) && r.ovf, got := [], result := none, own := [] }
      .next (if t.bv then s.postArrival (.die t.cx d t.bar) none 1 true none else s)
  | _, _, _ => s.noEvent

/-- CTO ticks have passed since Fire, and the result has not come (R274). -/
def State.tileDue (s : State) (t : TileEntry) : Bool :=
  t.st == .fired && t.result.isNone && s.fab.collto != 0 && decide (t.firedAt.toNat + s.fab.collto.toNat ≤ s.dtime.toNat)

/-- COLLECTIVE_TIMEOUT (R274): CTO ticks after Fire the result has not come. -/
def execCollectiveTimeout (d i : Nat) (s : State) : Out :=
  if s.tileDue (s.tile d i) then .next (s.tileFail d i .reduceTimeout)
  else s.noEvent

/-! ### Router sums (R276 to R278, R453) -/

/-- What the routers read of a reduction descriptor (R276): TIMEOUT, BAR, N, RSTATE, MEMBER. -/
structure RDesc where
  timeout : Nat
  bar : Nat
  n : Nat
  rstate : Nat
  member : List Nat

/-- A reduction descriptor in memory. -/
def State.rdesc (s : State) (cx r : Nat) : Option RDesc :=
  (s.devReadN cx r 16).map fun bs =>
    let w := wordAt bs 0
    { timeout := w / 2^32, bar := bits w 13 8, n := bits w 6 0, rstate := bits (wordAt bs 2) 31 24
      member := ((bs.drop 0x40).take (bits w 6 0)).map fun b => b.toNat }

/-- The open round of a descriptor on a die. -/
def State.round? (s : State) (d cx r : Nat) : Option Round := s.rounds.find? fun x => x.die == d && x.cx == cx && x.desc == r

/-- The packet of a group (R453): element j comes from lane j mod W1, −0.0 where that lane was not active. -/
def rcombPacket (g : Group) (gw : GroupWide) (a : Nat) : List W32 × List Bool :=
  let w1 := min g.width 32
  let act := fun l => gw.arrived.any fun x => x.1 == l / 8 && inMask x.2 (l % 8)
  ((List.range 32).map fun j =>
    if act (j % w1) then tabGet g.win 0 ((a + j / w1) * g.width + j % w1) else 0x80000000, (List.range w1).map act)

/-- `rcomb` at its completion (R453). It stays pending while the member's earlier packet is in an open round, 64 rounds are
open, its range cannot be recorded (R206, R276), a source register lies in a recorded range (R207), or the descriptor's directory is being
rebuilt (R266). A bit of r[61:48] that must be zero counts as another tag (R29). -/
def State.rcombApply (s : State) (gid d a : Nat) (vals : List W64) : State :=
  match s.group? gid, s.kernelOf gid with
  | some g, some k =>
    match g.gw with
    | none => s
    | some gw =>
      let r := (nth vals 0 0).toNat
      let m := 32 / min g.width 32
      let die := g.core / 256
      if g.regs < a + m ∨ g.regs < d + m then s.activeTrap gid .illegalEncoding
      else if r % 64 ≠ 0 then s.activeTrap gid .align (BitVec.ofNat 64 r)
      else if 2^48 ≤ r then s.activeTrap gid .addrTag (BitVec.ofNat 64 r)
      else if !k.leases false r 128 then s.activeTrap gid .lease (BitVec.ofNat 64 r)
      else if s.devHeld k.cx r || s.devHeld k.cx (r + 64) then s
      else match s.rdesc k.cx r with
        | none => s.activeTrap gid .permission (BitVec.ofNat 64 r)
        | some x =>
          let open_ := s.round? die k.cx r
          let member := match open_ with | some o => o.member | none => x.member
          match findIdxFrom (fun c => c == g.core % 256) member 0 with
          | none => s.activeTrap gid .permission (BitVec.ofNat 64 r)
          | some (p, _) =>
            if (open_.isNone && (decide (x.n < 2) || decide (64 < x.n))) || x.rstate == 3 then
              s.activeTrap gid .permission (BitVec.ofNat 64 r)
            else
              let held := s.rangeHit g.core (g.base + 4 * a * g.width) (g.base + 4 * (a + m) * g.width) || s.pend.any fun p =>
                sameGroup p.ag (.strand gid 0) && p.writes.any fun w => match w with
                  | .vreg n _ _ => decide (a ≤ n) && decide (n < a + m)
                  | _ => false
              let lo := g.base + 4 * d * g.width
              let hi := g.base + 4 * (d + m) * g.width
              let busy := match open_ with
                | some o => o.packets.any fun q => q.pos == p
                | none => decide (64 ≤ (s.rounds.filter fun o => o.die == die).length)
              let full := decide (0xFFFF ≤ (s.bar (.die k.cx die (match open_ with | some o => o.bar | none => x.bar))).pend)
              if busy || full || held || s.rangeHit g.core lo hi || s.rangesFull g.core then s
              else
                let (vals, act) := rcombPacket g gw a
                let id := s.nextId
                let q : Packet := ⟨p, .strand gid 0, gid, d, vals, act, id⟩
                let o : Round := match open_ with
                  | some o => { o with packets := o.packets ++ [q] }
                  | none => ⟨die, r, k.cx, x.n, x.bar, x.timeout, 0, x.member, [q]⟩
                let entry : RangeEntry := ⟨id, g.core, lo, hi, id, false, false⟩
                let rest := s.rounds.filter fun (x : Round) => !(x.die == die && x.cx == k.cx && x.desc == r)
                let s := { s with nextId := id + 1, ranges := s.ranges ++ [entry], rounds := rest ++ [o] }
                ((s.pendUp (.die k.cx die o.bar)).requestAt (2060 + die) 0 k.cx r).wideDone gid none
  | _, _ => s

/-- The descriptor fields of a round's end are stored (R276): ARRIVED, FIRSTMISS at a timeout, RSTATE, ROUNDS. -/
def State.roundStores (s : State) (o : Round) (rstate : Nat) (miss : Option Nat) : State :=
  let arrived := o.packets.foldl (fun n q => n + 2^q.pos) 0
  let s := s.devPut o.cx (o.desc + 8) (leBytes 8 arrived)
  let s := match miss with | some m => s.devPut o.cx (o.desc + 0x11) (leBytes 1 m) | none => s
  let s := s.devPut o.cx (o.desc + 0x13) (leBytes 1 rstate)
  let old := ((s.devRead o.cx (o.desc + 0x10) 1).map leNat).getD 0
  (s.devPut o.cx (o.desc + 0x10) (leBytes 1 (old + 1))).requestAt (2060 + o.die) 0 o.cx o.desc

/-- A member's result is written where its lanes supplied elements (R453), and its range retires (R277). -/
def State.packetResult (s : State) (q : Packet) (res : Option (List W32)) : State :=
  let s := match res with
    | none => s
    | some vs =>
      let g := (s.group? q.grp).getD Group.init
      let n := ((List.range 32).filter fun j => nth q.act (j % min g.width 32) false).length
      let s := if g.st == GState.ended then s else s.count (s.cxOfWg g.wg) g.core 6 (4 * n)
      s.modGroup q.grp fun (g : Group) =>
      if g.st == GState.ended then g
      else
        let w1 := min g.width 32
        { g with win := (List.range 32).foldl (fun w j =>
            if nth q.act (j % w1) false then tabSet w ((q.d + j / w1) * g.width + j % w1) (nth vs j 0) else w) g.win }
  { s with ranges := s.ranges.filter fun e => e.id != q.range }

/-- A round ends: `res` is its result, none at a timeout (R277, R278). -/
def State.endRound (s : State) (o : Round) (res : Option (List W32)) (miss : Option Nat) : State :=
  let s := { s with rounds := s.rounds.filter fun x => !(x.die == o.die && x.cx == o.cx && x.desc == o.desc) }
  let s := s.roundStores o (if res.isSome then 2 else 3) miss
  let s := o.packets.foldl (fun s q => s.packetResult q res) s
  (List.range o.n).foldl (fun s p =>
    s.postArrival (.die o.cx o.die o.bar) none 1 (o.packets.any fun q => q.pos == p) (if res.isSome then none else some .reduceTimeout)) s

/-- RCOMB_ROUND_END (R277): every member has contributed. -/
def execRcombRoundEnd (die desc : Nat) (s : State) : Out :=
  match s.rounds.find? fun o => o.die == die && o.desc == desc && (List.range o.n).all fun p => o.packets.any fun q => q.pos == p with
  | none => s.noEvent
  | some o =>
    let x := fun p => ((o.packets.find? fun q => q.pos == p).map fun q => q.vals).getD []
    .next (s.endRound o (some (heapValue combineSum x o.n 7 0).1) none)

/-- The lowest position that has not contributed to a round. -/
def Round.missing (o : Round) : Option Nat := (List.range o.n).find? fun p => !(o.packets.any fun q => q.pos == p)

/-- The round's TIMEOUT has expired with a position missing (R278). -/
def Round.expired (o : Round) : Bool := o.timeout != 0 && decide (o.timeout ≤ o.elapsed) && o.missing.isSome

/-- RCOMB_TIMEOUT (R278): TIMEOUT ticks of Active time have passed with a position missing. -/
def execRcombTimeout (die desc : Nat) (s : State) : Out :=
  match s.rounds.find? fun o => o.die == die && o.desc == desc && o.expired && (s.ctx o.cx).st == .active with
  | none => s.noEvent
  | some o => .next (s.endRound o none o.missing)

end Sys2Proof.Machine
end

