-- ==== Sys2Proof/Machine/Context.lean ====
section
/-!
DEFINITION. Contexts (R33 to R44, R82, R85): the registers of a context block, the commands of CTXCMD, the budget, and the grant
of active slots. Pre-emption and the save image are in Save.lean.
-/
namespace Sys2Proof.Machine

/-! ### Registers -/

/-- Codes of context states (R36). -/
def CState.code : CState → Nat
  | .free => 0
  | .building => 1
  | .ready => 2
  | .active => 3
  | .preempting => 4
  | .saved => 5
  | .faulted => 6
  | .draining => 7

/-- CTXSTAT (R36). -/
def Context.stat (c : Context) : Nat :=
  c.saveseq.toNat * 2^32 + c.fcause.toNat * 2^24 + flag c.rej * 2^16 + c.lastcmd.toNat * 2^8 + c.st.code

/-- BUDGET (R38). -/
def Context.budget (c : Context) : Nat := c.floor.toNat * 2^32 + c.ceil.toNat * 2^16 + c.cur.toNat

/-- LEASES (R38). -/
def Context.leases (c : Context) : Nat := c.rlease.toNat * 2^32 + c.tlease.toNat

/-- CTXMODE (R38). -/
def Context.mode (c : Context) : Nat := flag c.res * 2^8 + c.keyslot.toNat

/-- Two saturation thresholds as one double word (R34, R40). -/
def Context.sats (c : Context) (j : Nat) : Nat := (nth c.satthr (2 * j + 1) 0).toNat * 2^32 + (nth c.satthr (2 * j) 0).toNat

/-- CKPTSTAT (R42): PEND counts the buffers whose copy is outstanding. -/
def State.ckptstat (s : State) (cx : Nat) : Nat :=
  let c := s.ctx cx
  c.epoch.toNat * 2^32 + flag c.cerr * 2^16 + (s.ckpts.filter fun x => x.cx == cx).length % 2^16

/-- A register of a context block (R34); a write-only or reserved one reads zero. -/
def State.ctxRead (s : State) (cx off : Nat) : Nat :=
  let c := s.ctx cx
  match off with
  | 0x08 => c.stat
  | 0x10 => c.trapbase.toNat
  | 0x18 => c.savebase.toNat
  | 0x20 => c.shapebase.toNat
  | 0x28 => c.sgbase.toNat
  | 0x30 => c.budget
  | 0x38 => c.phase.toNat
  | 0x40 => c.leases
  | 0x48 => c.mode
  | 0x50 => c.ckptdest.toNat
  | 0x58 => s.ckptstat cx
  | 0x60 => c.wakestall.toNat
  | 0x68 => c.energy.toNat
  | 0x70 => c.savelen.toNat
  | _ => if 0x80 ≤ off ∧ off < 0xC0 then c.sats ((off - 0x80) / 8) else 0

/-- A rejected command or write. -/
def Context.reject (c : Context) : Context := { c with rej := true }

/-- The budget follows CEIL and FLOOR (R39): CUR is CEIL, or, while budgets are lowered, stays at or below CEIL and at or above
FLOOR; a FLOOR above CEIL acts as CEIL. -/
def Context.follow (c : Context) (lowered : Bool) : Context :=
  let lo := min c.floor.toNat c.ceil.toNat
  { c with cur := if lowered then BitVec.ofNat 16 (max lo (min c.cur.toNat c.ceil.toNat)) else c.ceil }

/-- Budgets are lowered (R30, R31). -/
def State.lowered (s : State) : Bool := s.mgmt.coolOut || s.mgmt.hot

/-- A write of BUDGET (R38, R39). -/
def State.setBudget (s : State) (cx v : Nat) : State :=
  s.modCtx cx fun c => ({ c with floor := BitVec.ofNat 16 (v / 2^32), ceil := BitVec.ofNat 16 (v / 2^16) } : Context).follow s.lowered

/-- Registers that are writable in Building alone (R34). -/
def Context.build? (c : Context) (off : Nat) (v : W64) : Option Context :=
  match off with
  | 0x18 => some { c with savebase := v }
  | 0x20 => some { c with shapebase := v }
  | 0x28 => some { c with sgbase := v }
  | 0x48 => some { c with res := bitAt v.toNat 8, keyslot := BitVec.ofNat 8 v.toNat }
  | 0x70 => some { c with savelen := v &&& 0xFFFFFFFFF000 }
  | _ => none

/-- Registers that are writable in Building, Ready and Saved (R34). -/
def Context.set? (c : Context) (off : Nat) (v : W64) : Option Context :=
  match off with
  | 0x10 => some { c with trapbase := v }
  | 0x40 => some { c with rlease := hi32 v, tlease := lo32 v }
  | 0x50 => some { c with ckptdest := v }
  | _ =>
    if 0x80 ≤ off ∧ off < 0xC0 then
      let k := (off - 0x80) / 4
      some { c with satthr := modAt (modAt c.satthr k fun _ => lo32 v) (k + 1) fun _ => hi32 v }
    else none

/-- A write of a register other than CTXCMD in the states R34 lists; elsewhere it is ignored and sets REJ. -/
def Context.write (c : Context) (off : Nat) (v : W64) : Context :=
  match c.build? off v, c.set? off v with
  | some d, _ => if c.st == .building then d else c.reject
  | _, some d => if c.settable then d else c.reject
  | _, _ => c.reject

/-! ### Commands (R35, R44) -/

/-- The kernels of a context in the states of `p`. -/
def State.kernelsOf (s : State) (cx : Nat) (p : KState → Bool) : List Nat :=
  (s.kernels.filter fun (_, k) => k.cx == cx && p k.st).map Prod.fst

/-- Every kernel of a list ends with a cause, TPC and TADDR zero (R104, R106). -/
def State.endKernels (s : State) (ks : List Nat) (c : Byte) : State := ks.foldl (fun s k => s.abortKernel k ⟨c, 0, 0⟩) s

/-- BUILD (R41, R44): the counters are cleared and the block has its reset values; the translation block is kept. -/
def Context.built (c : Context) : Context :=
  { Context.init with
    st := .building, lastcmd := 1, xrootc := c.xrootc, xroott := c.xroott, xfring := c.xfring, xfcfg := c.xfcfg, xfseq := c.xfseq
    xfhead := c.xfhead, xres := c.xres, xcmd := c.xcmd, faults := c.faults }

/-- The checks of COMMIT (R37, R229). -/
def Context.commitOk (c : Context) (rank : Nat) : Bool :=
  let n := c.savebase.toNat
  let f := c.xfring.toNat
  n % 4096 == 0 && n / 2^62 == 2 && bits n 61 48 == rank && c.shapebase.toNat % 2^16 == 0 && c.sgbase.toNat % 2^16 == 0
    && (f == 0 || (decide (f < 2^48) && f % 64 == 0 && decide (3 ≤ c.xfcfg.toNat % 16) && decide (c.xfcfg.toNat % 16 ≤ 10)))

/-- COMMIT. -/
def State.commit (s : State) (cx : Nat) : State :=
  s.modCtx cx fun c =>
    if c.st == .building && c.commitOk s.fab.rank then { c with st := .ready, lastcmd := 2 } else c.reject

/-- BUILD. -/
def State.build (s : State) (cx : Nat) : State := s.modCtx cx fun c => if c.st == .free then c.built else c.reject

/-- The queues of a context that are not Disabled drain (R85). -/
def State.drainQueues (s : State) (cx : Nat) : State :=
  ((s.queues.filter fun (_, q) => q.cx == cx && q.st != .disabled && q.st != .draining).map Prod.fst).foldl State.drainQueue s

/-- The context drains: dispatch stops and the kernels of a list end with PRIV. -/
def State.drainCtx (s : State) (cx : Nat) (ks : List Nat) : State :=
  let s := s.modCtx cx fun c => { c with st := .draining, lastcmd := 4, restoring := false }
  (s.drainQueues cx).endKernels ks (BitVec.ofNat 8 (Cause.code .priv))

/-- DESTROY (R44). -/
def State.destroy (s : State) (cx : Nat) : State :=
  match (s.ctx cx).st with
  | .building => s.modCtx cx fun c => { c with st := .free, lastcmd := 4 }
  | .ready => s.drainCtx cx (s.kernelsOf cx KState.busy)
  | .active => s.drainCtx cx (s.kernelsOf cx KState.busy)
  | .saved => s.drainCtx cx (s.kernelsOf cx KState.busy)
  | .faulted => s.drainCtx cx (s.kernelsOf cx fun k => k == .queued)
  | _ => s.modCtx cx Context.reject

/-- CLEAR (R44, R85): the queued kernels are discarded as Aborted with FCAUSE. -/
def State.clear (s : State) (cx : Nat) : State :=
  if (s.ctx cx).st == .faulted then
    let s := s.endKernels (s.kernelsOf cx fun k => k == .queued) (s.ctx cx).fcause
    s.modCtx cx fun c => { c with st := .ready, lastcmd := 5 }
  else s.modCtx cx Context.reject

/-- A context command as a step: refused before Ready (R508). There are 256 contexts (R33). -/
def ctxCommand (cx : Nat) (f : State → State) (s : State) : Out :=
  if cx < 256 then .next (if s.isReady then f s else s.modCtx cx Context.reject) else s.noEvent

/-- BUILD. -/
def execBuild (cx : Nat) (s : State) : Out := ctxCommand cx (fun s => s.build cx) s
/-- COMMIT. -/
def execCommit (cx : Nat) (s : State) : Out := ctxCommand cx (fun s => s.commit cx) s
/-- DESTROY. -/
def execDestroy (cx : Nat) (s : State) : Out := ctxCommand cx (fun s => s.destroy cx) s
/-- CLEAR. -/
def execClear (cx : Nat) (s : State) : Out := ctxCommand cx (fun s => s.clear cx) s

/-! ### Writes of single registers -/

/-- A write by software to a register that every context has. -/
def ctxStep (cx : Nat) (f : State → State) (s : State) : Out := if cx < 256 then .next (f s) else s.noEvent

/-- PHASE_WRITE (R38, R240). -/
def execPhaseWrite (cx : Nat) (v : W64) (s : State) : Out := ctxStep cx (fun s => s.setPhase cx v.toNat) s

/-- BUDGET_WRITE (R39). -/
def execBudgetWrite (cx : Nat) (v : W64) (s : State) : Out := ctxStep cx (fun s => s.setBudget cx v.toNat) s

/-- A write of CTXSTAT (R36): REJ is cleared by a one. -/
def Context.clearRej (c : Context) (v : Nat) : Context := { c with rej := c.rej && !bitAt v 16 }

/-- CTXSTAT_WRITE. -/
def execCtxstatWrite (cx : Nat) (v : W64) (s : State) : Out := ctxStep cx (fun s => s.modCtx cx fun c => c.clearRej v.toNat) s

/-- A write of CKPTSTAT (R42): CERR is cleared by a one. -/
def Context.clearCerr (c : Context) (v : Nat) : Context := { c with cerr := c.cerr && !bitAt v 16 }

/-- CKPTSTAT_WRITE. -/
def execCkptstatWrite (cx : Nat) (v : W64) (s : State) : Out := ctxStep cx (fun s => s.modCtx cx fun c => c.clearCerr v.toNat) s

/-- BUDGET_CUR_CHANGE (R30, R39): the management core lowers CUR, towards FLOOR and never below it, while budgets are lowered. -/
def execBudgetCurChange (cx : Nat) (v : W16) (s : State) : Out :=
  let c := s.ctx cx
  if cx < 256 && s.lowered && decide (min c.floor.toNat c.ceil.toNat ≤ v.toNat) && decide (v.toNat < c.cur.toNat) then
    .next (s.modCtx cx fun c => { c with cur := v })
  else s.noEvent

/-! ### Draining ends -/

/-- Engine work of a context is in flight (R44): copies, remote atomics, collectives, checkpoints, tier moves. -/
def State.engineBusy (s : State) (cx : Nat) : Bool :=
  let mine := fun k => ((s.kernel? k).map fun x => x.cx) == some cx
  s.copies.any (fun c => mine c.kernel) || s.ratoms.any (fun r => mine r.kernel)
    || s.tiles.any (fun (_, t) => t.st == .fired && t.cx == cx) || s.rounds.any (fun r => r.cx == cx)
    || s.tiers.any (fun t => mine t.kernel) || s.ckpts.any (fun c => c.cx == cx)

/-- CONTEXT_DRAIN_DONE (R44): nothing of the context is in flight and its kernels have ended; its caches are scrubbed. -/
def execContextDrainDone (cx : Nat) (s : State) : Out :=
  if (s.ctx cx).st == .draining && !s.engineBusy cx && (s.kernelsOf cx KState.busy).isEmpty then
    .next (({ s with sgs := s.sgs.filter fun e => e.1 / 4096 != cx, gens := s.gens.filter fun e => e.1 / 4096 != cx }).modCtx cx fun c => { c with st := .free })
  else s.noEvent

/-! ### Active slots (R82) -/

/-- Contexts that hold an active slot. -/
def State.slotHolders (s : State) : List Nat :=
  (s.ctxs.filter fun (_, c) => c.st == .active || c.st == .preempting).map Prod.fst

/-- The highest PRIO among the queues of a context that hold a kernel in a state of `p`. -/
def State.prioOf (s : State) (cx : Nat) (p : KState → Bool) : Option Nat :=
  match (tabVals s.kernels).filter fun k => k.cx == cx && p k.st with
  | [] => none
  | ks => some (maxOf (ks.map fun k => (s.queue k.queue).prio))

/-- The rank of a waiting context (R82): over kernels in Ready or Saved. -/
def State.rankOf (s : State) (cx : Nat) : Nat := (s.prioOf cx fun k => k == .ready || k == .saved).getD 0

/-- A waiting context comes before another (R82). -/
def State.slotBefore (s : State) (a b : Nat) : Bool :=
  let ta := ((s.ctx a).waitSince.getD 0).toNat
  let tb := ((s.ctx b).waitSince.getD 0).toNat
  decide (s.rankOf b < s.rankOf a) || (s.rankOf a == s.rankOf b && (decide (ta < tb) || (ta == tb && decide (a ≤ b))))

/-- The waiting context of highest rank. -/
def State.firstWaiting (s : State) : Option Nat :=
  let ws := (s.ctxs.filter fun (_, c) => c.waitSince.isSome).map Prod.fst
  ws.find? fun a => ws.all fun b => s.slotBefore a b

end Sys2Proof.Machine
end

