-- ==== Sys2Proof/Machine/Convert.lean ====
section
/-!
DEFINITION. Conversions, opcodes 0x4F to 0x58 (R355 to R359), with counting (R290 to R293) and stochastic rounding (R297).
-/
namespace Sys2Proof.Machine

/-- A target of conversion: from the value and the rs value of the element, the code and whether the element counts (R290). -/
abbrev Target := Fp → Nat → Nat × Bool

/-- A floating-point target (R287, R290). -/
def toFmt (f : Fmt) (rm : Rm) (sat : Bool) : Target := fun x v => (f.convert rm v sat x, f.exceeds x)

/-- A floating-point target that the source cannot exceed (R356: never counts). -/
def toFmtExact (f : Fmt) (rm : Rm) (sat : Bool) : Target := fun x v => (f.convert rm v sat x, false)

/-- An integer target of `n` bits (R288). -/
def toInteger (n : Nat) (signed : Bool) (rm : Rm) : Target := fun x v =>
  let (lo, hi) : Int × Int := if signed then (-(2^(n-1)), 2^(n-1) - 1) else (0, 2^n - 1)
  let (y, c) := toInt rm v lo hi x
  (wrap n y, c)

/-- The elements of a lane in order (R356): codes, the count, and the generator afterwards. -/
def convertAll (rm : Rm) (t : Target) : W32 → List Fp → List Nat × Nat × W32
  | g, [] => ([], 0, g)
  | g, x :: xs =>
    let g' := if rm = .rs then rndStep g else g
    let (y, c) := t x g'.toNat
    let (ys, n, g'') := convertAll rm t g' xs
    (y :: ys, n + flag c, g'')

/-- A lane of a conversion with one register result placed by `place`, and the count of its elements. -/
def convLane (rm : Rm) (t : Target) (d : Dst) (ty : Ty) (place : List Nat → Nat) (e : Env) (l : Nat) (xs : List Fp) : LaneOut × Nat :=
  let (ys, n, g) := convertAll rm t (e.u.lane l).gen xs
  ({ LaneOut.reg l d ty (BitVec.ofNat 64 (place ys)) with gen := some g }, n)

/-- A converting word (R356): after every lane has written, the counter moves by the counted elements of every active lane, and a crossing of
its threshold raises SATURATION at the lowest counted lane, unless that lane has a cause already (R46, R291, R292). -/
def State.convert (s : State) (i : Instr) (cnt : Option Nat) (f : Env → Nat → LaneOut × Nat) : Out :=
  s.word i fun e s =>
    let rs := (lanesOf e.act).map fun l => f e l
    let outs := gResolve (rs.map Prod.fst)
    match cnt with
    | none => .next (s.finish e outs)
    | some k =>
      let counted := rs.filter fun r => r.2 != 0
      let old := s.satCount e.cx e.core k
      let new := min (old.toNat + counted.foldl (fun n r => n + r.2) 0) (2^32 - 1)
      let thr := (nth (s.ctx e.cx).satthr k 0).toNat
      let s := s.modCtx e.cx fun c => { c with satcnt := tabSet c.satcnt (16 * e.core + k) (BitVec.ofNat 32 new) }
      let outs :=
        if thr != 0 && decide (old.toNat < thr) && decide (thr ≤ new) then
          match counted with
          | [] => outs
          | r :: _ => outs.map fun o => if o.lane == r.1.lane && o.cause.isNone then { o with cause := some (.saturation, 0, 0), late := true } else o
        else outs
      .next (s.finish e outs)

/-- One code as the whole result. -/
def single (l : List Nat) : Nat := l.headD 0

/-- Codes of `w` bits each, the first lowest. -/
def packed (w : Nat) : List Nat → Nat
  | [] => 0
  | x :: t => x + 2^w * packed w t

/-- The source value of `cvtf` (R355). -/
def cvtfVal (src : CvtFSrc) (e : Env) (a : Src) (l : Nat) : Fp :=
  match src with
  | .f64 => Fmt.f64.unpack (e.n .f64 a l)
  | .i32 => ofInt (e.i .i32 a l)
  | .u32 => ofInt (e.n .i32 a l)
  | .i64 => ofInt (e.i .i64 a l)
  | .u64 => ofInt (e.n .i64 a l)
  | .f16 => Fmt.f16.unpack (e.n .f16 a l % 65536)
  | .bf16 => Fmt.bf16.unpack (e.n .bf16 a l % 65536)

/-- `cvtf` (R355, R356). -/
def execCvtf (gd : Guard) (d : Dst) (a : Src) (cnt : Option Nat) (src : CvtFSrc) (sat : Bool) (rm : Rm) (s : State) : Out :=
  s.convert (.cvtf gd d a cnt src sat rm) cnt fun e l =>
    let t := if src = .f64 then toFmt .f32 rm sat else toFmtExact .f32 rm sat
    convLane rm t d .i32 single e l [cvtfVal src e a l]

/-- Width and sign of a `cvti` target (R355). -/
def cvtiTarget (tgt : CvtIDst) (rm : Rm) : Target :=
  match tgt with
  | .i32 => toInteger 32 true rm
  | .u32 => toInteger 32 false rm
  | .i64 => toInteger 64 true rm
  | .u64 => toInteger 64 false rm

/-- `cvti` (R288, R355, R356). -/
def execCvti (gd : Guard) (d : Dst) (a : Src) (cnt : Option Nat) (tgt : CvtIDst) (f64 sat : Bool) (rm : Rm) (s : State) : Out :=
  s.convert (.cvti gd d a cnt tgt f64 sat rm) cnt fun e l =>
    let x := if f64 then Fmt.f64.unpack (e.n .f64 a l) else Fmt.f32.unpack (e.n .f32 a l)
    convLane rm (cvtiTarget tgt rm) d tgt.ty single e l [x]

/-- The source value of `cvtd` (R355). -/
def cvtdVal (src : CvtDSrc) (e : Env) (a : Src) (l : Nat) : Fp :=
  match src with
  | .f32 => Fmt.f32.unpack (e.n .f32 a l)
  | .i32 => ofInt (e.i .i32 a l)
  | .u32 => ofInt (e.n .i32 a l)
  | .i64 => ofInt (e.i .i64 a l)
  | .u64 => ofInt (e.n .i64 a l)

/-- `cvtd` (R355, R356: it never counts). -/
def execCvtd (gd : Guard) (d : Dst) (a : Src) (src : CvtDSrc) (rm : Rm) (s : State) : Out :=
  s.convert (.cvtd gd d a src rm) none fun e l => convLane rm (toFmtExact .f64 rm false) d .i64 single e l [cvtdVal src e a l]

/-- `pk16` (R355): a to the low half, b to the high half. -/
def execPk16 (gd : Guard) (d : Dst) (a b : Src) (cnt : Option Nat) (bf16 sat : Bool) (rm : Rm) (s : State) : Out :=
  s.convert (.pk16 gd d a b cnt bf16 sat rm) cnt fun e l =>
    convLane rm (toFmt (half bf16) rm sat) d .i32 (packed 16) e l [e.fp .f32 .f32 a l, e.fp .f32 .f32 b l]

/-- `unpk16` (R355): half s[0] of a, exactly (R289). -/
def execUnpk16 (gd : Guard) (d : Dst) (a : Src) (b : UnpkSel) (bf16 : Bool) (s : State) : Out :=
  s.alu (.unpk16 gd d a b bf16) d .i32 fun e l => code (Fmt.f32.pack .rn false (e.hv bf16 a (e.n .i32 b.src l % 2) l))

/-- The FP32 elements of `cvt8` and `cvt4` (R355, R356): one under `.x1`, else two of a and two of b. -/
def fourOf (x1 : Bool) (e : Env) (a b : Src) (l : Nat) : List Fp :=
  if x1 then [e.fp .f32 .f32 a l]
  else
    let x := e.n .f32x2 a l
    let y := e.n .f32x2 b l
    [x % 2^32, x / 2^32, y % 2^32, y / 2^32].map Fmt.f32.unpack

/-- The target of `cvt8` (R355). -/
def cvt8Target (tgt : F8To) (rm : Rm) (sat : Bool) : Target :=
  match tgt with
  | .e4m3 => toFmt .e4m3 rm sat
  | .e5m2 => toFmt .e5m2 rm sat
  | .int8 => toInteger 8 true rm

/-- `cvt8` (R355, R356). -/
def execCvt8 (gd : Guard) (d : Dst) (a b : Src) (cnt : Option Nat) (tgt : F8To) (x1 sat : Bool) (rm : Rm) (s : State) : Out :=
  s.convert (.cvt8 gd d a b cnt tgt x1 sat rm) cnt fun e l =>
    convLane rm (cvt8Target tgt rm sat) d .i32 (packed 8) e l (fourOf x1 e a b l)

/-- The FP32 value of an E8M0 scale (R289). -/
def e8m0 (b : Nat) : Nat := if b = 255 then Fmt.f32.nan else Fmt.f32.pack .rn false (.fin false 1 ((b : Int) - 127))

/-- A byte as FP32 (R289, R355). -/
def unpack8 (src : F8From) (b : Nat) : Nat :=
  match src with
  | .e4m3 => Fmt.f32.pack .rn false (Fmt.e4m3.unpack b)
  | .e5m2 => Fmt.f32.pack .rn false (Fmt.e5m2.unpack b)
  | .int8 => Fmt.f32.pack .rn false (ofInt (sgn 8 b))
  | .e8m0 => e8m0 b

/-- `unpk8` (R355): byte s[1:0] of a. -/
def execUnpk8 (gd : Guard) (d : Dst) (a : Src) (b : UnpkSel) (src : F8From) (s : State) : Out :=
  s.alu (.unpk8 gd d a b src) d .i32 fun e l => code (unpack8 src (e.n .i32 a l / 256^(e.n .i32 b.src l % 4) % 256))

/-- `cvt4` (R355, R356). -/
def execCvt4 (gd : Guard) (d : Dst) (a b : Src) (cnt : Option Nat) (x1 sat : Bool) (rm : Rm) (s : State) : Out :=
  s.convert (.cvt4 gd d a b cnt x1 sat rm) cnt fun e l =>
    convLane rm (toFmt .e2m1 rm sat) d .i32 (packed 4) e l (fourOf x1 e a b l)

/-- `unpk4` (R355): nibble s[2:0] of a. -/
def execUnpk4 (gd : Guard) (d : Dst) (a : Src) (b : UnpkSel) (s : State) : Out :=
  s.alu (.unpk4 gd d a b) d .i32 fun e l =>
    code (Fmt.f32.pack .rn false (Fmt.e2m1.unpack (e.n .i32 a l / 16^(e.n .i32 b.src l % 8) % 16)))

/-- Format and largest exponent of an MX element (R300). -/
def mxFmt : MxFmt → Fmt × Int
  | .e4m3 => (.e4m3, 8)
  | .e5m2 => (.e5m2, 15)
  | .e2m1 => (.e2m1, 2)

/-- x / 2^k. -/
def Fp.scaleDown (x : Fp) (k : Int) : Fp := match x with
  | .fin n m e => .fin n m (e - k)
  | y => y

/-- One lane of `mxsc` (R358): element registers, then the scale byte within v[s]. -/
def mxscLane (d a sreg : Nat) (fmt : MxFmt) (b1 sat : Bool) (rm : Rm) (e : Env) (l : Nat) : LaneOut × Nat :=
  let (f, emax) := mxFmt fmt
  let xs := (List.range 32).map fun j => Fmt.f32.unpack (e.vreg (a + j) l).toNat
  let sc := mxScale emax xs
  let t : Target := if sc = 255 then fun x _ => (0, match x with | .inf _ => true | _ => false)
    else fun x v => toFmt f rm sat (x.scaleDown ((sc : Int) - 127)) v
  let (ys, n, g) := convertAll rm t (e.u.lane l).gen xs
  let w := f.width
  let whole := packed w ys
  let regs := (List.range fmt.regs).map fun r => Res.d32 (.reg (d + r)) (BitVec.ofNat 32 (whole / 2^(32 * r)))
  let old := (e.vreg sreg l).toNat
  let sh := if b1 then 8 else 0
  let scale := old - (old / 2^sh % 256) * 2^sh + sc * 2^sh
  ({ LaneOut.ok l (regs ++ [.d32 (.reg sreg) (BitVec.ofNat 32 scale)]) 0 with gen := some g }, n)

/-- `mxsc` (R357 to R359). -/
def execMxsc (gd : Guard) (d a sreg : Nat) (cnt : Option Nat) (fmt : MxFmt) (b1 sat : Bool) (rm : Rm) (s : State) : Out :=
  s.convert (.mxsc gd d a sreg cnt fmt b1 sat rm) cnt (mxscLane d a sreg fmt b1 sat rm)

end Sys2Proof.Machine
end

