-- ==== Sys2Proof/Machine/Ports.lean ====
section
/-!
DEFINITION. The fabric block and its ports (R251 to R260): flits and replays, link states, routes.
-/
namespace Sys2Proof.Machine

/-! ### Registers (R252) -/

/-- Codes of port states (R252). -/
def LState.code : LState → Nat
  | .down => 0
  | .training => 1
  | .up => 2
  | .degraded => 3
  | .lost => 4

/-- FABCFG. -/
def Fabric.cfg (f : Fabric) : Nat :=
  flag f.topo * 2^32 + flag f.mv * 2^22 + f.mirr * 2^16 + f.podsize * 2^8 + f.rank

/-- LSTAT. PEER is valid in Up and Degraded; elsewhere it holds what training last set. -/
def Port.lstat (p : Port) : Nat := p.lanes.toNat * 2^40 + p.peer * 2^32 + p.st.code

/-- LCNT. -/
def Port.lcnt (p : Port) : Nat := p.replays.toNat * 2^32 + p.crcerr.toNat

/-- Port `p`. -/
def Fabric.port (f : Fabric) (p : Nat) : Port := nth f.ports p Port.init

/-- A register of the fabric block (R251). -/
def Fabric.read (f : Fabric) (off : Nat) : Nat :=
  match off with
  | 0x000 => f.cfg
  | 0x008 => f.peermap.toNat
  | 0x010 => f.lostmap.toNat
  | 0x018 => f.collto.toNat
  | _ =>
    if 0x100 ≤ off ∧ off < 0x100 + 0x20 * 12 then
      match off % 0x20 with
      | 0x00 => (f.port ((off - 0x100) / 0x20)).lstat
      | 0x08 => (f.port ((off - 0x100) / 0x20)).lcnt
      | _ => 0
    else 0

/-! ### Routes (R256, R259, R260) -/

/-- A port carries flits. -/
def Port.runs (p : Port) : Bool := p.st == .up || p.st == .degraded

/-- The list P of a destination in switched mode: the running ports of its row of the route table, ascending. -/
def Fabric.live (f : Fabric) (t : Nat) : List Nat :=
  (List.range 12).filter fun p => (tabGet f.table [] t).contains p && (f.port p).runs

/-- The direction in which a message leaves in torus mode (R260): x first, then y, then z, the shorter way round, + at distance 2. -/
def torusDir (src dst : Nat) : Option Nat :=
  let co := fun (r k : Nat) => r / 4^k % 4
  match (List.range 3).find? fun k => co src k != co dst k with
  | none => none
  | some k => some (if (co dst k + 4 - co src k) % 4 ≤ 2 then 2 * k else 2 * k + 1)

/-- The rank that lies in a direction (R260). -/
def torusNext (r dir : Nat) : Nat :=
  let k := dir / 2
  let c := r / 4^k % 4
  r - c * 4^k + (if dir % 2 = 0 then (c + 1) % 4 else (c + 3) % 4) * 4^k

/-- The ranks that a message comes through on its way, its destination last (R260). -/
def torusPath (dst : Nat) : Nat → Nat → List Nat
  | 0, _ => []
  | n + 1, r => match torusDir r dst with
    | none => []
    | some k => torusNext r k :: torusPath dst n (torusNext r k)

/-- The port on which a message from rank `src` leaves this package for rank `t` in torus mode (R260): of the two that face its direction, the one
of the parity of its source and destination. -/
def Fabric.torusPort (f : Fabric) (src t : Nat) : Option Nat :=
  (torusDir f.rank t).bind fun k =>
    let p := 2 * k + (src + t) % 2
    if (f.port p).runs then some p else none

/-- The port on which a channel to a rank is to travel, if any reaches it. -/
def Fabric.bestRoute (f : Fabric) (t : Nat) : Option Nat :=
  if f.topo then f.torusPort f.rank t
  else
    match f.live t with
    | [] => none
    | ps => ps[t % ps.length]?

/-- A package changed in its fabric. -/
def State.modFab (s : State) (g : Fabric → Fabric) : State := { s with fab := g s.fab }

/-- A port changed. -/
def State.modPort (s : State) (p : Nat) (g : Port → Port) : State := s.modFab fun f => { f with ports := modAt f.ports p g }

/-- ROUTE_SWITCH (R256): every flit of the channel on the old route is acknowledged, and the channel takes the route that the
link states now give. -/
def execRouteSwitch (dest vc : Nat) (s : State) : Out :=
  let key := 8 * dest + vc
  match s.fab.bestRoute dest with
  | none => s.noEvent
  | some p =>
    let busy := match tabFind? s.fab.route key with
      | some q => (s.fab.port q).unacked.any fun x => x.vc == vc
      | none => false
    if vc < 6 ∧ dest < s.fab.podsize ∧ dest ≠ s.fab.rank ∧ tabFind? s.fab.route key ≠ some p ∧ !busy then
      .next (s.modFab fun f => { f with route := tabSet f.route key p })
    else s.noEvent

/-! ### Link states (R258) -/

/-- Training starts: flits are held, routes follow. -/
def Port.train (p : Port) : Port := { p with st := .training, retryWait := false }

/-- The Enable event and LCTL ENABLE. -/
def Port.enable (p : Port) : Port :=
  match p.st with
  | .down => { p.train with failures := 0 }
  | .lost => { p.train with failures := 0 }
  | _ => p

/-- The Disable event. -/
def Port.disable (p : Port) : Port := { p with st := .down, retryWait := false }

/-- The Retrain event. -/
def Port.retrain (p : Port) : Port :=
  match p.st with
  | .up => p.train
  | .degraded => p.train
  | .lost => { p.train with failures := 0 }
  | _ => p

/-- LCTL (R252). -/
def Port.command (v : Nat) (p : Port) : Port :=
  match v % 4 with
  | 1 => p.retrain
  | 2 => p.disable
  | 3 => p.enable
  | _ => p

/-- A step at a port that exists. -/
def portStep (port : Nat) (s : State) (ok : Port → Bool) (f : Port → Port) : Out :=
  if port < 12 ∧ ok (s.fab.port port) then .next (s.modPort port f) else s.noEvent

/-- RETRAIN. -/
def execRetrain (port : Nat) (s : State) : Out := portStep port s (fun _ => true) Port.retrain
/-- LINK_DISABLE. -/
def execLinkDisable (port : Nat) (s : State) : Out := portStep port s (fun _ => true) Port.disable
/-- LINK_ENABLE. -/
def execLinkEnable (port : Nat) (s : State) : Out := portStep port s (fun _ => true) Port.enable

/-- The end of a training attempt (R258). -/
def Port.trained (p : Port) (res : TrainResult) : Port :=
  match res with
  | .trained peer => { p with st := .up, lanes := 0xFF, peer := peer % 64 }
  | .half peer upper => { p with st := .degraded, lanes := if upper then 0xF0 else 0x0F, peer := peer % 64 }
  | .fail =>
    let p := { p with failures := p.failures + 1 }
    if 3 ≤ p.failures then { p with st := .lost } else { p with retryWait := true }

/-- TRAINING_RESULT (R258). -/
def execTrainingResult (port : Nat) (res : TrainResult) (s : State) : Out :=
  portStep port s (fun p => p.st == .training && !p.retryWait) fun p => p.trained res

/-- TRAINING_RETRY (R258): 100 µs after a failure. -/
def execTrainingRetry (port : Nat) (s : State) : Out :=
  portStep port s (fun p => p.st == .training && p.retryWait) fun p => { p with retryWait := false }

/-- The Lane event (R258): Up goes on with the four lanes without the failed one, with half its credits; Degraded retrains. -/
def Port.laneFail (p : Port) (lane : Nat) : Port :=
  if p.st == .up then { p with st := .degraded, lanes := if lane < 4 then 0xF0 else 0x0F, credits := p.credits.map (· / 2) }
  else p.train

/-- LANE_FAIL: a lane in use fails. -/
def execLaneFail (port lane : Nat) (s : State) : Out :=
  portStep port s (fun p => p.runs && decide (lane < 8) && p.lanes.getLsbD lane) fun p => p.laneFail lane

/-- SILENCE (R258). -/
def execSilence (port : Nat) (s : State) : Out := portStep port s Port.runs Port.train

/-! ### Flits (R253, R255, R256) -/

/-- One bit of CRC-32 with the IEEE 802.3 polynomial, reflected. -/
def crcBit (c : Nat) : Nat := if c % 2 = 1 then (c / 2) ^^^ 0xEDB88320 else c / 2

/-- One byte of CRC-32. -/
def crcByte (c : Nat) (b : Byte) : Nat := (List.range 8).foldl (fun c _ => crcBit c) (c ^^^ b.toNat)

/-- CRC-32 of bytes (R253; the IEEE 802.3 start value, order of bits and final inversion). -/
def crc32 (bs : List Byte) : Nat := bs.foldl crcByte 0xFFFFFFFF ^^^ 0xFFFFFFFF

/-- The fields of a flit (R253). -/
def flitSeq (bs : List Byte) : Nat := bits (leNat (bs.take 4)) 31 20
def flitAck (bs : List Byte) : Nat := bits (leNat (bs.take 4)) 19 8
def flitVc (bs : List Byte) : Nat := bits (leNat (bs.take 4)) 7 5
def flitKind (bs : List Byte) : Nat := bits (leNat (bs.take 4)) 4 3

/-- The flit's check is good. -/
def flitGood (bs : List Byte) : Bool := bs.length == 64 && crc32 (bs.take 60) == leNat (bs.drop 60)

/-- Flits up to and including an acknowledged number leave the list of those held; an unknown number leaves it as it is. -/
def ackUpTo (held : List Flit) (ack : Nat) : List Flit :=
  match findIdxFrom (fun (f : Flit) => f.seq == ack) held 0 with
  | some (i, _) => held.drop (i + 1)
  | none => held

/-- Flits up to an acknowledged number are held no more, nor resent (R255). -/
def Port.ack (p : Port) (ack : Nat) : Port :=
  let held := ackUpTo p.unacked ack
  { p with unacked := held, sendq := p.sendq.filter fun (f : Flit) => held.any fun h => h.seq == f.seq }

/-- A replay request (R255): every flit after ACK is to be resent, in order. -/
def Port.replay (p : Port) (ack : Nat) : Port :=
  let held := ackUpTo p.unacked ack
  { p with unacked := held, sendq := held }

/-- The next flit is resent, and counted; one resent 16 times without being acknowledged sends the link to Training (R255). -/
def Port.resend (p : Port) : Port :=
  match p.sendq with
  | [] => p
  | f :: t =>
    let held := p.unacked.map fun (h : Flit) => if h.seq == f.seq then { h with resent := h.resent + 1 } else h
    let p := { p with unacked := held, sendq := t, replays := p.replays + 1 }
    if held.any fun f => decide (16 ≤ f.resent) then p.train else p

/-- A flit arrives (R255): accepted when its check is good and its SEQ is the next expected, else discarded with a replay
request. -/
def Port.receive (p : Port) (bs : List Byte) : Port :=
  if flitGood bs && flitSeq bs == p.expect then
    let p := { p with expect := (p.expect + 1) % 4096, wantReplay := false }
    if flitKind bs = 3 then p.replay (flitAck bs) else p.ack (flitAck bs)
  else { p with crcerr := p.crcerr + 1, wantReplay := true }

/-- The flit is accepted (R255). -/
def Port.accepts (p : Port) (bs : List Byte) : Bool := flitGood bs && flitSeq bs == p.expect

/-- Credits of a channel come back (R256). -/
def Port.credit (p : Port) (vc n : Nat) : Port := { p with credits := modAt p.credits vc (· + n) }

/-- FLIT_RECEIVE. What an accepted payload carries is the subject of the step of its message; the number of credits that a credit return
carries is open: a free value (DESIGN CHOICE, log entry 120). Channels 6 and 7 do not occur (R253). -/
def execFlitReceive (port : Nat) (flit : List Byte) (s : State) : Out :=
  let ok := (s.fab.port port).accepts flit
  if ok && decide (6 ≤ flitVc flit) then s.noEvent
  else if ok && flitKind flit == 2 then
    let (v, s) := s.free
    portStep port s (fun p => p.runs && flit.length == 64) fun p => (p.receive flit).credit (flitVc flit) (v.toNat % 2^16)
  else portStep port s (fun p => p.runs && flit.length == 64) fun p => p.receive flit

/-- REPLAY_REQUEST (R255). -/
def execReplayRequest (port ack : Nat) (s : State) : Out := portStep port s Port.runs fun p => p.replay (ack % 4096)

/-- CREDIT_RETURN (R256). -/
def execCreditReturn (port vc n : Nat) (s : State) : Out :=
  portStep port s (fun p => p.runs && decide (vc < 6)) fun p => p.credit vc n

/-- A port may send a new flit of a channel (R255, R256): it runs, no flit waits to be resent, the channel has a credit, and fewer than 1024 flits
are unacknowledged. -/
def Port.maySend (p : Port) (vc : Nat) : Bool := p.runs && p.sendq.isEmpty && decide (0 < nth p.credits vc 0) && decide (p.unacked.length < 1024)

/-- A new payload flit leaves: it spends a credit, and is held until it is acknowledged. -/
def Port.send (p : Port) (vc : Nat) (data : List Byte) : Port :=
  { p with
    nextSeq := (p.nextSeq + 1) % 4096
    unacked := p.unacked ++ [⟨p.nextSeq, vc, 0, data, 0⟩]
    credits := modAt p.credits vc (· - 1) }

/-- This port is the route of a message from one rank to another (R256, R260): of its own messages by their channel; of those that come through
it in torus mode, by their source and destination, between which one port alone is a route. -/
def Fabric.routed (f : Fabric) (port src dest vc : Nat) : Bool :=
  if src = f.rank then tabFind? f.route (8 * dest + vc) == some port
  else f.topo && decide (src < 64) && decide (dest < 64) && dest != f.rank && (torusPath dest 6 src).contains f.rank && f.torusPort src dest == some port

/-- A flit leaves a port (R253, R255, R256): the first that is to be resent, or a new one of a channel between two ranks whose route is this
port. -/
def State.flitSend (s : State) (port src dest vc : Nat) (data : List Byte) : Out :=
  let p := s.fab.port port
  if 12 ≤ port ∨ !p.runs then s.noEvent
  else if !p.sendq.isEmpty then .next (s.modPort port Port.resend)
  else if vc < 6 ∧ data.length = 56 ∧ s.fab.routed port src dest vc ∧ p.maySend vc then .next (s.modPort port fun p => p.send vc data)
  else s.noEvent

end Sys2Proof.Machine
end

