-- ==== Sys2Proof/Machine/Firmware.lean ====
section
/-!
DEFINITION. Power-up, firmware and the management core (R15, R30 to R32, R39, R504 to R511).
-/
namespace Sys2Proof.Machine

/-! ### The management block (R504, R505) -/

/-- Codes of power-up states (R505). -/
def MState.code : MState → Nat
  | .reset => 0
  | .authenticating => 1
  | .training => 2
  | .ready => 3
  | .failed => 4

/-- MSTAT. -/
def Mgmt.mstat (m : Mgmt) : Nat :=
  m.bootn.toNat * 2^32 + m.fail.toNat * 2^24 + m.dieok.toNat * 2^16 + flag m.rej * 2^8 + m.st.code

/-- A register of the management block; a write-only or reserved one reads zero. -/
def Mgmt.read (m : Mgmt) (off : Nat) : Nat :=
  match off with
  | 0x00 => m.mstat
  | 0x08 => m.fwbase.toNat
  | 0x10 => m.fwlen.toNat
  | 0x20 => m.mout.toNat
  | 0x28 => m.moseq.toNat
  | 0x30 => m.mohead.toNat
  | 0x38 => m.mwake.toNat
  | _ => if 0x40 ≤ off ∧ off < 0x60 then (nth m.tracemask ((off - 0x40) / 8) 0).toNat else 0

/-- A refused write or command. -/
def Mgmt.refuse (m : Mgmt) : Mgmt := { m with rej := true }

/-- The image may be loaded: the state is Reset or Failed. -/
def Mgmt.loadable (m : Mgmt) : Bool := m.st == .reset || m.st == .failed

/-- A write of a register other than FWCMD and MSTAT (R504); elsewhere than in the states listed it is ignored and sets REJ. -/
def Mgmt.write (m : Mgmt) (off : Nat) (v : W64) : Mgmt :=
  match off with
  | 0x08 => if m.loadable then { m with fwbase := v } else m.refuse
  | 0x10 => if m.loadable then { m with fwlen := v &&& 0xFFFFFFFF } else m.refuse
  | 0x20 => if m.loadable then { m with mout := v } else m.refuse
  | 0x30 => if m.mohead.toNat < v.toNat then { m with mohead := v } else m
  | _ =>
    if 0x40 ≤ off ∧ off < 0x60 ∧ m.st = .ready then { m with tracemask := modAt m.tracemask ((off - 0x40) / 8) fun _ => v }
    else m.refuse

/-- The management block changed. -/
def State.modMgmt (s : State) (f : Mgmt → Mgmt) : State := { s with mgmt := f s.mgmt }

/-- A write of MSTAT (R505): REJ is cleared by a one. -/
def Mgmt.clearRej (m : Mgmt) (v : Nat) : Mgmt := { m with rej := m.rej && !bitAt v 8 }

/-- MSTAT_WRITE. -/
def execMstatWrite (v : W64) (s : State) : Out := .next (s.modMgmt fun m => m.clearRej v.toNat)

/-- MOHEAD_WRITE (R510): a monotonic maximum. -/
def execMoheadWrite (v : W64) (s : State) : Out := .next (s.modMgmt fun m => m.write 0x30 v)

/-! ### Package reset (R507) -/

/-- A package reset: BOOTN rises, the running firmware and every context, queue and tile-table entry go, DTIME is zero. The
memories keep their bytes (DESIGN CHOICE), the order of turns and the counters of the model's own go on. -/
def State.packageReset (s : State) : State :=
  { State.afterReset (s.mgmt.bootn + 1) (s.mem.filter fun c => !isStore c.1) s.keys with
    dropped := s.dropped, turns := s.turns, fresh := s.fresh, nextId := s.nextId }

/-- POWER_ON: the memories lose their bytes, and BOOTN counts from here. -/
def execPowerOn (s : State) : Out := .next { State.reset with turns := s.turns, fresh := s.fresh, nextId := s.nextId }

/-- RESET_INPUT. -/
def execResetInput (s : State) : Out := .next s.packageReset

/-- FWCMD RESET (R505): accepted with its key alone. -/
def State.resetCmd (s : State) (v : Nat) : State := if v / 2^32 = 0x52535445 then s.packageReset else s.modMgmt Mgmt.refuse

/-- RESET. -/
def execReset (v : W64) (s : State) : Out := .next (s.resetCmd v.toNat)

/-! ### Loading and authentication (R505 to R507) -/

/-- FWBASE, FWLEN and MOUT are well formed (R505, R510). -/
def Mgmt.wellFormed (m : Mgmt) : Bool :=
  let b := m.fwbase.toNat
  let n := m.fwlen.toNat
  let o := m.mout.toNat
  decide (b < 2^48) && b % 4096 == 0 && n % 8 == 0 && decide (0x1000 ≤ n) && decide (n ≤ 0x1000000)
    && (o == 0 || (decide (o < 2^48) && o % 16384 == 0))

/-- LOAD (R506, R507): the image is copied into private memory, and its check starts. -/
def State.loadImage (s : State) : State :=
  if s.mgmt.loadable then
    let img := if s.mgmt.wellFormed then memRead s.mem s.mgmt.fwbase.toNat s.mgmt.fwlen.toNat else []
    s.modMgmt fun m => { m with image := img, st := .authenticating }
  else s.modMgmt Mgmt.refuse

/-- LOAD. -/
def execLoad (s : State) : Out := .next s.loadImage

/-- FWCMD (R505). -/
def State.fwcmd (s : State) (v : Nat) : State :=
  match v % 256 with
  | 1 => s.loadImage
  | 2 => s.resetCmd v
  | _ => s.modMgmt Mgmt.refuse

/-- The signature of the image, its last 96 B, verifies over every byte before it (R506). -/
def Mgmt.signed (m : Mgmt) : Bool :=
  let n := m.image.length - 96
  Config.signatureOk (m.image.take n) (m.image.drop n)

/-- The FAIL code of an image (R505, R506), 0 when it passes. -/
def Mgmt.check (m : Mgmt) : Nat :=
  let w := fun k => leNat ((m.image.drop (8 * k)).take 8)
  if !m.wellFormed then 5
  else if w 0 % 2^32 ≠ 0x4D524E54 ∨ w 2 ≠ m.fwlen.toNat then 1
  else if !m.signed then 2
  else if w 1 < Config.fuseMin then 3
  else 0

/-- AUTH_CHECK_DONE (R507): Marintis starts, or FAIL is recorded. Its operands can only be what the part finds of the image and its fuses. -/
def execAuthCheckDone (sigOk : Bool) (fuseMin : Nat) (s : State) : Out :=
  if s.mgmt.st != .authenticating || sigOk != s.mgmt.signed || fuseMin != Config.fuseMin then s.noEvent
  else
    let c := s.mgmt.check
    if c ≠ 0 then .next (s.modMgmt fun m => { m with st := .failed, fail := BitVec.ofNat 8 c, image := [] })
    else .next (s.modMgmt fun m => { m with st := .training })

/-- Step 1 of training is over (R508): the dies whose stacks trained are in DIEOK, the others are retired; step 3 then has every port take Enable. With no die
trained the ports stay as they are, and training fails. -/
def State.hbmTrained (s : State) (dies : Byte) : Out :=
  if s.mgmt.st != .training || s.mgmt.dieok != 0 || dies == 0 then s.noEvent
  else .next ((s.modMgmt fun m => { m with dieok := dies }).modFab fun f =>
    { f with ports := f.ports.map Port.enable, retired := ~~~dies })

/-- The lowest die of a mask, die 0 when none is set (R15). -/
def lowestDie (m : Byte) : Nat := ((List.range 8).find? fun d => m.getLsbD d).getD 0

/-- The states of the ports, one byte each (R510; the layout is a DESIGN CHOICE). -/
def Fabric.portStates (f : Fabric) : List Byte := f.ports.map fun p => BitVec.ofNat 8 p.st.code

/-- FIRMWARE_TRAINING_DONE (R507 to R509): once the usable dies are known (step 1) the package is Ready; with none, FAIL is 0x04. The
partner is reachable, which FABCFG.MV says, as PEERMAP has it. -/
def execFirmwareTrainingDone (res : TrainingOutcome) (s : State) : Out :=
  if s.mgmt.st != .training || res.dieok != s.mgmt.dieok || decide (64 ≤ res.rank) || decide (64 < res.podsize) || decide (res.podsize ≤ res.rank) then
    s.noEvent
  else if res.dieok = 0 then .next (s.modMgmt fun m => { m with st := .failed, fail := 4 })
  else
    let mv := ((mirrorOf res.rank res.podsize).map fun r => res.peermap.getLsbD r).getD false
    let s := s.modFab fun f => { f with
      topo := res.torus && res.podsize == 64, rank := res.rank, podsize := res.podsize, mv := mv
      mirr := if mv then (mirrorOf res.rank res.podsize).getD res.rank else res.rank
      peermap := res.peermap, table := res.routes.mapIdx fun i ps => (i, ps) }
    let s := { s with
      mb := { s.mb with segs := [] }
      dtime := if res.podsize = 1 then s.dtime else umax64 s.dtime (BitVec.ofNat 64 res.dtime) }
    let s := s.modMgmt fun m => { m with st := .ready, dieok := res.dieok, seqdie := lowestDie res.dieok }
    .next (s.report 7 (leBytes 8 res.dieok.toNat ++ s.fab.portStates))

/-! ### Power and cooling (R30 to R32, R39) -/

/-- A context's budget falls at once, towards FLOOR and never below it; by how much the spec leaves open (R30, R39). -/
def State.cutBudget (s : State) (cx : Nat) : State :=
  let c := s.ctx cx
  let lo := min c.floor.toNat c.ceil.toNat
  if c.cur.toNat ≤ lo then s
  else
    let (v, s) := s.free
    s.modCtx cx fun c => { c with cur := BitVec.ofNat 16 (lo + v.toNat % (c.cur.toNat - lo)) }

/-- COOLANT_OUT_OF_ENVELOPE (R30): every budget is lowered at once, may be lowered further from here on, and the condition is reported. -/
def execCoolantOutOfEnvelope (temp flow : Nat) (s : State) : Out :=
  let s := s.modMgmt fun m => { m with coolOut := true }
  .next (((s.ctxs.map Prod.fst).foldl State.cutBudget s).report 4 (leBytes 8 temp ++ leBytes 8 flow))

/-- TEMPERATURE_RISE (R31): budgets may be lowered from here on. -/
def execTemperatureRise (s : State) : Out := .next (s.modMgmt fun m => { m with hot := true })

/-- CONDITION_CLEARED (R39): budgets are CEIL again. -/
def execConditionCleared (s : State) : Out :=
  let s := s.modMgmt fun m => { m with coolOut := false, hot := false }
  .next { s with ctxs := s.ctxs.map fun (i, c) => (i, c.follow false) }

/-- Every context's budget is at its floor. -/
def State.atFloor (s : State) : Bool := s.ctxs.all fun (_, c) => c.st == .free || c.cur.toNat == min c.floor.toNat c.ceil.toNat

/-- No path that runs stands inside a clause of which it has executed a word (R32). -/
def Strand.atBoundary (u : Strand) : Bool := (lanesOf u.path).all fun k => !(u.lane k).inClause || (u.lane k).cwi == 0

/-- Every core stands at a clause boundary. -/
def State.atBoundary (s : State) : Bool :=
  (s.groups.all fun (_, g) => !(g.st == .running || g.st == .converging) || g.strands.all Strand.atBoundary)
    && s.cts.all fun (w, c) => ((s.wg? w).map fun x => x.saved || x.ended).getD true || c.unit.atBoundary

/-- CLOCK_CHANGE (R31, R32), at a clause boundary on every core: down by 100 MHz while the temperature has risen and every budget is at its floor, never below
1.0 GHz; up again, in steps of 100 MHz, to 1.9 GHz. -/
def execClockChange (mhz : Nat) (s : State) : Out :=
  let m := s.mgmt.mhz
  let down := s.mgmt.hot && s.atFloor && mhz + 100 == m && decide (1000 ≤ mhz)
  let up := decide (m < mhz) && decide (mhz ≤ 1900) && mhz % 100 == 0
  if (down || up) && s.atBoundary then .next (s.modMgmt fun m => { m with mhz := mhz }) else s.noEvent

end Sys2Proof.Machine
end

