-- ==== Sys2Proof/Machine/SampleGroup.lean ====
section
/-!
DEFINITION. Sample groups (R133 to R155): `fork`, `reward`, `slack`, `sgcancel`, `sgq`, and the steps of the die's sample-group
unit. The live descriptor is in State.sgs (Records.lean writes it back and delivers results).
-/
namespace Sys2Proof.Machine

/-- Descriptor index of a handle (R133). -/
def sgIndex (h : W64) : Nat := h.toNat % 4096

/-- A sibling as it starts. -/
def siblingOf (grp : Nat) : Sibling := ⟨grp, 0, false, 0, 0, true⟩

/-- Bit `i` of a 64-bit mask set or cleared. -/
def setBit64 (m : W64) (i : Nat) (b : Bool) : W64 :=
  if b then m ||| BitVec.ofNat 64 (2^i) else m &&& ~~~(BitVec.ofNat 64 (2^i))

/-! ### Scoring (R148 to R151) -/

/-- FP32 as an exact value. -/
def fp32 (x : W32) : Fp := Fmt.f32.unpack x.toNat
/-- FP64 as an exact value. -/
def fp64 (x : Nat) : Fp := Fmt.f64.unpack x

/-- A rounded FP64 sum, difference, product and quotient. -/
def dadd64 (a b : Nat) : Nat := Fmt.f64.sum .rn false [fp64 a, fp64 b]
def dsub64 (a b : Nat) : Nat := Fmt.f64.sum .rn false [fp64 a, (fp64 b).neg]
def dmul64 (a b : Nat) : Nat := Fmt.f64.sum .rn false [(fp64 a).mul (fp64 b)]
/-- FP32 widened to FP64, exactly. -/
def widen (x : W32) : Nat := Fmt.f64.convert .rn 0 false (fp32 x)
/-- FP64 rounded to FP32. -/
def narrow (x : Nat) : W32 := BitVec.ofNat 32 (Fmt.f32.convert .rn 0 false (fp64 x))

/-- The exponent field is all ones: NaN or an infinity. -/
def nonFinite32 (x : W32) : Bool := bits x.toNat 30 23 == 255

/-- The scores of the arrived siblings (R150): none when some reward is not finite; else μ, σ and the advantages in order. -/
def score (eps : W32) (xs : List W32) : Option (Nat × Nat × List W32) :=
  if xs.any nonFinite32 then none
  else
    let n := widenNat xs.length
    let mu := quot64 (xs.foldl (fun s x => dadd64 s (widen x)) 0) n
    let t := xs.foldl (fun t x => let d := dsub64 (widen x) mu; dadd64 t (dmul64 d d)) 0
    let sigma := Fmt.f64.pack .rn false (fp64 (quot64 t n)).sqrt
    if sigma % 2^63 = 0 then some (mu, sigma, xs.map fun _ => 0)
    else
      let den := dadd64 sigma (widen eps)
      some (mu, sigma, xs.map fun x => narrow (quot64 (dsub64 (widen x) mu) den))
where
  /-- An integer in FP64. -/
  widenNat (n : Nat) : Nat := Fmt.f64.convert .rn 0 false (ofInt n)
  /-- A rounded FP64 quotient. -/
  quot64 (a b : Nat) : Nat := Fmt.f64.pack .rn false ((fp64 a).quot (fp64 b))

/-- The indices of the arrived siblings, ascending. -/
def SgDesc.arrived (d : SgDesc) : List Nat := (List.range d.k).filter fun i => bitAt d.arrivedM.toNat i

/-- The descriptor fails (R148 to R151): the arrived siblings take FAIL, μ, σ and the advantages are zero. -/
def SgDesc.fail (d : SgDesc) : SgDesc :=
  { d with
    st := .failed, mu64 := 0, sigma64 := 0, mu32 := 0, sigma32 := 0
    sibs := d.sibs.mapIdx fun i x => { x with adv := 0, status := if bitAt d.arrivedM.toNat i then 4 else x.status } }

/-- The end of scoring (R150). -/
def SgDesc.scored (d : SgDesc) : SgDesc :=
  let is := d.arrived
  match score d.eps (is.map fun i => (nth d.sibs i (siblingOf 0)).reward) with
  | none => ({ d with nonfinite := true } : SgDesc).fail
  | some (mu, sigma, as) =>
    { d with
      st := .scored, zv := sigma % 2^63 == 0, mu64 := BitVec.ofNat 64 mu, sigma64 := BitVec.ofNat 64 sigma
      mu32 := narrow mu, sigma32 := narrow sigma
      sibs := d.sibs.mapIdx fun i x =>
        match findIdxFrom (fun j => j == i) is 0 with
        | some (k, _) => { x with adv := nth as k 0, status := 1 }
        | none => x }

/-- Results are written and delivered (R151). -/
def State.sgFinish (s : State) (cx h : Nat) (d : SgDesc) : State :=
  let s := s.setSg cx h d
  ((s.sgWriteArrays cx h).sgWriteBack cx h).sgDeliver cx h true none

/-- The descriptor's state changes: it is written back (R135). -/
def State.sgState (s : State) (cx h : Nat) (d : SgDesc) : State := (s.setSg cx h d).sgWriteBack cx h

/-- The trigger of R148: no sibling remains live and unarrived. -/
def State.sgTrigger (s : State) (cx h : Nat) : State :=
  match s.sg? cx h with
  | none => s
  | some d =>
    let open_ := (List.range d.k).any fun i => (nth d.sibs i (siblingOf 0)).live && !bitAt d.arrivedM.toNat i
    if d.st != .running || open_ then s
    else if d.quorum ≤ d.narr then s.sgState cx h { d with st := .gathering }
    else s.sgFinish cx h ({ d with qfail := true } : SgDesc).fail

/-- A sibling's group is ended (R130, R145, R149), and its workgroup may end with it. -/
def State.sgEnd (s : State) (gid : Nat) : State :=
  match s.group? gid with
  | none => s
  | some g => if g.st == .ended then s else (s.endGroup gid).wgEnd g.wg

/-- A sibling's last lane has exited (R146). One that exits once its result has been delivered changes no field of the descriptor. -/
def State.sgLeave (s : State) (gid : Nat) : State :=
  match s.group? gid with
  | none => s
  | some g =>
    match s.sibOf g with
    | none => s
    | some (h, i) =>
      let cx := s.cxOfWg g.wg
      match s.sg? cx h with
      | none => s
      | some d =>
        let x := nth d.sibs i (siblingOf 0)
        if x.grp != gid || !x.live then s
        else
          let excl := d.st == .running && !bitAt d.arrivedM.toNat i && x.status == 0
          let s := s.setSg cx h { d with
            endedM := if d.st == .scored || d.st == .failed then d.endedM else setBit64 d.endedM i true
            sibs := modAt d.sibs i fun x => { x with live := false, status := if excl then 5 else x.status } }
          s.sgTrigger cx h

/-! ### fork (R138 to R141) -/

/-- The two ends of the result arrays may be written by the context. -/
def State.arraysOk (s : State) (cx a : Nat) : Bool :=
  a == 0 || ((s.devPhys cx a true).isOk && (s.devPhys cx (a + 0x23F) true).isOk)

/-- ARRAYS is zero, or 64-byte aligned with tag 00 (R138, check 5). With bits [61:48] set it is translated by its bits [47:0] (DESIGN CHOICE, log entry 105). -/
def arraysAligned (a : Nat) : Bool := a % 64 == 0 && decide (a < 2^62)

/-- `fork` at its completion (R138): the checks, and the Fork event. A descriptor page that can be written and not read raises PERMISSION too
(DESIGN CHOICE, log entry 32); ARRAYS that fails check 5 with another tag, which no page of the context maps, is left to that check (DESIGN CHOICE, log
entry 149). μ and σ are zero from the Fork event until scoring ends (DESIGN CHOICE, log entry 150). -/
def State.forkApply (s : State) (gid p : Nat) (vals : List W64) : State :=
  match s.group? gid, s.kernelOf gid with
  | some g, some k =>
    let cx := k.cx
    let h := sgIndex (nth vals 0 0)
    let w := s.wg? g.wg
    if s.sgHeld cx h then s
    else match s.sgSee cx h with
    | none => s.wideTrap gid .permission
    | some d =>
      let s := s.sgSeen g.core cx h
      let free := (s.sg? cx h).isNone
      if !(s.devPhys cx (s.sgAddr cx h) true).isOk || (decide (d.arrays.toNat < 2^62) && !s.arraysOk cx d.arrays.toNat) then
        s.wideTrap gid .permission
      else if g.sib.isSome || !free || d.quorum = 0 || (nth vals 1 0).toNat < d.quorum || nonFinite32 d.eps || d.eps.getLsbD 31
          || !arraysAligned d.arrays.toNat then s.wideTrap gid .sgFault
      else
        let d' : SgDesc :=
          { d with
            gen := d.gen + 1, narr := 0, k := (nth vals 1 0).toNat, qfail := false, part := false, nonfinite := false, zv := false
            st := .forming, mu64 := 0, sigma64 := 0, mu32 := 0, sigma32 := 0, elapsed := 0, arrivedM := 0, cancelledM := 0
            endedM := 0, die := g.core / 256, core := g.core % 256, pseq := g.seq
            kernel := (w.map fun x => x.kernel).getD 0, parent := gid, entry := (nth vals 2 0).toNat, pd := p, fwait := 0
            sibs := [], origin := some g }
        let s := s.modGroup gid fun g => { g with st := .running }
        let s := s.sgState cx h d'
        (s.sgPages cx h d').foldl (fun s vp => match s.leaf cx vp with
          | .ok l => s.leasePage cx (vp, l)
          | .error _ => s) s
  | _, _ => s

/-- Strand `k` of a sibling: its lanes live where the parent's are, at the entry, with the parent's predicates and generator states, its
masks and latches zero (R140). One with no live lane reads as the parent's registers do (R368). -/
def siblingStrand (pc slot k : Nat) (g : Group) (u : Strand) : Strand :=
  { Strand.init slot u.liveMask ((List.range 8).map fun i =>
      let l := u.lane i
      { Lane.init with live := l.live, pc := pc, preds := l.preds, gen := l.gen }) with
    cur := u.liveMask
    gAtExit := if u.live then [] else g.gregs
    vAtExit := if u.live then [] else g.win.filter fun x => decide (x.1 % g.width / 8 = k) }

/-- Sibling `i` of a descriptor is placed (R139, R140). -/
def State.placeSibling (s : State) (kid : Nat) (k : Kernel) (h i : Nat) (parent : Group) (pw : Workgroup) (entry : Nat) (p : Place) :
    Option (Nat × State) :=
  let k1 := { k with cores := 1 }
  let w : Workgroup := { wgAt kid k1 pw.idx p (some (h, i)) with ncores := 1 }
  let ct := if k.centry.isSome then
      let c := ctAt k p.ctIdx (k.xyz pw.idx) (pw.coreAt 0)
      some { c with cregs := tabSet c.cregs 6 (BitVec.ofNat 64 (i + 1)) } else none
  if p.die != pw.die then none
  else match s.addWg k1 w p ct with
    | none => none
    | some (wid, s) =>
      let zero := fun (s : State) => match s.wg? wid with
        | some x => (x.runs.headD 0, k.runBytes)
        | none => (0, 0)
      let a := storePhys (w.coreAt 0) (zero s).1
      let out := fun (c : Host.Cell) => !(decide (a ≤ c.1) && decide (c.1 < a + k.runBytes))
      let s := { s with mem := s.mem.filter out }
      let g : Group :=
        { parent with
          wg := wid, core := w.coreAt 0, idx := 0, prio := 0, entry := entry, sib := some i, st := .running, savedFrom := .running
          want := 0, gw := none, gather := none
          strands := (parent.strands.zip p.strands).mapIdx fun j (u, slot) => siblingStrand (k.code + entry) slot j parent u }
      let gid := s.nextId
      if p.strands.length != parent.strands.length then none
      else match s.addGroup g with
        | none => none
        | some s => if s.waysFit w then some (gid, s) else none

/-- All siblings are placed, or none. -/
def State.placeSiblings (s : State) (kid : Nat) (k : Kernel) (h : Nat) (parent : Group) (pw : Workgroup) (entry : Nat) :
    List Place → Nat → Option (List Nat × State)
  | [], _ => some ([], s)
  | p :: t, i =>
    match s.placeSibling kid k h i parent pw entry p with
    | none => none
    | some (g, s) =>
      match s.placeSiblings kid k h parent pw entry t (i + 1) with
      | none => none
      | some (gs, s) => some (g :: gs, s)

/-- Where a sibling of a group would lie on a core: the lowest slots that are free. -/
def State.siblingPlace (s : State) (parent : Group) (core : Nat) : Place :=
  let quad := core % 256 / 4
  { die := core / 256, quad := quad, first := core % 4
    ctIdx := ((List.range 16).find? fun i => s.cts.all fun (j, c) => match s.wg? j with
      | some x => x.ended || x.saved || !c.unit.live || x.die != core / 256 || x.quad != quad || c.ctIdx != i
      | none => true).getD 16
    slot := ((List.range 512).find? fun i => (tabVals s.wgs).all fun x =>
      x.ended || x.saved || x.coreAt 0 != core || x.slot != i).getD 512
    strands := ((List.range 512).filter fun i => !(s.slotsUsed core).contains i).take parent.strands.length }

/-- Places for so many siblings on the cores of a die from `c` on, if there are any (R139, R141). They are alike, so cores are tried in
ascending order, each taking one more or no more. -/
def State.roomFor (s : State) (kid : Nat) (k : Kernel) (h : Nat) (parent : Group) (pw : Workgroup) : Nat → Nat → Nat → Option (List Place)
  | _, _, 0 => some []
  | 0, _, _ => none
  | f + 1, c, n + 1 =>
    let p := s.siblingPlace parent (256 * pw.die + c)
    let here := match s.placeSibling kid k h 0 parent pw 0 p with
      | some (_, s) => (s.roomFor kid k h parent pw f c n).map (p :: ·)
      | none => none
    match here with
    | some ps => some ps
    | none => if c < 255 then s.roomFor kid k h parent pw f (c + 1) (n + 1) else none

/-- Places for the siblings of a Forming descriptor, if there is room (R141). -/
def State.forkRoom (s : State) (h : Nat) (d : SgDesc) : Option (List Place) :=
  match s.group? d.parent, s.kernel? d.kernel with
  | some g, some k => match s.wg? g.wg with
    | some pw => s.roomFor d.kernel k h (d.origin.getD g) pw (256 + d.k) 0 d.k
    | none => none
  | _, _ => none

/-- SIBLINGS_PLACED (R139 to R141): not once FORKWAIT has passed. -/
def execSiblingsPlaced (cx h : Nat) (places : List Place) (s : State) : Out :=
  match s.sg? cx h with
  | none => s.noEvent
  | some d =>
    match s.group? d.parent, s.kernel? d.kernel with
    | some g, some k =>
      match s.wg? g.wg with
      | none => s.noEvent
      | some pw =>
        if d.st != .forming || places.length != d.k || decide (d.forkwait.toNat < d.fwait) || (s.ctx cx).st != .active || (s.ctx cx).restoring then s.noEvent
        else match s.placeSiblings d.kernel k h (d.origin.getD g) pw d.entry places 0 with
          | none => s.noEvent
          | some (gs, s) =>
            let s := s.modKernel d.kernel fun k => { k with liveWgs := k.liveWgs + d.k }
            let s := s.sgState cx h { d with st := .running, sibs := gs.map siblingOf, origin := none }
            .next (s.wideDone d.parent (some (d.pd, true)))
    | _, _ => s.noEvent

/-- The descriptor returns from Forming to Free (R141, R144, R154): it is written back and its live copy goes. -/
def State.sgUnform (s : State) (cx h : Nat) (d : SgDesc) : State := (s.sgState cx h { d with st := .free }).sgDrop cx h

/-- Every strand of a context that has parked lanes tests for the entry into a handler (R47). -/
def State.trapAll (s : State) (cx : Nat) : State :=
  s.groups.foldl (fun s (gid, g) =>
    if s.cxOfWg g.wg == cx then
      (List.range g.strands.length).foldl (fun s k =>
        if (nth g.strands k (Strand.init 0 0 [])).parkedLanes.isEmpty then s else s.trapStep (.strand gid k)) s
    else s) s

/-- FORKWAIT_EXPIRE (R141): FORKWAIT ticks of running time have passed, and the last test finds no room. -/
def execForkwaitExpire (cx h : Nat) (s : State) : Out :=
  match s.sg? cx h with
  | none => s.noEvent
  | some d =>
    if d.st == .forming && decide (d.forkwait.toNat ≤ d.fwait) && (s.forkRoom h d).isNone && (s.ctx cx).st == .active then
      .next ((((s.sgUnform cx h d).wideDone d.parent (some (d.pd, false))).parkObservers (4096 * cx + h)).trapAll cx)
    else s.noEvent

/-! ### reward, slack (R142 to R144) -/

/-- `reward` at its completion (R142). -/
def State.rewardApply (s : State) (gid : Nat) (vals : List W64) : State :=
  match s.group? gid with
  | none => s
  | some g =>
    let cx := s.cxOfWg g.wg
    match s.sibOf g with
    | none => s.wideTrap gid .sgFault
    | some (h, i) =>
      match s.sg? cx h with
      | none => if s.sgHeld cx h then s else (s.sgSeen g.core cx h).wideTrap gid .sgFault
      | some d =>
        if sgIndex (nth vals 0 0) ≠ h ∨ d.st ≠ .running ∨ (nth d.sibs i (siblingOf 0)).grp ≠ gid then s.wideTrap gid .sgFault
        else
          let x := lo32 (nth vals 1 0)
          (s.setSg cx h { d with sibs := modAt d.sibs i fun y => { y with reward := x, posted := true } }).wideDone gid none

/-- The strands of a group that wait in a completed `slack` wait for the descriptor (R143, R144); each path gives up the issue
(R113). -/
def Group.slackWait (g : Group) (h : Nat) : Group :=
  { g.mapStrands (fun _ u =>
      let p := match lanesOf u.wideMask with | k :: _ => (u.lane k).pc | [] => u.gave
      (u.mapLanes (inMask u.wideMask) fun _ l => { l with wait := some (.slack h) }).settle p) with st := GState.running }

/-- `slack` at its completion (R143, R144): its read of the descriptor, and an observer's return, follow every store of the results in the
single order (R151, R512). -/
def State.slackApply (s : State) (gid da ds : Nat) (vals : List W64) : State :=
  match s.group? gid with
  | none => s
  | some g =>
    let cx := s.cxOfWg g.wg
    let h := sgIndex (nth vals 0 0)
    let own := match s.sibOf g with | some (h', i) => if h' = h then some i else none | none => none
    if s.sgHeld cx h then s
    else match s.sgSee cx h with
    | none => s.wideTrap gid .permission
    | some d =>
      let s := s.sgSeen g.core cx h
      match own with
      | some i =>
        let x := nth d.sibs i (siblingOf 0)
        if d.st ≠ .running ∨ !x.posted ∨ x.grp ≠ gid then s.wideTrap gid .sgFault
        else
          let s := s.setSg cx h { d with narr := d.narr + 1, arrivedM := setBit64 d.arrivedM i true }
          (s.modGroup gid fun g => g.slackWait h).sgTrigger cx h
      | none =>
        match d.st with
        | .free => s.wideTrap gid .sgFault
        | .forming => s.modGroup gid fun g => g.slackWait h
        | .running => s.modGroup gid fun g => g.slackWait h
        | .gathering => s.modGroup gid fun g => g.slackWait h
        | _ =>
          let gs := d.gs d.narr 0x80
          let s := s.modGroup gid fun g => { g with gregs := tabSet (tabSet g.gregs da d.mu32) ds gs }
          s.modGroup gid fun g =>
            { g.mapStrands (fun k u => u.release (fun w => w == .groupWide) fun l => if g.arrivedAt k l then d.mu32.setWidth 64 else 0) with gw := none, st := .running }

/-! ### sgcancel, sgq (R145, R147) -/

/-- The group of sibling `i` of a descriptor, if it has not ended. -/
def State.siblingGroup (s : State) (cx h i : Nat) : Option Nat :=
  match s.sg? cx h with
  | some d => (d.sibs[i]?).bind fun x => if x.live then some x.grp else none
  | none => (s.groups.find? fun (_, g) => g.st != .ended && s.sibOf g == some (h, i) && s.cxOfWg g.wg == cx).map Prod.fst

/-- A cancel that passes its checks (R145, R155). -/
def State.sgCancel (s : State) (cx h i : Nat) : State :=
  match s.siblingGroup cx h i with
  | none => s
  | some gid =>
    let s := match s.sg? cx h with
      -- no live copy: the bits are set in the descriptor in memory
      | none =>
        let a := s.sgAddr cx h
        let raise := fun (s : State) (o : Nat) => match s.devRead cx (a + o) 8 with
          | some bs => s.devPut cx (a + o) (leBytes 8 (setBit64 (BitVec.ofNat 64 (leNat bs)) i true).toNat)
          | none => s
        raise (raise s 0x50) 0x58
      | some d =>
        let run := d.st == SgState.running && (nth d.sibs i (siblingOf 0)).status == 0
        let arr := run && bitAt d.arrivedM.toNat i
        s.setSg cx h { d with
          endedM := setBit64 d.endedM i true, cancelledM := setBit64 d.cancelledM i true
          narr := if arr then d.narr - 1 else d.narr
          arrivedM := if arr then setBit64 d.arrivedM i false else d.arrivedM
          sibs := modAt d.sibs i fun x => { x with live := false, status := if run then 3 else x.status } }
    (s.sgEnd gid).sgTrigger cx h

/-- `sgcancel` (R145). A descriptor without a live copy whose memory cannot be read raises PERMISSION (DESIGN CHOICE, log entry 32). -/
def execSgcancel (gd : Guard) (h i : Src) (s : State) : Out :=
  s.word (.sgcancel gd h i) fun e s =>
    let mb := e.strandOp (fun l => [e.src .i32 h l, e.src .i32 i l]) (fun _ => false) false
    if mb.1 = 0 then .next (s.finish e mb.2)
    else s.afterStores e fun s =>
      let hh := sgIndex (e.src .i32 h e.low)
      let n := e.n .i32 i e.low
      if s.sgHeld e.cx hh then .next s.tick
      else match s.sgSee e.cx hh with
      | none => .next (s.finish e (mb.2 ++ allBad mb.1 .permission))
      | some d =>
        let s := s.sgSeen e.unit e.cx hh
        if d.k ≤ n ∨ d.st = .free ∨ d.st = .forming then .next (s.finish e (mb.2 ++ allBad mb.1 .sgFault))
        else .next ((s.finish e (mb.2 ++ done mb.1)).sgCancel e.cx hh n)

/-- A double word of a descriptor in memory as it reads: its reserved bits are zero (R2). -/
def sgMask (i v : Nat) : Nat :=
  match i with
  | 0 => v / 2^32 * 2^32 + bits v 30 24 * 2^24 + bits v 22 16 * 2^16 + bits v 11 8 * 2^8 + bits v 2 0
  | 1 => v / 2^32 * 2^32 + bits v 22 16 * 2^16
  | 3 => v % 2^32
  | 12 => bits v 42 32 * 2^32 + v % 2^32
  | n => if 13 ≤ n then 0 else v

/-- `sgq` of a sibling reads the descriptor's arrays in memory: the addresses of its reward and advantage (R147). -/
def State.sgArrays (s : State) (cx h sel : Nat) (d : SgDesc) : List Nat :=
  let j := sel - 0x40
  if decide (sel < 16) || decide (d.k ≤ j) || (s.sg? cx h).isSome || d.arrays == 0 then []
  else [d.arrays.toNat + 4 * j, d.arrays.toNat + 0x100 + 4 * j]

/-- A value of `sgq` (R147). A reward or an advantage that the context may not read reads 0 (DESIGN CHOICE, log entry 151). -/
def State.sgValue (s : State) (cx h sel : Nat) (d : SgDesc) : Nat :=
  let live := (s.sg? cx h).isSome
  if sel < 16 then (if live then nth d.words sel 0 else sgMask sel (((s.devRead cx (s.sgAddr cx h + 8 * sel) 8).map leNat).getD 0))
  else
    let j := sel - 0x40
    if d.k ≤ j then 0
    else if live then
      let x := nth d.sibs j (siblingOf 0)
      x.reward.toNat * 2^32 + x.adv.toNat
    else if d.arrays = 0 then 0
    else
      let r := ((s.devRead cx (d.arrays.toNat + 4 * j) 4).map leNat).getD 0
      let a := ((s.devRead cx (d.arrays.toNat + 0x100 + 4 * j) 4).map leNat).getD 0
      r * 2^32 + a

/-- `sgq` (R147); an unreadable descriptor raises PERMISSION (DEDUCED). -/
def execSgq (gd : Guard) (d : Nat) (h which : Src) (s : State) : Out :=
  s.word (.sgq gd d h which) fun e s =>
    let sel := e.n .i32 which 0
    let hh := sgIndex (e.src .i32 h e.low)
    let mb := e.strandOp (fun l => [e.src .i32 h l]) (fun _ => false) false
    let held := s.sgHeld e.cx hh || (s.sgSee e.cx hh).any fun x => (s.sgArrays e.cx hh sel x).any (s.devHeld e.cx)
    if mb.1 != 0 && held then .next s.tick
    else s.strandWord e mb fun s =>
      match s.sgSee e.cx hh with
      | none => (s, allBad mb.1 .permission)
      | some x => (((s.sgArrays e.cx hh sel x).foldl (fun s a => s.unitLoad e.cx a) s).sgSeen e.unit e.cx hh, (lanesOf mb.1).map fun l => .reg l (.reg d) .i64 (BitVec.ofNat 64 (s.sgValue e.cx hh sel x)))

/-! ### Steps of the unit -/

/-- The siblings that a timeout ends (R149): live, and not arrived. -/
def SgDesc.late (d : SgDesc) : List Nat := (List.range d.k).filter fun i => (nth d.sibs i (siblingOf 0)).live && !bitAt d.arrivedM.toNat i

/-- The descriptor with those siblings ended by its timeout (R149). -/
def SgDesc.expire (d : SgDesc) : SgDesc :=
  { d with
    endedM := d.late.foldl (fun m i => setBit64 m i true) d.endedM
    cancelledM := d.late.foldl (fun m i => setBit64 m i true) d.cancelledM
    sibs := d.sibs.mapIdx fun i x => if d.late.contains i then { x with live := false, status := 2 } else x }

/-- SG_TIMEOUT (R149). -/
def execSgTimeout (cx h : Nat) (s : State) : Out :=
  match s.sg? cx h with
  | none => s.noEvent
  | some d =>
    if d.st == .running && d.timeout != 0 && decide (d.timeout.toNat ≤ d.elapsed.toNat) && (s.ctx cx).st == .active then
      let t := if d.quorum ≤ d.narr then s.sgState cx h { d.expire with part := true, st := .gathering }
        else s.sgFinish cx h ({ d.expire with qfail := true } : SgDesc).fail
      .next ((d.late.map fun i => (nth d.sibs i (siblingOf 0)).grp).foldl State.sgEnd t)
    else s.noEvent

/-- SG_RESULT (R150, R151). -/
def execSgResult (cx h : Nat) (s : State) : Out :=
  match s.sg? cx h with
  | none => s.noEvent
  | some d => if d.st == .gathering then .next (s.sgFinish cx h d.scored) else s.noEvent

/-- SG_DRAINED (R152): the descriptor is Released and its live copy goes. -/
def execSgDrained (cx h : Nat) (s : State) : Out :=
  match s.sg? cx h with
  | none => s.noEvent
  | some d =>
    if d.st == .scored || d.st == .failed then .next ((s.sgState cx h { d with st := .released }).sgDrop cx h)
    else s.noEvent

end Sys2Proof.Machine
end

