-- ==== Sys2Proof/Machine/Save.lean ====
section
/-!
DEFINITION. Pre-emption and restore (R44, R52 to R58, R82, R131, R132, R154, R170, R369, R382, R422, R425, R440, R514), with the
save image as it is laid out at SAVEBASE.
-/
namespace Sys2Proof.Machine

/-! ### Step 1 of R52 -/

/-- The lane's wait is given up at the stop: waits on barriers, gathers and a `slack` on descriptor `h` of which the placement is
abandoned are saved as not executed (R144, R170, R369); a sleep ends (R382). -/
def Lane.stop (l : Lane) (undone : Nat → Bool) (msgs : List Nat) : Lane :=
  match l.wait with
  | some (.bar ..) => l.withdraw
  | some (.hbar id) => if msgs.contains id then l.withdraw else l
  | some .gather => l.withdraw
  | some (.slack h) => if undone h then l.withdraw else l
  | some (.sleep _) => l.resume 0
  | _ => l

/-- The monitor and the waits of a strand at the stop (R422). -/
def Strand.stop (u : Strand) (undone : Nat → Bool) (msgs : List Nat) : Strand :=
  let u := match u.mon.st with
    | .armed => { u with mon := { u.mon with st := .fired, time := 0 } }
    | .waiting => u.mwaitRelease true
    | _ => u
  let u : Strand := { u with lanes := u.lanes.map fun l => l.stop undone msgs, stall := none }
  u.settle u.gave

/-- A control thread at the stop: a wait of `mwait` with pD is released as on a write (R422). -/
def CThread.stop (c : CThread) (msgs : List Nat) : CThread :=
  let u := c.unit.stop (fun _ => false) msgs
  match c.unit.mon.st, (c.unit.lane 0).wait with
  | .waiting, some (.mwait (some p)) => { c with unit := u, cregs := if p = 0 then c.cregs else tabSet c.cregs p 1 }
  | _, _ => { c with unit := u }

/-- The waits of an agent leave WAITERS, and its wait messages to higher-scope barriers are withdrawn (R170). -/
def State.stopWaits (s : State) (ag : Agent) : State :=
  match s.unit? ag, s.wgOf ag with
  | some u, some w =>
    let s := u.barWaits.foldl (fun s b => s.modBar (.wg w b) fun x => { x with waiters := x.waiters - 1 }) s
    (s.hmsgs.filter fun m => m.ag == ag && m.waiting).foldl
      (fun s m => s.modBar m.bar fun x => { x with waiters := x.waiters - 1 }) s
  | _, _ => s

/-- The workgroups of a context that are resident. -/
def State.liveWgs (s : State) (cx : Nat) : List (Nat × Workgroup) :=
  s.wgs.filter fun (i, w) => !w.ended && s.cxOfWg i == cx

/-- The group states at the stop (R130). -/
def Group.stop (g : Group) (undone : Nat → Bool) (forks : Nat → Bool) (gid : Nat) (msgs : List Nat) : Group :=
  if g.st == .ended || g.st == .saved then g
  else
    let fork := forks gid
    let waitsOn := g.strands.any fun u => u.lanes.any fun l => match l.wait with | some (.slack h) => undone h | _ => false
    let g := { g with
      savedFrom := g.st, st := .saved, gather := none, gw := if fork || waitsOn then none else g.gw
      strands := g.strands.map fun u =>
        let u := u.stop undone msgs
        if fork then
          let u : Strand := { u with lanes := u.lanes.map fun l => if l.wait == some .groupWide then l.withdraw else l }
          u.settle u.gave
        else u }
    g

/-- Pre-emption starts (R52, step 1): strands and control threads stop, stores issued are performed, Forming descriptors are
Free again (R154), kernels are saved with the context (R104). A `publish` that waits is saved as not executed, also one to another rank whose
request is out (R54, R205; DESIGN CHOICE, log entry 153). -/
def State.stopCtx (s : State) (cx : Nat) : State :=
  let ws := s.liveWgs cx
  let loading := (s.groups.filter fun (_, g) => g.st == .loading && s.cxOfWg g.wg == cx).map Prod.fst
  let s := loading.foldl State.loadGroup s
  let ags := ws.flatMap fun (i, _) => s.agentsOf i
  let s := ags.foldl (fun s ag => s.drain ag) s
  let s := ags.foldl State.stopWaits s
  let msgs := (s.hmsgs.filter fun m => ags.contains m.ag && m.op == 2).map fun m => m.id
  let forming := s.sgs.filter fun (key, d) => key / 4096 == cx && d.st == .forming
  let undone := fun h => forming.any fun x => x.1 % 4096 == h
  let forks := fun gid => forming.any fun x => x.2.parent == gid
  let s := forming.foldl (fun s (key, d) => s.sgUnform cx (key % 4096) d) s
  let wids := ws.map Prod.fst
  let s := { s with
    hmsgs := s.hmsgs.filter fun (m : HMsg) => !msgs.contains m.id
    pubs := s.pubs.filter fun (p : PubOp) => !ags.contains p.ag
    icinvs := s.icinvs.filter fun (p : IcinvOp) => !ags.contains p.ag
    groups := s.groups.map fun (x : Nat × Group) => if wids.contains x.2.wg then (x.1, x.2.stop undone forks x.1 msgs) else x
    cts := s.cts.map fun (x : Nat × CThread) => if wids.contains x.1 then (x.1, x.2.stop msgs) else x }
  (s.kernelsOf cx fun (k : KState) => k == .dispatching || k == .running).foldl
    (fun s k => s.modKernel k fun k => { k with savedFrom := k.st, st := .saved }) s

/-- An Active context is pre-empted (R44). One whose restore still runs has nothing to stop: it keeps its image. -/
def State.preemptBy (s : State) (cx : Nat) (sched : Bool) : State :=
  (s.modCtx cx fun c => { c with st := .preempting, bySched := sched, lastcmd := if sched then c.lastcmd else 3 }).stopCtx cx

/-- PREEMPT (R44). -/
def State.preempt (s : State) (cx : Nat) : State :=
  if (s.ctx cx).st == .active then s.preemptBy cx false else s.modCtx cx Context.reject

/-- PREEMPT. -/
def execPreempt (cx : Nat) (s : State) : Out := ctxCommand cx (fun s => s.preempt cx) s

/-! ### The save image (R56 to R58, R131, R514) -/

/-- Code offset of an address of a kernel. -/
def Kernel.offset (k : Kernel) (a : Nat) : Nat := (a + 2^64 - k.code) % 2^32

/-- Trap state of a lane: the 64 bytes of R58. -/
def Lane.trapBlock (l : Lane) (k : Kernel) (gen : Bool) : List Byte :=
  leBytes 8 l.tpc.toNat ++ leBytes 8 l.taddr.toNat ++ [l.tcause, l.tflags, 0, 0] ++ leBytes 4 (if l.thdr = 0 then 0 else k.offset l.thdr)
    ++ leBytes 8 l.tlat0.toNat ++ leBytes 8 l.tlat1.toNat ++ leBytes 8 l.tlat2.toNat ++ leBytes 8 l.tlat3.toNat
    ++ leBytes 4 (if gen then l.gen.toNat else 0) ++ List.replicate 4 0

/-- Lanes 0 to 7 of a strand. -/
def Strand.eight (u : Strand) : List Lane := (List.range 8).map u.lane

/-- The double word at 0x0C8 of a strand record (R58, R132). -/
def Strand.word (u : Strand) (slots : BitVec 6) : Nat :=
  let cwi := match lanesOf u.path with | k :: _ => (u.lane k).cwi | [] => 0
  u.u.toNat * 2^43 + u.swash * 2^34 + slots.toNat * 2^28 + cwi % 16 * 2^24
    + (maskOf fun k => (u.lane k).inHandler).toNat * 2^16 + (maskOf fun k => (u.lane k).parked.isSome).toNat * 2^8 + u.path.toNat

/-- A strand record (R58). -/
def Strand.image (u : Strand) (k : Kernel) (slots : BitVec 6) : List Byte :=
  let ls := u.eight
  (ls.flatMap fun l => leBytes 8 l.pc) ++ (ls.flatMap fun l => leBytes 16 l.preds.toNat)
    ++ ((List.range 8).map fun j => nth u.jmask j 0) ++ leBytes 8 (u.word slots) ++ List.replicate 48 0
    ++ (ls.flatMap fun l => leBytes 8 l.lat0.toNat) ++ (ls.flatMap fun l => leBytes 8 l.lat1.toNat)
    ++ (ls.flatMap fun l => leBytes 8 l.lat2.toNat) ++ (ls.flatMap fun l => leBytes 8 l.lat3.toNat)
    ++ ls.flatMap fun l => l.trapBlock k true

/-- State of a saved group in its record (R131). -/
def GState.imageCode : GState → Nat
  | .running => 1
  | .converging => 2
  | .growing => 3
  | _ => 0

/-- A group record (R131): [23:16] of State is the number of strands that have arrived, not a mask of them (DESIGN CHOICE, log entry 110),
and [15:8] is zero but in Growing, also while a group-wide count is pending in Converging (DESIGN CHOICE, log entry 141). -/
def Group.image (g : Group) (k : Kernel) : List Byte :=
  let st := g.savedFrom.imageCode + g.want % 256 * 2^8
    + (match g.gw with | some w => w.arrived.length % 256 * 2^16 + k.offset w.pc * 2^32 | none => 0)
  ((List.range 64).flatMap fun n => leBytes 4 (tabGet g.gregs 0 n).toNat) ++ leBytes 4 g.base ++ leBytes 4 g.regs
    ++ [BitVec.ofNat 8 (flag g.copyRole), BitVec.ofNat 8 g.prio, 0, 0] ++ leBytes 4 g.entry ++ leBytes 4 g.seq.toNat
    ++ leBytes 4 (g.sib.getD 0xFFFFFFFF) ++ leBytes 8 st ++ List.replicate 224 0

/-- The registers of a control-thread block (R514): bytes 0x000 to 0x22F. -/
def CThread.image (c : CThread) (slots : BitVec 6) : List Byte :=
  let l := c.unit.lane 0
  ((List.range 64).flatMap fun n => leBytes 8 (if n = 0 then 0 else (tabGet c.cregs 0 n).toNat)) ++ leBytes 8 l.pc
    ++ leBytes 8 (flag l.inHandler * 2^10 + slots.toNat * 2^4 + l.cwi % 16)
    ++ leBytes 8 l.lat0.toNat ++ leBytes 8 l.lat1.toNat ++ leBytes 8 l.lat2.toNat ++ leBytes 8 l.lat3.toNat

/-- The accumulators a workgroup has bound: core, accN, physical tile, elements. -/
def State.boundTiles (s : State) (w : Nat) : List (Nat × Nat × Nat × Tab W32) :=
  s.accs.filterMap fun (i, t) => if t.wg == w && t.st == .bound then some (i / 32, t.acc, i % 32, t.data) else none

/-- The map of a control thread's accumulators (R514). -/
def State.accMap (s : State) (w : Nat) : List Byte :=
  (List.range 32).map fun b =>
    match (s.boundTiles w).find? fun x => x.1 % 4 == b / 8 && x.2.1 == b % 8 with
    | some x => BitVec.ofNat 8 (128 + x.2.2.1)
    | none => 0

/-- A tile as it lies in the image: row-major FP32. -/
def tileImage (d : Tab W32) : List Byte := (List.range 1024).flatMap fun e => leBytes 4 (tabGet d 0 e).toNat

/-- The cores and the quads that a context occupies, ascending. -/
def State.coresOf (s : State) (cx : Nat) : List Nat :=
  let cs := (s.liveWgs cx).flatMap fun (_, w) => (List.range w.ncores).map w.coreAt
  (List.range 2048).filter cs.contains

/-- The sections of the image: kind, die, index, offset in units of 4 KiB (R56). -/
def State.sections (s : State) (cx : Nat) : List (Nat × Nat × Nat × Nat) :=
  let cs := s.coresOf cx
  let qs := (List.range 512).filter fun q => cs.any fun c => quadOf c == q
  (qs.mapIdx fun i q => (0, q / 64, q % 64, 16 + 16 * i)) ++ cs.mapIdx fun i c => (1, c / 256, c % 256, 16 + 16 * qs.length + 516 * i)

/-- The header of the image (R56). -/
def State.imageHeader (s : State) (cx : Nat) : List Byte :=
  let secs := s.sections cx
  let head := leBytes 8 0x534B08C0 ++ leBytes 8 cx ++ leBytes 8 ((s.ctx cx).saveseq + 1).toNat ++ leBytes 8 s.dtime.toNat
    ++ leBytes 8 secs.length ++ List.replicate 24 0
    ++ secs.flatMap fun (k, d, i, o) => leBytes 8 (k * 2^48 + d * 2^45 + i * 2^32 + o)
  head ++ List.replicate (65536 - head.length) 0

/-- A section's offset in bytes. -/
def State.sectionAt (s : State) (cx kind die idx : Nat) : Nat :=
  match (s.sections cx).find? fun x => x.1 == kind && x.2.1 == die && x.2.2.1 == idx with
  | some x => 4096 * x.2.2.2
  | none => 0

/-- The pieces of a group in a core section: its window, its strands, its record (R57, R131). -/
def State.groupPieces (s : State) (k : Kernel) (gid : Nat) (g : Group) : List (Nat × List Byte) :=
  (g.base, winRead g.win 0 (4 * g.regs * g.width))
    :: (0x1A0000 + 512 * ((g.strands.head?.map fun u => u.slot).getD 0), g.image k)
    :: g.strands.mapIdx fun j u => (0x120000 + 1024 * u.slot, u.image k (s.slotsSet (.strand gid j)))

/-- The registers of a workgroup as pieces of the image, by offset from SAVEBASE (R56, R57, R514): windows, group and strand records,
barriers, the control thread's registers and trap state. `sec` gives a section's offset. -/
def State.regPieces (s : State) (sec : Nat → Nat → Nat → Nat) (wid : Nat) (w : Workgroup) (k : Kernel) : List (Nat × List Byte) :=
  let core := fun c => sec 1 (c / 256) (c % 256)
  let groups := w.groups.flatMap fun gid => match s.group? gid with
    | some g => if g.st == .ended then [] else (s.groupPieces k gid g).map fun p => (core g.core + p.1, p.2)
    | none => []
  let bars := (core (w.coreAt 0) + 0x1E0000 + 0x100 * w.slot,
    (List.range 16).flatMap fun b =>
      let x := tabGet w.bars Bar.init b
      leBytes 8 x.state ++ leBytes 8 x.count)
  let ct := match s.ct? wid with
    | some c => if c.unit.live then
        let o := sec 0 w.die w.quad + 0x1000 * c.ctIdx
        [(o, c.image (s.slotsSet (.ctl wid))), (o + 0x250, (c.unit.lane 0).trapBlock k false)] else []
    | none => []
  groups ++ [bars] ++ ct

/-- The pieces of a workgroup in the image: tiles and their map, registers; the device's own part of a control-thread block is written as
zero. -/
def State.wgPieces (s : State) (sec : Nat → Nat → Nat → Nat) (wid : Nat) (w : Workgroup) (k : Kernel) : List (Nat × List Byte) :=
  let core := fun c => sec 1 (c / 256) (c % 256)
  let tiles := (s.boundTiles wid).map fun x => (core x.1 + 0x100000 + 4096 * x.2.2.1, tileImage x.2.2.2)
  let map := match s.ct? wid with
    | some c => if c.unit.live then
        [(sec 0 w.die w.quad + 0x1000 * c.ctIdx + 0x230, s.accMap wid),
         (sec 0 w.die w.quad + 0x1000 * c.ctIdx + 0x290, List.replicate 3440 0)] else []
    | none => []
  tiles ++ map ++ s.regPieces sec wid w k

/-- The range is that of an `rcomb` of a context whose round goes on (R453). -/
def State.roundRange (s : State) (cx : Nat) (r : RangeEntry) : Bool :=
  s.rounds.any fun (o : Round) => o.cx == cx && o.packets.any fun q => q.range == r.id

/-- The range-scoreboard entries of a core that the context recorded, from whichever core, and the unstarted window copies of its engine: what
only the device reads back (R57). -/
def State.devicePieces (s : State) (cx c : Nat) (kids : List Nat) : List (Nat × List Byte) :=
  let o := s.sectionAt cx 1 (c / 256) (c % 256)
  let mine := s.copies.filter fun x => kids.contains x.kernel && x.toWindow
  let cps := mine.filter fun x => x.core == c
  let rs := s.ranges.filter fun r => r.core == c && ((mine.any fun x => x.id == r.op) || s.roundRange cx r)
  let pad := fun (n : Nat) (bs : List Byte) => (bs ++ List.replicate (n - bs.length) 0).take n
  [(o + 0x200000, pad 2048 (rs.flatMap fun r => leBytes 8 r.lo ++ leBytes 8 r.hi ++ leBytes 8 r.op ++ leBytes 8 0)),
   (o + 0x200800, pad 2048 (cps.flatMap fun x => pad 64 (leBytes 8 x.id)))]

/-- Bytes are written into the save area, a line at a time; a page that does not admit them is LEASE (R44; DEDUCED). -/
def State.savePut (s : State) (cx va : Nat) (bs : List Byte) : Nat → Except Cause State
  | 0 => .ok s
  | n + 1 =>
    if bs.isEmpty then .ok s
    else
      let k := 64 - va % 64
      match s.devPhys cx va true with
      | .error _ => .error .lease
      | .ok a => (s.poke cx a (bs.take k)).savePut cx (va + k) (bs.drop k) n

/-- Pieces are written at their offsets. -/
def State.savePieces (s : State) (cx : Nat) : List (Nat × List Byte) → Except Cause State
  | [] => .ok s
  | (o, bs) :: t =>
    match s.savePut cx ((s.ctx cx).savebase.toNat + o) bs (bs.length / 64 + 2) with
    | .error c => .error c
    | .ok s => s.savePieces cx t

/-- A core's unified store from offset `o` on goes into the image, 4 KiB at a time (R57). -/
def State.saveStore (s : State) (cx va c o : Nat) : Nat → Except Cause State
  | 0 => .ok s
  | n + 1 =>
    match s.devPhys cx va true with
    | .error _ => .error .lease
    | .ok a =>
      ((({ s with mem := memMove s.mem (storePhys c o) a 4096 }.setKeys cx a 4096).homeWrites a 4096).fireMonitors a 4096).saveStore
        cx (va + 4096) c (o + 4096) n

/-- The unified stores of a list of cores, below their L1 ways, with the register windows on them. -/
def State.saveStores (s : State) (cx : Nat) : List Nat → Except Cause State
  | [] => .ok s
  | c :: t =>
    let o := s.sectionAt cx 1 (c / 256) (c % 256)
    match s.saveStore cx ((s.ctx cx).savebase.toNat + o) c 0 (s.storeLimit c / 4096) with
    | .error e => .error e
    | .ok s =>
      let wins := s.groups.filterMap fun (_, g) =>
        if g.core == c && s.holds g then some (o + g.base, winRead g.win 0 (4 * g.regs * g.width)) else none
      match s.savePieces cx wins with
      | .error e => .error e
      | .ok s => s.saveStores cx t

/-- The save image is written (R52, step 4). Of one whose restore has not ended the sections are in place, and only the header is new. -/
def State.writeImage (s : State) (cx : Nat) : Except Cause State :=
  if (s.ctx cx).restoring then s.savePieces cx [(0, s.imageHeader cx)]
  else
  match s.saveStores cx (s.coresOf cx) with
  | .error c => .error c
  | .ok s =>
  let kids := s.kernelsOf cx fun k => k == .saved
  let ps := (s.liveWgs cx).flatMap fun (i, w) => match s.kernel? w.kernel with
    | some k => s.wgPieces (s.sectionAt cx) i w k
    | none => []
  s.savePieces cx ((0, s.imageHeader cx) :: ps ++ (s.coresOf cx).flatMap fun c => s.devicePieces cx c kids)

/-! ### The image of a saved context (R53, R328) -/

/-- The directory of an image in memory: kind, die, index and offset of each section (R56); empty where it cannot be read. -/
def State.imageDir (s : State) (cx : Nat) : List (Nat × Nat × Nat × Nat) :=
  let b := (s.ctx cx).savebase.toNat
  let n := leNat ((s.devRead cx (b + 0x20) 8).getD []) % 4096
  let es := (s.devReadN cx (b + 0x40) n).getD []
  (List.range (es.length / 8)).map fun i =>
    let e := leNat ((es.drop (8 * i)).take 8)
    (bits e 63 48, bits e 47 45, bits e 39 32, bits e 31 0)

/-- A section's offset in bytes by a directory. -/
def sectionIn (dir : List (Nat × Nat × Nat × Nat)) (kind die idx : Nat) : Nat :=
  match dir.find? fun x => x.1 == kind && x.2.1 == die && x.2.2.1 == idx with
  | some x => 4096 * x.2.2.2
  | none => 0

/-- The bytes in which two readings of the same pieces differ: offset and new byte. -/
def changedBytes (old new : List (Nat × List Byte)) : List (Nat × Byte) :=
  new.flatMap fun p => match old.find? fun q => q.1 == p.1 with
    | none => []
    | some q =>
      if p.2 = q.2 then []
      else (List.range p.2.length).filterMap fun i => if nth p.2 i 0 = nth q.2 i 0 then none else some (p.1 + i, nth p.2 i 0)

/-- A context whose state is held in its image: saved, or under restore. -/
def Context.imaged (c : Context) : Bool := c.st == .saved || c.restoring

/-- What comes to the registers of a saved context goes into its image (R53, R328, R453): arrivals on saved barriers, results that
complete, slots that they clear. -/
def State.imageSync (s old : State) : State :=
  (s.wgs.filter fun (i, w) => !w.ended && (s.ctx (s.cxOfWg i)).imaged && (old.ctx (s.cxOfWg i)).imaged).foldl (fun s (i, w) =>
    match old.wg? i, s.kernel? w.kernel with
    | some v, some k =>
      let sec := sectionIn (s.imageDir k.cx)
      (changedBytes (old.regPieces sec i v k) (s.regPieces sec i w k)).foldl
        (fun s (o, b) => s.devPut k.cx ((s.ctx k.cx).savebase.toNat + o) [b]) s
    | _, _ => s) s

/-- `n` double words of the image from an address on, or the cause that fails the restore (R44). -/
def State.imageRead (s : State) (cx va : Nat) : Nat → Except Cause (List Byte)
  | 0 => .ok []
  | n + 1 =>
    match s.devPhys cx va false with
    | .error _ => .error .lease
    | .ok a =>
      if !s.bytesGood cx a 8 then .error .integrity
      else match s.imageRead cx (va + 8) n with
        | .error c => .error c
        | .ok bs => .ok (memRead s.mem a 8 ++ bs)

/-! ### Save done -/

/-- Step 2 of R52 has ended: no drain and no begun window copy of the context is left, its stores are performed, and its
descriptors have delivered (R154). -/
def State.saveReady (s : State) (cx : Nat) : Bool :=
  let ws := (s.liveWgs cx).map Prod.fst
  let kids := s.kernelsOf cx fun _ => true
  !(s.drains.any fun d => s.cxOfWg d.wg == cx) && !(s.copies.any fun c => kids.contains c.kernel && c.toWindow && c.begun)
    && ws.all (fun w => (s.agentsOf w).all s.drained)
    && !(s.sgs.any fun (key, d) => key / 4096 == cx && (d.st == .gathering || d.st == .scored || d.st == .failed))

/-- A workgroup's store, tiles and places are given up (R52, step 5): what they held is kept with the workgroup. An mma that has
not begun names its accumulator while it is saved. -/
def State.saveWg (s : State) (wid : Nat) : State :=
  match s.wg? wid with
  | none => s
  | some w =>
    match s.kernel? w.kernel with
    | none => s
    | some k =>
      let runs := (List.range w.ncores).map fun r => memRead s.mem (storePhys (w.coreAt r) (nth w.runs r 0)) k.runBytes
      let ts := s.boundTiles wid
      let accOf := fun (core tile : Nat) => ((ts.find? fun x => x.1 == core && x.2.2.1 == tile).map fun x => x.2.1).getD 32
      let mine := fun (t : AccTile) => t.wg == wid && t.st == .bound
      let s := { s with
        mmas := s.mmas.map fun (m : MmaOp) => if m.wg == wid then { m with tile := accOf m.core m.tile } else m
        accs := s.accs.filter fun (e : Nat × AccTile) => !mine e.2 }
      let s := s.modCt wid fun c => { c with savedAccs := ts.map fun x => (x.1, x.2.1, x.2.2.2) }
      s.modWg wid fun w => { w with saved := true, savedRuns := runs }

/-- The ranges of a context's unstarted window copies and of its rounds go into the image (`saved`), or are recorded again. -/
def State.markRanges (s : State) (cx : Nat) (saved : Bool) : State :=
  let kids := s.kernelsOf cx fun _ => true
  let ops := (s.copies.filter fun (c : CopyOp) => kids.contains c.kernel && c.toWindow).map fun c => c.id
  { s with ranges := s.ranges.map fun (r : RangeEntry) => if ops.contains r.op || s.roundRange cx r then { r with saved := saved } else r }

/-- SAVE_DONE (R52, R44): the image is written and the cores are released; a failure on the save area makes the context
Faulted. Live descriptors are written back (R154). -/
def execSaveDone (cx : Nat) (err : Option Cause) (s : State) : Out :=
  if (s.ctx cx).st != .preempting then s.noEvent
  else match err with
    | some c => if c == .integrity || c == .lease || c == .peerLost then .next (s.ctxFail cx c) else s.noEvent
    | none =>
      if !s.saveReady cx then s.noEvent
      else
        let s := (s.sgs.filter fun (key, _) => key / 4096 == cx).foldl (fun s (key, _) => s.sgWriteBack cx (key % 4096)) s
        match s.writeImage cx with
        | .error c => .next (s.ctxFail cx c)
        | .ok s =>
          let again := (s.ctx cx).restoring
          let s := s.markRanges cx true
          let s := ((s.liveWgs cx).map Prod.fst).foldl (fun s w => if again then s.modWg w fun w => { w with saved := true } else s.saveWg w) s
          .next (s.modCtx cx fun c => { c with st := .saved, saveseq := c.saveseq + 1, bySched := false, restoring := false })

/-! ### Dispatch and restore (R55, R82) -/

/-- Every place that a saved context's image names is free (R55, R82). -/
def State.restoreRoom (s : State) (cx : Nat) : Bool :=
  let ws := s.liveWgs cx
  -- below all the ways that come back to a core, and with no other area among them
  let limit := fun c => s.storeLimit c - 2^16 * ws.foldl (fun n (_, w) =>
    if decide (w.coreAt 0 ≤ c) && decide (c < w.coreAt 0 + w.ncores) then n + w.l1w else n) 0
  ws.all fun (i, w) =>
    let others := fun (x : Nat × Workgroup) => !x.2.ended && !x.2.saved
    let cores := (List.range w.ncores).map w.coreAt
    (match s.kernel? w.kernel with
      | none => true
      | some k =>
        (List.range w.ncores).all fun r =>
          let a := nth w.runs r 0
          decide (a + k.runBytes ≤ limit (w.coreAt r)) && freeOf (s.areas (w.coreAt r)) a k.runBytes)
    && w.groups.all (fun gid => match s.group? gid with
      | none => true
      | some g => g.st == .ended || (
        decide (g.base + 4 * g.regs * g.width ≤ limit g.core)
          && freeOf (s.areas g.core) g.base (4 * g.regs * g.width)
          && g.strands.all fun u => !(s.slotsUsed g.core).contains u.slot))
    && s.wgs.all (fun x => !others x || x.2.coreAt 0 != w.coreAt 0 || x.2.slot != w.slot)
    && (match s.ct? i with
      | none => true
      | some c => !c.unit.live || s.cts.all fun (j, d) => match s.wg? j with
        | some x => !others (j, x) || !d.unit.live || x.die != w.die || x.quad != w.quad || d.ctIdx != c.ctIdx
        | none => true)
    && (cores.all fun c => (s.areas c).all fun x => x.2 == x.1 || decide (x.2 ≤ limit c))
    && cores.all fun c =>
      let need := (ws.flatMap fun (j, _) => ((s.ct? j).map fun t => t.savedAccs).getD []).filter fun x => x.1 == c
      let used := (s.accs.filter fun (e : Nat × AccTile) => e.1 / 32 == c && e.2.st != .free).length
      decide (need.length + used ≤ 32)

/-- A context waits for a slot (R82); one whose CEIL is zero is never dispatched (R38). -/
def State.waitsForSlot (s : State) (cx : Nat) : Bool :=
  match (s.ctx cx).st with
  | .ready => (s.ctx cx).ceil != 0 && (tabVals s.kernels).any fun k => k.cx == cx && k.st == .ready
  | .saved => (s.ctx cx).ceil != 0 && s.restoreRoom cx
  | _ => false

/-- Contexts begin and cease to wait for a slot (R82). -/
def State.noteWaits (s : State) : State :=
  (s.ctxs.map Prod.fst).foldl (fun s cx =>
    let w := s.waitsForSlot cx
    if w = (s.ctx cx).waitSince.isSome then s
    else s.modCtx cx fun c => { c with waitSince := if w then some s.dtime else none }) s

/-- CONTEXT_DISPATCH (R44, R82): the waiting context of highest rank takes a free slot. A Saved one takes back its places, and
its restore starts. -/
def execContextDispatch (cx : Nat) (s : State) : Out :=
  if s.firstWaiting == some cx && s.waitsForSlot cx && decide (s.slotHolders.length < 16) then
    let saved := (s.ctx cx).st == .saved
    let s := s.modCtx cx fun c => { c with st := .active, restoring := saved, dispatched := s.clk, waitSince := none }
    .next (if saved then { s with wgs := s.wgs.map fun (i, w) => if w.saved && s.cxOfWg i == cx then (i, { w with saved := false }) else (i, w) }
      else s)
  else s.noEvent

/-- The Active context that the scheduler may pre-empt for a rank (R82): lowest PRIO, then the one dispatched last. -/
def State.victim (s : State) (rank : Nat) : Option Nat :=
  let cs := (s.ctxs.filter fun (_, c) => c.st == .active && !c.restoring).filterMap fun (cx, c) =>
    (s.prioOf cx fun k => k == .dispatching || k == .running).bind fun p =>
      if p + 2 ≤ rank then some (cx, p, c.dispatched.toNat) else none
  (cs.find? fun a => cs.all fun b => decide (a.2.1 < b.2.1) || (a.2.1 == b.2.1 && decide (b.2.2 ≤ a.2.2))).map Prod.fst

/-- SCHEDULER_PREEMPT (R82). -/
def execSchedulerPreempt (cx : Nat) (s : State) : Out :=
  match s.firstWaiting with
  | none => s.noEvent
  | some w =>
    if s.slotHolders.length == 16 && !(s.ctxs.any fun (_, c) => c.st == .preempting && c.bySched)
        && s.victim (s.rankOf w) == some cx then .next (s.preemptBy cx true)
    else s.noEvent

/-- The lowest Free tile of a core. -/
def State.freeTile (s : State) (core : Nat) : Option Nat := (List.range 32).find? fun i => (s.acc core i).st == .free

/-- The saved tiles of a control thread are bound to Free tiles of the same cores (R440). -/
def State.rebind (s : State) (wid : Nat) : List (Nat × Nat × Tab W32) → State
  | [] => s
  | (core, acc, d) :: t =>
    match s.freeTile core with
    | none => s.rebind wid t
    | some i =>
      let s := s.modAcc core i fun _ => ⟨.bound, 0, wid, acc, d⟩
      s.rebind wid t

/-- The mma operations of a restored control thread name physical tiles again. -/
def State.remapMmas (s : State) (wid : Nat) : State :=
  let ts := s.boundTiles wid
  { s with mmas := s.mmas.map fun (m : MmaOp) =>
      if m.wg == wid then
        match ts.find? fun x => x.1 == m.core && x.2.1 == m.tile with
        | some x => { m with tile := x.2.2.1 }
        | none => m
      else m }

/-- The pieces that the image holds otherwise than the state does, as the image has them. -/
def State.editedPieces (s : State) (cx : Nat) : List (Nat × List Byte) → Except Cause (List (Nat × List Byte))
  | [] => .ok []
  | (o, bs) :: t =>
    match s.imageRead cx ((s.ctx cx).savebase.toNat + o) ((bs.length + 7) / 8) with
    | .error c => .error c
    | .ok cs => match s.editedPieces cx t with
      | .error c => .error c
      | .ok r => if cs.take bs.length = bs then .ok r else .ok ((o, cs.take bs.length) :: r)

/-- The number in `n` bytes at an offset of a record. -/
def fieldAt (bs : List Byte) (o n : Nat) : Nat := leNat ((bs.drop o).take n)

/-- A piece among those edited. -/
def editAt (es : List (Nat × List Byte)) (o : Nat) : Option (List Byte) := (es.find? fun e => e.1 == o).map Prod.snd

/-- A lane whose record has another PC starts there at a clause header. -/
def Lane.movedTo (l : Lane) (pc : Nat) : Lane := if pc = l.pc then l else { l with pc := pc, cwi := 0, inClause := false }

/-- The trap state of a record (R58). -/
def Lane.withTrap (l : Lane) (k : Kernel) (bs : List Byte) : Lane :=
  { l with
    tpc := BitVec.ofNat 64 (fieldAt bs 0 8), taddr := BitVec.ofNat 64 (fieldAt bs 8 8)
    tcause := BitVec.ofNat 8 (fieldAt bs 16 1), tflags := BitVec.ofNat 8 (fieldAt bs 17 1)
    thdr := if fieldAt bs 0x14 4 = (if l.thdr = 0 then 0 else k.offset l.thdr) then l.thdr else k.code + fieldAt bs 0x14 4
    tlat0 := BitVec.ofNat 64 (fieldAt bs 0x18 8), tlat1 := BitVec.ofNat 64 (fieldAt bs 0x20 8)
    tlat2 := BitVec.ofNat 64 (fieldAt bs 0x28 8), tlat3 := BitVec.ofNat 64 (fieldAt bs 0x30 8) }

/-- A strand as its record has it (R58, R132). -/
def Strand.restored (u : Strand) (k : Kernel) (bs : List Byte) : Strand :=
  let x := fieldAt bs 0xC8 8
  let lane := fun i (l : Lane) =>
    let l := (l.movedTo (fieldAt bs (8 * i) 8)).withTrap k (bs.drop (0x200 + 64 * i))
    { l with
      cwi := if inMask u.cur i && l.inClause then bits x 27 24 else l.cwi
      preds := BitVec.ofNat 96 (fieldAt bs (0x40 + 16 * i) 12), inHandler := bitAt x (16 + i)
      gen := BitVec.ofNat 32 (fieldAt bs (0x238 + 64 * i) 4)
      lat0 := BitVec.ofNat 64 (fieldAt bs (0x100 + 8 * i) 8), lat1 := BitVec.ofNat 64 (fieldAt bs (0x140 + 8 * i) 8)
      lat2 := BitVec.ofNat 64 (fieldAt bs (0x180 + 8 * i) 8), lat3 := BitVec.ofNat 64 (fieldAt bs (0x1C0 + 8 * i) 8) }
  { u with
    lanes := u.lanes.mapIdx lane, cur := BitVec.ofNat 8 (bits x 7 0), swash := bits x 42 34, u := BitVec.ofNat 8 (bits x 50 43)
    jmask := (List.range 8).map fun j => BitVec.ofNat 8 (fieldAt bs (0xC0 + j) 1) }

/-- A group as the edited pieces have it: its window, g registers, role, priority, entry, and its strands (R57, R131). -/
def Group.restored (g : Group) (k : Kernel) (base : Nat) (es : List (Nat × List Byte)) : Group :=
  let g := match editAt es (base + g.base) with
    | some bs => { g with win := (winWrite [] 0 bs).filter fun e => e.2 != 0 }
    | none => g
  let g := match editAt es (base + 0x1A0000 + 512 * ((g.strands.head?.map fun u => u.slot).getD 0)) with
    | some bs => { g with
        gregs := ((List.range 64).map fun n => (n, BitVec.ofNat 32 (fieldAt bs (4 * n) 4))).filter fun e => e.2 != 0
        copyRole := fieldAt bs 0x108 1 == 1, prio := fieldAt bs 0x109 1 % 4, entry := fieldAt bs 0x10C 4 }
    | none => g
  { g with strands := g.strands.map fun u => match editAt es (base + 0x120000 + 1024 * u.slot) with
      | some bs => u.restored k bs
      | none => u }

/-- A barrier register from BSTATE and BCOUNT (R157, R158). -/
def Bar.ofWords (x : Bar) (a b : Nat) : Bar :=
  { x with
    valid := bitAt a 63, err := bitAt a 62, phase := bitAt a 61, ecause := BitVec.ofNat 8 (bits a 55 48), expect := bits a 31 16
    arrived := bits a 15 0, stray := bits b 47 32, pend := bits b 31 16, waiters := bits b 15 0 }

/-- A control thread as its block has it (R514). -/
def CThread.restored (c : CThread) (bs : List Byte) : CThread :=
  let x := fieldAt bs 0x208 8
  let lane := fun (l : Lane) =>
    let l := l.movedTo (fieldAt bs 0x200 8)
    { l with
      cwi := if l.inClause then bits x 3 0 else l.cwi, inHandler := bitAt x 10
      lat0 := BitVec.ofNat 64 (fieldAt bs 0x210 8), lat1 := BitVec.ofNat 64 (fieldAt bs 0x218 8)
      lat2 := BitVec.ofNat 64 (fieldAt bs 0x220 8), lat3 := BitVec.ofNat 64 (fieldAt bs 0x228 8) }
  { c with
    cregs := ((List.range 63).map fun n => (n + 1, BitVec.ofNat 64 (fieldAt bs (8 * (n + 1)) 8))).filter fun e => e.2 != 0
    unit := { c.unit with lanes := modAt c.unit.lanes 0 lane } }

/-- The registers of a workgroup take what the image holds otherwise. -/
def State.restoreRegs (s : State) (sec : Nat → Nat → Nat → Nat) (wid : Nat) (w : Workgroup) (k : Kernel) (es : List (Nat × List Byte)) :
    State :=
  let core := fun c => sec 1 (c / 256) (c % 256)
  let s := w.groups.foldl (fun s gid => s.modGroup gid fun g => g.restored k (core g.core) es) s
  let s := match editAt es (core (w.coreAt 0) + 0x1E0000 + 0x100 * w.slot) with
    | some bs => s.modWg wid fun w => { w with
        bars := (List.range 16).map fun b => (b, (tabGet w.bars Bar.init b).ofWords (fieldAt bs (16 * b) 8) (fieldAt bs (16 * b + 8) 8)) }
    | none => s
  s.modCt wid fun c =>
    let o := sec 0 w.die w.quad + 0x1000 * c.ctIdx
    let c := match editAt es o with
      | some bs => c.restored bs
      | none => c
    match editAt es (o + 0x250) with
    | some bs => { c with unit := { c.unit with lanes := modAt c.unit.lanes 0 fun l => l.withTrap k bs } }
    | none => c

/-- The elements of a tile from the image. -/
def tileOfImage (bs : List Byte) : Tab W32 :=
  (List.range 1024).filterMap fun e => match fieldAt bs (4 * e) 4 with | 0 => none | v => some (e, BitVec.ofNat 32 v)

/-- The saved tiles of a control thread as the image holds them (R440, R514): the map of its block gives the place of each. -/
def State.imageTiles (s : State) (cx : Nat) (sec : Nat → Nat → Nat → Nat) (map : List Byte) :
    List (Nat × Nat × Tab W32) → Except Cause (List (Nat × Nat × Tab W32))
  | [] => .ok []
  | (c, a, d) :: t =>
    match s.imageTiles cx sec map t with
    | .error e => .error e
    | .ok r =>
      match s.imageRead cx ((s.ctx cx).savebase.toNat + sec 1 (c / 256) (c % 256) + 0x100000
          + 4096 * ((nth map (8 * (c % 4) + a) 0).toNat % 32)) 512 with
      | .error e => .error e
      | .ok bs => .ok ((c, a, if tileImage d = bs then d else tileOfImage bs) :: r)

/-- The runs of a workgroup go from the image into the unified stores. -/
def State.restoreRuns (s : State) (cx : Nat) (sec : Nat → Nat → Nat → Nat) (w : Workgroup) (n : Nat) : List Nat → Except Cause State
  | [] => .ok s
  | r :: t =>
    let c := w.coreAt r
    match s.imageRead cx ((s.ctx cx).savebase.toNat + sec 1 (c / 256) (c % 256) + nth w.runs r 0) (n / 8) with
    | .error e => .error e
    | .ok bs => ({ s with mem := memWrite s.mem (storePhys c (nth w.runs r 0)) bs } : State).restoreRuns cx sec w n t

/-- A workgroup is restored from the image (R55, R57, R440): its store, its registers and its tiles; its groups take the state they
held (R130). -/
def State.restoreWg (s : State) (cx : Nat) (sec : Nat → Nat → Nat → Nat) (wid : Nat) : Except Cause State :=
  match s.wg? wid, (s.wg? wid).bind fun w => s.kernel? w.kernel with
  | some w, some k =>
    match s.editedPieces cx (s.regPieces sec wid w k), s.restoreRuns cx sec w k.runBytes (List.range w.ncores),
        s.imageRead cx ((s.ctx cx).savebase.toNat + sec 0 w.die w.quad + 0x1000 * ((s.ct? wid).map fun c => c.ctIdx).getD 0 + 0x230) 4 with
    | .error e, _, _ => .error e
    | _, .error e, _ => .error e
    | .ok es, .ok s, m =>
      let s := s.restoreRegs sec wid w k es
      let accs := ((s.ct? wid).map fun c => c.savedAccs).getD []
      match m.toOption, s.imageTiles cx sec (m.toOption.getD []) accs with
      | _, .error e => .error e
      | _, .ok ts =>
        let s := ((s.rebind wid ts).remapMmas wid).modCt wid fun c => { c with savedAccs := [] }
        let s := s.modWg wid fun w => { w with savedRuns := [] }
        .ok (w.groups.foldl (fun s g => s.modGroup g fun g => if g.st == .saved then { g with st := g.savedFrom } else g) s)
  | _, _ => .ok s

/-- The workgroups of a context are restored. -/
def State.restoreWgs (s : State) (cx : Nat) (sec : Nat → Nat → Nat → Nat) : List Nat → Except Cause State
  | [] => .ok s
  | w :: t => match s.restoreWg cx sec w with
    | .error e => .error e
    | .ok s => s.restoreWgs cx sec t

/-- The L1 contents of a context's cores are not kept over a save (R55). -/
def State.dropWays (s : State) (cx : Nat) : State :=
  let cores := (s.liveWgs cx).flatMap fun x => (List.range x.2.ncores).map x.2.coreAt
  { s with l1 := s.l1.filter fun l => !cores.contains l.core }

/-- RESTORE_DONE (R44, R55): every workgroup is back at its places with L1 ways that hold nothing, the saved window copies are reissued and their ranges
recorded again, and strands continue where they stood, with the registers, runs and tiles that the image holds; a failure on the save
area makes the context Faulted. The live descriptors are as they were written back: a software store to one in memory changes nothing
that the unit uses (R135, R154; log entry 139). -/
def execRestoreDone (cx : Nat) (err : Option Cause) (s : State) : Out :=
  if (s.ctx cx).st != .active || !(s.ctx cx).restoring then s.noEvent
  else match err with
    | some c => if c == .integrity || c == .lease || c == .peerLost then .next (s.ctxFail cx c) else s.noEvent
    | none =>
      match s.restoreWgs cx (sectionIn (s.imageDir cx)) ((s.liveWgs cx).map Prod.fst) with
      | .error c => .next (s.ctxFail cx c)
      | .ok s =>
      let s := (s.kernelsOf cx fun k => k == .saved).foldl (fun s k => s.modKernel k fun k => { k with st := k.savedFrom }) s
      .next ((((s.markRanges cx false).modCtx cx fun c => { c with restoring := false }).dropWays cx).ctxIdle cx)

end Sys2Proof.Machine
end

