-- ==== Sys2Proof/Machine/RegBlocks.lean ====
section
/-!
DEFINITION. The register blocks of control space (R33, R61, R96, R218, R237, R251, R268, R504): where a register lies, reads and
writes of it, and who may make them.
-/
namespace Sys2Proof.Machine

/-! ### Places -/

/-- A double word of a register block. -/
inductive Block where
  | ctx (cx off : Nat)
  | queue (q off : Nat)
  | trans (cx off : Nat)
  | memory (off : Nat)
  | fabric (off : Nat)
  | mgmt (off : Nat)
  | tile (die i : Nat) (hi : Bool)
  | reserved
  deriving DecidableEq, Repr

/-- The register of a package that lies at a block offset, a multiple of 8. -/
def blockAt (o : Nat) : Block :=
  if o < 0x10000 then .ctx (o / 0x100) (o % 0x100)
  else if o < 0x30000 then .queue ((o - 0x10000) / 0x80) (o % 0x80)
  else if o < 0x40000 then .reserved
  else if o < 0x48000 then .trans ((o - 0x40000) / 0x80) (o % 0x80)
  else if o < 0x50000 then .reserved
  else if o < 0x60000 then .memory (o - 0x50000)
  else if o < 0x70000 then .fabric (o - 0x60000)
  else if o < 0x70100 then .mgmt (o - 0x70000)
  else if o < 0x80000 then .reserved
  else .tile ((o - 0x80000) / 0x10000) (o % 0x10000 / 16) (o % 16 == 8)

/-- Where the double word of an address lies: in this package, in another rank's blocks, or nowhere. Until the package is Ready
every rank decodes as its own (R504). -/
def State.blockOf (s : State) (a : Nat) : Option (Option Block) :=
  let o := a - blockBase
  let r := o / 2^20
  if a < blockBase ∨ 64 ≤ r then none
  else if !s.isReady || r == s.fab.rank then some (some (blockAt (o % 2^20 / 8 * 8)))
  else some none

/-! ### Reads -/

/-- Codes of tide states (R237). -/
def Tide.code : Tide → Nat
  | .active => 0
  | .idle => 1
  | .retention => 2
  | .off => 3

/-- TIDEj: 32 segments of 2 bits (R237). -/
def State.tideReg (s : State) (j : Nat) : Nat :=
  (List.range 32).foldl (fun n k => n + (if 32 * j + k < 824 then (s.seg (32 * j + k)).tide.code * 4^k else 0)) 0

/-- PHASETABp (R239). -/
def PhaseTab.word (p : PhaseTab) : Nat := p.rett.toNat * 2^32 + p.idlet.toNat * 2^16 + p.keep

/-- A register of the memory block (R237). -/
def State.memBlockRead (s : State) (off : Nat) : Nat :=
  if off < 0xD0 then s.tideReg (off / 8)
  else if 0x100 ≤ off ∧ off < 0x140 then (nth s.mb.phasetab ((off - 0x100) / 8) (PhaseTab.init 0)).word
  else if off = 0x140 then flag s.mb.tideRej * 2^63 + s.mb.tideSeg % 2^10 * 2^16
  else if off = 0x148 then s.mb.replpool.toNat
  else if off = 0x150 then s.mb.dlbudget.toNat
  else if 0x1000 ≤ off ∧ off < 0x1000 + 8 * 2084 then (tabGet s.mb.dlmiss 0 ((off - 0x1000) / 8)).toNat
  else 0

/-- The value of a register; write-only and reserved ones read zero (R2, R6). -/
def State.regRead (s : State) (b : Block) : Nat :=
  match b with
  | .ctx cx off => s.ctxRead cx off
  | .queue q off => (s.queue q).read off
  | .trans cx off => (s.ctx cx).xread off
  | .memory off => s.memBlockRead off
  | .fabric off => s.fab.read off
  | .mgmt off => s.mgmt.read off
  | .tile d i hi => if hi then (s.tile d i).word1 else (s.tile d i).word0
  | .reserved => 0

/-! ### Writes -/

/-- CTXCMD (R35, R508). -/
def State.ctxCmd (s : State) (cx v : Nat) : State :=
  if !s.isReady then s.modCtx cx Context.reject
  else match v % 256 with
    | 1 => s.build cx
    | 2 => s.commit cx
    | 3 => s.preempt cx
    | 4 => s.destroy cx
    | 5 => s.clear cx
    | _ => s.modCtx cx Context.reject

/-- A write of a context register (R34). -/
def State.ctxWrite (s : State) (cx off : Nat) (v : W64) : State :=
  match off with
  | 0x00 => s.ctxCmd cx v.toNat
  | 0x08 => s.modCtx cx fun c => c.clearRej v.toNat
  | 0x30 => s.setBudget cx v.toNat
  | 0x38 => s.setPhase cx v.toNat
  | 0x58 => s.modCtx cx fun c => c.clearCerr v.toNat
  | _ => s.modCtx cx fun c => c.write off v

/-- A write of a register of the memory block (R237, R239, R242); read-only ones, and REPLPOOL while a context is Active, stay. -/
def State.memBlockWrite (s : State) (off : Nat) (v : W64) : State :=
  let n := v.toNat
  if 0x100 ≤ off ∧ off < 0x140 then
    { s with mb := { s.mb with phasetab := modAt s.mb.phasetab ((off - 0x100) / 8) fun _ =>
        ⟨BitVec.ofNat 16 (n / 2^32), BitVec.ofNat 16 (n / 2^16), n % 2^10⟩ } }
  else if off = 0x140 then s.tideCmd n
  else if off = 0x148 then
    if s.ctxs.any fun (_, c) => c.st == .active then s else ({ s with mb := { s.mb with replpool := lo32 v } } : State).poolOn
  else if off = 0x150 then { s with mb := { s.mb with dlbudget := v &&& 0xFFFFFFFFFFFF } }
  else s

/-- A write of a register of the fabric block (R251, R252). -/
def State.fabricWrite (s : State) (off : Nat) (v : W64) : State :=
  if off = 0x018 then s.modFab fun f => { f with collto := lo32 v }
  else if 0x100 ≤ off ∧ off < 0x100 + 0x20 * 12 ∧ off % 0x20 = 0x10 then s.modPort ((off - 0x100) / 0x20) (Port.command v.toNat)
  else s

/-- A write of a register of the management block (R504, R505). -/
def State.mgmtWrite (s : State) (off : Nat) (v : W64) : State :=
  match off with
  | 0x00 => s.modMgmt fun m => m.clearRej v.toNat
  | 0x18 => s.fwcmd v.toNat
  | _ => s.modMgmt fun m => m.write off v

/-- A write of a register; `dev`: by device code. -/
def State.regWrite (s : State) (b : Block) (v : W64) (dev : Bool) : State :=
  match b with
  | .ctx cx off => s.ctxWrite cx off v
  | .queue q off => s.queueWrite q off v
  | .trans cx off => s.xwrite cx off v
  | .memory off => s.memBlockWrite off v
  | .fabric off => s.fabricWrite off v
  | .mgmt off => s.mgmtWrite off v
  | .tile d i hi => s.tileStore d i hi v.toNat dev
  | .reserved => s

/-- A write of part of a register leaves its other bytes as they read; in a register that acts on what is written to it (a
command, W1C bits, a wake) they are written as zero (DESIGN CHOICE). -/
def Block.acts (b : Block) : Bool :=
  match b with
  | .ctx _ off => off == 0x00 || off == 0x08 || off == 0x58
  | .queue _ off => off == 0x20 || off == 0x28 || off == 0x70
  | .trans _ off => off == 0x30 || off == 0x38
  | .memory off => off == 0x140
  | .fabric off => off != 0x018
  | .mgmt off => off == 0x00 || off == 0x18
  | _ => false

/-- The double word with `n` bytes from byte `o` replaced. -/
def mergeWord (old o n v : Nat) : Nat :=
  let k := 2^(8 * o)
  old % k + v % 2^(8 * n) * k + old / (k * 2^(8 * n)) * (k * 2^(8 * n))

/-! ### Accesses to bytes -/

/-- The bytes [a, a + n) of the blocks; a register of another package gives a free value. -/
def State.blockLoad (s : State) (a n : Nat) : List Byte × State :=
  let word := fun (s : State) (w : Nat) => match s.blockOf w with
    | some (some b) => (s.regRead b, s)
    | some none => (s.free.1.toNat, s.free.2)
    | none => (0, s)
  let (x, s) := word s (a / 8 * 8)
  if a % 8 + n ≤ 8 then ((leBytes 8 x).drop (a % 8) |>.take n, s)
  else
    let (y, s) := word s (a / 8 * 8 + 8)
    ((leBytes 8 x ++ leBytes 8 y).drop (a % 8) |>.take n, s)

/-- `n` bytes of a value, within one double word, go into a register; monitors see the write (R421). -/
def State.blockPut (s : State) (a n v : Nat) (dev : Bool) : State :=
  let s := match s.blockOf a with
    | some (some b) => s.regWrite b (BitVec.ofNat 64 (mergeWord (if b.acts then 0 else s.regRead b) (a % 8) n v)) dev
    | _ => s
  s.fireMonitors a n

/-- Bytes are stored into the blocks. -/
def State.blockStore (s : State) (a : Nat) (bs : List Byte) (dev : Bool) : State :=
  let k := min bs.length (8 - a % 8)
  let s := s.blockPut a k (leNat (bs.take k)) dev
  if bs.length ≤ k then s else s.blockPut (a + k) (bs.length - k) (leNat (bs.drop k)) dev

/-- What device code does to a register. -/
inductive BlockUse where
  | load | store | max | other
  deriving DecidableEq, Repr

/-- Device code of a context may make the access to a register (R33, R61, R218, R251, R268, R504). -/
def State.blockRight (s : State) (cx : Nat) (b : Block) (use : BlockUse) : Bool :=
  match b with
  | .queue q off =>
    (s.queue q).cx == cx && (match use with
      | .load => off == 0x00 || off == 0x08 || off == 0x10 || off == 0x18 || off == 0x50
      | .store => off == 0x70 || ((s.queue q).devtail && (off == 0x00 || off == 0x18))
      | .max => (s.queue q).devtail && (off == 0x00 || off == 0x18)
      | .other => false)
  | .tile d i _ => use == .store && (s.tile d i).cx == cx
  | _ => false

/-- Bytes [a, a + n) of the blocks are open to device code of a context. At another package the kinds of queue register that R61
opens are taken as open, and checked there; whether it admits a store to its tile table is a free value (R268). -/
def State.blockOpen (s : State) (cx a n : Nat) (use : BlockUse) : Bool :=
  -- only an 8-byte store or `atom.max` acts on QTAIL and QCHEAD; a narrower one raises PERMISSION (R70)
  let whole := fun (b : Block) => use == .load || (match b with | .queue _ off => (off != 0x00 && off != 0x18) || n == 8 | _ => true)
  (List.range ((a % 8 + n + 7) / 8)).all fun k =>
    match s.blockOf (a / 8 * 8 + 8 * k) with
    | some (some b) => s.blockRight cx b use && whole b
    | some none => whole (blockAt ((a / 8 * 8 + 8 * k - blockBase) % 2^20)) && match blockAt ((a / 8 * 8 + 8 * k - blockBase) % 2^20) with
      | .queue _ off => (use == .load && (off == 0x00 || off == 0x08 || off == 0x10 || off == 0x18 || off == 0x50))
          || (use == .store && (off == 0x70 || off == 0x00 || off == 0x18)) || (use == .max && (off == 0x00 || off == 0x18))
      | .tile .. => use == .store && Config.peerOwns (a / 16 * 16) s.clk cx
      | _ => false
    | none => false

/-- REGISTER_WRITE (R6): software writes a register of this package, at its control address. -/
def execRegisterWrite (addr : Nat) (v : W64) (s : State) : Out :=
  match s.blockOf (addr / 8 * 8) with
  | some (some b) => .next (s.regWrite b v false)
  | _ => .fault .noSuchAddress

/-- Queue registers that the device has changed are seen by monitors on their lines (R421). -/
def State.queueMonitors (s : State) (old : State) : State :=
  s.queues.foldl (fun s (q, x) =>
    let y := old.queue q
    let a := blockBase + 2^20 * s.fab.rank + 0x10000 + 0x80 * q
    let diff := fun lo => (List.range 8).any fun k => x.read (lo + 8 * k) != y.read (lo + 8 * k)
    let s := if diff 0 then s.fireMonitors a 8 else s
    if diff 0x40 then s.fireMonitors (a + 0x40) 8 else s) s

end Sys2Proof.Machine
end

