-- ==== Sys2Proof/Machine/MemOps.lean ====
section
/-!
DEFINITION. Loads, stores, fragments and atomics: opcodes 0xB0 to 0xB8 (R397 to R416).
-/
namespace Sys2Proof.Machine

/-! ### Accesses of the lanes of a word -/

/-- One access that a lane is to make: address, bytes, alignment. -/
structure Plan where
  va : Nat
  n : Nat
  align : Nat

/-- One access that has passed its checks. -/
structure Spot where
  lane : Nat
  va : Nat
  n : Nat
  loc : Loc

/-- The effective address a + sext(o) (R397). -/
def Env.ea (e : Env) (a o : Src) (l : Nat) : Nat := wrap 64 ((e.n .i64 a l : Int) + e.i .i32 o l)

/-- The checks of one access (R399); a register block answers by its own rules (R33, R61). -/
def State.spotOf (s : State) (e : Env) (tlbs : List Nat) (need : Need) (use : BlockUse) (l : Nat) (p : Plan) : Except Cause Spot × State :=
  match s.locate e tlbs p.va p.n p.align need with
  | (.error c, s) => (.error c, s)
  | (.ok (.block a), s) => (if s.blockOpen e.cx a p.n use then .ok ⟨l, p.va, p.n, .block a⟩ else .error .permission, s)
  | (.ok x, s) => (.ok ⟨l, p.va, p.n, x⟩, s)

/-- Every access of a lane is checked in order: the first that fails gives the lane's cause (R412). -/
def State.spotsOf (s : State) (e : Env) (tlbs : List Nat) (need : Need) (use : BlockUse) (l : Nat) :
    List Plan → Except LaneOut (List Spot) × State
  | [] => (.ok [], s)
  | p :: ps =>
    match s.spotOf e tlbs need use l p with
    | (.error c, s) => (.error (.bad l c (BitVec.ofNat 64 p.va)), s)
    | (.ok x, s) =>
      match s.spotsOf e tlbs need use l ps with
      | (.error o, s) => (.error o, s)
      | (.ok xs, s) => (.ok (x :: xs), s)

/-- The lanes whose accesses all pass, with them, and the causes of the others. -/
def State.locateLanes (s : State) (e : Env) (tlbs : List Nat) (need : Need) (use : BlockUse) :
    List (Nat × List Plan) → (List (Nat × List Spot) × List LaneOut) × State
  | [] => (([], []), s)
  | (l, ps) :: t =>
    let (r, s) := s.spotsOf e tlbs need use l ps
    let ((good, bad), s) := s.locateLanes e tlbs need use t
    match r with
    | .ok xs => (((l, xs) :: good, bad), s)
    | .error o => ((good, o :: bad), s)

/-- The accesses of the lanes that go on. -/
def allSpots (good : List (Nat × List Spot)) : List Spot := good.flatMap Prod.snd

/-- Lines of memory that accesses touch. -/
def spotLines (xs : List Spot) : List Nat :=
  (xs.filterMap fun x => match x.loc with | .phys a _ _ => some (lineOf a) | _ => none).eraseDups

/-- Lanes that find no free miss-status entry for their loads, in ascending order (R195): a core has 128, of which the lanes before take `ls`. -/
def State.lanesFull (s : State) (c : Nat) : List Nat → List (Nat × List Spot) → List Nat
  | _, [] => []
  | ls, (l, xs) :: t =>
    let new := (spotLines xs).filter fun x => !ls.contains x && s.missNew c x
    if !new.isEmpty && decide (128 < (s.misses.filter fun m => m.unit == c).length + ls.length + new.length) then l :: s.lanesFull c ls t
    else s.lanesFull c (ls ++ new) t

/-- Lanes that share a line with a lane that waits wait with it: one request serves them (R194). Each round finds those of the one before. -/
def waitsWith (good : List (Nat × List Spot)) : Nat → List Nat → List Nat
  | 0, ws => ws
  | n + 1, ws =>
    let ls := (good.filter fun x => ws.contains x.1).flatMap fun x => spotLines x.2
    waitsWith good n ((good.filter fun x => ws.contains x.1 || (spotLines x.2).any ls.contains).map Prod.fst)

/-- The lanes whose accesses wait (R207, R216, R241, R266) or find no miss-status entry (R195); the others are served without them (R233). -/
def State.waiting (s : State) (e : Env) (need : Need) (good : List (Nat × List Spot)) : List Nat :=
  waitsWith good 8 ((good.filter fun x => x.2.any fun y => s.mustWait e y.n need y.loc).map Prod.fst
    ++ (if need.rd then s.lanesFull e.unit [] good else []))

/-- The accesses of lanes that are served now, and of those that wait. -/
def State.splitLanes (s : State) (e : Env) (need : Need) (good : List (Nat × List Spot)) : List (Nat × List Spot) × List (Nat × List Spot) :=
  good.partition fun x => !(s.waiting e need good).contains x.1

/-- The word waits in its lanes `held`; it has served those of `got` (R233). What the waiting accesses need starts (R193, R241), and one clk passes,
of which performance counts the kind (R457). -/
def State.spotStall (s : State) (e : Env) (need : Need) (held : List (Nat × List Spot)) (got : List (Nat × List (List Byte)) := []) : State :=
  let xs := held.flatMap Prod.snd
  let kind := (xs.findSome? fun x => s.waitKind e x.n need x.loc) <|>
    (if need.rd && xs.any (fun x => match x.loc with | .phys a _ _ => s.missNew e.unit a | _ => false) then some 4 else none)
  let s := xs.foldl (fun s x => s.wakeLoc e need x.loc) s
  { (s.modUnit e.ag fun u => { u with asked := some (u.asked.getD s.dtime), part := u.part ++ got }).tick with stallOn := kind }

/-- The deadline of the word's requests (R245): they were issued when the word first asked for memory. -/
def State.wordDue (s : State) (e : Env) : W64 := s.dueFrom (e.u.asked.getD s.dtime) 0

/-- The lanes that the word has served before, and those that it serves now, in ascending order. -/
def lanesServed (old got : List (Nat × List (List Byte))) : List (Nat × List (List Byte)) :=
  (List.range 8).filterMap fun l => (old ++ got).find? fun x => x.1 == l

/-- The lanes that a word has still to serve (R233). -/
def Env.todo (e : Env) (plans : List (Nat × List Plan)) : List (Nat × List Plan) := plans.filter fun p => !(e.u.part.any fun x => x.1 == p.1)

/-- The bytes of one access (R185, R189), by the logical time at which the instruction issued in `s0` (R194). -/
def State.readSpot (s s0 : State) (e : Env) (x : Spot) : List Byte × State :=
  match x.loc with
  | .phys a shared repl => (s0.peekPhys e.unit a x.n shared repl, s)
  | .win o => (((s.group? e.gid).map fun g => winRead g.win o x.n).getD [], s)
  | .block a => ((s.blockLoad a x.n).1, (s.blockLoad a x.n).2.blockTime e.unit)
  | .held => ([], s)

/-- The bytes of a lane's accesses, in their order. -/
def State.readSpots (s s0 : State) (e : Env) : List Spot → List (List Byte) × State
  | [] => ([], s)
  | x :: t =>
    let (b, s) := s.readSpot s0 e x
    let (bs, s) := s.readSpots s0 e t
    (b :: bs, s)

/-- The lanes' bytes, in ascending lanes. -/
def State.readAll (s s0 : State) (e : Env) : List (Nat × List Spot) → List (Nat × List (List Byte)) × State
  | [] => ([], s)
  | (l, xs) :: t =>
    let (bs, s) := s.readSpots s0 e xs
    let (os, s) := s.readAll s0 e t
    ((l, bs) :: os, s)

/-- One access of memory takes its place in the single order, with a miss-status entry where it misses (R189, R195); a request of a core
without L1 ways is served at once (R246). -/
def State.timeSpot (s s0 : State) (e : Env) (x : Spot) : State :=
  match x.loc with
  | .phys a shared repl =>
    let s := if isStore a || s.l1Ways e.unit != 0 then s else s.served e.core (s.wordDue e)
    (s.noteMiss e.unit e.cx x.va a (s.wordDue e)).timePhys s0 e.unit a shared repl
  | _ => s

/-- The accesses of an instruction, one for each line that they touch (R194). -/
def perLine : List Nat → List Spot → List Spot
  | _, [] => []
  | seen, x :: t => match x.loc with
    | .phys a _ _ => if seen.contains (lineOf a) then perLine seen t else x :: perLine (lineOf a :: seen) t
    | _ => perLine seen t

/-- The lanes read (R194): each line at one point in the single order, for all of them. -/
def State.readLanes (s : State) (e : Env) (good : List (Nat × List Spot)) : List (Nat × List (List Byte)) × State :=
  ((perLine [] (allSpots good)).foldl (fun t x => t.timeSpot s e x) s).readAll s e good

/-- A word that loads (R402, R409, R412): every lane is checked before any access is made; the results are long-latency (R327), and it
completes when the last lane has been served (R233). `pre` are the outcomes of lanes that make no access. -/
def State.loads (s : State) (e : Env) (tlbs : List Nat) (pre : List LaneOut) (plans : List (Nat × List Plan))
    (f : Nat → List (List Byte) → LaneOut) : Out :=
  s.afterStores e fun s =>
    let ((good, bad), s) := s.locateLanes e tlbs Need.load .load (e.todo plans)
    let (go, held) := s.splitLanes e Need.load good
    let (got, s) := s.readLanes e go
    if !held.isEmpty then .next (s.spotStall e Need.load held got)
    else .next (s.finish e (pre ++ ((lanesServed e.u.part got).map fun x => f x.1 x.2) ++ bad) true)

/-! ### Stores -/

/-- A number set among rising numbers. -/
def insAsc (n : Nat) : List Nat → List Nat
  | [] => [n]
  | m :: t => if n < m then n :: m :: t else if n = m then m :: t else m :: insAsc n t

/-- The lines `ls` in an order in which every sequence of `seqs` touches them: each time the first that no sequence still has one before, if there
is any such. -/
def lineOrder : Nat → List (List Nat) → List Nat → List Nat
  | 0, _, ls => ls
  | n + 1, seqs, ls =>
    match (ls.find? fun x => seqs.all fun q => q.head? == some x || !q.contains x) <|> ls.head? with
    | none => []
    | some x => x :: lineOrder n (seqs.map fun q => q.filter (· != x)) (ls.filter (· != x))

/-- The requests of one instruction, with their deadline and the %clk of its issue (R186, R245): one for each line (R194), so that each lane makes
its accesses in their order (R411), and in ascending addresses where that leaves a choice; their parts in ascending lanes (R403). -/
def requests (pc : Nat) (due clk : W64) (ps : List StorePart) : List QStore :=
  let ls := ps.foldl (fun ls p => insAsc (lineOf p.addr) ls) []
  let seqs := (List.range 8).map fun l => (ps.filter fun p => p.lane == l).map fun p => lineOf p.addr
  (lineOrder ls.length seqs ls).map fun x =>
    let mine := ps.filter fun p => lineOf p.addr == x
    ⟨pc, due, (List.range 64).all (fun k => mine.any fun p => decide (p.addr ≤ x + k) && decide (x + k < p.addr + p.bytes.length)), mine, clk⟩

/-- A store into the issuing group's register window, or into a register block. -/
def State.directStore (s : State) (e : Env) (x : Spot) (bs : List Byte) : State :=
  match x.loc with
  | .win o =>
    (s.modGroup e.gid fun g => { g with win := winWrite g.win o bs }).fireMonitors (storePhys e.core (e.grp.base + o)) bs.length
  | .block a => (s.blockStore a bs true).blockTime e.unit
  | _ => s

/-- The access goes through the store queue. -/
def Spot.queued (x : Spot) : Bool := match x.loc with | .phys .. => true | _ => false

/-- The lanes' stores: those of memory enter the store queue (R191, R404), the others are made at once. -/
def State.makeStores (s : State) (e : Env) (ws : List (Spot × List Byte)) : State :=
  let s := ws.foldl (fun s (x, bs) => s.directStore e x bs) s
  let ps := ws.filterMap fun (x, bs) => match x.loc with | .phys a _ _ => some ⟨x.lane, x.va, a, bs⟩ | _ => none
  s.modUnit e.ag fun u => { u with stores := u.stores ++ requests e.lane0.pc (s.wordDue e) s.clk ps }

/-- A word that stores (R402, R409, R412): every lane is checked before any access is made, and it completes when the last lane has been
served (R233). `data`: what a lane stores by each of its accesses. -/
def State.storeLanes (s : State) (e : Env) (tlbs : List Nat) (pre : List LaneOut) (plans : List (Nat × List Plan))
    (data : Nat → List (List Byte)) : Out :=
  let ((good, bad), s) := s.locateLanes e tlbs Need.store .store (e.todo plans)
  let (go, held) := s.splitLanes e Need.store good
  let ws := go.flatMap fun (l, xs) => xs.zip (data l)
  let got := go.map fun x => (x.1, ([] : List (List Byte)))
  let run := fun (s : State) =>
    let s := s.makeStores e ws
    if !held.isEmpty then Host.Outcome.next (s.spotStall e Need.store held got)
    else .next (s.finish e (pre ++ ((lanesServed e.u.part got).map fun x => .ok x.1 [] 0) ++ bad))
  if ws.all fun w => w.1.queued then run s else s.afterStores e run

/-! ### Values -/

/-- Bytes of an access size (R401). -/
def memBytes : MemSize → Nat
  | .b8 => 1
  | .b16 => 2
  | .b32 => 4
  | .b64 => 8
  | .b128 => 16

/-- The four words that a 16-byte result fills (R401). -/
def quadRes (d : Dst) (v : Nat) : List Res :=
  (List.range 4).filterMap fun j =>
    let w := BitVec.ofNat 32 (v / 2^(32 * j))
    match d with
    | .reg n => some (.d32 (.reg (n + j)) w)
    | .g n => some (.d32 (.g (n + j)) w)
    | .lat0 => none

/-- The result of a load of `n` bytes (R402): extended below 4 bytes. A 16-byte result fills four registers and is no result
that a latch takes (R324). -/
def loadOut (l : Nat) (d : Dst) (n : Nat) (sx : Bool) (bs : List Byte) : LaneOut :=
  let v := leNat bs
  if n = 16 then .ok l (quadRes d v) 0
  else if n = 8 then .reg l d .i64 (BitVec.ofNat 64 v)
  else .reg l d .i32 (BitVec.ofNat 64 (if n < 4 && sx then wrap 32 (sgn (8 * n) v) else v))

/-- The bytes of store data (R401). -/
def Env.storeBytes (e : Env) (a : Src) (n l : Nat) : List Byte :=
  if n = 16 then
    (List.range 4).flatMap fun j => leBytes 4 (match a with
      | .reg r => e.vreg (r + j) l
      | .g r => e.greg (r + j)
      | _ => 0).toNat
  else leBytes n (e.n (if n = 8 then .i64 else .i32) a l)

/-- `ld` (R402, R403). -/
def execLd (gd : Guard) (d : Dst) (a o : Src) (sx : Bool) (size : MemSize) (s : State) : Out :=
  s.word (.ld gd d a o sx size) fun e s =>
    let n := memBytes size
    s.loads e e.tlbs [] ((lanesOf e.act).map fun l => (l, [⟨e.ea a o l, n, n⟩])) fun l bs => loadOut l d n sx bs.flatten

/-- `st` (R402 to R404). -/
def execSt (gd : Guard) (a o sv : Src) (size : MemSize) (s : State) : Out :=
  s.word (.st gd a o sv size) fun e s =>
    let n := memBytes size
    s.storeLanes e e.tlbs [] ((lanesOf e.act).map fun l => (l, [⟨e.ea a o l, n, n⟩])) fun l => [e.storeBytes sv n l]

/-! ### Tensor-addressed access (R405 to R409) -/

/-- Vector registers that a word turns out to name lie beyond the allotment (R126). -/
def Env.regsBeyond (e : Env) (rs : List (Nat × Nat)) : Bool := rs.any fun r => decide (e.grp.regs < r.1 + r.2)

/-- Vector registers that a word turns out to name have a result to come or lie in a recorded range (R207, R327). -/
def State.regsWait (s : State) (e : Env) (rs : List (Nat × Nat)) : Bool :=
  let hit := fun (n : Nat) => rs.any fun r => decide (r.1 ≤ n) && decide (n < r.1 + r.2)
  (s.pend.any fun p => p.ag == e.ag && p.writes.any fun w => match w with | .vreg n _ _ => hit n | _ => false)
    || rs.any fun r => (List.range r.2).any fun j =>
      let lo := e.grp.base + 4 * ((r.1 + j) * e.grp.width + 8 * e.k)
      s.rangeHit e.core lo (lo + 32)

/-- The coordinates of a lane: v[X + d] for d below RANK, signed (R409). -/
def Env.coords (e : Env) (x rank l : Nat) : List Int := (List.range rank).map fun d => sgn 32 (e.vreg (x + d) l).toNat

/-- The kernel keeps a table entry on the quad (R406). -/
def State.recordKept (s : State) (e : Env) (h : Nat) : Bool := ((s.kernel? e.kid).bind fun x => tabFind? x.handles (handleKey e.core h)).isSome

/-- The read of a table entry stalls: its walk meets, or it lies in, a line whose home's directory is being rebuilt (R266). -/
def State.recordHeld (s : State) (e : Env) (h : Nat) : Bool := !s.recordKept e h && s.devHeld e.cx (s.shapeAddr e.cx h)

/-- A table entry that the kernel does not keep on the quad is read after the thread's stores (R191, R406). -/
def State.afterRecord (s : State) (e : Env) (h : Nat) (k : State → Out) : Out :=
  if s.recordKept e h then k s else s.afterStores e fun s => if s.recordHeld e h then .next s.tick else k s

/-- The record of a uniform shape handle (R119, R406), then a body with the lanes that carry out the word, the causes of the
others, and the record. -/
def State.withShape (s : State) (e : Env) (h : Src) (body : ShapeRec → BitVec 8 → List LaneOut → State → Out) : Out :=
  let (m, bads) := e.uniform fun l => [e.src .i32 h l]
  if m = 0 then .next (s.finish e bads)
  else s.afterRecord e (e.n .i32 h e.low) fun s =>
    let hv := e.n .i32 h e.low
    match s.record e.kid e.cx e.core hv shapeOf with
    | (.error c, s) =>
      .next (s.finish e (bads ++ allBad m c (if c = .permission then BitVec.ofNat 64 (s.shapeAddr e.cx hv) else 0)))
    | (.ok r, s) => body r m bads s

/-- `ldt` (R409). -/
def execLdt (gd : Guard) (d : Nat) (h : Src) (x : Nat) (sx : Bool) (s : State) : Out :=
  s.word (.ldt gd d h x sx) fun e s =>
    s.withShape e h fun r m bads s =>
      let rs := [(x, r.rank), (d, if r.size = 8 then 2 else 1)]
      if (r.size == 8 && d % 2 == 1) || e.regsBeyond rs then .next (s.finish e (bads ++ allBad m .illegalEncoding))
      else if s.regsWait e rs then .next s.tick
      else
        let xs := e.coords x r.rank
        let out := fun l bs => loadOut l (.reg d) r.size sx bs
        let (clip, go) := (lanesOf m).partition fun l => r.clipped (xs l)
        s.loads e [walkerOf e.core] (bads ++ clip.map fun l => out l r.fillBytes)
          (go.map fun l => (l, [⟨r.addr (xs l), r.size, r.size⟩])) fun l bs => out l bs.flatten

/-- The data of `stt` fits an element size (R401): a constant or a literal only at 4 B and 8 B, an even pair at 8 B (DEDUCED). -/
def Env.sttOk (e : Env) (sv : Src) (n : Nat) : Bool :=
  (match sv with
    | .const _ => decide (4 ≤ n)
    | .lit _ => decide (4 ≤ n)
    | _ => true) && (n != 8 || srcOk e.ctl e.cl e.lane0.cwi (sv, .i64))

/-- `stt` (R409). -/
def execStt (gd : Guard) (h : Src) (x : Nat) (sv : Src) (s : State) : Out :=
  s.word (.stt gd h x sv) fun e s =>
    s.withShape e h fun r m bads s =>
      let rs := (x, r.rank) :: (match sv with | .reg n => [(n, if r.size = 8 then 2 else 1)] | _ => [])
      if !e.sttOk sv r.size || e.regsBeyond rs then .next (s.finish e (bads ++ allBad m .illegalEncoding))
      else if s.regsWait e rs then .next s.tick
      else
        let xs := e.coords x r.rank
        let (clip, go) := (lanesOf m).partition fun l => r.clipped (xs l)
        s.storeLanes e [walkerOf e.core] (bads ++ clip.map fun l => .ok l [] 0)
          (go.map fun l => (l, [⟨r.addr (xs l), r.size, r.size⟩])) fun l => [e.storeBytes sv r.size l]

/-! ### Fragments (R410 to R412) -/

/-- Element width in bits (R410). -/
def fragBits : FragEl → Nat
  | .e16 => 16
  | .e8 => 8
  | .e4 => 4

/-- The places of a lane's fragment row or column (R411); `i` is %lane. -/
def fragPlans (t : Bool) (b a p i : Nat) : List Plan :=
  if !t then [⟨(a + i * p) % 2^64, 16, 1⟩, ⟨(a + i * p + 16) % 2^64, 16, 1⟩]
  else if b = 4 then (List.range 64).map fun k => ⟨(a + k * p + i / 2) % 2^64, 1, 1⟩
  else (List.range (256 / b)).map fun k => ⟨(a + k * p + i * (b / 8)) % 2^64, b / 8, 1⟩

/-- The 256 bits that the bytes of a lane's accesses form (R410, R411). -/
def fragWord (t : Bool) (b i : Nat) (bs : List (List Byte)) : Nat :=
  if t && b == 4 then
    (bs.foldr (fun x n => 16 * n + (if i % 2 = 0 then leNat x % 16 else leNat x / 16 % 16)) 0)
  else leNat bs.flatten

/-- The bytes of each access of a lane that holds 256 bits (R411). -/
def fragBytes (t : Bool) (b v : Nat) : List (List Byte) :=
  if !t then [leBytes 16 v, leBytes 16 (v / 2^128)]
  else (List.range (256 / b)).map fun k => leBytes (b / 8) (v / 2^(b * k))

/-- A fragment word: a and p are uniform, and their alignment is checked at every active lane (R412). -/
def State.fragment (s : State) (e : Env) (a p : Src) (t : Bool) (el : FragEl)
    (body : List LaneOut → List (Nat × List Plan) → State → Out) : Out :=
  let (m, bads) := e.uniform fun l => [e.src .i64 a l, e.src .i32 p l]
  if m = 0 then .next (s.finish e bads)
  else
    let b := fragBits el
    let av := e.n .i64 a e.low
    let pv := e.n .i32 p e.low
    let q := if t then b / 8 else 16
    if q ≠ 0 && (av % q != 0 || pv % q != 0) then .next (s.finish e (bads ++ allBad m .align (BitVec.ofNat 64 av)))
    else body bads ((lanesOf m).map fun l => (l, fragPlans t b av pv (8 * e.k + l))) s

/-- `ldfr` (R410 to R412). -/
def execLdfr (gd : Guard) (d : Nat) (a p : Src) (t : Bool) (el : FragEl) (s : State) : Out :=
  s.word (.ldfr gd d a p t el) fun e s =>
    s.fragment e a p t el fun bads plans s =>
      s.loads e e.tlbs bads plans fun l bs =>
        let v := fragWord t (fragBits el) (8 * e.k + l) bs
        .ok l ((List.range 8).map fun r => .d32 (.reg (d + r)) (BitVec.ofNat 32 (v / 2^(32 * r)))) 0

/-- `stfr` (R410 to R412). -/
def execStfr (gd : Guard) (a p : Src) (sv : Nat) (t : Bool) (el : FragEl) (s : State) : Out :=
  s.word (.stfr gd a p sv t el) fun e s =>
    s.fragment e a p t el fun bads plans s =>
      s.storeLanes e e.tlbs bads plans fun l =>
        fragBytes t (fragBits el) ((List.range 8).foldl (fun n r => n + (e.vreg (sv + r) l).toNat * 2^(32 * r)) 0)

/-! ### Atomics (R413 to R415) -/

/-- The new value of an atomic of `w` bits (R413). -/
def atomNew (op : AtomOp) (w64 : Bool) (old b : Nat) : Nat :=
  let w := if w64 then 64 else 32
  match op with
  | .add => (old + b) % 2^w
  | .and => old &&& b
  | .or => old ||| b
  | .xor => old ^^^ b
  | .min => if sgn w b < sgn w old then b else old
  | .max => if sgn w old < sgn w b then b else old
  | .umin => min old b
  | .umax => max old b
  | .xchg => b
  | .fadd => if w64 then Fmt.f64.sum .rn false [Fmt.f64.unpack old, Fmt.f64.unpack b] else addRn old b

/-- The replica set of a page, its home die included (R214). -/
def State.replicaSet (s : State) (cx va a : Nat) : List Nat :=
  let set_ := match s.walk cx va with
    | .ok l => (s.page cx (l.page va)).repset
    | .error _ => 0
  (List.range 8).filter fun d => bitAt set_ d || d == homeDie a

/-- An update of a Replicated page that every die of its set has applied is the content of memory (R215). -/
def State.repSettle (s : State) (r : RepUpdate) : State :=
  if r.dies.isEmpty then ({ s with reps := s.reps.filter fun x => x.id != r.id }.servedAt r.due).poke r.cx r.addr r.bytes else s

/-- The sequencer takes an update of a Replicated page (R215): its time, and the dies that are to apply it; until they have, loads go by
the bound and the time before it (R216). `home`: the home replica applies it at once, as for an atomic. -/
def State.repUpdate (s : State) (ag : Option Agent) (cx u va a : Nat) (bs : List Byte) (home : Bool) (issued : W64)
    (due : Option (Nat × W64)) : State :=
  let x := lineOf a
  let old := s.lineTime x
  let t := umax64 (s.ptsOf u) (old.rts + 1)
  let r : RepUpdate :=
    ⟨s.nextId, ag, cx, a, bs, t, (s.replicaSet cx va a).filter fun d => !(home && d == homeDie a), old.rts, old.wts, issued, due⟩
  ((({ s with
    nextId := s.nextId + 1, lines := tabSet s.lines x ⟨t, t⟩
    reps := s.reps ++ [r] } : State).setPts u t).touch a).repSettle r

/-- The bytes that an atomic finds: at the home slice, or at the home replica, which has applied the updates of the lanes before it
(R186, R215, R414). -/
def State.atomRead (s : State) (e : Env) (x : Spot) : List Byte × State :=
  match x.loc with
  | .phys a _ _ => ((s.repsOn a x.n).foldl (fun bs r => overlay a bs r.addr r.bytes) (memRead s.mem a x.n), s)
  | _ => s.readSpot s e x

/-- The bytes that an atomic leaves: one event with the read, in which home and mirror hold them (R185, R265). -/
def State.atomWrite (s : State) (e : Env) (x : Spot) (bs : List Byte) : State :=
  match x.loc with
  | .phys a _ (some _) => s.repUpdate (some e.ag) e.cx e.unit x.va a bs true s.clk (some (e.core, s.wordDue e))
  | .phys a shared none => (s.served e.core (s.wordDue e)).storePhysBytes e.cx e.unit a bs shared
  | _ => s.directStore e x bs

/-- An atomic that writes nothing, a `cas` that fails: its place in the single order is that of an atomic all the same (R189). -/
def State.atomPass (s : State) (e : Env) (x : Spot) : State :=
  match x.loc with
  | .phys a shared _ => ((s.storeTime e.unit a shared).ctlOwn (unitDie e.unit) a).touch a
  | _ => s

/-- The atomics of the lanes, in ascending order (R413, R414): each lane's new value from its old one; none writes nothing. With it the old
values. -/
def State.atomLanes (s : State) (e : Env) (n : Nat) (f : Nat → Nat → Option Nat) :
    List (Nat × List Spot) → List (Nat × List (List Byte)) × State
  | [] => ([], s)
  | (l, xs) :: t =>
    let (bs, s) := match xs with
      | x :: _ =>
        let (bs, s) := s.atomRead e x
        (bs, match f l (leNat bs) with
          | some v => s.atomWrite e x (leBytes n v)
          | none => s.atomPass e x)
      | [] => ([], s)
    let (os, s) := s.atomLanes e n f t
    ((l, [bs]) :: os, s)

/-- A word of per-lane atomics of `n` bytes (R399, R413), which completes when the last lane has been served (R233). -/
def State.atomics (s : State) (e : Env) (n : Nat) (a : Src) (use : BlockUse) (f : Nat → Nat → Option Nat) (out : Nat → Nat → LaneOut) : Out :=
  s.afterStores e fun s =>
    let ((good, bad), s) := s.locateLanes e e.tlbs Need.rmw use (e.todo ((lanesOf e.act).map fun l => (l, [⟨e.n .i64 a l, n, n⟩])))
    let (go, held) := s.splitLanes e Need.rmw good
    let (got, s) := s.atomLanes e n f go
    if !held.isEmpty then .next (s.spotStall e Need.rmw held got)
    else .next (s.finish e (((lanesServed e.u.part got).map fun x => out x.1 (leNat x.2.flatten)) ++ bad) true)

/-- The old value of an atomic as a lane's result. -/
def atomOut (d : Nat) (w64 : Bool) (l old : Nat) : LaneOut := .reg l (.reg d) (if w64 then .i64 else .i32) (BitVec.ofNat 64 old)

/-- On a register `atom.max` follows the register's own rule, which is unsigned (R70). -/
def regOp (op : AtomOp) (va : Nat) : AtomOp := if op = .max ∧ blockBase ≤ va ∧ va < 2^48 then .umax else op

/-- `atom` (R413 to R415): no outcome depends on the scope. -/
def execAtom (gd : Guard) (d : Nat) (a b : Src) (sc : Scope) (w64 : Bool) (op : AtomOp) (s : State) : Out :=
  s.word (.atom gd d a b sc w64 op) fun e s =>
    s.atomics e (if w64 then 8 else 4) a (if op = .max then .max else .other)
      (fun l old => some (atomNew (regOp op (e.n .i64 a l)) w64 old (e.n (op.ty w64) b l))) (atomOut d w64)

/-- `cas` (R413 to R415). -/
def execCas (gd : Guard) (d : Nat) (a x y : Src) (sc : Scope) (w64 : Bool) (s : State) : Out :=
  s.word (.cas gd d a x y sc w64) fun e s =>
    let ty := if w64 then Ty.i64 else .i32
    s.atomics e (if w64 then 8 else 4) a .other (fun l old => if old = e.n ty x l then some (e.n ty y l) else none) (atomOut d w64)

/-! ### Remote atomics (R416) -/

/-- The checks of a remote atomic at issue (R416). -/
def State.ratomCheck (s : State) (e : Env) (va n : Nat) : Option Cause :=
  if va % n != 0 then some .align
  else match spaceOf s.fab va with
    | some (.own o) => if !inHbm o then some .addrTag else if e.kern.leases true va n then none else some .lease
    | some (.other r o) => if !inHbm o then some .addrTag else if bitAt s.fab.lostmap.toNat r then some .peerLost else none
    | _ => some .addrTag

/-- One lane's remote atomic is accepted: its result is outstanding until it completes. -/
def State.ratomSend (s : State) (e : Env) (d va : Nat) (w64 : Bool) (op : AtomOp) (v : W64) (l : Nat) : State :=
  let id := s.nextId
  let ws := Res.lands e.ctl l (if w64 then .d64 (.reg d) 0 else .d32 (.reg d) 0)
  { s with
    nextId := id + 2
    ratoms := s.ratoms ++ [⟨id, e.ag, l, e.kid, va, w64, op, v, id + 1, none, s.dueIn 1⟩]
    pend := s.pend ++ [⟨id + 1, e.ag, e.cl.slot, false, ws⟩] }

/-- The latch lat0 of a lane whose remote atomic has just issued awaits its result (R324). -/
def State.owe (s : State) (ag : Agent) (from_ : Nat) : State :=
  (s.ratoms.filter fun r => decide (from_ ≤ r.id)).foldl (fun s r =>
    s.modUnit ag fun u => { u with lanes := modAt u.lanes r.lane fun l => { l with owed := some r.id :: l.owed.drop 1 } }) s

/-- `ratom` (R416): checked lane by lane, applied and completed later; its result reaches the latch then too (R324). -/
def execRatom (gd : Guard) (d : Nat) (a b : Src) (w64 : Bool) (op : AtomOp) (s : State) : Out :=
  s.word (.ratom gd d a b w64 op) fun e s =>
    let n := if w64 then 8 else 4
    let (bad, good) := (lanesOf e.act).partition fun l => (s.ratomCheck e (e.n .i64 a l) n).isSome
    let t := good.foldl (fun s l => s.ratomSend e d (e.n .i64 a l) w64 op (e.src (op.ty w64) b l) l) s
    .next ((t.finish e ((good.map fun l => .ok l [] 0)
      ++ bad.filterMap fun l => (s.ratomCheck e (e.n .i64 a l) n).map fun c => .bad l c (e.src .i64 a l))).owe e.ag s.nextId)

end Sys2Proof.Machine
end

