-- ==== Sys2Proof/Machine/MemSync.lean ====
section
/-!
DEFINITION. Fences, buffers and `publish`, monitors, tier moves and `lastuse`: opcodes 0xB9 to 0xBF and their device steps
(R199 to R212, R243, R244, R261, R262, R416 to R424).
-/
namespace Sys2Proof.Machine

/-! ### Asynchronous operations (R209) -/

/-- The destination scope of an engine write at a virtual address (R209), by the address of its first byte; in control space it is pod, also
where the frames are homed at this package (DESIGN CHOICE, log entry 152). -/
def State.destScope (s : State) (cx core va : Nat) : Nat :=
  match spaceOf s.fab va with
  | some (.own o) =>
    if !inHbm o then 4
    else match s.walk cx va with
      | .ok l => if homeDie (s.physBy cx va l.pte l.psize true) = core / 256 then 3 else 4
      | .error _ => 4
  | _ => 5

/-- The destination scope of a copy. -/
def State.copyScope (s : State) (c : CopyOp) : Nat :=
  let core := s.coreOf c.ag
  match c.dst with
  | .buffer b off => s.destScope (s.cxOf c.ag) core (b.view + off)
  | .window to_ _ _ => if to_ = core then 1 else 2
  | .multi _ _ => 2

/-- The scopes of an agent's asynchronous operations that are not complete (R209). A group-wide `rcomb` belongs to every strand
of its group (DEDUCED); a gather tile has the scope of `tready`, pod (DESIGN CHOICE, log entry 152). -/
def State.asyncScopes (s : State) (ag : Agent) : List Nat :=
  let core := s.coreOf ag
  (s.copies.filterMap fun c => if c.ag == ag then some (s.copyScope c) else none)
    ++ (s.drains.filterMap fun d => if Agent.ctl d.wg == ag then some (match d.kind with | .entry _ => 5 | _ => 1) else none)
    ++ (s.arrivals.filterMap fun a => if a.ag == some ag then some 2 else none)
    ++ (s.tiers.filterMap fun t => if t.ag == ag then some (s.destScope (s.cxOf ag) core t.dst) else none)
    ++ (s.ratoms.filterMap fun r => if r.ag == ag then some (if bits r.addr 61 48 = s.fab.rank then 4 else 5) else none)
    ++ (s.rounds.flatMap fun o => o.packets.filterMap fun p => if sameGroup p.ag ag then some 3 else none)
    ++ (s.tiles.filterMap fun (_, t) => if t.issuer == some ag && t.st == .fired then some 5 else none)

/-- Scope codes, with lane acting as core (R24, R210). -/
def scopeCode : Scope → Nat
  | .lane => 1
  | .core => 1
  | .quad => 2
  | .die => 3
  | .pkg => 4
  | .pod => 5

/-- The oldest failed remote atomic of a lane that a fence of a scope reports (R262, R418). -/
def State.failOf (s : State) (ag : Agent) (sc l : Nat) : Option RatomFail :=
  s.ratomFails.find? fun f => f.ag == ag && f.lane == l && decide ((if f.pod then 5 else 4) ≤ sc)

/-- The failures that a fence reports are no longer pending. -/
def State.dropFails (s : State) (fs : List RatomFail) : State :=
  fs.foldl (fun s f => { s with ratomFails := s.ratomFails.erase f }) s

/-- The logical time of the completions that a fence of a scope covers (R210). -/
def Strand.doneTime (u : Strand) (sc : Nat) : W64 := u.doneAt.foldl (fun t x => if x.1 ≤ sc then umax64 t x.2 else t) 0

/-- A fence ends: the issuer's later accesses follow the completed asynchronous operations that it covers (R210, R211), and each active lane
raises the oldest pending cause that it covers (R418). -/
def State.fenceEnd (s : State) (e : Env) (sc : Nat) : State :=
  let fs := (lanesOf e.act).filterMap fun l => s.failOf e.ag sc l
  let outs := (lanesOf e.act).map fun l => match s.failOf e.ag sc l with
    | some f => LaneOut.bad l f.cause (BitVec.ofNat 64 f.addr) 1
    | none => .ok l [] 0
  ((s.raisePts e.unit (e.u.doneTime sc)).dropFails fs).finish e outs

/-- How many of an agent's asynchronous operations of a scope are not complete. -/
def State.asyncOpen (s : State) (ag : Agent) (sc : Nat) : Nat := ((s.asyncScopes ag).filter (· == sc)).length

/-- The completions of an agent's asynchronous operations in a step are noted for its fences, each at a time at or after every event so far (R210;
DESIGN CHOICE, log entry 114). -/
def State.noteDone (s old : State) (ag : Agent) : State :=
  [1, 2, 3, 4, 5].foldl (fun s sc =>
    if s.asyncOpen ag sc < old.asyncOpen ag sc then s.modUnit ag fun u => { u with doneAt := tabSet u.doneAt sc s.devNow } else s) s

/-- `fence.sc` (R210, R417, R418): it waits for the issuer's operations whose scope it covers (DESIGN CHOICE: R417 leaves open
whether a fence waits). -/
def execFence (gd : Guard) (sc : Scope) (s : State) : Out :=
  s.word (.fence gd sc) fun e s =>
    if e.act = 0 then .next (s.finish e [])
    else if (s.asyncScopes e.ag).any fun x => decide (x ≤ scopeCode sc) then .next s.tick
    else .next (s.fenceEnd e (scopeCode sc))

/-- `fence.tc` (R211, R417, R418). -/
def execFenceTc (gd : Guard) (s : State) : Out :=
  s.word (.fenceTc gd) fun e s =>
    if e.act = 0 then .next (s.finish e [])
    else s.afterStores e fun s =>
      if !(s.asyncScopes e.ag).isEmpty || s.homes.any (fun h => h.ag == some e.ag) then .next s.tick
      else .next (s.fenceEnd e 5)

/-! ### Remote atomics at their target (R212, R261, R262) -/

/-- The page of a leaf is Resident, Leased or Replicated (R261). -/
def State.pageHere (s : State) (cx va : Nat) (l : Leaf) : Bool := let st := s.pageState cx va l; st == 2 || st == 3 || st == 4

/-- A page of the own tensor table admits a remote atomic (R261): its physical address, or PERMISSION. -/
def State.ratomPage (s : State) (cx va : Nat) : Option Nat :=
  if (s.ctx cx).st == .free || (s.ctx cx).st == .building then none
  else match s.walk cx va with
    | .ok l =>
      if pteWr l.pte && s.pageHere cx va l then some (s.physBy cx va l.pte l.psize false) else none
    | .error _ => none

/-- `s` with remote atomic `id` changed. -/
def State.modRatom (s : State) (id : Nat) (f : RatomOp → RatomOp) : State :=
  { s with ratoms := s.ratoms.map fun r => if r.id == id then f r else r }

/-- A remote atomic on this package waits: its segment is not Active (R241), or an update of a Replicated page is pending on its line
(R215). -/
def State.ratomWaits (s : State) (cx va a : Nat) : Bool := !s.segReady a || (s.replicated cx va && !(s.repsOn (lineOf a) 64).isEmpty)

/-- A remote atomic is applied at this package, for a context and an issuing agent or another package (R212, R241, R248): the old value, or
the cause of its failure; none while it waits. It is by another filler than any core (R192), at a point after every event so far. -/
def State.ratomAt (s : State) (cx : Nat) (ag : Option Agent) (va : Nat) (w64 : Bool) (op : AtomOp) (val : W64) : Option (W64 ⊕ Cause) × State :=
  let n := if w64 then 8 else 4
  let s := (s.translate [] devUnit cx va).2
  match s.ratomPage cx va with
  | none => (some (.inr .permission), s)
  | some a =>
    if s.ratomWaits cx va a then (none, s.wakeFor cx a)
    else if !s.bytesGood cx a n then (some (.inr .integrity), s)
    else
      let old := leNat (memRead s.mem a n)
      let new := leBytes n (atomNew op w64 old val.toNat)
      let s := s.devTick
      (some (.inl (BitVec.ofNat 64 old)),
        if s.replicated cx va then s.repUpdate ag cx devUnit va a new true s.clk none else s.storePhysBytes cx devUnit a new true)

/-- The remote atomic is applied at this package. -/
def State.ratomHere (s : State) (r : RatomOp) : State :=
  match s.ratomAt (s.cxOf r.ag) (some r.ag) r.addr r.w64 r.op r.val with
  | (none, s) => s
  | (some x, s) => s.modRatom r.id fun r => { r with applied := some x }

/-- The remote atomic is applied at another package: what it finds there is free, a failure included. -/
def State.ratomThere (s : State) (r : RatomOp) : State :=
  let (c, s) := s.free
  let (v, s) := s.free
  let x : W64 ⊕ Cause :=
    if c = 0 then .inr .permission else if c = 1 then .inr .integrity else .inl (if r.w64 then v else (lo32 v).setWidth 64)
  s.modRatom r.id fun r => { r with applied := some x }

/-- RATOM_APPLY (R212): those of one issuer to one 8-byte location are applied in issue order. -/
def execRatomApply (id : Nat) (s : State) : Out :=
  match s.ratoms.find? fun r => r.id == id with
  | none => s.noEvent
  | some r =>
    if r.applied.isSome || s.ratoms.any (fun x => x.ag == r.ag && x.id < id && x.addr / 8 == r.addr / 8 && x.applied.isNone) then
      s.noEvent
    else if bits r.addr 61 48 = s.fab.rank then .next (s.ratomHere r)
    else if bitAt s.fab.lostmap.toNat (bits r.addr 61 48) then .next (s.modRatom id fun r => { r with applied := some (.inr .peerLost) })
    else .next (s.ratomThere r)

/-- A register result's value becomes known. -/
def RegWrite.fill (v : W64) (w64 : Bool) (k : Nat) : RegWrite → RegWrite
  | .vreg n l _ => .vreg n l (if w64 && k == 1 then hi32 v else lo32 v)
  | .greg n _ => .greg n (if w64 && k == 1 then hi32 v else lo32 v)
  | .creg n _ => .creg n v

/-- A lane of an agent is live. -/
def State.laneLive (s : State) (ag : Agent) (l : Nat) : Bool := ((s.unit? ag).map fun u => (u.lane l).live).getD false

/-- A latch that a remote atomic's result belongs in takes it. -/
def lateAt (owed : List (Option Nat)) (id : Nat) (v : W64) (k : Nat) (x : W64) : W64 := if nth owed k none == some id then v else x

/-- The result of remote atomic `id` reaches the latch that holds its place, and its image at a trap (R324, R48). -/
def Lane.lateLat (l : Lane) (id : Nat) (v : W64) : Lane :=
  let f := lateAt l.owed id v
  let g := lateAt l.towed id v
  { l with lat0 := f 0 l.lat0, lat1 := f 1 l.lat1, lat2 := f 2 l.lat2, lat3 := f 3 l.lat3
           tlat0 := g 0 l.tlat0, tlat1 := g 1 l.tlat1, tlat2 := g 2 l.tlat2, tlat3 := g 3 l.tlat3 }

/-- RATOM_COMPLETE (R262): the old value, or zero on a failure, becomes the outstanding result, and comes to the latch that holds its place
(R324); the cause waits for a fence, or goes to the kernel's completion record when the lane has exited. -/
def execRatomComplete (id : Nat) (s : State) : Out :=
  match s.ratoms.find? fun r => r.id == id with
  | none => s.noEvent
  | some r =>
    match r.applied with
    | none => s.noEvent
    | some x =>
      let v : W64 := match x with | .inl v => v | .inr _ => 0
      let s : State := { s with
        ratoms := s.ratoms.filter fun x => x.id != id
        pend := s.pend.map fun p => if p.id == r.pend then { p with ready := true, writes := p.writes.mapIdx fun k w => w.fill v r.w64 k } else p }
      let s := (s.modUnit r.ag fun u => { u with lanes := modAt u.lanes r.lane fun l => l.lateLat id v }).served (s.coreOf r.ag) r.due
      match x with
      | .inl _ => .next s
      | .inr c =>
        if s.laneLive r.ag r.lane then
          .next { s with ratomFails := s.ratomFails ++ [⟨r.ag, r.lane, r.addr, c, bits r.addr 61 48 != s.fab.rank⟩] }
        else .next (s.modKernel r.kernel fun k => { k with late := some (k.late.getD c) })

/-! ### Buffers and `publish` (R199 to R205, R419) -/

/-- Two byte ranges overlap. -/
def overlaps (a n b m : Nat) : Bool := decide (a < b + m) && decide (b < a + n)

/-- The engine writes into a buffer that have been accepted at this package and have not completed (R201, R202). A collective
is named by 2^64 and its entry's number, a checkpoint copy by 2^65 and its buffer. -/
def State.engineWrites (s : State) (cx view len : Nat) : List Nat :=
  (s.copies.filterMap fun c => match c.dst with
    | .buffer b off => if s.cxOf c.ag == cx && overlaps (b.view + off) (b.len - off) view len then some c.id else none
    | _ => none)
    ++ (s.tiers.filterMap fun t => if s.cxOf t.ag == cx && overlaps t.dst t.len view len then some t.id else none)
    ++ (s.inWrites.filterMap fun w => if w.cx == cx && overlaps (s.ownVa w.ofs) w.data.length view len then some w.id else none)
    ++ (s.tiles.filterMap fun (key, t) =>
      if t.st == .fired && t.cx == cx && overlaps (s.ownVa t.roff) (1024 * tileElem t.fmt * (if t.op ≤ 3 then 1 else t.rcnt)) view len then
        some (2^64 + key) else none)

/-- Engine write `id` has not completed. -/
def State.writeOpen (s : State) (id : Nat) : Bool :=
  (s.copies.any fun c => c.id == id) || (s.tiers.any fun t => t.id == id) || (s.inWrites.any fun w => w.id == id)
    || (s.tiles.any fun (key, t) => 2^64 + key == id && t.st == .fired)
    || (s.ckpts.any fun c => 2^65 + 4096 * c.cx + c.handle == id)

/-- A checkpoint copy of the buffer is outstanding (R59). -/
def State.ckptOn (s : State) (cx view : Nat) : Bool := s.ckpts.any fun c => c.cx == cx && c.buf.view == view

/-- The front and the shadow of a buffer change places (R202, R222), and monitors on its lines see it (R421). -/
def State.swapFront (s : State) (cx view len : Nat) : State :=
  let ps := s.rangeLeaves cx view len
  let fire := fun (s : State) => ps.foldl (fun s (va, r) => match r with
    | .ok l => s.fireMonitors (s.physBy cx (l.base va) l.pte l.psize false) (min l.span l.psize)
    | .error _ => s) s
  -- both frames change for every observer at this point: it is above the lease of every copy of their lines
  let s := ps.foldl (fun s (va, r) => match r with
    | .ok l =>
      let n := min l.span l.psize
      -- the swap is by another filler of the page than any core (R192)
      ((s.classify cx va devUnit l).homeWrites (s.physBy cx (l.base va) l.pte l.psize false) n).homeWrites (s.physBy cx (l.base va) l.pte l.psize true) n
    | .error _ => s) s
  let s := fire s
  let sel := match s.fronts.find? fun f => f.cx == cx && f.view == view with
    | some f => !f.sel
    | none => true
  fire { s with fronts := ⟨cx, view, len, sel⟩ :: s.fronts.filter fun f => !(f.cx == cx && f.view == view) }

/-- GEN and SEL of the buffer record after a publish of the context (R199), which keeps them from then on. -/
def State.writeGen (s : State) (cx h : Nat) (sel : Bool) : State :=
  let a := s.shapeAddr cx h + 0x10
  let old := (tabFind? s.gens (4096 * cx + h)).getD (((s.devRead cx a 8).map leNat).getD 0)
  let new := (old / 2^32 + 1) % 2^32 * 2^32 + flag sel
  ({ s with gens := tabSet s.gens (4096 * cx + h) new } : State).devPut cx a (leBytes 8 new)

/-- GEN and SEL of the records that contexts have published by are as those publishes left them: a software store there is ignored (R6, R199).
Before its first publish a record's are what memory holds (DESIGN CHOICE, log entry 154). -/
def State.genSync (s old : State) : State :=
  if s.mem = old.mem then s
  else s.gens.foldl (fun s g =>
    let cx := g.1 / 4096
    let a := s.shapeAddr cx (g.1 % 4096) + 0x10
    match s.devRead cx (a + 0x68) 8, s.devRead cx a 8 with
    | some k, some bs => if leNat k / 2^56 = 1 ∧ leNat bs ≠ g.2 then s.devPut cx a (leBytes 8 g.2) else s
    | _, _ => s) s

/-- The path of an agent that stalled in a word goes on: lanes in `act` raise `c`, if any, and the others continue. -/
def State.unstall (s : State) (ag : Agent) (act : BitVec 8) (c : Option Cause) (taddr : W64) : State :=
  let p := match s.unit? ag with
    | some u => (match lanesOf u.path with | k :: _ => (u.lane k).pc | [] => u.gave)
    | none => 0
  let s := s.modUnit ag fun u =>
    let u := u.mapLanes (inMask u.path) fun k l =>
      match c, inMask act k with
      | some c, true => l.park c taddr 0
      | _, _ => match u.clause with | some cl => (l.shift 0).goto (cl.next l) | none => l
    { u with stall := none, swash := min 511 (u.swash + 1) }
  s.resettle ag p c.isSome

/-- The swap of a buffer of this package, for its context (R202). -/
def State.publishHere (s : State) (cx h : Nat) (b : BufRec) : State :=
  let s := s.swapFront cx b.view b.len
  s.writeGen cx h (s.frontSel cx b.view)

/-- The issuer's later accesses come after the swap in the single order (R202). -/
def State.afterSwap (s : State) (ag : Agent) : State := s.raisePts (s.unitOf ag) s.devNow

/-- LEASE and the pages of a view of this package (R419); no range can declare the register blocks (R95, R96). -/
def State.publishPages (s : State) (e : Env) (b : BufRec) : Option (Cause × Nat) :=
  if !e.kern.leases true b.view b.len || decide (blockBase ≤ b.view ∧ b.view < 2^48) then some (.lease, b.view)
  else ((s.rangeLeaves e.cx b.view b.len).find? fun (_, r) => match r with
    | .ok l => !(pteDual l.pte && pteWr l.pte)
    | .error _ => true).map fun x => (.permission, x.1)

/-- The cause that the checks of R419 give, with its address. -/
def State.publishCheck (s : State) (e : Env) (b : BufRec) : Option (Cause × Nat) :=
  if b.view % 4096 ≠ 0 ∨ 3 ≤ b.view / 2^62 then some (.addrTag, b.view)
  else match spaceOf s.fab b.view with
    | some (.other r o) => if !inHbm o then some (.addrTag, b.view) else if bitAt s.fab.lostmap.toNat r then some (.peerLost, b.view) else none
    | some (.own o) => if inHbm o then s.publishPages e b else some (.addrTag, b.view)
    | some .ctl => s.publishPages e b
    | some .block => s.publishPages e b
    | _ => some (.addrTag, b.view)

/-- `publish` (R202, R205, R419): the swap takes place at once when nothing is to be waited for; otherwise the path stalls. -/
def execPublish (gd : Guard) (h : Src) (s : State) : Out :=
  s.word (.publish gd h) fun e s =>
    if e.u.stall.isSome then .next s.tick
    else
      let mb := e.strandOp (fun l => [e.src .i32 h l]) (fun _ => false) false
      if mb.1 = 0 then .next (s.finish e mb.2)
      else s.afterStores e fun s =>
        let hv := e.n .i32 h e.low % 4096
        if s.recordHeld e hv then .next s.tick
        else match s.record e.kid e.cx e.core hv bufOf with
        | (.error c, s) =>
          -- an illegal handle comes before a path that does not cover U, and that before every other cause (R46, R160)
          if !e.coversU && c != .illegalEncoding then .next (s.finish e (mb.2 ++ allBad mb.1 .uniformDivergent))
          else .next (s.finish e (mb.2 ++ allBad mb.1 c (if c = .permission then BitVec.ofNat 64 (s.shapeAddr e.cx hv) else 0)))
        | (.ok b, s) =>
          if !e.coversU then .next (s.finish e (mb.2 ++ allBad mb.1 .uniformDivergent))
          else match s.publishCheck e b with
          | some (c, a) => .next (s.finish e (mb.2 ++ allBad mb.1 c (BitVec.ofNat 64 a)))
          | none =>
            let remote := match spaceOf s.fab b.view with | some (.other r _) => some r | _ => none
            let before := s.engineWrites e.cx b.view b.len
            if remote.isNone && before.isEmpty && !s.ckptOn e.cx b.view then
              .next (((s.finish e (mb.2 ++ done mb.1)).publishHere e.cx hv b).afterSwap e.ag)
            else
              let id := s.nextId
              let p : PubOp := ⟨id, e.ag, mb.1, e.cx, e.kid, hv, b, before, remote, remote.isSome⟩
              let s := { s with nextId := id + 1, pubs := s.pubs ++ [p] }
              let s := s.raise e.ag (mb.2.filterMap fun o => o.cause.map fun c => (o.lane, c))
              .next (s.modUnit e.ag fun u => { u with stall := some (.publish id) }).tick

/-- PUBLISH_SWAP (R202): the engine writes accepted before the `publish` have completed, and no checkpoint copy is outstanding. -/
def execPublishSwap (id : Nat) (s : State) : Out :=
  match s.pubs.find? fun p => p.id == id && p.remote.isNone with
  | none => s.noEvent
  | some p =>
    if p.before.any s.writeOpen || s.ckptOn p.cx p.buf.view then s.noEvent
    else
      let s := { s with pubs := s.pubs.filter fun x => x.id != id }
      .next (((s.publishHere p.cx p.handle p.buf).afterSwap p.ag).unstall p.ag p.act none 0)

/-- PUBLISH_ACK (R202): the rank that holds the frames has swapped them; which frame is the front there is a free value. -/
def execPublishAck (id : Nat) (s : State) : Out :=
  match s.pubs.find? fun p => p.id == id && p.remote.isSome with
  | none => s.noEvent
  | some p =>
    let (v, s) := s.free
    let s := { s with pubs := s.pubs.filter fun x => x.id != id }
    .next (((s.writeGen p.cx p.handle (v.getLsbD 0)).afterSwap p.ag).unstall p.ag p.act none 0)

/-- PUBLISH_SWAP_REQUEST (R202, R261): a `publish` of another rank reaches this package, which holds the frames. It is served once
the writes accepted before it have completed; one that fails its checks swaps nothing. -/
def execPublishSwapRequest (rank cx view len : Nat) (s : State) : Out :=
  match spaceOf s.fab view with
  | some (.own _) =>
    if decide (s.fab.podsize ≤ rank) || rank == s.fab.rank || bitAt s.fab.lostmap.toNat rank || decide (32 * 8 ≤ cx)
        || !(s.engineWrites cx view len).isEmpty || s.ckptOn cx view then s.noEvent
    else
      let alive := (s.ctx cx).st != .free && (s.ctx cx).st != .building
      let good := (s.rangeLeaves cx view len).all fun (a, r) => match r with
        | .ok l => s.pageHere cx a l && pteDual l.pte && pteWr l.pte
        | .error _ => false
      .next (if alive && good then s.swapFront cx view len else s)
  | _ => .fault .noSuchAddress

/-! ### Monitors (R421, R422) -/

/-- The line that a monitor watches, by where its address lies. -/
def Env.monLine (e : Env) : Loc → Nat
  | .phys a _ _ => lineOf a
  | .win o => lineOf (storePhys e.core (e.grp.base + o))
  | .block a => lineOf a
  | .held => 0

/-- A monitor is armed on a line (R422): one that waits keeps its timer. -/
def Monitor.arm (m : Monitor) (line : Nat) : Monitor :=
  if m.st == .waiting then { m with line := line } else ⟨.armed, line, none, 0⟩

/-- A `mon` takes its place in the single order at the home slice, with no copy between (R189, R421): every write that comes after it there fires
the monitor, and no later load of its core reads an older copy. -/
def State.monTime (s : State) (e : Env) (x : Spot) : State :=
  match x.loc with
  | .phys a shared _ =>
    if shared || isStore a then
      let t := s.lineTime (lineOf a)
      let now := umax64 (s.ptsOf e.unit) t.wts
      (({ s with lines := tabSet s.lines (lineOf a) ⟨t.wts, umax64 t.rts now⟩ } : State).raisePts e.unit now).touch a
    else s.touch a
  | .block _ => s.blockTime e.unit
  | _ => s

/-- `mon` (R421): checked as a 1-byte load, it waits as one (R241). -/
def execMon (gd : Guard) (a : Src) (s : State) : Out :=
  s.word (.mon gd a) fun e s =>
    let (m, bads) := e.uniform fun l => [e.src .i64 a l]
    if m = 0 then .next (s.finish e bads)
    else s.afterStores e fun s =>
      let va := e.n .i64 a e.low
      match s.spotOf e e.tlbs Need.load .load e.low ⟨va, 1, 1⟩ with
      | (.error c, s) => .next (s.finish e (bads ++ allBad m c (BitVec.ofNat 64 va)))
      | (.ok x, s) =>
        if s.mustWait e 1 Need.load x.loc then .next (s.spotStall e Need.load [(e.low, [x])])
        else .next (((s.monTime e x).finish e (bads ++ done m)).modUnit e.ag fun u => { u with mon := u.mon.arm (e.monLine x.loc) })

/-- The lanes of a path start to wait in `mwait`. -/
def State.holdMwait (s : State) (e : Env) (m : BitVec 8) (bads : List LaneOut) (pd : Option Nat) : State :=
  let hold := maskOf fun l => inMask e.path l && !(bads.any fun b => b.lane == l)
  let s := s.modUnit e.ag fun u =>
    let u := u.mapLanes (inMask hold) fun k l =>
      (e.seen k l).hold (.mwait (if inMask m k then pd else some inactive)) (e.cl.next (e.u.lane k))
    { u with swash := min 511 (u.swash + 1) }.settle e.lane0.pc
  let s := s.issued e
  s.raise e.ag (bads.filterMap fun b => b.cause.map fun c => (b.lane, c))

/-- `mwait` (R422): a return on a write follows the write in the single order. -/
def execMwait (gd : Guard) (p : Option Nat) (t : Src) (s : State) : Out :=
  s.word (.mwait gd p t) fun e s =>
    let (m, bads) := e.uniform fun l => [e.src .i32 t l]
    if m = 0 then .next (s.finish e bads)
    else s.afterStores e fun s =>
      let mon := ((s.unit? e.ag).map fun u => u.mon).getD Monitor.init
      let set_ := fun (s : State) (x : Monitor) => s.modUnit e.ag fun u => { u with mon := x }
      match mon.st with
      | .armed =>
        let n := e.n .i32 t e.low
        .next ((set_ s { mon with st := .waiting, left := if n = 0 then none else some n }).holdMwait e m bads p)
      | .waiting => .next (s.holdMwait e m bads p)
      | _ =>
        let s := if mon.st == .fired then s.raisePts e.unit mon.time else s
        .next (set_ (s.finish e (bads ++ match p with | some q => allPd m q true | none => done m)) { mon with st := .disarmed, left := none })

/-- The lane's wait has timed out (R422): with P, pD is false; without it the lane raises MWAIT_TIMEOUT. -/
def Lane.mwaitOver (l : Lane) : Lane :=
  match l.wait with
  | some (.mwait none) => l.park .mwaitTimeout 0 0
  | _ => l.mwaitDone false

/-- MWAIT_TIMEOUT (R422): the timer of a waiting monitor has run out. -/
def execMwaitTimeout (ag : Agent) (s : State) : Out :=
  match s.unit? ag with
  | none => s.noEvent
  | some u =>
    if u.mon.st == .waiting && u.mon.left == some 0 && (s.ctx (s.cxOf ag)).st == .active then
      let s := match ag, (u.lane 0).wait with
        | .ctl w, some (.mwait (some p)) => s.modCt w fun c => if p = 0 then c else { c with cregs := tabSet c.cregs p 0 }
        | _, _ => s
      let s := s.modUnit ag fun u =>
        let u' := { u with lanes := u.lanes.map Lane.mwaitOver, mon := { u.mon with st := .disarmed, left := none } }
        u'.settle u'.gave
      .next (s.trapStep ag)
    else s.noEvent

/-! ### Tier moves (R243, R423) -/

/-- A byte range of the own rank lies in one node: the HBM node, or the capacity node as software reaches it (R22, R27). -/
def State.inNode (s : State) (hbm : Bool) (va len : Nat) : Bool :=
  match spaceOf s.fab va with
  | some (.own o) =>
    if hbm then inHbm o && decide (o + len ≤ 0xC000000000)
    else inCap o && decide (o + len ≤ 0x11C000000000) && (len == 0 || !(inSecondMirror s.fab.rank s.fab.podsize (o + len - 1)))
  | _ => false

/-- A byte range lies within the view of one buffer record of the context's shape table. -/
def State.inView (s : State) (e : Env) (va len : Nat) : Bool :=
  let fits := fun (b : BufRec) => decide (b.view ≤ va) && decide (va + len ≤ b.view + b.len)
  (e.kern.handles.any fun (_, bs) => (bufOf bs).any fits)
    || (List.range 4096).any fun h =>
      let a := s.shapeAddr e.cx h
      (s.devRead e.cx (a + 0x7F) 1) == some [1] && (((s.devReadN e.cx a 16).bind bufOf).any fits)

/-- The checks of a tier move in the order of R46, with the address at fault. -/
def State.tierCheck (s : State) (e : Env) (hbmDst : Bool) (d sv len : Nat) : Option (Cause × Nat) :=
  if d % 4096 ≠ 0 then some (.align, d)
  else if sv % 4096 ≠ 0 then some (.align, sv)
  else if !s.inNode hbmDst d len then some (.addrTag, d)
  else if !s.inNode (!hbmDst) sv len then some (.addrTag, sv)
  else if !e.kern.leases false sv len then some (.lease, sv)
  else if !e.kern.leases true d len then some (.lease, d)
  else if len ≠ 0 ∧ !s.inView e d len then some (.permission, d)
  else none

/-- Every segment that a byte range of the own rank touches starts to wake (R243). -/
def State.wakeRange (s : State) (cx va len : Nat) : State :=
  ((s.rangeLeaves cx va len).flatMap fun (a, r) => match r with
    | .ok l => leafSegs a l
    | .error _ => []).foldl State.wakeSeg s

/-- A tier move (R423). -/
def State.tier (s : State) (i : Instr) (b : Nat) (hbmDst : Bool) (d sv n : Src) : Out :=
  s.word i fun e s =>
    if !e.grp.copyRole then .next (s.raiseAct e .copyRights)
    else
      let mb := e.strandOp (fun l => [e.src .i64 d l, e.src .i64 sv l, e.src .i32 n l]) (fun _ => false) false
      -- a move that is accepted waits for its barrier's PEND (R158)
      if mb.1 != 0 && decide (0xFFFF ≤ (s.bar (e.bar b)).pend)
          && (s.tierCheck e hbmDst (e.n .i64 d e.low) (e.n .i64 sv e.low) (e.n .i32 n e.low * 4096)).isNone then .next s.tick
      else s.strandWord e mb fun s =>
        let dv := e.n .i64 d e.low
        let av := e.n .i64 sv e.low
        let len := e.n .i32 n e.low * 4096
        match s.tierCheck e hbmDst dv av len with
        | some (c, a) => (s, allBad mb.1 c (BitVec.ofNat 64 a))
        | none =>
          let s := s.pendUp (e.bar b)
          if len = 0 then (s.postArrival (e.bar b) none 1 true none, done mb.1)
          else
            let t : TierOp := ⟨s.nextId, e.ag, e.kid, av, dv, len, e.bar b, [], s.dueIn 2⟩
            (({ s with nextId := s.nextId + 1, tiers := s.tiers ++ [t] }.wakeRange e.cx av len).wakeRange e.cx dv len, done mb.1)

/-- `tierpf` (R423). -/
def execTierpf (gd : Guard) (b : Nat) (d sv n : Src) (s : State) : Out := s.tier (.tierpf gd b d sv n) b true d sv n

/-- `tierev` (R423). -/
def execTierev (gd : Guard) (b : Nat) (d sv n : Src) (s : State) : Out := s.tier (.tierev gd b d sv n) b false d sv n

/-- One line of a tier move goes from the source front to the destination shadow (R204, R423). -/
def State.tierLine (s : State) (t : TierOp) (o : Nat) : Except Cause State :=
  let cx := s.cxOf t.ag
  let us := [4096 + quadOf (s.coreOf t.ag)]
  match (s.walkRequest (s.coreOf t.ag) us cx (t.src + o)).engineRead us cx (t.src + o) 64 with
  | (.error c, _) => .error c
  | (.ok bs, s) =>
    match s.shadowWrite us false cx (t.dst + o) bs with
    | (some c, _) => .error c
    | (none, s) => .ok s

/-- Both ends of a tier move may be used now: their segments are Active, and no page is moving (R231, R243). -/
def State.tierReady (s : State) (t : TierOp) : Bool :=
  let cx := s.cxOf t.ag
  s.rangeReady cx t.src t.len false && s.rangeReady cx t.dst t.len true

/-- The lines of a tier move from an offset on, in ascending address; the move ends at the first that fails. -/
def State.tierLines (s : State) (t : TierOp) (o : Nat) : Nat → Option Cause × State
  | 0 => (none, s)
  | f + 1 =>
    if t.len ≤ o then (none, s)
    else match s.tierLine t o with
      | .error c => (some c, s)
      | .ok s => s.tierLines t (o + 64) f

/-- TIER_MOVE_DONE (R161, R243, R423): the lines left are moved, and the move arrives on its barrier. `err` is a failure that the
device finds; the lines already moved stay. -/
def execTierMoveDone (id : Nat) (err : Option Cause) (s : State) : Out :=
  match s.tiers.find? fun t => t.id == id with
  | none => s.noEvent
  | some t =>
    let cx := s.cxOf t.ag
    if err.any fun c => !c.endsEngine then s.noEvent
    else if err.isNone && !s.tierReady t then .next ((s.rangeWake cx t.src t.len false).rangeWake cx t.dst t.len true)
    else
      let (c, s) := if err.isSome then (err, s) else s.tierLines t t.moved.length (t.len / 64 + 1)
      .next (({ s with tiers := s.tiers.filter fun x => x.id != id }.served (s.coreOf t.ag) t.due).postArrival t.bar none 1 true c)

/-! ### `lastuse` (R244, R424) -/

/-- The physical spans of a range of the own HBM node, with the die that homes each. -/
def State.homeSpans (s : State) (cx va len : Nat) : List (Nat × Nat × Nat) :=
  (s.rangeLeaves cx va len).filterMap fun (a, r) => match r with
    | .ok l =>
      let p := s.physBy cx a l.pte l.psize false
      some (homeDie p, p, p + (min (l.base a + l.span) (va + len) - a))
    | .error _ => none

/-- The checks of `lastuse` in the order of R46, with the address at fault. -/
def State.lastuseCheck (s : State) (e : Env) (a n : Nat) : Option (Cause × Nat) :=
  if a % 64 ≠ 0 ∨ n % 64 ≠ 0 then some (.align, a)
  else if n = 0 then none
  else if !s.inNode true a n then some (.addrTag, a)
  else if !e.kern.leases true a n then some (.lease, a)
  else ((s.rangeLeaves e.cx a n).find? fun (_, r) => match r with
    | .ok l => !pteWr l.pte
    | .error _ => true).map fun x => (.permission, x.1)

/-- A die's tensor-lifetime table takes an entry, unless it is full (R244). -/
def State.lifetime (s : State) (ag : Agent) (die : Nat) (spans : List (Nat × Nat)) (after : List Nat) : State :=
  if spans.isEmpty || decide (64 ≤ (s.lastuses.filter fun x => x.die == die).length) then s
  else { s with nextId := s.nextId + 1, lastuses := s.lastuses ++ [⟨s.nextId, ag, die, spans, after, []⟩] }

/-- The engine operations of an agent that are outstanding, for `lastuse`. -/
def State.ownOps (s : State) (ag : Agent) : List Nat :=
  (s.copies.filterMap fun c => if c.ag == ag then some c.id else none)
    ++ (s.tiers.filterMap fun t => if t.ag == ag then some t.id else none)
    ++ (s.ratoms.filterMap fun r => if r.ag == ag then some r.id else none)
    ++ (s.tiles.filterMap fun (key, t) => if t.st == .fired && t.issuer == some ag then some (2^64 + key) else none)
    ++ (s.ckpts.filterMap fun c => if c.cx = s.cxOf ag then some (2^65 + 4096 * c.cx + c.handle) else none)

/-- `lastuse` (R244, R424). -/
def execLastuse (gd : Guard) (a n : Src) (s : State) : Out :=
  s.word (.lastuse gd a n) fun e s =>
    let mb := e.strandOp (fun l => [e.src .i64 a l, e.src .i32 n l]) (fun _ => false) false
    if mb.1 = 0 then .next (s.finish e mb.2)
    else
      let av := e.n .i64 a e.low
      let nv := e.n .i32 n e.low
      match s.lastuseCheck e av nv with
      | some (c, x) => .next (s.finish e (mb.2 ++ allBad mb.1 c (BitVec.ofNat 64 x)))
      | none =>
        let sp := s.homeSpans e.cx av nv
        let ops := s.ownOps e.ag
        -- the issuer's earlier stores come before the entry, which keeps the lines written after it
        let s := (List.range 8).foldl (fun s d =>
          s.lifetime e.ag d ((sp.filter fun x => x.1 == d).map fun x => x.2) ops) (s.drain e.ag)
        .next (s.finish e (mb.2 ++ done mb.1))

/-- A dirty line is dropped (R244): it reads as it was last written back, under the key of that time. -/
def State.dropLine (s : State) (d : Dirty) : State :=
  let s := (s.setMem d.line d.old).homeWrites d.line 64
  { s with keys := match d.key with | some k => tabSet s.keys (d.line / 64) k | none => tabErase s.keys (d.line / 64) }

/-- LASTUSE_ARM (R187, R244): the issuer's earlier accesses and operations have been performed; each dirty line of the range in the L2, where
no L1 holds it dirty, that was not written after the `lastuse` is dropped. -/
def execLastuseArm (id : Nat) (s : State) : Out :=
  match s.lastuses.find? fun x => x.id == id with
  | none => s.noEvent
  | some x =>
    if x.after.any fun o => s.writeOpen o || s.ratoms.any fun r => r.id == o then s.noEvent
    else
      let t := s.drain x.ag
      if !t.drained x.ag then s.noEvent
      else
        let x := (t.lastuses.find? fun y => y.id == id).getD x
        let drop := fun (d : Dirty) => (x.spans.any fun p => decide (p.1 ≤ d.line) && decide (d.line < p.2)) && !x.written.contains d.line
          && !(t.l1.any fun l => l.line == d.line && l.dirty)
        let s := (t.dirty.filter drop).foldl State.dropLine t
        .next { s with dirty := s.dirty.filter fun d => !drop d, lastuses := s.lastuses.filter fun y => y.id != id }

end Sys2Proof.Machine
end

