-- ==== Sys2Proof/Machine/Engines.lean ====
section
/-!
DEFINITION. The copy engine, ready tiles, tape pushes and device-side launches: opcodes 0xE0 to 0xE3, 0xE9, 0xEA and the steps of
copies (R103, R201 to R208, R442 to R452).
-/
namespace Sys2Proof.Machine

/-! ### What a copy reads (R443) -/

/-- The elements of a box in ascending L: an address, or none where clipped (R443). -/
def ShapeRec.elems (r : ShapeRec) (x : List Int) : List (Option Nat) :=
  (List.range r.count).map fun k =>
    let c := r.coords x k
    if r.clipped c then none else some (r.addr c)

/-- The source lines of a copy, ascending (R204). -/
def CopyOp.lines (c : CopyOp) : List Nat :=
  (c.src.elems c.x).foldl (fun ls a => match a with
    | none => ls
    | some a => insAsc (lineOf a) (insAsc (lineOf (a + c.src.size - 1)) ls)) []

/-- 64 bytes of a view of a workgroup's windows, of the save image while the workgroup is saved or under restore; none outside its areas. -/
def State.viewLine (s : State) (ag : Agent) (core sel peer o : Nat) : Option (List Byte) :=
  match (s.wgOf ag).bind s.wg?, (s.kidOf ag).bind s.kernel? with
  | some w, some k =>
    let c := windowCore core sel peer
    match k.area o 64 with
    | none => none
    | some (_, r) =>
      if w.saved || !w.savedRuns.isEmpty then
        if decide (w.coreAt 0 ≤ c) && decide (c < w.coreAt 0 + w.ncores) then
          (w.savedRuns[c - w.coreAt 0]?).map fun bs => (bs.drop r).take 64
        else none
      else (w.runOn c).map fun base => memRead s.mem (storePhys c (base + r)) 64
  | _, _ => none

/-- Free bytes: what a line of another package holds. -/
def State.freeBytes (s : State) : Nat → List Byte × State
  | 0 => ([], s)
  | n + 1 =>
    let (v, s) := s.free
    let (bs, s) := s.freeBytes n
    (leBytes 8 v.toNat ++ bs, s)

/-- One source line is read (R204, R444): the bytes, or the cause that ends the operation. What another package answers is
free. -/
def State.sourceLine (s : State) (c : CopyOp) (line : Nat) : Except Cause (List Byte) × State :=
  match spaceOf s.fab line with
  | some (.window sel peer o) => (match s.viewLine c.ag c.core sel peer o with | some bs => .ok bs | none => .error .permission, s)
  | some (.other r _) =>
    if bitAt s.fab.lostmap.toNat r then (.error .peerLost, s)
    else
      let (v, s) := s.free
      if v = 0 then (.error .permission, s)
      else if v = 1 then (.error .integrity, s)
      else
        let (bs, s) := s.freeBytes 8
        (.ok bs, s)
  | some (.own _) => (s.walkRequest c.core [walkerOf c.core] (s.cxOf c.ag) line).engineRead [walkerOf c.core] (s.cxOf c.ag) line 64
  | some .ctl => (s.walkRequest c.core [walkerOf c.core] (s.cxOf c.ag) line).engineRead [walkerOf c.core] (s.cxOf c.ag) line 64
  | _ => (.error .permission, s)

/-- The line may be read now: its segment is Active (R241), its page is not moving (R231), its home's directory is not being rebuilt (R266),
and no recorded range but the operation's own covers it (R207). -/
def State.sourceReady (s : State) (c : CopyOp) (line : Nat) : Bool :=
  match spaceOf s.fab line with
  | some (.window sel peer o) =>
    (match (s.wgOf c.ag).bind s.wg?, (s.kidOf c.ag).bind s.kernel? with
      | some w, some k => match w.runOn (windowCore c.core sel peer), k.area o 64 with
        | some base, some (_, r) => !(s.ranges.any fun x =>
            x.op != c.id && !x.saved && x.core == windowCore c.core sel peer && decide (x.lo < base + r + 64) && decide (base + r < x.hi))
        | _, _ => true
      | _, _ => true)
  | some (.own _) => s.rangeReady (s.cxOf c.ag) line 64 false
  | some .ctl => match s.devPhys (s.cxOf c.ag) line false with
    | .ok a => s.rangeReady (s.cxOf c.ag) line 64 false && !s.rebuilding a
    | .error _ => !s.walkHeld (s.cxOf c.ag) line
  | _ => true

/-- The lines not yet read are read, ascending; the first that fails gives the cause that ends the operation. -/
def State.fetchAll (s : State) (c : CopyOp) : List Nat → Option Cause × CopyOp × State
  | [] => (c.failed, c, s)
  | x :: t =>
    if c.failed.isSome then (c.failed, c, s)
    else if c.fetched.any fun p => p.1 == x then s.fetchAll c t
    else match s.sourceLine c x with
      | (.error e, s) => (some e, { c with failed := some e }, s)
      | (.ok bs, s) => s.fetchAll { c with fetched := c.fetched ++ [(x, bs)] } t

/-- The copy's engine has taken it up, or may: it works on four operations at once (R448). -/
def State.engineHas (s : State) (c : CopyOp) : Bool :=
  c.begun || decide ((s.copies.filter fun x => x.core == c.core && x.begun).length < 4)

/-- A byte that has been read. -/
def CopyOp.byte? (c : CopyOp) (a : Nat) : Option Byte :=
  (c.fetched.find? fun p => p.1 == lineOf a).bind fun p => p.2[a % 64]?

/-- Bytes that have all been read. -/
def CopyOp.bytes? (c : CopyOp) (a : Nat) : Nat → Option (List Byte)
  | 0 => some []
  | n + 1 => match c.byte? a, c.bytes? (a + 1) n with
    | some b, some bs => some (b :: bs)
    | _, _ => none

/-- The values of the box in ascending L; none where the source has not been read. -/
def CopyOp.values (c : CopyOp) : List (Option (List Byte)) :=
  (c.src.elems c.x).map fun a => match a with
    | none => some c.src.fillBytes
    | some a => c.bytes? a c.src.size

/-- The segments of an operation's lines that are not Active start to wake (R241). -/
def State.wakeLines (s : State) (cx : Nat) (ls : List Nat) : State :=
  ls.foldl (fun s x => s.rangeWake cx x 64 false) s

/-! ### Into a shadow (R203, R445) -/

/-- Values laid side by side as runs of bytes, each with its offset. -/
def runsFrom (n : Nat) : Nat → List (Option (List Byte)) → List (Nat × List Byte)
  | _, [] => []
  | k, none :: t => runsFrom n (k + 1) t
  | k, some b :: t =>
    match runsFrom n (k + 1) t with
    | (o, bs) :: r => if o = n * (k + 1) then (n * k, b ++ bs) :: r else (n * k, b) :: (o, bs) :: r
    | [] => [(n * k, b)]

/-- The values are written into the shadow of the buffer (R445); those of another package are not seen here. -/
def State.copyShadow (s : State) (c : CopyOp) (b : BufRec) (off : Nat) : Option Cause × State :=
  match spaceOf s.fab b.view with
  | some (.other r _) => (if bitAt s.fab.lostmap.toNat r then some .peerLost else none, s)
  | _ =>
    (runsFrom c.src.size 0 c.values).foldl (fun (x : Option Cause × State) r =>
      let y := x.2.shadowWrites [walkerOf c.core] true (s.cxOf c.ag) (b.view + off + r.1) r.2 (r.2.length / 64 + 2)
      (x.1 <|> y.1, y.2)) (none, s)

/-- The shadow that a copy writes may be written now: its segments are Active (R241), and no page of it is moving (R231). -/
def State.copyReady (s : State) (c : CopyOp) (b : BufRec) (off : Nat) : Bool :=
  match spaceOf s.fab b.view with
  | some (.other _ _) => true
  | _ => s.rangeReady (s.cxOf c.ag) (b.view + off) (c.src.size * c.src.count) true

/-- COPY_COMPLETE (R161, R203, R443, R445): the source lines left are read, the bytes are all in the shadow, and the copy arrives
on its barrier. `err` is a failure that the device finds: only elements already read are written. -/
def execCopyComplete (id : Nat) (err : Option Cause) (s : State) : Out :=
  match s.copies.find? fun c => c.id == id with
  | none => s.noEvent
  | some c =>
    match c.dst with
    | .buffer b off =>
      let left := if err.isSome then [] else c.lines
      if err.any fun c => !c.endsEngine then s.noEvent
      else if !s.engineHas c then .next s
      else if !(left.all fun x => s.sourceReady c x) then .next (s.wakeLines (s.cxOf c.ag) left)
      else if !s.copyReady c b off then .next (s.rangeWake (s.cxOf c.ag) (b.view + off) (c.src.size * c.src.count) true)
      else
        let (e1, c, s) := s.fetchAll c left
        let (e2, s) := s.copyShadow c b off
        let s := { s with copies := s.copies.filter fun x => x.id != id }.served c.core c.due
        .next (match c.bar with | some b => s.postArrival b none 1 true (err <|> e1 <|> e2) | none => s)
    | _ => s.noEvent

/-! ### Into windows (R206 to R208, R446, R447) -/

/-- What a window copy writes: view offset and bytes of each element that the destination record does not clip. -/
def CopyOp.windowBytes (c : CopyOp) (rec_ : ShapeRec) : List (Nat × List Byte) :=
  (c.values.mapIdx fun k v =>
    let y := boxAt c.src.box k
    match v with
    | none => none
    | some bs => if rec_.clipped y then none else some (rec_.addr y % 2^20, bs)).filterMap fun x => x

/-- The bytes of a window copy reach a workgroup's run on a core. -/
def State.windowWrite (s : State) (c : CopyOp) (rec_ : ShapeRec) (core wg : Nat) : State :=
  match (s.wg? wg).bind fun w => w.runOn core with
  | none => s
  | some base => (c.windowBytes rec_).foldl (fun s p => s.setMem (storePhys core (base + (p.1 - 0x10000))) p.2) s

/-- A window copy that has not begun is not started while its context is not running (R52). -/
def State.copyStopped (s : State) (c : CopyOp) : Bool :=
  let x := s.ctx (s.cxOf c.ag)
  c.toWindow && !c.begun && (x.st != .active || x.restoring)

/-- The receivers of a window copy: core, workgroup, barrier. -/
def CopyOp.receivers (c : CopyOp) : List (Nat × Nat × Option BarRef) :=
  match c.dst with
  | .window core wg _ => [(core, wg, c.bar)]
  | .multi _ rs => rs.map fun r => (r.1, r.2.1, some (.wg r.2.1 r.2.2))
  | .buffer .. => []

/-- The destination record of a window copy. -/
def CopyOp.dstRec (c : CopyOp) : ShapeRec :=
  match c.dst with
  | .window _ _ r => r
  | .multi r _ => r
  | .buffer .. => c.src

/-- The copy without its `i`-th receiver; it ends with the last. -/
def State.dropReceiver (s : State) (c : CopyOp) (i : Nat) : State :=
  match c.dst with
  | .multi r rs =>
    let rs := rs.eraseIdx i
    if rs.isEmpty then { s with copies := s.copies.filter fun x => x.id != c.id }
    else { s with copies := s.copies.map fun x => if x.id == c.id then { c with dst := .multi r rs } else x }
  | _ => { s with copies := s.copies.filter fun x => x.id != c.id }

/-- The range of a window copy retires (R208): its bytes become visible at one point, monitors see them, and the operation
arrives on the receiver's barrier. -/
def State.retireCopy (s : State) (c : CopyOp) (r : RangeEntry) : Out :=
  if s.copyStopped c || !s.engineHas c then .next s
  else if !(c.lines.all fun x => s.sourceReady c x) then .next (s.wakeLines (s.cxOf c.ag) c.lines)
  else
    let i := ((findIdxFrom (fun (x : RangeEntry) => x.id == r.id) (s.ranges.filter fun x => x.op == c.id) 0).map Prod.fst).getD 0
    match c.receivers[i]? with
    | none => s.noEvent
    | some (core, wg, bar) =>
      let (err, c, s) := s.fetchAll c c.lines
      let s := s.windowWrite c c.dstRec core wg
      let s := { s with ranges := s.ranges.filter fun x => x.id != r.id }
      let n := ((c.windowBytes c.dstRec).map fun p => p.2.length).sum
      let s := ((s.served c.core c.due).homeWrites (storePhys core r.lo) (r.hi - r.lo)).count (s.cxOf c.ag) core 6 n
      let s := s.fireMonitors (storePhys core r.lo) (r.hi - r.lo)
      let s := s.dropReceiver c i
      .next (match bar with | some b => s.postArrival b none 1 true err | none => s)

/-- The smallest range of view offsets that holds every byte a window copy writes (R446); none when every element is dropped. -/
def windowRange (src dst : ShapeRec) : Option (Nat × Nat) :=
  (List.range src.count).foldl (fun r k =>
    let y := boxAt src.box k
    if dst.clipped y then r
    else
      let o := dst.addr y % 2^20
      match r with
      | none => some (o, o + src.size)
      | some (lo, hi) => some (min lo o, max hi (o + src.size))) none

/-! ### Issue (R443, R444) -/

/-- A cause with its address. -/
abbrev Found := Cause × Nat

/-- The cause that comes first in the order of R46. -/
def leastFound : List Found → Option Found
  | [] => none
  | f :: t => match leastFound t with
    | none => some f
    | some g => if g.1.rank < f.1.rank then some g else some f

/-- Both ends of a destination range lie in the space of its view, and in one node of it (R22, R29). -/
def State.oneSpace (s : State) (sp : Space) (va n : Nat) : Bool :=
  let same := fun (x : Nat) => match spaceOf s.fab x, sp with
    | some .ctl, .ctl => true
    | some (.own o), .own p => inHbm o == inHbm p
    | some (.other r o), .other q p => r == q && inHbm o == inHbm p
    | _, _ => false
  n == 0 || (same va && same (va + n - 1))

/-- The checks of one source element (R444). -/
def State.sourceCheck (s : State) (e : Env) (a n : Nat) : List Found :=
  if (spaceOf s.fab (a + n - 1)).isNone then [(.addrTag, a)]
  else match spaceOf s.fab a with
    | none => [(.addrTag, a)]
    | some .block => [(.permission, a)]
    | some (.other r _) => if bitAt s.fab.lostmap.toNat r then [(.peerLost, a)] else []
    | some (.own _) => if e.kern.leases false a n then [] else [(.lease, a)]
    | some .ctl => if e.kern.leases false a n then [] else [(.lease, a)]
    | some (.window sel peer o) => match e.window sel peer o n Need.load with
      | .ok (.phys _ _ _) => []
      | _ => [(.permission, a)]

/-- Store bytes of a source element in a window: core, first and end offset. -/
def State.sourceStore (s : State) (e : Env) (a n : Nat) : Option (Nat × Nat × Nat) :=
  match spaceOf s.fab a with
  | some (.window sel peer o) => match e.window sel peer o n Need.load with
    | .ok (.phys p _ _) => some ((p - 2^62) / 2^20, p % 2^20, p % 2^20 + n)
    | _ => none
  | _ => none

/-- The source elements that are not clipped. -/
def sources (r : ShapeRec) (x : List Int) : List Nat := (r.elems x).filterMap id

/-- g registers that a word turns out to name have a result to come (R327). -/
def State.gregsWait (s : State) (e : Env) (n k : Nat) : Bool :=
  s.pend.any fun p => sameGroup p.ag e.ag && p.writes.any fun w => match w with
    | .greg m _ => decide (n ≤ m) && decide (m < n + k)
    | _ => false

/-- A record that an engine word names, or the cause with its address (R406, R444). -/
def State.engineRec {α : Type} (s : State) (e : Env) (h : Nat) (parse : List Byte → Option α) : Except Found α × State :=
  match s.record e.kid e.cx e.core h parse with
  | (.error c, s) => (.error (c, if c = .permission then s.shapeAddr e.cx h else 0), s)
  | (.ok r, s) => (.ok r, s)

/-- A cause at every active lane: the instruction issues nothing for its strand (R444). -/
def State.engineTrap (s : State) (e : Env) (f : Found) : Out := .next (s.raiseAct e f.1 (BitVec.ofNat 64 f.2))

/-- The two shape records of a word do not fit each other, or the second is illegal (R406, R444). -/
def State.misfit (s : State) (e : Env) (d : Nat) (r : Except Found ShapeRec) : Bool :=
  match (s.engineRec e (e.greg d).toNat shapeOf).1, r with
  | .error (.illegalEncoding, _), _ => true
  | .ok dr, .ok r => !(dr.rank == r.rank && dr.size == r.size)
  | _, _ => false

/-- The buffer record of a word is illegal (R406). -/
def State.badBuffer (s : State) (e : Env) (d : Nat) : Bool :=
  match (s.engineRec e (e.greg d).toNat bufOf).1 with
  | .error (.illegalEncoding, _) => true
  | _ => false

/-- Two of the handles of a `copymc` name one receiver: a core and a slot (R171, R447). -/
def Env.sameHandles (e : Env) (l m : Nat) : Bool :=
  let hs := (List.range (m + 1)).map fun j => (e.greg (l + j)).toNat / 16
  hs.eraseDups.length != hs.length

/-- What a record gives: its own cause, or those that follow from what it says. -/
def foundIn {α : Type} (r : Except Found α) (f : α → List Found) : List Found :=
  match r with
  | .error x => [x]
  | .ok a => f a

/-- The record is illegal, or fails a test (R406, R444). -/
def illegalRec {α : Type} (r : Except Found α) (bad : α → Bool) : Bool :=
  match r with
  | .error (c, _) => c == .illegalEncoding
  | .ok a => bad a

/-- A copy-class word with what its source record gives (R443, R444). `bad` tells of the causes ILLEGAL_ENCODING that the word's other
fields give; R46 puts them before COPY_RIGHTS, and both before the causes of the addresses. -/
def State.copyWord (s : State) (i : Instr) (h d x : Nat) (bad : Env → Except Found ShapeRec → State → Bool)
    (body : Env → Except Found ShapeRec → List Int → State → Out) : Out :=
  s.word i fun e s =>
    if e.act = 0 then .next (s.finish e [])
    else s.afterStores e fun s =>
      if s.recordHeld e (e.greg h).toNat || s.recordHeld e (e.greg d).toNat then .next s.tick
      else
      let (r, s) := s.engineRec e (e.greg h).toNat shapeOf
      let rank := match r with | .ok r => r.rank | .error _ => 0
      if illegalRec r (fun r => decide (63 < x + r.rank - 1)) || bad e r s then .next (s.raiseAct e .illegalEncoding)
      else if !e.grp.copyRole then .next (s.raiseAct e .copyRights)
      else if s.gregsWait e x rank then .next s.tick
      else body e r ((List.range rank).map fun d => sgn 32 (e.greg (x + d)).toNat) s

/-- Some record of a word cannot be read: the first cause of what its records give, in the order of R46. -/
def State.recordTrap (s : State) (e : Env) (found : List Found) : Out :=
  match leastFound found with
  | some f => s.engineTrap e f
  | none => .next (s.finish e (done e.act))

/-- A window copy that has not begun is in the save image of its context, not in its engine (R52, R57). -/
def State.copyAway (s : State) (c : CopyOp) : Bool :=
  let x := s.ctx (s.cxOf c.ag)
  c.toWindow && !c.begun && (x.st == .saved || x.restoring)

/-- A core's copy engine holds 32 accepted operations, or a barrier's PEND is at its limit: the word waits (R158, R448). -/
def State.engineFull (s : State) (e : Env) (bars : List BarRef) : Bool :=
  decide (32 ≤ (s.copies.filter fun c => c.core == e.core && !s.copyAway c).length) || bars.any fun b => decide (0xFFFF ≤ (s.bar b).pend)

/-- A copy is accepted: PEND of its barriers rises, its ranges are recorded (R161, R206). -/
def State.acceptCopy (s : State) (e : Env) (r : ShapeRec) (x : List Int) (dst : CopyDst) (bar : Option BarRef) (bars : List BarRef)
    (rs : List (Nat × Nat × Nat)) : State :=
  let id := s.nextId
  let op : CopyOp := ⟨id, e.ag, e.kid, e.core, r, x, dst, bar, [], s.dueIn 1, none⟩
  let s := { s with nextId := id + 1, copies := s.copies ++ [op] }
  let s := bars.foldl State.pendUp s
  rs.foldl (fun s (c, lo, hi) => { s with nextId := s.nextId + 1, ranges := s.ranges ++ [⟨s.nextId, c, lo, hi, id, false, false⟩] }) s

/-- `copy` (R445). -/
def execCopy (gd : Guard) (b h x d : Nat) (s : State) : Out :=
  s.copyWord (.copy gd b h x d) h d x (fun e _ s => s.badBuffer e d) fun e r xs s =>
    let (bf, s) := s.engineRec e (e.greg d).toNat bufOf
    let off := 64 * (e.greg (d + 1)).toNat
    -- the bytes that the copy writes: none known where its source record cannot be read
    let total := match r with | .ok r => r.size * r.count | .error _ => 0
    let dst := fun (bf : BufRec) =>
      let va := bf.view + off
      (match spaceOf s.fab bf.view with
        | none => [(.addrTag, bf.view)]
        | some (.window _ _ _) => [(.addrTag, bf.view)]
        | some .block => [(.permission, bf.view)]
        | some sp => if !s.oneSpace sp va total then [(.addrTag, va)] else match sp with
          | .other k _ => if bitAt s.fab.lostmap.toNat k then [(.peerLost, va)] else []
          | _ => if e.kern.leases true va total then [] else [(.lease, va)])
      ++ (if bf.len < off + total then [(.permission, va)] else [])
    let found := foundIn r (fun r => (sources r xs).flatMap fun a => s.sourceCheck e a r.size) ++ foundIn bf dst
    match leastFound found, r, bf with
    | none, .ok r, .ok bf =>
        if s.engineFull e [e.bar b] then .next s.tick
        else .next ((s.acceptCopy e r xs (.buffer bf off) (some (e.bar b)) [e.bar b] []).finish e (done e.act))
    | _, _, _ => s.recordTrap e found

/-- The destination of a window copy in a workgroup on a core: its store range, or the causes of R446 and R447. -/
def windowDest (w : Workgroup) (k : Kernel) (core : Nat) (src dst : ShapeRec) : Except Found (Option (Nat × Nat × Nat)) :=
  let o := dst.base % 2^20
  match w.runOn core, k.area o 1 with
  | some base, some (area, _) =>
    match windowRange src dst with
    | none => .ok none
    | some (lo, hi) =>
      let inside := (List.range src.count).all fun j =>
        let y := boxAt src.box j
        dst.clipped y || (decide (dst.addr y / 2^20 = dst.base / 2^20)
          && (match k.area (dst.addr y % 2^20) src.size with | some (a, _) => a == area | none => false))
      if inside then .ok (some (core, base + (lo - 0x10000), base + (hi - 0x10000))) else .error (.permission, dst.base)
  | _, _ => .error (.permission, dst.base)

/-- A window copy's destinations are known: the checks that are left, its waits, and its acceptance. -/
def State.issueWindow (s : State) (e : Env) (r : ShapeRec) (xs : List Int) (dst : CopyDst) (bar : Option BarRef) (bars : List BarRef)
    (rs : List (Nat × Nat × Nat)) (found : List Found) : Out :=
  let src := sources r xs
  let own := src.filterMap fun a => s.sourceStore e a r.size
  let clash := own.any fun (c, lo, hi) => rs.any fun (c', lo', hi') => c == c' && decide (lo < hi') && decide (lo' < hi)
  -- of one `copymc` a range that overlaps an earlier one, or a 65th of a core, is held as against a recorded one (R206)
  let full := (List.range rs.length).any fun i => match rs[i]? with
    | none => false
    | some (c, lo, hi) =>
      let before := (rs.take i).filter fun x => x.1 == c
      (before.any fun x => decide (lo < x.2.2) && decide (x.2.1 < hi)) || decide (64 ≤ (s.ranges.filter fun r => r.core == c && !r.saved).length + before.length)
  match leastFound (src.flatMap (fun a => s.sourceCheck e a r.size) ++ found ++ (if clash then [(.permission, 0)] else [])) with
  | some f => s.engineTrap e f
  | none =>
    if s.engineFull e bars || full || (rs.any fun (c, lo, hi) => s.rangeHit c lo hi || s.rangesFull c) then .next s.tick
    else if rs.isEmpty then
      -- every element is dropped: nothing is written, and the operation arrives
      let s := bars.foldl (fun s b => (s.pendUp b).postArrival b none 1 true none) s
      .next (s.finish e (done e.act))
    else .next ((s.acceptCopy e r xs dst bar bars rs).finish e (done e.act))

/-- The causes of a window destination's BASE (R444, R446): one that R29 rejects, and one that is no window of the workgroup. -/
def State.baseFound (s : State) (dst : ShapeRec) : List Found :=
  match spaceOf s.fab dst.base with
  | none => [(.addrTag, dst.base)]
  | some (.window _ _ _) => []
  | some _ => [(.permission, dst.base)]

/-- `copyw` (R446). -/
def execCopyw (gd : Guard) (b h x d : Nat) (s : State) : Out :=
  s.copyWord (.copyw gd b h x d) h d x (fun e r s => s.misfit e d r) fun e r xs s =>
    let (dr, s) := s.engineRec e (e.greg d).toNat shapeOf
    match r, dr with
    | .ok r, .ok dr =>
        let core := match spaceOf s.fab dr.base with | some (.window sel peer _) => windowCore e.core sel peer | _ => e.core
        let bad := s.baseFound dr
        match if bad.isEmpty then windowDest e.wg e.kern core r dr else .ok none with
        | .error f => s.issueWindow e r xs (.window core e.wid dr) (some (e.bar b)) [e.bar b] [] [f]
        | .ok rg => s.issueWindow e r xs (.window core e.wid dr) (some (e.bar b)) [e.bar b] rg.toList bad
    | r, dr => s.recordTrap e (foundIn r (fun r => (sources r xs).flatMap fun a => s.sourceCheck e a r.size) ++ foundIn dr s.baseFound)

/-- A receiver of `copymc`: its workgroup and what its handle names (R171, R447). -/
def State.receiver (s : State) (e : Env) (r dr : ShapeRec) (h : Nat) : Except Found (Nat × Nat × Nat × Option (Nat × Nat × Nat)) :=
  match s.remoteWg e h with
  | none => .error (.permission, 0)
  | some wid =>
    match s.wg? wid, (s.wg? wid).bind fun w => s.kernel? w.kernel with
    | some w, some k => match windowDest w k (w.coreAt 0) r dr with
      | .error f => .error f
      | .ok rg => .ok (w.coreAt 0, wid, h % 16, rg)
    | _, _ => .error (.permission, 0)

/-- `copymc` (R447). -/
def execCopymc (gd : Guard) (l h x d m : Nat) (s : State) : Out :=
  s.copyWord (.copymc gd l h x d m) h d x (fun e r s => s.misfit e d r || e.sameHandles l m) fun e r xs s =>
    let (dr, s) := s.engineRec e (e.greg d).toNat shapeOf
    match r, dr with
    | .ok r, .ok dr =>
        let hs := (List.range (m + 1)).map fun j => (e.greg (l + j)).toNat
        let sel := match spaceOf s.fab dr.base with | some (.window sel _ _) => if sel = 0 then [] else [(Cause.permission, dr.base)] | _ => []
        let bad := s.baseFound dr ++ sel
        let rs := if bad.isEmpty then hs.map (s.receiver e r dr) else []
        let found := rs.filterMap fun x => match x with | .error f => some f | .ok _ => none
        let good := rs.filterMap fun x => match x with | .ok v => some v | .error _ => none
        s.issueWindow e r xs (.multi dr (good.map fun v => (v.1, v.2.1, v.2.2.1))) none
          (good.map fun v => .wg v.2.1 v.2.2.1) (good.filterMap fun v => v.2.2.2) (bad ++ found)
    | r, dr => s.recordTrap e (foundIn r (fun r => (sources r xs).flatMap fun a => s.sourceCheck e a r.size) ++ foundIn dr s.baseFound)

/-! ### One source line at a time (R204, R423) -/

/-- An engine operation reads one source line: a copy the line named, a tier move its next. A line that is no part of it, has been
read, or cannot be read now leaves the state as it is. -/
def State.engineFetch (s : State) (id line : Nat) : State :=
  match s.copies.find? fun c => c.id == id with
  | some c =>
    if !c.lines.contains line || (c.fetched.any fun p => p.1 == line) || !s.sourceReady c line || s.copyStopped c
        || (s.ranges.any fun r => r.op == id && r.saved) || c.failed.isSome || !s.engineHas c then s
    else match s.sourceLine c line with
      | (.error e, s) => { s with copies := s.copies.map fun x => if x.id == id then { c with failed := some e } else x }
      | (.ok bs, s) =>
        { s with copies := s.copies.map fun x => if x.id == id then { c with fetched := c.fetched ++ [(line, bs)] } else x }
  | none =>
    match s.tiers.find? fun t => t.id == id with
    | none => s
    | some t =>
      if t.len ≤ t.moved.length || !s.tierReady t then s
      else match s.tierLine t t.moved.length with
        | .error _ => s
        | .ok s' => { s' with tiers := s'.tiers.map fun x => if x.id == id then { t with moved := t.moved ++ List.replicate 64 0 } else x }

/-! ### Ready tiles (R449) -/

/-- `tready` (R271, R449): PERMISSION also where ROFF lies outside every buffer view (R201), PEER_LOST where the rank set holds a lost rank
(R264); it waits for its barrier's PEND (R158) and its source (R231, R241). -/
def execTready (gd : Guard) (i : Nat) (s : State) : Out :=
  s.word (.tready gd i) fun e s =>
    if e.act = 0 then .next (s.finish e [])
    else s.afterStores e fun s =>
      let d := e.core / 256
      let k := (e.greg i).toNat % 4096
      let t := s.tile d k
      if t.cx ≠ e.cx || t.st != .armed || !t.skind || !s.inView e (s.ownVa t.roff) t.len then .next (s.raiseAct e .permission)
      else if t.lost s.fab.lostmap.toNat then .next (s.raiseAct e .peerLost)
      else if s.tileFull d t || !s.tileSourceReady t then .next (s.rangeWake t.cx (s.ownVa t.roff) (1024 * tileElem t.fmt) false).tick
      else .next (((s.modTile d k fun t => { t with issuer := some e.ag }).tileReady d k e.kid).finish e (done e.act))

/-! ### Tape pushes and launches (R77, R103, R451, R452) -/

/-- The checks of R451 in the order of R46. An operand of tag 00 with a bit of [61:48] set is accepted: R451 names the tag alone, where R29 calls
those bits must-be-zero (DESIGN CHOICE, log entry 158). -/
def tapeCheck (l p : Nat) : Option Found :=
  if l % 256 ≠ 0 then some (.align, l)
  else if p % 8 ≠ 0 then some (.align, p)
  else if l / 2^62 ≠ 0 then some (.addrTag, l)
  else if p / 2^62 ≠ 0 then some (.addrTag, p)
  else none

/-- A kernel entry is pushed onto the tape of a queue (R451), with zero in the double word at 0x18, which R451 does not list (DESIGN CHOICE, log
entry 107); none when the tape's page refuses it. -/
def State.pushTape (s : State) (qid l p : Nat) (upd : Bool) : Option State :=
  let q := s.queue qid
  (s.devWrite q.cx (q.entryAt q.depth)
    (leBytes 8 (1 + flag upd * 2^8) ++ leBytes 8 l ++ leBytes 8 p ++ List.replicate 40 0)).map fun s =>
      s.modQueue qid fun q => { q with depth := q.depth + 1 }

/-- `tapepush` (R77, R451). -/
def execTapepush (gd : Guard) (p : Nat) (a b : Src) (upd : Bool) (s : State) : Out :=
  s.word (.tapepush gd p a b upd) fun e s =>
    let mb := e.strandOp (fun l => [e.src .i64 a l, e.src .i64 b l]) (fun _ => false) false
    s.strandWord e mb fun s =>
      let lv := e.n .i64 a e.low
      let pv := e.n .i64 b e.low
      match tapeCheck lv pv with
      | some (c, x) => (s, allBad mb.1 c (BitVec.ofNat 64 x))
      | none =>
        let q := s.queue e.kern.queue
        if q.pushRefused then
          (s.modQueue e.kern.queue fun q => { q with tovf := q.tovf || q.depth == 65536 }, allPd mb.1 p false)
        else match s.pushTape e.kern.queue lv pv upd with
          | none => (s, allBad mb.1 .permission (BitVec.ofNat 64 (q.entryAt q.depth)))
          | some s => (s, allPd mb.1 p true)

/-- The checks of R452 in the order of R46. -/
def State.launchCheck (s : State) (e : Env) (a q : Nat) : Option Found :=
  if a % 256 ≠ 0 then some (.align, a)
  else if 2^48 ≤ a then some (.addrTag, a)
  else if !e.kern.leases false a 256 then some (.lease, a)
  else if 1024 ≤ q ∨ (s.queue q).cx ≠ e.cx then some (.permission, a)
  else none

/-- The steps of R103: the record is copied into the target queue's ring, and QTAIL rises; false when the queue takes none. The
outer none: a page refuses an access. -/
def State.launchInto (s : State) (cx a qid : Nat) : Option (Bool × State) :=
  let q := s.queue qid
  match s.devReadN cx (a + 8) 31 with
  | none => none
  | some bs =>
    let t := q.qtail.toNat
    if q.st == .disabled || q.st == .draining || decide (q.qhead.toNat + 2^q.rlog2 ≤ t) then some (false, s)
    else
      let at_ := q.qring.toNat + 256 * (t % 2^q.rlog2)
      let w1 := 1 + flag (bitAt (wordAt bs 0) 8) * 2^8
      match s.devWrite q.cx (at_ + 8) (leBytes 8 w1 ++ bs.drop 8) with
      | none => none
      | some s => match s.devWrite q.cx at_ (leBytes 8 t) with
        | none => none
        | some s => some (true, s.modQueue qid fun q => q.raiseTail (q.qtail + 1))

/-- `launch` (R103, R452). -/
def execLaunch (gd : Guard) (p : Nat) (a q : Src) (s : State) : Out :=
  s.word (.launch gd p a q) fun e s =>
    let mb := e.strandOp (fun l => [e.src .i64 a l, e.src .i32 q l]) (fun _ => false) false
    s.strandWord e mb fun s =>
      let av := e.n .i64 a e.low
      let qv := e.n .i32 q e.low
      match s.launchCheck e av qv with
      | some (c, x) => (s, allBad mb.1 c (BitVec.ofNat 64 x))
      | none => match s.launchInto e.cx av qv with
        | none => (s, allBad mb.1 .permission (BitVec.ofNat 64 av))
        | some (ok, s) => (s, allPd mb.1 p ok)

end Sys2Proof.Machine
end

