-- ==== Sys2Proof/Machine/GroupWide.lean ====
section
/-!
DEFINITION. The group-wide instructions (R121): `rswitch`, `reggrow`, `regshrink`, `fork`, `reward`, `slack`, `rcomb`, each with
what it does when its last strand has arrived.
-/
namespace Sys2Proof.Machine

/-- The count of `reggrow` and `regshrink` is 1 to 240 (R127, R128). -/
def countOk (n : Nat) : Bool := decide (1 ≤ n) && decide (n ≤ 240)

/-- The operands of `fork`: k lies in 2 to 64 and the entry names a clause header below CODELEN (R138). -/
def State.forkOk (s : State) (k : Kernel) (n entry : Nat) : Bool := decide (2 ≤ n) && decide (n ≤ 64) && s.namesClause k entry

/-- The pending group-wide instruction of a group takes effect (R121). Operands that R127, R128 and R138 refuse raise ILLEGAL_ENCODING
at every live lane of the group. -/
def gwApply (s : State) (gid : Nat) : State :=
  match (s.group? gid).bind fun g => g.gw with
  | none => s
  | some gw =>
    let v := fun n => (nth gw.vals n 0).toNat
    match gw.instr with
    | .rswitch _ p _ => s.roleSwitch gid p (v 0)
    | .reggrow _ p _ => if countOk (v 0) then s.regGrow gid p (v 0) else s.wideTrap gid .illegalEncoding
    | .regshrink _ _ => if countOk (v 0) then s.regShrink gid (v 0) else s.wideTrap gid .illegalEncoding
    | .fork _ p _ _ _ =>
      if ((s.kernelOf gid).map fun k => s.forkOk k (v 1) (v 2)) == some true then s.forkApply gid p gw.vals
      else s.wideTrap gid .illegalEncoding
    | .reward _ _ _ => s.rewardApply gid gw.vals
    | .slack _ d _ sx => s.slackApply gid d sx gw.vals
    | .rcomb _ d a _ => s.rcombApply gid d a gw.vals
    | _ => s

/-- Every group whose strands have all arrived is looked at again: a pending `rcomb` whose hold has ended goes on (R276). -/
def State.wideRetry (s : State) : State := (s.groups.map Prod.fst).foldl (fun s gid => s.wideCheck gid gwApply) s

/-- `rswitch` (R124, R125, R387). -/
def execRswitch (gd : Guard) (p : Nat) (a : Src) (s : State) : Out :=
  s.word (.rswitch gd p a) fun e s => s.wideWord e (.rswitch gd p a) (fun l => [e.src .i64 a l]) gwApply

/-- A strand with active lanes and these operands cannot arrive: another group-wide instruction, or another path of the strand, waits
(R121). -/
def State.wideClash (s : State) (e : Env) (vals : List W64) : Bool :=
  match (s.group? e.gid).bind fun g => g.gw with
  | some gw => gw.pc != e.lane0.pc || gw.arrived.any (fun a => a.1 == e.k) || gw.vals != vals
  | none => false

/-- An operand is refused and the strand cannot arrive, since its active lanes are not all of U or others wait elsewhere: ILLEGAL_ENCODING
comes before UNIFORM_DIVERGENT and NONUNIFORM_OPERAND (R46). With no active lane the word does nothing. -/
def State.refused (s : State) (e : Env) (ok : Bool) (vals : Nat → List W64) : Bool :=
  !ok && e.act != 0 && (!e.coversU || s.wideClash e (vals e.low))

/-- A refused operand raises ILLEGAL_ENCODING at every live lane of the group (R127, R128, R138). -/
def State.refuseWide (s : State) (e : Env) : State := (s.issued e).wideTrap e.gid .illegalEncoding

/-- `reggrow` (R127, R387). -/
def execReggrow (gd : Guard) (p : Nat) (n : Src) (s : State) : Out :=
  s.word (.reggrow gd p n) fun e s =>
    let vals := fun l => [e.src .i32 n l]
    if s.refused e (countOk (e.n .i32 n e.low)) vals then .next (s.refuseWide e)
    else s.wideWord e (.reggrow gd p n) vals gwApply

/-- `regshrink` (R128, R387). -/
def execRegshrink (gd : Guard) (n : Src) (s : State) : Out :=
  s.word (.regshrink gd n) fun e s =>
    let vals := fun l => [e.src .i32 n l]
    if s.refused e (countOk (e.n .i32 n e.low)) vals then .next (s.refuseWide e)
    else s.wideWord e (.regshrink gd n) vals gwApply

/-- `fork` (R138 to R141, R450): k lies in 2 to 64 and the entry names a clause header. -/
def execFork (gd : Guard) (p : Nat) (h k en : Src) (s : State) : Out :=
  s.word (.fork gd p h k en) fun e s =>
    let vals := fun l => [e.src .i32 h l, e.src .i32 k l, e.src .i32 en l]
    if s.refused e (s.forkOk e.kern (e.n .i32 k e.low) (e.n .i32 en e.low)) vals then .next (s.refuseWide e)
    else s.wideWord e (.fork gd p h k en) vals gwApply

/-- `reward` (R142). -/
def execReward (gd : Guard) (h x : Src) (s : State) : Out :=
  s.word (.reward gd h x) fun e s =>
    s.wideWord e (.reward gd h x) (fun l => [e.src .i32 h l, e.src .f32 x l]) gwApply

/-- `slack` (R143, R144, R450). -/
def execSlack (gd : Guard) (d : Nat) (h : Src) (sx : Nat) (s : State) : Out :=
  s.word (.slack gd d h sx) fun e s =>
    s.wideWord e (.slack gd d h sx) (fun l => [e.src .i32 h l]) gwApply

/-- `rcomb` (R276, R277, R453). -/
def execRcomb (gd : Guard) (d a : Nat) (r : Src) (s : State) : Out :=
  s.word (.rcomb gd d a r) fun e s =>
    if e.grp.regs < a + 32 / min e.grp.width 32 ∨ e.grp.regs < d + 32 / min e.grp.width 32 then .next (s.raiseAct e .illegalEncoding)
    else s.wideWord e (.rcomb gd d a r) (fun l => [e.src .i64 r l]) gwApply

end Sys2Proof.Machine
end

