-- ==== Sys2Proof/Machine/Flow.lean ====
section
/-!
DEFINITION. Control flow, opcodes 0x90 to 0x9F (R376 to R386): transfers, rejoin masks, exit, yield, traps and returns, signals,
sleep.
-/
namespace Sys2Proof.Machine

/-! ### Transfers (R377, R378) -/

/-- The value that COND of `bra` tests: signed 32-bit in a group stream, signed 64-bit in a control thread (R377). -/
def Env.condVal (e : Env) (a : Src) (l : Nat) : Int :=
  if e.ctl then sgn 64 (e.n .i64 a l) else sgn 32 (e.n .i32 a l)

/-- The branch is taken (R377). -/
def braTaken (c : BraCond) (x : Int) : Bool :=
  match c with
  | .always => true
  | .z => x == 0
  | .nz => x != 0
  | .neg => decide (x < 0)
  | .nneg => decide (0 ≤ x)

/-- Address of the next clause header (R377). -/
def Env.nextHeader (e : Env) : Nat := e.cl.hdr + 8 * (1 + e.cl.words.length + e.cl.lits.length / 2)

/-- What a link register receives (R377): the code offset of the next clause header, negative below CODE. -/
def Env.linkVal (e : Env) : W64 := BitVec.ofInt 64 ((e.nextHeader : Int) - e.kern.code)

/-- A transfer: each active lane that takes it goes to CODE + its target, or raises ALIGN; the others go on (R377). `link`: the
register that receives the link. -/
def State.transfer (s : State) (e : Env) (taken : Nat → Bool) (t : Nat → Nat) (link : Option Nat) : Out :=
  let outs := (lanesOf e.act).map fun l =>
    if taken l && t l % 8 != 0 then .bad l .align (BitVec.ofNat 64 (e.kern.code + t l))
    else match link with
      | some d => .reg l (.reg d) .i32 e.linkVal
      | none => .ok l [] 0
  .next (s.finishTo e outs false fun l =>
    if inMask e.act l && taken l then (e.kern.code + t l, false) else (e.nextHeader, false))

/-- `bra` (R377). -/
def execBra (gd : Guard) (t a : Src) (cond : BraCond) (s : State) : Out :=
  s.word (.bra gd t a cond) fun e s => s.transfer e (fun l => braTaken cond (e.condVal a l)) (fun l => e.n .i32 t l) none

/-- `brx` (R377). -/
def execBrx (gd : Guard) (a b : Src) (s : State) : Out :=
  s.word (.brx gd a b) fun e s =>
    s.transfer e (fun _ => true) (fun l => (e.n .i32 a l % 2^32 + 8 * (e.n .i32 b l % 2^32)) % 2^32) none

/-- `call` and `call.x` (R377). -/
def execCall (gd : Guard) (d : Nat) (a : Src) (x : Bool) (s : State) : Out :=
  s.word (.call gd d a x) fun e s => s.transfer e (fun _ => true) (fun l => e.n .i32 a l % 2^32) (some d)

/-- `ret` (R377). -/
def execRet (gd : Guard) (a : Src) (s : State) : Out :=
  s.word (.ret gd a) fun e s => s.transfer e (fun _ => true) (fun l => e.n .i32 a l % 2^32) none

/-! ### Rejoin masks (R114 to R116, R379) -/

/-- `enrol` (R114). -/
def execEnrol (j : Nat) (s : State) : Out :=
  s.word (.enrol j) fun e s =>
    let s := s.modUnit e.ag fun u => { u with jmask := modAt u.jmask j fun _ => e.path, u := e.path }
    .next (s.finish e (done e.act))

/-- `rejoin` (R115): lanes of the path in the mask wait, the others pass; the mask is released once it is complete. -/
def execRejoin (j : Nat) (s : State) : Out :=
  s.word (.rejoin j) fun e s =>
    let m := e.path &&& nth e.u.jmask j 0
    if m = 0 then .next (s.finish e (done e.act))
    else
      let s := s.modUnit e.ag fun u =>
        let u := u.mapLanes (inMask e.path) fun k l =>
          if inMask m k then l.hold (.rejoin j) (e.cl.next l) else (l.shift 0).goto (e.cl.next l)
        -- a path that waits as a whole gives up the issue (R113), unless its arrival releases it in the same clk (R115)
        ({ u with swash := min 511 (u.swash + 1) }.rejoinRelease j).settle e.lane0.pc
      .next (s.issued e)

/-! ### Exit, yield (R380, R381) -/

/-- Long-latency results still outstanding for lanes that exit are discarded (R380). -/
def State.dropResults (s : State) (ag : Agent) (m : BitVec 8) : State :=
  let keep := fun (w : RegWrite) => match w with
    | .vreg _ l _ => !inMask m l
    | .greg _ _ => true
    | .creg _ _ => false
  let ps := s.pend.map fun (p : Pending) => if p.ag == ag then { p with writes := p.writes.filter keep } else p
  { s with pend := ps.filter fun (p : Pending) => !(p.ag == ag && p.writes.isEmpty) }

/-- Failed remote atomics of lanes that exit go to the kernel's completion record (R262). -/
def State.exitFails (s : State) (ag : Agent) (m : BitVec 8) (kid : Nat) : State :=
  let mine := fun (f : RatomFail) => f.ag == ag && inMask m f.lane
  match s.ratomFails.find? mine with
  | none => s
  | some f =>
    { (s.modKernel kid fun k => { k with late := some (k.late.getD f.cause) }) with
      ratomFails := s.ratomFails.filter fun f => !mine f }

/-- What follows the exit of lanes (R368, R380): a gather or a group-wide instruction may complete, and the group, the
descriptor's sibling and the workgroup may end. -/
def State.afterExit (s : State) (e : Env) : State :=
  match e.ag with
  | .ctl w => if (s.ct? w).any (fun c => c.unit.live) then s else (s.endCt w).wgEnd w
  | .strand g _ =>
    if (s.group? g).any fun x => x.strands.any Strand.live then (s.gatherCheck g e).wideCheck g gwApply
    else ((s.sgLeave g).endGroup g).wgEnd e.wid

/-- `exit` (R380); a control thread's waits for its mma operations (R431). -/
def execExit (gd : Guard) (s : State) : Out :=
  s.word (.exit gd) fun e s =>
    if e.act = 0 then .next (s.finish e [])
    else s.afterStores e fun s =>
      if e.ctl && s.mmas.any (fun m => m.wg == e.wid && !m.heldBy) then .next s.tick
      else
        let s := (s.dropResults e.ag e.act).exitFails e.ag e.act e.kid
        let s := s.modUnit e.ag fun u =>
          let u := u.mapLanes (fun k => inMask e.path k && !inMask e.act k) fun k l => (l.shift 0).goto (e.cl.next (e.u.lane k))
          let u := { u with
            swash := min 511 (u.swash + 1)
            gAtExit := if u.liveMask &&& ~~~e.act = 0 then e.grp.gregs else u.gAtExit
            vAtExit := if u.liveMask &&& ~~~e.act = 0 then e.grp.win.filter fun x => decide (x.1 % e.grp.width / 8 = e.k) else u.vAtExit }
          (u.exitLanes e.act).rejoinAll.settle e.lane0.pc
        .next ((s.afterExit e).issued e)

/-- `yield` (R381): the next path takes the issue; the path goes on at the next word, since no outcome depends on `yield`. -/
def execYield (gd : Guard) (s : State) : Out :=
  s.word (.yield gd) fun e s =>
    let s := s.finish e (done e.act)
    .next (if e.act = 0 then s else s.modUnit e.ag fun u => { u.yieldPath with swash := 0 })

/-! ### Traps and returns (R383 to R385) -/

/-- `trap` (R383). -/
def execTrap (gd : Guard) (n : Nat) (s : State) : Out := s.word (.trap gd n) fun e s => .next (s.raiseAct e .soft)

/-- `brk` (R383). -/
def execBrk (gd : Guard) (n : Nat) (s : State) : Out := s.word (.brk gd n) fun e s => .next (s.raiseAct e .brk)

/-- Held mma operations go on after the handler (R434): `rte` discards the failing one, `rte.retry` restarts it. -/
def State.releaseHeld (s : State) (w : Nat) (retry : Bool) : State :=
  match s.ct? w with
  | none => s
  | some c =>
    match c.deferred with
    | none => s
    | some id =>
      let ms := (s.mmas.filter fun (m : MmaOp) => retry || m.id != id).map fun (m : MmaOp) =>
        if m.wg == w then { m with heldBy := false } else m
      let s := { s with mmas := ms }
      s.modCt w fun c => { c with deferred := none }

/-- `rte` in both forms (R50, R51, R384). -/
def State.returns (s : State) (i : Instr) (retry : Bool) : Out :=
  s.word i fun e s =>
    let bads := ((lanesOf e.act).filter fun l => !(e.u.lane l).inHandler).map fun l => LaneOut.bad l .priv
    let ret := maskOf fun l => inMask e.act l && (e.u.lane l).inHandler
    if ret = 0 then .next (s.finish e bads)
    else
      let defers := (lanesOf ret).any fun l => (e.u.lane l).tflags.getLsbD 1
      let s := if e.ctl && defers then s.releaseHeld e.wid retry else s
      let s0 := s
      let s := s.modUnit e.ag fun u =>
        let u := u.mapLanes (inMask e.path) fun k l =>
          if inMask ret k then l.rte retry (s0.clauseShape e.cx l.thdr)
          else if bads.any fun b => b.lane == k then l.park .priv 0 0
          else (l.shift 0).goto (e.cl.next (e.u.lane k))
        { u with swash := min 511 (u.swash + 1) }
      .next ((s.issued e).resettle e.ag e.lane0.pc (!bads.isEmpty))

/-- `rte`. -/
def execRte (gd : Guard) (s : State) : Out := s.returns (.rte gd) false

/-- `rte.retry`. -/
def execRteRetry (gd : Guard) (s : State) : Out := s.returns (.rteRetry gd) true

/-! ### Signals, sleep (R382, R386) -/

/-- `signal` (R83, R386). -/
def execSignal (gd : Guard) (a b : Src) (s : State) : Out :=
  s.word (.signal gd a b) fun e s =>
    s.strandWord e (e.uniform fun l => [e.src .i32 a l]) fun s =>
      let m := (e.uniform fun l => [e.src .i32 a l]).1
      let q := e.n .i32 a e.low
      if 1024 ≤ q ∨ (s.queue q).cx ≠ e.cx then (s, allBad m .permission)
      else (s.modQueue q Queue.signal, done m)

/-- `signal.mbox` (R386, R510): the write to the wake register of the management mailbox. -/
def execSignalMbox (gd : Guard) (a b : Src) (s : State) : Out :=
  s.word (.signalMbox gd a b) fun e s =>
    s.strandWord e (e.uniform fun l => [e.src .i32 a l]) fun s =>
      let m := (e.uniform fun l => [e.src .i32 a l]).1
      (s.mailbox e.cx (lo32 (e.src .i32 b e.low)), done m)

/-- `sleep` (R382): 0 waits until the next clk. -/
def execSleep (gd : Guard) (a : Src) (s : State) : Out :=
  s.word (.sleep gd a) fun e s =>
    let (m, bads) := e.uniform fun l => [e.src .i32 a l]
    if m = 0 then .next (s.finish e bads) else .next (s.holdSome e (.sleep (e.n .i32 a e.low)) bads)

/-- SLEEP_EXPIRE (R382): the ticks have passed in which the context was Active; the path continues. -/
def execSleepExpire (ag : Agent) (s : State) : Out :=
  match s.mayIssue ag with
  | none => s.noEvent
  | some (u, _, _) =>
    if u.lanes.any fun l => l.wait == some (.sleep 0) then .next (s.modUnit ag fun u => u.release (fun w => w == .sleep 0) fun _ => 0)
    else s.noEvent

end Sys2Proof.Machine
end

