-- ==== Sys2Proof/Machine/System.lean ====
section
/-!
DEFINITION. System registers, performance counters, debug marks, instruction caches and checkpoints: opcodes 0xF0 to 0xF5 and their
device steps (R59, R60, R294, R454 to R460, R511).
-/
namespace Sys2Proof.Machine

/-! ### System registers (R455, R456) -/

/-- SATSUMk (R294): counter `k` of a context over every core of the package. -/
def State.satSum (s : State) (cx k : Nat) : W64 :=
  BitVec.ofNat 64 (((s.ctx cx).satcnt.filter fun e => e.1 % 16 == k).foldl (fun n e => n + e.2.toNat) 0)


/-- The value of a system register at a lane (R455). -/
def State.sysVal (s : State) (e : Env) (n l : Nat) : W64 :=
  let c := s.ctx e.cx
  let x := e.u.lane l
  match n with
  | 0x00 => s.dtime
  | 0x01 => BitVec.ofNat 64 e.cx
  | 0x02 => BitVec.ofNat 64 e.kern.queue
  | 0x03 => e.kern.rseq
  | 0x04 => BitVec.ofNat 64 s.fab.podsize
  | 0x05 => BitVec.ofNat 64 s.mgmt.seqdie
  | 0x06 => c.phase.setWidth 64
  | 0x07 => c.wakestall
  | 0x08 => c.energy
  | 0x09 => c.cur.setWidth 64
  | 0x10 => x.tpc
  | 0x11 => x.tcause.setWidth 64
  | 0x12 => x.taddr
  | 0x13 => x.tflags.setWidth 64
  | 0x14 => x.tlat0
  | 0x15 => x.tlat1
  | 0x16 => x.tlat2
  | 0x17 => x.tlat3
  | _ => s.satSum e.cx (n - 0x40)

/-- `sysrd` (R455, R456). -/
def execSysrd (gd : Guard) (d : Dst) (idx : Nat) (s : State) : Out :=
  s.word (.sysrd gd d idx) fun e s =>
    .next (s.finish e ((lanesOf e.act).map fun l => .reg l d (SysReg.ty idx) (s.sysVal e idx l)))

/-- The lane with a handler-only register written (R455). -/
def Lane.setSys (x : Lane) (n : Nat) (v : W64) : Lane :=
  match n with
  | 0x10 => { x with tpc := v }
  | 0x14 => { x with tlat0 := v, towed := x.towed.set 0 none }
  | 0x15 => { x with tlat1 := v, towed := x.towed.set 1 none }
  | 0x16 => { x with tlat2 := v, towed := x.towed.set 2 none }
  | 0x17 => { x with tlat3 := v, towed := x.towed.set 3 none }
  | _ => x

/-- The cause of a handler-only write at a lane (R455, R456). -/
def Env.handlerWrite (e : Env) (idx l : Nat) (v : W64) : Option (Cause × W64) :=
  if !(e.u.lane l).inHandler then some (.priv, 0)
  else if idx = 0x10 ∧ v.toNat % 8 ≠ 0 then some (.align, v)
  else none

/-- `syswr` (R39, R455, R456). -/
def execSyswr (gd : Guard) (a : Src) (idx : Nat) (s : State) : Out :=
  s.word (.syswr gd a idx) fun e s =>
    if idx = 0x06 then
      if e.act = 0 then .next (s.finish e [])
      else s.afterStores e fun s => .next ((s.setPhase e.cx (e.n .i32 a e.low % 8)).finish e (done e.act))
    else if idx = 0x10 ∨ (0x14 ≤ idx ∧ idx ≤ 0x17) then
      let v := fun l => e.src .i64 a l
      let good := maskOf fun l => inMask e.act l && (e.handlerWrite idx l (v l)).isNone
      let bads := (lanesOf e.act).filterMap fun l => (e.handlerWrite idx l (v l)).map fun c => LaneOut.bad l c.1 c.2
      .next ((s.modUnit e.ag fun u => u.mapLanes (inMask good) fun l x => x.setSys idx (v l)).finish e (done good ++ bads))
    else .next (s.raiseAct e .priv)

/-- `dbgmark` (R458, R511). -/
def execDbgmark (gd : Guard) (a : Src) (s : State) : Out :=
  s.word (.dbgmark gd a) fun e s =>
    let on := bitAt (nth s.mgmt.tracemask (e.cx / 64) 0).toNat (e.cx % 64)
    let r : TraceRec := ⟨s.dtime, e.cx, e.core / 256, e.core % 256, e.u.slot, lo32 (e.src .i32 a e.low)⟩
    let s := if on && e.act != 0 then { s with mgmt := { s.mgmt with trace := s.mgmt.trace ++ [r] } } else s
    .next (s.finish e (done e.act))

/-- `perfc` (R457). -/
def execPerfc (gd : Guard) (d : Dst) (n : Nat) (s : State) : Out :=
  s.word (.perfc gd d n) fun e s =>
    .next (s.finish e ((lanesOf e.act).map fun l => .reg l d .i64 (tabGet (s.ctx e.cx).perf 0 (8 * e.core + n))))

/-! ### Instruction caches (R459) -/

/-- The declared ranges of a kernel, as first address and end (R95). -/
def Kernel.declared (k : Kernel) : List (Nat × Nat) := (k.ranges.filter fun r => r.len != 0).map fun r => (r.base, r.base + r.len)

/-- The ranks of the pod that have not been lost. -/
def State.liveRanks (s : State) : List Nat := (List.range s.fab.podsize).filter fun r => !bitAt s.fab.lostmap.toNat r

/-- The physical spans of a range of virtual addresses: both frames of a page that has two. -/
def State.physSpans (s : State) (cx va len : Nat) : List (Nat × Nat) :=
  (s.rangeLeaves cx va len).flatMap fun (a, r) => match r with
    | .ok l =>
      let n := min (l.base a + l.span) (va + len) - a
      let at_ := fun sh => let p := s.physBy cx a l.pte l.psize sh; (p, p + n)
      at_ false :: (if pteDual l.pte then [at_ true] else [])
    | .error _ => []

/-- The lines of a range leave every instruction cache of the package. -/
def State.dropCode (s : State) (cx va len : Nat) : State :=
  let sp := s.physSpans cx va len
  { s with icache := s.icache.filter fun e => !(sp.any fun p => decide (p.1 / 64 ≤ e.1 % 2^64) && decide (64 * (e.1 % 2^64) < p.2)) }

/-- The checks of `icinv` in the order of R46 (R459). -/
def State.icinvCheck (s : State) (e : Env) (a n : Nat) : Option Cause :=
  if a % 64 ≠ 0 ∨ n % 64 ≠ 0 then some .align
  else if a / 2^62 ≠ 0 ∨ (spaceOf s.fab a).isNone then some .addrTag
  else
    let rs := e.kern.declared
    if covers rs (rs.length + 1) a (a + n) then none else some .lease

/-- `icinv` (R459): once the strand's earlier stores are performed the range is dropped everywhere; the path stalls while other
packages have yet to acknowledge. -/
def execIcinv (gd : Guard) (a n : Src) (s : State) : Out :=
  s.word (.icinv gd a n) fun e s =>
    if e.u.stall.isSome then .next s.tick
    else
      let mb := e.strandOp (fun l => [e.src .i64 a l, e.src .i32 n l]) (fun _ => false) false
      if mb.1 = 0 then .next (s.finish e mb.2)
      else
        let av := e.n .i64 a e.low
        let nv := e.n .i32 n e.low
        match s.icinvCheck e av nv with
        | some c => .next (s.finish e (mb.2 ++ allBad mb.1 c (BitVec.ofNat 64 av)))
        | none =>
          s.afterStores e fun s =>
            if nv = 0 then .next (s.finish e (mb.2 ++ done mb.1))
            else if s.liveRanks = [s.fab.rank] then .next ((s.dropCode e.cx av nv).finish e (mb.2 ++ done mb.1))
            else
              let id := s.nextId
              let op : IcinvOp := ⟨id, e.ag, e.cx, av, nv, false, s.liveRanks⟩
              let s : State := { s with nextId := id + 1, icinvs := s.icinvs ++ [op] }
              let s := s.raise e.ag (mb.2.filterMap fun o => o.cause.map fun c => (o.lane, c))
              .next (s.modUnit e.ag fun u => { u with stall := some (.icinv id) }).tick

/-- The `icinv` ends when every rank has acknowledged it. -/
def State.icinvEnd (s : State) (id : Nat) : State :=
  match s.icinvs.find? fun x => x.id == id with
  | none => s
  | some x =>
    if x.acks.isEmpty then { s with icinvs := s.icinvs.filter fun y => y.id != id }.unstall x.ag 0 none 0 else s

/-- `s` with `icinv` `id` changed. -/
def State.modIcinv (s : State) (id : Nat) (f : IcinvOp → IcinvOp) : State :=
  { s with icinvs := s.icinvs.map fun x => if x.id == id then f x else x }

/-- ICINV_INVALIDATE (R459): the invalidation reaches this package, whose instruction caches drop the lines. -/
def execIcinvInvalidate (id : Nat) (s : State) : Out :=
  match s.icinvs.find? fun x => x.id == id with
  | none => s.noEvent
  | some x =>
    if x.dropped then s.noEvent
    else .next ((s.dropCode x.cx x.addr x.len).modIcinv id fun x => { x with dropped := true })

/-- ICINV_ACK (R459): a rank's acknowledgement reaches the issuer; with the last one the path goes on. This package acknowledges
once it has dropped the lines. -/
def execIcinvAck (id rank : Nat) (s : State) : Out :=
  match s.icinvs.find? fun x => x.id == id with
  | none => s.noEvent
  | some x =>
    if !x.acks.contains rank || (rank == s.fab.rank && !x.dropped) then s.noEvent
    else .next ((s.modIcinv id fun x => { x with acks := x.acks.erase rank }).icinvEnd id)

/-! ### Checkpoints (R42, R59, R60, R460) -/

/-- Of two causes with their addresses the one that comes first in the order of R46, the earlier where they tie. -/
def firstFound (x y : Found) : Found := if y.1.rank < x.1.rank then y else x

/-- The double words of a list in memory, each with the checks of a load (R399), or the cause that comes first with its address (R46). -/
def State.loadList (s : State) (e : Env) (va : Nat) : Nat → Except (Cause × Nat) (List Nat × List Loc) × State
  | 0 => (.ok ([], []), s)
  | n + 1 =>
    match s.locate e e.tlbs va 8 8 Need.load with
    | (.error c, s) =>
      match s.loadList e (va + 8) n with
      | (.error d, s) => (.error (firstFound (c, va) d), s)
      | (.ok _, s) => (.error (c, va), s)
    | (.ok (.phys a shared repl), s) =>
      let (bs, s) := s.loadPhys e.unit a 8 shared repl
      match s.loadList e (va + 8) n with
      | (.error c, s) => (.error c, s)
      | (.ok (ws, ls), s) => (.ok (leNat bs :: ws, .phys a shared repl :: ls), s)
    | (.ok .held, s) => (.ok ([], [.held]), s)
    | (.ok _, s) => (.error (.lease, va), s)

/-- The buffers of a checkpoint list: handle, record and OFF, or the cause that reading the records raises first (R460, R46). -/
def State.ckptBufs (s : State) (e : Env) : List Nat → Except (Cause × Nat) (List (Nat × BufRec × Nat)) × State
  | h :: off :: t =>
    let hv := h % 2^32 % 4096
    match s.record e.kid e.cx e.core hv bufOf with
    | (.error c, s) =>
      let f := (c, if c = .permission then s.shapeAddr e.cx hv else 0)
      match s.ckptBufs e t with
      | (.error d, s) => (.error (firstFound f d), s)
      | (.ok _, s) => (.error f, s)
    | (.ok b, s) =>
      match s.ckptBufs e t with
      | (.error c, s) => (.error c, s)
      | (.ok bs, s) => (.ok ((hv, b, off) :: bs), s)
  | _ => (.ok [], s)

/-- An OFF that R460 does not allow. -/
def badOff (off : Nat) : Bool := off % 4096 != 0 || decide (off < 0x1000)

/-- The OFF of some entry of a list is not allowed (R460). -/
def badOffs : List Nat → Bool
  | _ :: off :: t => badOff off || badOffs t
  | _ => false

/-- The checks of R460 on the entries of a list. -/
def State.ckptEntryCheck (s : State) (bs : List (Nat × BufRec × Nat)) (l : Nat) : Option (Cause × Nat) :=
  if bs.any fun b => badOff b.2.2 then some (.align, l)
  else (bs.find? fun b => !(s.inNode true b.2.1.view b.2.1.len)).map fun b => (.permission, b.2.1.view)

/-- A mark is taken (R59, R60): every buffer not already pending starts a copy of its present front. -/
def State.mark (s : State) (cx kid : Nat) (bs : List (Nat × BufRec × Nat)) (epoch : W32) : State :=
  let dest := (s.ctx cx).ckptdest.toNat
  if dest = 0 then s.modCtx cx fun c => { c with epoch := epoch }
  else
    let s := bs.foldl (fun s (h, b, off) =>
      if s.ckpts.any fun c => c.cx == cx && c.handle == h then s
      else { s with ckpts := s.ckpts ++ [⟨cx, h, b, (dest + off) % 2^64, s.dueIn 2⟩] }) s
    { s with marks := s.marks ++ [⟨cx, kid, epoch, dest, ((bs.map fun b => (b.1, b.2.2)).eraseDups)⟩] }

/-- `ckptmark` (R460). -/
def execCkptmark (gd : Guard) (a n ep : Src) (s : State) : Out :=
  s.word (.ckptmark gd a n ep) fun e s =>
    let mb := e.strandOp (fun l => [e.src .i64 a l, e.src .i32 n l, e.src .i32 ep l])
      (fun l => e.n .i32 n l = 0 || 64 < e.n .i32 n l) false
    if mb.1 = 0 then .next (s.finish e mb.2)
    else
      let l := e.n .i64 a e.low
      let stop := fun (s : State) (c : Cause) (x : Nat) => Host.Outcome.next (s.finish e (mb.2 ++ allBad mb.1 c (BitVec.ofNat 64 x)))
      if l % 16 ≠ 0 then stop s .align l
      else if l / 2^62 ≠ 0 then stop s .addrTag l
      else s.afterStores e fun s =>
        let k := e.low
        match s.loadList e l (2 * e.n .i32 n k) with
        | (.error (c, x), s) => stop s c x
        | (.ok (ws, locs), s') =>
          if locs.any fun x => s.mustWait e 8 Need.load x then .next (locs.foldl (fun s x => s.wakeLoc e Need.load x) s).tick
          else match s'.ckptBufs e ws with
            | (.error f, s) =>
              let (c, x) := if badOffs ws then firstFound f (.align, l) else f
              stop s c x
            | (.ok bs, s) =>
              match s.ckptEntryCheck bs l with
              | some (c, x) => stop s c x
              | none => .next ((s.mark e.cx e.kid bs (lo32 (e.src .i32 ep k))).finish e (mb.2 ++ done mb.1))

/-- One part of a checkpoint copy: bytes of the front go to the destination; a destination on another rank is not seen here. -/
def State.ckptPart (s : State) (cx src dst n : Nat) : Option Cause × State :=
  match s.engineRead [] cx src n with
  | (.error c, s) => (some c, s)
  | (.ok bs, s) =>
    match spaceOf s.fab dst with
    | some (.own _) => match s.devWrite cx dst bs with
      | some s => (none, s)
      | none => (some .permission, s)
    | some (.other r _) => (if bitAt s.fab.lostmap.toNat r then some .peerLost else none, s)
    | _ => (some .permission, s)

/-- The parts of a checkpoint copy, none of which crosses a line on either side. -/
def State.ckptParts (s : State) (cx src dst n : Nat) : Nat → Option Cause × State
  | 0 => (none, s)
  | f + 1 =>
    if n = 0 then (none, s)
    else
      let k := min n (min (64 - src % 64) (64 - dst % 64))
      match s.ckptPart cx src dst k with
      | (some c, s) => (some c, s)
      | (none, s) => s.ckptParts cx (src + k) (dst + k) (n - k) f

/-- A checkpoint copy fails (R60): CERR, EPOCH as it was; the marks that name the buffer are abandoned, with the copies that no
other mark needs. -/
def State.ckptFail (s : State) (cx h : Nat) : State :=
  let hit := fun (m : CkptMark) => m.cx == cx && m.bufs.any fun b => b.1 == h
  let left := s.marks.filter fun m => !hit m
  let need := fun (c : CkptCopy) => c.cx != cx || left.any fun m => m.cx == cx && m.bufs.any fun b => b.1 == c.handle
  { s with marks := left, ckpts := s.ckpts.filter need }.modCtx cx fun c => { c with cerr := true }

/-- The record of a mark whose copies are done: epoch and DTIME at CKPTDEST, then EPOCH (R59). -/
def State.ckptRecord (s : State) (m : CkptMark) : State :=
  let bs := leBytes 8 m.epoch.toNat ++ leBytes 8 s.dtime.toNat
  let w : Option State := match spaceOf s.fab m.dest with
    | some (.own _) => s.devWrite m.cx m.dest bs
    | some (.other r _) => if bitAt s.fab.lostmap.toNat r then none else some s
    | _ => none
  match w with
  | some s => s.modCtx m.cx fun c => { c with epoch := m.epoch }
  | none => s.modCtx m.cx fun c => { c with cerr := true }

/-- A checkpoint copy is done: marks with no copy outstanding complete, oldest first. -/
def State.ckptDone (s : State) (cx h : Nat) : State :=
  let s := { s with
    ckpts := s.ckpts.filter fun c => !(c.cx == cx && c.handle == h)
    marks := s.marks.map fun (m : CkptMark) => if m.cx == cx then { m with bufs := m.bufs.filter fun b => b.1 != h } else m }
  let s := (s.marks.filter fun m => m.bufs.isEmpty).foldl State.ckptRecord s
  { s with marks := s.marks.filter fun m => !m.bufs.isEmpty }

/-- CHECKPOINT_COPY_DONE (R59): the copy of a buffer's front is made. One that meets a failure of R60 fails. -/
def execCheckpointCopyDone (cx h : Nat) (s : State) : Out :=
  match s.ckpts.find? fun c => c.cx == cx && c.handle == h with
  | none => s.noEvent
  | some c =>
    if !(s.rangeReady cx c.buf.view c.buf.len false && s.rangeReady cx c.dest c.buf.len false) then
      .next ((s.rangeWake cx c.buf.view c.buf.len false).rangeWake cx c.dest c.buf.len false)
    else match s.ckptParts cx c.buf.view c.dest c.buf.len (2 * (c.buf.len / 64 + 2)) with
      | (some _, s) => .next (s.ckptFail cx h)
      | (none, s) => .next ((s.ckptDone cx h).served 2056 c.due)

/-- CHECKPOINT_COPY_FAIL (R60): the device finds a failure of the copy. -/
def execCheckpointCopyFail (cx h : Nat) (cause : Cause) (s : State) : Out :=
  if (s.ckpts.any fun c => c.cx == cx && c.handle == h) && (cause == .peerLost || cause == .integrity || cause == .permission) then
    .next (s.ckptFail cx h)
  else s.noEvent

end Sys2Proof.Machine
end

