-- ==== Sys2Proof/Machine/MemService.lean ====
section
/-!
DEFINITION. The memory service: stores and long-latency results, fills and logical time, the control-space agents, home and mirror,
replicas, engine writes from other ranks, soft errors, row sparing and write-backs (R184 to R198, R201, R212 to R216, R245 to R250,
R261, R265, R327).
-/
namespace Sys2Proof.Machine

/-! ### Results and stores -/

/-- LONG_LATENCY_RESULT (R327): a result whose value is known is written. -/
def execLongLatencyResult (id : Nat) (s : State) : Out :=
  match s.pend.find? fun p => p.id == id && p.ready with
  | none => s.noEvent
  | some p => .next { (s.landWrites p.ag p.writes) with pend := s.pend.filter fun x => x.id != id }

/-- An earlier store of the agent is on its way to its home or to the replicas: the next is not performed yet (R191). -/
def State.storeInFlight (s : State) (ag : Agent) : Bool := !(s.inFlight ag).isEmpty

/-- STORE_PERFORM (R191, R193): the oldest store of an agent is performed at its home; one homed at another package sets out for it, and for
one that cannot be performed yet what it waits for is asked: the wake of its segment, the answers of the other dies' agents. -/
def execStorePerform (ag : Agent) (s : State) : Out :=
  match s.headStore ag with
  | none => s.noEvent
  | some q =>
    let cx := s.cxOf ag
    if s.replicated cx q.va then s.noEvent
    else if s.storeInFlight ag then .next s
    else if s.storeHeld ag q then .next (s.storeAsk ag q)
    else if q.at_ < 2^43 ∧ homeRank q.at_ ≠ s.fab.rank then
      .next ((s.popStore ag).homeSend (some ag) cx (s.unitOf ag) (s.pageShared cx q.va) q.parts q.issued (some (s.coreOf ag, q.due))).2
    else .next (s.performStore ag)

/-! ### Fills and logical time (R188 to R190, R195, R197) -/

/-- A line comes into a core's L1 (R189, R192): with a lease when its page is Shared, without when it is Private. -/
def State.fillL1 (s : State) (m : Miss) : State :=
  let x := m.line
  let rest := s.l1.filter fun l => !(l.core == m.unit && l.line == x)
  let data := memRead s.mem x 64
  let t := s.lineTime x
  if s.pageShared m.cx m.page then
    let lease := umax64 (s.ptsOf m.unit) t.wts + 15
    ({ s with
      lines := tabSet s.lines x ⟨t.wts, umax64 t.rts lease⟩
      l1 := rest ++ [⟨m.unit, x, data, t.wts, lease, false, false⟩] } : State).raisePts m.unit t.wts
  else { s with l1 := rest ++ [⟨m.unit, x, data, t.wts, 0, true, false⟩] }

/-- A fill stays in L1: not where the core has no L1 ways (R184), where an invalidation waits for the die's copies or has taken the line
from it (R193, R197), nor where updates of a Replicated page are pending (R216). -/
def State.fillKept (s : State) (m : Miss) : Bool :=
  let die := m.unit / 256
  s.l1Ways m.unit != 0 && !(s.inval.contains (die, m.line)) && (s.repsOn m.line 64).isEmpty
    && (decide (2^43 ≤ m.line) || s.dirAt die m.line != .invalid)

/-- The key of a row. -/
def rowKey (e : SoftError) : Nat := (e.row * 2^16 + e.bank) * 16 + e.stack

/-- The key of a bank. -/
def bankKey (e : SoftError) : Nat := 2^16 * e.stack + e.bank

/-- A row whose count passes its threshold is copied to a spare row of its bank, or is reported when none is left (R250). -/
def State.spareStart (s : State) (e : SoftError) : State :=
  let used := tabGet s.mgmt.spareUsed 0 (bankKey e)
  if used < Config.spareRows (bankKey e) then
    let r : RowSpare := ⟨s.nextId, e.stack, e.bank, e.row⟩
    { s with
      nextId := s.nextId + 1
      mgmt := { s.mgmt with spares := s.mgmt.spares ++ [r], spareUsed := tabSet s.mgmt.spareUsed (bankKey e) (used + 1) } }
  else s.report 3 (leBytes 8 e.stack ++ leBytes 8 e.bank ++ leBytes 8 e.row)

/-- A soft error is corrected on a read, written back corrected, counted and reported (R249). -/
def State.softError (s : State) (e : SoftError) : State :=
  let n := tabGet s.mgmt.softCount 0 e.stack + 1
  let k := tabGet s.mgmt.rowCount 0 (rowKey e) + 1
  let s := { s with mgmt := { s.mgmt with
    softCount := tabSet s.mgmt.softCount e.stack n, rowCount := tabSet s.mgmt.rowCount (rowKey e) k } }
  let s := s.report 2 (leBytes 8 e.stack ++ leBytes 8 n)
  if k = Config.rowThreshold (rowKey e) + 1 then s.spareStart e else s

/-- MISS_FILL (R195, R197, R246, R249): the fill of a miss returns. Its requests have read the line. -/
def execMissFill (id : Nat) (soft : List SoftError) (s : State) : Out :=
  match s.misses.find? fun m => m.id == id with
  | none => s.noEvent
  | some m =>
    if soft.any fun e => decide (16 ≤ e.stack) || decide (2^16 ≤ e.bank) then s.noEvent
    else if s.rebuilding m.line then .next s
    else
      let s := { s with misses := s.misses.filter fun x => x.id != id }.served m.unit m.due
      let s := s.count m.cx m.unit 3 1
      let s := soft.foldl State.softError s
      .next (if s.fillKept m then s.fillL1 m else s)

/-- PTS_TICK (R190): a program time advances by one with the last of each 64 clk; where the step does not come, `State.ptsOf` counts the
advance. At which of its 64 clk a unit advances is open (DESIGN CHOICE, log entry 119). -/
def execPtsTick (u : Nat) (s : State) : Out :=
  if u ≤ devUnit ∧ s.clk.toNat % 64 = 63 ∧ tabGet s.ptsAt 0 u ≤ s.span then
    .next { s with pts := tabSet s.pts u (s.ptsOf u + 1), ptsAt := tabSet s.ptsAt u (s.span + 1) }
  else s.noEvent

/-! ### Control-space agents (R193, R197, R198) -/

/-- INVALIDATION (R193, R197): it reaches a die's agent, which acknowledges it once no core of the die can read its copy any more and
no fill is on its way. -/
def execInvalidation (die line : Nat) (s : State) : Out :=
  let x := lineOf line
  if 8 ≤ die ∨ 2^43 ≤ line then s.noEvent
  else if s.dieHolds die x then .next (s.noLease die x)
  else
    .next ({ s with
      inval := s.inval.filter fun p => p != (die, x)
      l1 := s.l1.filter fun l => !(l.core / 256 == die && l.line == x) }.setDir die x .invalid)

/-- The agents of a die whose oldest store is to a line. -/
def State.storers (s : State) (die x : Nat) : List Agent :=
  ((s.groups.flatMap fun (g, y) => (List.range y.strands.length).map fun k => Agent.strand g k) ++ s.cts.map fun c => Agent.ctl c.1).filter fun ag =>
    unitDie (s.unitOf ag) == die && (match s.headStore ag with | some q => lineOf q.at_ == x | none => false)

/-- UPGRADE_REQUEST (R193, R198): the other dies' copies are invalidated first. Then the requester owns the line, by an upgrade or, when its own
copy was invalidated, by a read for ownership, and the store of the die that asked is performed on the line as it then is. -/
def execUpgradeRequest (die line : Nat) (s : State) : Out :=
  let x := lineOf line
  if 8 ≤ die ∨ 2^43 ≤ line then s.noEvent
  else if s.rebuilding line then .next s
  else if !(s.agentsIn die x true).isEmpty then .next (s.askAgents die x true)
  else
    let s := (s.ctlOwn die x).request (2076 + die) 0 x
    match (s.storers die x).find? fun ag => !s.storeInFlight ag && !(s.headStore ag).any (s.storeBefore ag) with
    | some ag => if homeRank x = s.fab.rank then .next (s.performStore ag) else .next s
    | none => .next s

/-! ### Home and mirror (R265) -/

/-- HOME_WRITE (R193, R265): a control-space write reaches its home, after the issuer's earlier ones and once the other dies' agents have
acknowledged. -/
def execHomeWrite (id : Nat) (s : State) : Out :=
  match s.homes.find? fun h => h.id == id && !h.applied with
  | none => s.noEvent
  | some h =>
    if s.homes.any fun x => x.ag == h.ag && x.core == h.core && x.id < h.id then .next s
    else if s.homeHeld h then .next (s.homeAsk h)
    else .next (s.homeApply h)

/-- MIRROR_ACK (R265): the mirror holds the write, which is performed, once no die's agent grants on the line any more (R193). -/
def execMirrorAck (id : Nat) (s : State) : Out :=
  match s.homes.find? fun h => h.id == id && h.applied with
  | none => s.noEvent
  | some h => if s.homeHeld h then .next (s.homeAsk h) else .next (s.homeLand h)

/-! ### Replicas (R215, R216) -/

/-- The line that a store request leaves, with the updates before it. -/
def State.replicaLine (s : State) (q : QStore) : List Byte :=
  let x := lineOf q.at_
  let base := (s.repsOn x 64).foldl (fun bs r => overlay x bs r.addr r.bytes) (memRead s.mem x 64)
  q.parts.foldl (fun bs p => overlay x bs p.addr p.bytes) base

/-- REPLICA_UPDATE (R215): the oldest store of an agent is to a Replicated page; the sequencer orders and multicasts it. -/
def execReplicaUpdate (ag : Agent) (s : State) : Out :=
  match s.headStore ag, s.kidOf ag with
  | some q, some kid =>
    let cx := s.cxOf ag
    if !s.replicated cx q.va then s.noEvent
    else if s.storeInFlight ag || s.storeBefore ag q then .next s
    else if !s.segReady q.at_ then .next (s.wakeFor cx q.at_)
    else if !s.mergeGood cx q then .next ((s.popStore ag).mergeFail ag kid q)
    else .next ((s.popStore ag).repUpdate (some ag) cx (s.unitOf ag) (lineOf q.va) (lineOf q.at_) (s.replicaLine q) false q.issued
      (some (s.coreOf ag, q.due)))
  | _, _ => s.noEvent

/-- REPLICA_APPLY (R215): a replica applies its updates in ascending time, once the segment that holds it is Active (R240, R241). -/
def execReplicaApply (id die : Nat) (s : State) : Out :=
  match s.reps.find? fun r => r.id == id with
  | none => s.noEvent
  | some r =>
    let before := fun (x : RepUpdate) =>
      x.dies.contains die && (decide (x.t.toNat < r.t.toNat) || (x.t == r.t && decide (x.id < r.id)))
    let at_ := s.replAddr die r.addr
    if !r.dies.contains die then s.noEvent
    else if s.reps.any before then .next s
    else if !s.segReady at_ then .next (s.wakeFor r.cx at_)
    else
      let r := { r with dies := r.dies.erase die }
      .next (({ s with reps := s.reps.map fun (x : RepUpdate) => if x.id == id then r else x }.touch at_).repSettle r)

/-! ### Engine writes of other ranks (R201, R261) -/

/-- The page of an address admits an engine write from another rank (R261). -/
def State.inWriteOk (s : State) (cx va n : Nat) : Bool :=
  (s.ctx cx).st != .free && (s.ctx cx).st != .building
    && (s.rangeLeaves cx va n).all fun (a, r) => match r with
      | .ok l => pteWr l.pte && pteDual l.pte && s.pageHere cx a l
      | .error _ => false

/-- ENGINE_WRITE_ACCEPT (R201, R261): an engine write from another rank is registered here. One that fails the checks of R261 is
answered PERMISSION and registers nothing. -/
def execEngineWriteAccept (rank cx ofs : Nat) (data : List Byte) (s : State) : Out :=
  let va := s.ownVa ofs
  if s.fab.podsize ≤ rank ∨ rank = s.fab.rank ∨ bitAt s.fab.lostmap.toNat rank ∨ 256 ≤ cx ∨ 2^48 ≤ ofs ∨ !s.inNode (inHbm ofs) va data.length then
    s.noEvent
  else if s.inWriteOk cx va data.length then
    let w : InWrite := ⟨s.nextId, rank, cx, ofs, data⟩
    .next ({ s with nextId := s.nextId + 1, inWrites := s.inWrites ++ [w] }.rangeWake cx va data.length true)
  else .next s

/-- An engine write of another rank reaches the shadow, once its segments are Active and no page of it is moving (R231, R241). -/
def State.inWriteLand (s : State) (w : InWrite) : State :=
  let va := s.ownVa w.ofs
  if s.rangeReady w.cx va w.data.length true then
    { (s.shadowWrites [] true w.cx va w.data (w.data.length / 64 + 2)).2 with inWrites := s.inWrites.filter fun x => x.id != w.id }
  else s.rangeWake w.cx va w.data.length true

/-- An engine operation makes progress: an engine write of another rank lands, or a source line is read (R204, R423). -/
def State.engineTurn (s : State) (id line : Nat) : State :=
  match s.inWrites.find? fun w => w.id == id with
  | some w => s.inWriteLand w
  | none => s.engineFetch id line

/-! ### Rows and write-backs -/

/-- ROW_SPARE_SWITCH (R250): the copy of a row is complete and reads come from the spare, whose count starts again. -/
def execRowSpareSwitch (id : Nat) (s : State) : Out :=
  match s.mgmt.spares.find? fun r => r.id == id with
  | none => s.noEvent
  | some r => .next { s with mgmt := { s.mgmt with
      spares := s.mgmt.spares.filter fun x => x.id != id
      rowCount := tabErase s.mgmt.rowCount (rowKey ⟨r.stack, r.bank, r.row⟩) } }

/-- EVICTION (R184, R187): a line leaves a core's L1, a dirty one for the L2; one that the core's L1 does not hold leaves the L2, and its bytes
are written back, once no L1 holds it dirty: a request of the core that the step names (DEDUCED, log entry 116). -/
def execEviction (core line : Nat) (s : State) : Out :=
  let x := lineOf line
  if s.l1.any fun l => l.core == core && l.line == x then .next { s with l1 := s.l1.filter fun l => !(l.core == core && l.line == x) }
  else if (s.dirty.any fun d => d.line == x) && !(s.l1.any fun l => l.line == x && l.dirty) then
    .next ({ s with dirty := s.dirty.filter fun d => d.line != x }.request (core % 2048) 2 x)
  else s.noEvent

end Sys2Proof.Machine
end

