-- ==== Sys2Proof/Machine/Loss.lean ====
section
/-!
DEFINITION. The loss of a peer (R175, R263 to R267): its detection, its declaration and what ends with it, and the rebuild of its
directory.
-/
namespace Sys2Proof.Machine

/-- A rank of the pod, not this one, that has not been lost. -/
def State.peer (s : State) (t : Nat) : Bool :=
  decide (t < s.fab.podsize) && t != s.fab.rank && !bitAt s.fab.lostmap.toNat t

/-- An address names tensor bytes of another rank. -/
def State.onRank (s : State) (t va : Nat) : Bool :=
  match spaceOf s.fab va with
  | some (.other r _) => r == t
  | _ => false

/-! ### What ends (R264) -/

/-- A copy has a source or its destination on a rank. -/
def State.copyOn (s : State) (t : Nat) (c : CopyOp) : Bool :=
  c.lines.any (s.onRank t) || (match c.dst with | .buffer b _ => s.onRank t b.view | _ => false)

/-- A copy ends with PEER_LOST: what it has read is written, and it arrives on every barrier it names. One in a save image ends when it
is restored. -/
def State.copyLost (s : State) (c : CopyOp) : State :=
  if s.ranges.any fun r => r.op == c.id && r.saved then s
  else
    let err := some Cause.peerLost
    let gone := fun (s : State) => { s with copies := s.copies.filter fun x => x.id != c.id }
    match c.dst with
    | .buffer b off =>
      let (_, s) := s.copyShadow c b off
      match c.bar with | some b => (gone s).postArrival b none 1 true err | none => gone s
    | _ =>
      let s := (c.receivers.zip (s.ranges.filter fun r => r.op == c.id)).foldl (fun s x =>
        let s := s.windowWrite c c.dstRec x.1.1 x.1.2.1
        let s := ({ s with ranges := s.ranges.filter fun r => r.id != x.2.id }.homeWrites (storePhys x.1.1 x.2.lo) (x.2.hi - x.2.lo)).fireMonitors (storePhys x.1.1 x.2.lo) (x.2.hi - x.2.lo)
        match x.1.2.2 with | some b => s.postArrival b none 1 true err | none => s) s
      gone s

/-- Every operation of this package that a loss ends, and every object that fails with it (R264). -/
def State.endLost (s : State) (t : Nat) : State :=
  let s := (s.copies.filter (s.copyOn t)).foldl State.copyLost s
  let s := (s.ckpts.filter fun c => s.onRank t c.dest).foldl (fun s c => s.ckptFail c.cx c.handle) s
  let s := { s with
    ratoms := s.ratoms.map fun (r : RatomOp) =>
      if bits r.addr 61 48 == t && r.applied.isNone then { r with applied := some (.inr .peerLost) } else r
    inWrites := s.inWrites.filter fun (w : InWrite) => w.rank != t }
  let es := s.tiles.filter fun (_, e) =>
    (e.st == .armed || e.st == .fired) && (List.range e.rcnt).any fun j => e.rankAt j == t
  let s := es.foldl (fun s (k, _) => s.tileFail (k / 4096) (k % 4096) .peerLost) s
  let ps := s.pubs.filter fun p => s.onRank t p.buf.view
  let s := ps.foldl (fun s p => s.unstall p.ag p.act (some .peerLost) (BitVec.ofNat 64 p.buf.view))
    { s with pubs := s.pubs.filter fun (p : PubOp) => !ps.contains p }
  let s := { s with icinvs := s.icinvs.map fun (x : IcinvOp) => { x with acks := x.acks.erase t } }
  (s.icinvs.map fun x => x.id).foldl State.icinvEnd s

/-- The waits of this package that stood at rank 0, which held the pod barriers, are the mirror's when rank 0 is lost (R174, R175). -/
def State.podTaken (s : State) (t : Nat) : State :=
  if t = 0 ∧ s.podHolder = s.fab.rank then
    { s with hmsgs := s.hmsgs.map fun m => match m.bar with
        | .pod _ _ => if m.op == 2 && m.reply.isNone && (s.bar m.bar).valid then { m with waiting := true } else m
        | _ => m }
  else s

/-- Every valid pod barrier sets ERR and releases its waiters (R175). -/
def State.podLost (s : State) : State :=
  s.ctxs.foldl (fun s (cx, c) => c.podBars.foldl (fun s (k, b) =>
    if b.valid then
      (s.modBar (.pod cx k) fun x =>
        { x with err := true, ecause := if x.ecause = 0 then BitVec.ofNat 8 (Cause.code .peerLost) else x.ecause }).releaseBar (.pod cx k)
    else s) s) s

/-- Control-space writes whose home has no mirror any more complete where the home holds them (R267); those whose home is lost are left, to be
reissued to the new home (R266). -/
def State.mirrorLost (s : State) (t : Nat) : State :=
  (s.homes.filter fun h => h.applied && h.parts.all fun p => !s.mirrored p.addr && homeRank p.addr != t).foldl State.homeLand s

/-- Requests that were in flight to a lost home are reissued to the new one, oldest first (R198, R266): a write that the mirror had not
acknowledged is performed there. -/
def State.reissue (s : State) (t : Nat) : State :=
  (s.homes.filter fun h => h.applied && h.parts.any fun p => homeRank p.addr == t).foldl State.homeApply s

/-- A package learns of the loss of a rank (R175, R263 to R267). -/
def State.lose (s : State) (t : Nat) : State :=
  let own := mirrorOf s.fab.rank s.fab.podsize == some t
  let s := { s with fab := { s.fab with
    lostmap := s.fab.lostmap ||| BitVec.ofNat 64 (2^t)
    peermap := s.fab.peermap &&& ~~~(BitVec.ofNat 64 (2^t))
    mv := s.fab.mv && !own
    mirr := if own then s.fab.rank else s.fab.mirr
    rebuilding := s.fab.rebuilding ++ [t] } }
  (((s.endLost t).podTaken t).podLost.mirrorLost t).report 6 (leBytes 8 t)

/-! ### Steps -/

/-- LOSS_DECLARATION (R263, R264): a declaration arrives. -/
def execLossDeclaration (rank : Nat) (s : State) : Out :=
  if s.peer rank then .next (s.lose rank) else s.noEvent

/-- A rank is found lost (R263): the lowest-numbered survivor declares the loss; another package's management core waits for the
declaration. -/
def State.foundLost (s : State) (t : Nat) : State :=
  if (s.liveRanks.filter fun r => r != t).head? = some s.fab.rank then s.lose t else s

/-- NO_ROUTE_TIMEOUT (R259, R263): no running port has reached the rank for 100 µs. -/
def execNoRouteTimeout (rank : Nat) (s : State) : Out :=
  if s.peer rank && (s.fab.bestRoute rank).isNone then .next (s.foundLost rank) else s.noEvent

/-- PEER_FAILURE_REPORT (R263): a management core reports its own failure. -/
def execPeerFailureReport (rank : Nat) (s : State) : Out :=
  if s.peer rank then .next (s.foundLost rank) else s.noEvent

/-- DIRECTORY_REBUILD_DONE (R266): accesses to the lost rank's lines go on at the new home, the reissued ones first. -/
def execDirectoryRebuildDone (rank : Nat) (s : State) : Out :=
  if s.fab.rebuilding.contains rank then
    .next ({ s with fab := { s.fab with rebuilding := s.fab.rebuilding.filter fun r => r != rank } }.reissue rank)
  else s.noEvent

end Sys2Proof.Machine
end

