-- ==== Sys2Proof/Machine/HostCore.lean ====
section
/-!
DEFINITION. Accesses of host cores (R20, R61, R70, R185, R459): loads, stores and atomics to control space and to the register blocks.
-/
namespace Sys2Proof.Machine

/-- The unit whose program time the host cores take (R188). -/
def hostUnit : Nat := 2560

/-- Address and size of an access. -/
def hostPlace : HostAccess → Nat × Nat
  | .load a n => (a, n)
  | .store a n _ => (a, n)
  | .atomMax a n _ => (a, n)
  | .atomAdd a n _ => (a, n)
  | .atomXchg a n _ => (a, n)

/-- What an access writes, from what it finds; none for a load. -/
def hostResult (n old : Nat) : HostAccess → Option Nat
  | .load _ _ => none
  | .store _ _ v => some (v.toNat % 2^(8 * n))
  | .atomMax _ _ v => some (max old (v.toNat % 2^(8 * n)))
  | .atomAdd _ _ v => some ((old + v.toNat) % 2^(8 * n))
  | .atomXchg _ _ v => some (v.toNat % 2^(8 * n))

/-- The access is a load or a plain store. -/
def hostPlain : HostAccess → Bool
  | .load _ _ => true
  | .store _ _ _ => true
  | _ => false

/-- The access writes. -/
def hostWrites : HostAccess → Bool
  | .load _ _ => false
  | _ => true

/-- The access is an atomic maximum. -/
def hostMax : HostAccess → Bool
  | .atomMax _ _ _ => true
  | _ => false

/-- The answer to a host core. -/
def State.reply (s : State) (h : Nat) (bus : Bool) (v : Nat) : State := { s with hostReply := some (h, bus, BitVec.ofNat 64 v) }

/-! ### Control memory -/

/-- The host cores are another filler of every page that lies at a physical address (R192). -/
def State.sharePhys (s : State) (a : Nat) : State :=
  (s.pages.filter fun p => p.first.isSome && !p.shared).foldl (fun s p => match s.walk p.cx p.vpage with
    | .ok l =>
      let (b, n) := s.frames p.vpage l
      if b ≤ a ∧ a < b + n then s.classify p.cx p.vpage hostUnit l else s
    | .error _ => s) s

/-- An access to plain control memory: one event of the single order (R185). A store by the table of a context lands where the page's front
is when it is performed (R200). `va` is the address that the host core gave. -/
def State.hostMemory (s : State) (h va a n : Nat) (map : Option Nat) (acc : HostAccess) : State :=
  let s := (s.sharePhys a).request 2057 0 a
  let (old, s) := match acc with
    | .load _ _ => (let (bs, s) := s.loadAt hostUnit a n true; (leNat bs, s.ctlShare 8 a))
    | _ => (leNat (memRead s.mem a n), s)
  match acc, hostResult n old acc with
  | _, none => s.reply h false old
  | .store _ _ _, some v =>
    let (w, s) := s.homeSend none (map.getD 0) hostUnit true [⟨0, va, a, leBytes n v⟩] s.clk none map.isSome
    (s.homeApply w).reply h false old
  | _, some v => ((s.storePhysBytes 0 hostUnit a (leBytes n v) true).codeSees a n).reply h false old

/-! ### Register blocks -/

/-- Registers that are a monotonic maximum (R70, R218, R504). -/
def Block.monotonic (b : Block) : Bool :=
  match b with
  | .queue _ off => off == 0x00 || off == 0x18
  | .trans _ off => off == 0x28
  | .mgmt off => off == 0x30
  | _ => false

/-- REJ is set in the status register of a block (R70). -/
def State.rejectIn (s : State) (b : Block) : State :=
  match b with
  | .queue q _ => s.modQueue q fun x => { x with rej := true }
  | .trans cx _ => s.modCtx cx Context.reject
  | .mgmt _ => s.modMgmt Mgmt.refuse
  | _ => s

/-- An access to a register of this package: only 8-byte stores and maxima act on a monotonic maximum, and any other atomic on one is a
bus error (R61, R70), of whatever width and with no REJ (DESIGN CHOICE, log entry 130). -/
def State.hostRegister (s : State) (h a n : Nat) (b : Block) (acc : HostAccess) : State :=
  let old := leNat (((leBytes 8 (s.regRead b)).drop (a % 8)).take n)
  let s := s.blockTime hostUnit
  match hostResult n old acc with
  | none => s.reply h false old
  | some v =>
    if b.monotonic && !(hostPlain acc || hostMax acc) then s.reply h true 0
    else if b.monotonic && n != 8 then (s.rejectIn b).reply h false old
    else (s.blockPut a n v false).reply h false old

/-- The physical address of a host core's access: its own, or by the control table of a context (R228: a walk that finds no resident page, or
one that the host cores do not reach, is a bus error). Which table a host core's address goes by is open (DESIGN CHOICE, log entry 140). -/
def State.hostPhys (s : State) (map : Option Nat) (a : Nat) : Option Nat :=
  match map with
  | none => if a < 2^43 then some a else none
  | some cx =>
    if 2^48 ≤ a then none
    else match s.walk cx a with
      | .ok l => some (s.physBy cx a l.pte l.psize false)
      | .error _ => none

/-- The host cores are a filler of the page of an access (R192). -/
def State.hostFills (s : State) (map : Option Nat) (a : Nat) : State :=
  match map with
  | none => s
  | some cx => match s.walk cx a with
    | .ok l => s.classify cx a hostUnit l
    | .error _ => s

/-- An access must wait: its walk or its line for a directory that is being rebuilt (R266), its page for a move (R231), or the host cores'
earlier stores for their homes (R191, R265). -/
def State.hostWaits (s : State) (map : Option Nat) (a p : Nat) : Bool :=
  s.rebuilding p || s.homes.any (fun w => w.core == hostUnit) || match map with
    | none => false
    | some cx => s.walkHeld cx a || match s.walk cx a with | .ok l => s.pageState cx a l == 5 | .error _ => false

/-- HOST_CORE_ACCESS (R20, R228): an access outside control space is a bus error; one that must wait is presented again, and one that waits for a
die's agent asks it first (R193). A register of another package is that package's. -/
def execHostCoreAccess (c : HostCore) (acc : HostAccess) (s : State) : Out :=
  let h := c.num
  let a := (hostPlace acc).1
  let n := (hostPlace acc).2
  if 64 ≤ h ∨ ¬(n = 1 ∨ n = 2 ∨ n = 4 ∨ n = 8) ∨ a % n ≠ 0 then s.noEvent
  else if blockBase ≤ a ∧ a < 2^48 then
    match s.blockOf (a / 8 * 8) with
    | some (some b) => if s.homes.any fun w => w.core == hostUnit then .next s else .next (s.hostRegister h a n b acc)
    | some none =>
      let (v, s) := s.free
      .next (s.reply h false (v.toNat % 2^(8 * n)))
    | none => .next (s.reply h true 0)
  else match s.hostPhys c.map a with
    | none => .next (s.reply h true 0)
    | some p =>
      if s.hostWaits c.map a p then .next s
      else if !(s.agentsIn 8 p (hostWrites acc)).isEmpty then .next (s.askAgents 8 p (hostWrites acc))
      else .next ((s.hostFills c.map a).hostMemory h a p n c.map acc)

end Sys2Proof.Machine
end

