-- ==== Sys2Proof/Machine/Matrix.lean ====
section
/-!
DEFINITION. The matrix unit, the accumulator tiles and the control thread's barrier instructions: opcodes 0xD0 to 0xD6 and their
device steps (R301, R302, R427 to R441).
-/
namespace Sys2Proof.Machine

/-! ### Descriptors (R428) -/

/-- CORE of a descriptor, as the core it names in the issuer's quad. -/
def Env.coreIn (e : Env) (v : Nat) : Nat := e.core / 4 * 4 + bits v 61 60

/-- The thread's workgroup occupies a core. -/
def Env.occupies (e : Env) (core : Nat) : Bool := decide (e.wg.coreAt 0 ≤ core) && decide (core < e.wg.coreAt 0 + e.wg.ncores)

/-- The live group of %group `n` of a workgroup on a core (R430). -/
def State.groupOn (s : State) (wid core n : Nat) : Option (Nat × Group) :=
  s.groups.find? fun (_, g) => g.wg == wid && g.core == core && g.idx == n && g.st != .ended

/-- The group an outstanding mma reads (R433): a group that has ended is read as it was when it ended. -/
def State.operandOf (s : State) (wid core n : Nat) : Option (Nat × Group) :=
  match s.groupOn wid core n with
  | some g => some g
  | none => s.groups.find? fun (_, g) => g.wg == wid && g.core == core && g.idx == n

/-- Element formats of a fragment (R428): bits per element. -/
def fragWidth (f : Nat) : Nat := if f ≤ 1 then 16 else if f = 5 then 4 else 8

/-- FMT values form a pair (R429): K, and whether a scale may be used. -/
def fragPair (a b : Nat) : Option (Nat × Bool) :=
  if (a = 0 ∧ b = 0) ∨ (a = 1 ∧ b = 1) then some (16, false)
  else if (a = 2 ∨ a = 3) ∧ (b = 2 ∨ b = 3) then some (32, true)
  else if a = 4 ∧ b = 4 then some (32, false)
  else if a = 5 ∧ b = 5 then some (64, true)
  else none

/-- One half of a scale descriptor is used (R428). -/
def halfUsed (h : Nat) : Bool := bitAt h 31

/-- A register operand of a matrix word: the core it names, its group, its first register and their count. -/
structure RegUse where
  core : Nat
  group : Nat
  reg : Nat
  count : Nat

/-- The fragment or register destination of a descriptor. -/
def Env.regUse (e : Env) (v n : Nat) : RegUse := ⟨e.coreIn v, bits v 43 32, v % 256, n⟩

/-- The scale register of a used half. -/
def Env.scaleUse (e : Env) (h : Nat) : RegUse := ⟨e.core / 4 * 4 + bits h 29 28, bits h 27 16, h % 256, 1⟩

/-- The checks of R430 on register operands on core `x`, in the order of R46. -/
def State.regUseCheck (s : State) (e : Env) (x : Nat) (us : List RegUse) : Option Cause :=
  let of := fun (u : RegUse) => s.groupOn e.wid x u.group
  if us.any fun u => u.core != x || (match of u with | some (_, g) => decide (g.regs < u.reg + u.count) | none => false) then
    some .illegalEncoding
  else if !e.occupies x || us.any fun u => match of u with
      | some (_, g) => g.width != 32
      | none => true then some .permission
  else none

/-- The checks of `mma` (R428 to R430). -/
def State.mmaCheck (s : State) (e : Env) (ca cb cs : Nat) : Option Cause :=
  match fragPair (bits ca 55 52) (bits cb 55 52) with
  | none => some .illegalEncoding
  | some (_, scale) =>
    let halves := [cs % 2^32, cs / 2^32].filter halfUsed
    if (!scale && cs != 0) || ca % 8 != 0 || cb % 8 != 0 then some .illegalEncoding
    else s.regUseCheck e (e.coreIn ca) ([e.regUse ca 8, e.regUse cb 8] ++ halves.map e.scaleUse)

/-! ### Tiles (R432) -/

/-- The physical tile bound to acc N of a workgroup's control thread on a core. -/
def State.tileOf (s : State) (wid core n : Nat) : Option Nat :=
  (List.range 32).find? fun i =>
    let t := s.acc core i
    t.wg == wid && t.acc == n && (t.st == .bound || t.st == .draining)

/-- The Unbind event of acc N. A tile that is Free by it takes no more of the mma operations issued into it: they name tile 32, which is none
(log entry 129). -/
def State.unbindAcc (s : State) (wid core n : Nat) : State :=
  match s.tileOf wid core n with
  | none => s
  | some i =>
    let s := s.modAcc core i fun t => t.unbind wid
    if (s.acc core i).st == .free then
      { s with mmas := s.mmas.map fun (m : MmaOp) => if m.core == core && m.tile == i then { m with tile := 32 } else m }
    else s

/-- The Settle event of a drain. -/
def AccTile.settle (t : AccTile) : AccTile :=
  let n := t.pending - 1
  if n = 0 then { t with pending := 0, st := if t.st == .orphan then .free else .bound } else { t with pending := n }

/-- The Drain event. -/
def AccTile.drain (t : AccTile) : AccTile := { t with pending := t.pending + 1, st := .draining }

/-- A workgroup's operations proceed: its context is Active, or stopping (R52). -/
def State.unitRuns (s : State) (wid : Nat) : Bool :=
  let c := s.ctx (s.cxOfWg wid)
  (c.st == .active && !c.restoring) || c.st == .preempting

/-- The next mma of a core's matrix unit: the oldest that is not held, of a context that is not saved (R431, R434, R52). -/
def State.nextMma (s : State) (core : Nat) : Option MmaOp := s.mmas.find? fun m => m.core == core && !m.heldBy && s.unitRuns m.wg

/-- mma operations of a workgroup that wait for the matrix unit of a core: all but one that the unit is executing (R431). -/
def State.mmaWaiting (s : State) (wid core : Nat) : Nat :=
  (s.mmas.filter fun m => m.core == core && !m.heldBy && m.wg == wid).length - (if ((s.nextMma core).map fun m => m.wg) == some wid then 1 else 0)

/-- A cause of the control thread. -/
def State.ctlTrap (s : State) (e : Env) (c : Cause) : Out := .next (s.raiseAct e c)

/-- Tiles of a core that belong to saved control threads whose context is being restored (R440). -/
def State.tilesDue (s : State) (core : Nat) : Nat :=
  s.cts.foldl (fun n x => if (s.ctx (s.cxOfWg x.1)).restoring then n + (x.2.savedAccs.filter fun t => t.1 == core).length else n) 0

/-- The Free tile that an mma takes: none where a restore needs those that are left (R440). -/
def State.spareTile (s : State) (core : Nat) : Option Nat :=
  if ((List.range 32).filter fun i => (s.acc core i).st == .free).length ≤ s.tilesDue core then none else s.freeTile core

/-- `mma` (R430 to R432): the binding at issue; the sum is deferred. -/
def execMma (n : Nat) (a b sv : Src) (new : Bool) (s : State) : Out :=
  s.word (.mma n a b sv new) fun e s =>
    let ca := e.n .i64 a 0
    let cb := e.n .i64 b 0
    match s.mmaCheck e ca cb (e.n .i64 sv 0) with
    | some c => s.ctlTrap e c
    | none =>
      let x := e.coreIn ca
      -- behind operations that are held, it is held as they are (R431, R434)
      let held := s.mmas.any fun m => m.wg == e.wid && m.heldBy
      let op := fun (s : State) (i : Nat) =>
        let m : MmaOp := ⟨s.nextId, e.wid, x, i, e.src .i64 a 0, e.src .i64 b 0, e.src .i64 sv 0, e.lane0.pc, e.lane0.hdr, held⟩
        ({ s with nextId := s.nextId + 1, mmas := s.mmas ++ [m] }.finish e (done e.act))
      if 4 ≤ s.mmaWaiting e.wid x then .next s.tick
      else match if new then none else s.tileOf e.wid x n with
        | some i => if (s.acc x i).st == .draining then .next s.tick else .next (op s i)
        | none => match s.spareTile x with
          | none => .next s.tick
          | some i => .next (op ((s.unbindAcc e.wid x n).modAcc x i fun _ => ⟨.bound, 0, e.wid, n, []⟩) i)

/-! ### The matrix sum (R301, R302, R431) -/

/-- An element of a fragment as an exact value. -/
def fragValue (f x : Nat) : Fp :=
  match f with
  | 0 => Fmt.bf16.unpack x
  | 1 => Fmt.f16.unpack x
  | 2 => Fmt.e4m3.unpack x
  | 3 => Fmt.e5m2.unpack x
  | 4 => ofInt (sgn 8 x)
  | _ => Fmt.e2m1.unpack x

/-- Element `k` of row `i` of a fragment in a group's window. -/
def fragElem (g : Group) (f reg i k : Nat) : Fp :=
  let b := fragWidth f
  let e := 32 / b
  fragValue f ((tabGet g.win 0 ((reg + k / e) * g.width + i)).toNat / 2^(b * (k % e)) % 2^b)

/-- The value times 2^x; NaN when the scale is NaN (R302). -/
def Fp.scale (p : Fp) (x : Option Int) : Fp :=
  match x, p with
  | none, _ => .nan
  | some d, .fin n m e => .fin n m (e + d)
  | some _, p => p

/-- The exponent of a scale register's byte (R280, R431): 0 where the half is not used, none for NaN. -/
def scaleExp (g : Option Group) (h i blk : Nat) : Option Int :=
  if !halfUsed h then some 0
  else match g with
    | none => some 0
    | some g =>
      let v := (tabGet g.win 0 ((h % 256) * g.width + i)).toNat / 256^blk % 256
      if v = 255 then none else some ((v : Int) - 127)

/-- One element of the updated accumulator (R301). -/
def mmaElem (acc : W32) (ps : List Fp) (levels : Nat) : W32 :=
  BitVec.ofNat 32 (Fmt.f32.sum .rn false [Fmt.f32.unpack acc.toNat, treeSum levels ps])

/-- The tile after an mma whose groups are live. -/
def mmaTile (m : MmaOp) (old : Tab W32) (ga gb : Group) (sa sb : Option Group) : Tab W32 :=
  let ca := m.ca.toNat
  let cb := m.cb.toNat
  let fa := bits ca 55 52
  let fb := bits cb 55 52
  let k := ((fragPair fa fb).map Prod.fst).getD 0
  let ha := m.cs.toNat % 2^32
  let hb := m.cs.toNat / 2^32
  let row := fun (g : Group) (sg : Option Group) (f r h i : Nat) => (List.range k).map fun j =>
    (fragElem g f r i j).scale (scaleExp sg h i (j / 32))
  let as := (List.range 32).map fun i => row ga sa fa (ca % 256) ha i
  let bs := (List.range 32).map fun j => row gb sb fb (cb % 256) hb j
  (List.range 1024).map fun x =>
    (x, mmaElem (tabGet old 0 x) (((nth as (x / 32) []).zip (nth bs (x % 32) [])).map fun p => p.1.mul p.2) (Nat.log2 k))

/-- Free elements: what the tile holds where the workgroup has no such group (no issued mma meets this, R430). -/
def State.freeTab (s : State) : Nat → Nat → Tab W32 × State
  | _, 0 => ([], s)
  | k, n + 1 =>
    let (v, s) := s.free
    let (t, s) := s.freeTab (k + 1) n
    ((k, lo32 v) :: t, s)

/-- An operand of mma `id` cannot be read yet: it lies in a recorded range (R207), or a long-latency result of a word before the mma is still to
come to it (R433: `bararr` follows it). -/
def State.operandHeld (s : State) (id core : Nat) (g : Option (Nat × Group)) (reg n : Nat) : Bool :=
  match g with
  | none => false
  | some (gid, g) => g.st != .ended && (s.rangeHit core (g.base + 4 * reg * g.width) (g.base + 4 * (reg + n) * g.width)
      || s.pend.any fun p => decide (p.id < id) && sameGroup p.ag (.strand gid 0)
        && p.writes.any fun w => match w with | .vreg r _ _ => decide (reg ≤ r) && decide (r < reg + n) | _ => false)

/-- MMA_END (R431): the matrix unit finishes the oldest mma of the core, and its tile is updated. -/
def execMmaEnd (core : Nat) (s : State) : Out :=
  match s.nextMma core with
  | none => s.noEvent
  | some m =>
    let ga := s.operandOf m.wg core (bits m.ca.toNat 43 32)
    let gb := s.operandOf m.wg core (bits m.cb.toNat 43 32)
    let ha := m.cs.toNat % 2^32
    let hb := m.cs.toNat / 2^32
    let sa := if halfUsed ha then s.operandOf m.wg core (bits ha 27 16) else none
    let sb := if halfUsed hb then s.operandOf m.wg core (bits hb 27 16) else none
    if s.operandHeld m.id core ga (m.ca.toNat % 256) 8 || s.operandHeld m.id core gb (m.cb.toNat % 256) 8
        || s.operandHeld m.id core sa (ha % 256) 1 || s.operandHeld m.id core sb (hb % 256) 1 then s.noEvent
    else
      let (d, s) := match ga, gb, !(halfUsed ha) || sa.isSome, !(halfUsed hb) || sb.isSome with
        | some a, some b, true, true => (mmaTile m (s.acc core m.tile).data a.2 b.2 (sa.map Prod.snd) (sb.map Prod.snd), s)
        | _, _, _, _ => s.freeTab 0 1024
      let s := if m.tile < 32 then s.modAcc core m.tile fun t => { t with data := d } else s
      .next ({ s with mmas := s.mmas.filter fun x => x.id != m.id }.count (s.cxOfWg m.wg) core 2 1)

/-! ### Residue mismatches (R434) -/

/-- The control thread raises RESIDUE for a failing mma (R434): TPC is the mma's word, TADDR where the thread stopped. -/
def State.raiseResidue (s : State) (wid : Nat) (pc : Nat) : State :=
  let s := s.unwait (.ctl wid)
  let s := s.modCt wid fun c =>
    let l := c.unit.lane 0
    let l := { (l.withdraw.park .residue (BitVec.ofNat 64 l.pc) 2) with tpc := BitVec.ofNat 64 pc }
    { c with due := false, unit := { c.unit with lanes := [l], stall := none } }
  s.resettle (.ctl wid) 0 true

/-- A control thread that waits where R434 withdraws the wait, or does not wait, stops at once. -/
def Lane.stopsNow (l : Lane) : Bool :=
  match l.wait with
  | none => true
  | some (.bar _ _ _) => true
  | _ => false

/-- RESIDUE_MISMATCH_MMA (R306, R434): the failing mma and the thread's later ones are held, and the thread raises RESIDUE at its
next instruction boundary. -/
def execResidueMismatchMma (core : Nat) (s : State) : Out :=
  match s.nextMma core with
  | none => s.noEvent
  | some m =>
    if !(s.ctx (s.cxOfWg m.wg)).res then s.noEvent
    else
      let s := s.mismatch core 1
      let s := { s with mmas := s.mmas.map fun (x : MmaOp) => if x.wg == m.wg && decide (m.id ≤ x.id) then { x with heldBy := true } else x }
      let s := s.modCt m.wg fun c => { c with deferred := some m.id, due := true }
      match s.ct? m.wg with
      | some c => .next (if (c.unit.lane 0).stopsNow then s.raiseResidue m.wg m.pc else s)
      | none => .next s

/-! ### Drains (R435 to R438) -/

/-- The format of OFMT (R428). -/
def ofmt (n : Nat) : Option Fmt :=
  match n with
  | 0 => some .f32
  | 1 => some .bf16
  | 2 => some .f16
  | 3 => some .e4m3
  | 4 => some .e5m2
  | _ => none

/-- The rounding mode of RM (R284, R428). -/
def rmOf (n : Nat) : Option Rm :=
  match n with
  | 0 => some .rn
  | 1 => some .rz
  | 2 => some .rd
  | 3 => some .ru
  | _ => none

/-- A conversion word (R428): format, mode, SAT, SCALE; none when a value is reserved. -/
def convWord (c : Nat) : Option (Fmt × Rm × Bool × Int) :=
  match ofmt (bits c 7 5), rmOf (c % 8) with
  | some f, some r => some (f, r, bitAt c 3, sgn 8 (bits c 23 16))
  | _, _ => none

/-- Elements per register of a drain's format. -/
def perReg (f : Fmt) : Nat := 32 / f.width

/-- A drain is accepted: its tile is Draining, its range is recorded (R206, R432). -/
def State.acceptDrain (s : State) (e : Env) (x n : Nat) (kind : DrainKind) (cc : W64) (range : Option (Nat × Nat)) : State :=
  let id := s.nextId
  let tile := s.tileOf e.wid x n
  let after := match tile with
    | some i => (s.mmas.filter fun m => m.core == x && m.tile == i && m.wg == e.wid).map fun m => m.id
    | none => []
  let d : DrainOp := ⟨id, e.wid, x, tile, n, kind, cc, false, [], range.map fun _ => id, after⟩
  let s := match tile with | some i => s.modAcc x i AccTile.drain | none => s
  { s with
    nextId := id + 1
    drains := s.drains ++ [d]
    ranges := s.ranges ++ (range.map fun r => (⟨id, x, r.1, r.2, id, false, false⟩ : RangeEntry)).toList }

/-- A drain with a range: it waits while the range cannot be recorded (R206). -/
def State.issueDrain (s : State) (e : Env) (x n : Nat) (kind : DrainKind) (cc : W64) (lo hi : Nat) : Out :=
  if s.rangeHit x lo hi || s.rangesFull x then .next s.tick
  else .next ((s.acceptDrain e x n kind cc (some (lo, hi))).finish e (done e.act))

/-- `accdrain` (R430, R435). -/
def execAccdrain (n : Nat) (w c : Src) (s : State) : Out :=
  s.word (.accdrain n w c) fun e s =>
    let v := e.n .i64 w 0
    match convWord (e.n .i64 c 0) with
    | none => s.ctlTrap e .illegalEncoding
    | some (f, _, _, _) =>
      let k := 32 / perReg f
      let x := e.coreIn v
      if v % 8 ≠ 0 then s.ctlTrap e .illegalEncoding
      else match s.regUseCheck e x [e.regUse v k] with
        | some c => s.ctlTrap e c
        | none => match s.groupOn e.wid x (bits v 43 32) with
          | none => s.ctlTrap e .permission
          | some (gid, g) =>
            let reg := v % 256
            s.issueDrain e x n (.regs gid reg) (e.src .i64 c 0) (g.base + 4 * reg * g.width) (g.base + 4 * (reg + k) * g.width)

/-- `accst` (R436). -/
def execAccst (n : Nat) (w c : Src) (s : State) : Out :=
  s.word (.accst n w c) fun e s =>
    let v := e.n .i64 w 0
    match convWord (e.n .i64 c 0) with
    | none => s.ctlTrap e .illegalEncoding
    | some (f, _, _, _) =>
      let sz := f.width / 8
      let x := e.coreIn v
      let pitch := bits v 51 32
      let off := v % 2^20
      let len := 31 * pitch + 32 * sz
      if off % 16 ≠ 0 ∨ pitch % 16 ≠ 0 ∨ pitch < 32 * sz then s.ctlTrap e .align
      else match e.wg.runOn x, e.kern.area off len with
        | some base, some (.awin, r) => s.issueDrain e x n (.window off pitch) (e.src .i64 c 0) (base + r) (base + r + len)
        | _, _ => s.ctlTrap e .permission

/-- `acctx` (R437): a tile of a core that the workgroup does not occupy is unbound (log entry 65); PERMISSION also where ROFF lies outside every buffer view (R201), PEER_LOST where the rank set holds a lost rank (R264);
it waits for its barrier's PEND (R158). -/
def execAcctx (n : Nat) (ev : Src) (s : State) : Out :=
  s.word (.acctx n ev) fun e s =>
    let v := e.n .i64 ev 0
    let x := e.coreIn v
    let d := x / 256
    let t := s.tile d (v % 4096)
    if t.cx != e.cx || t.st != .armed || t.skind || !s.inView e (s.ownVa t.roff) t.len then s.ctlTrap e .permission
    else if t.lost s.fab.lostmap.toNat then s.ctlTrap e .peerLost
    else if s.tileFull d t then .next s.tick
    else if 64 ≤ (s.drains.filter fun (y : DrainOp) => y.core / 256 == d && (match y.kind with | .entry _ => true | _ => false)).length then
      .next s.tick
    else .next ((s.acceptDrain e x n (.entry (v % 4096)) 0 none).finish e (done e.act))

/-- The elements of a tile as drains read it. -/
def AccTile.elems (t : AccTile) : List W32 := (List.range 1024).map fun k => tabGet t.data 0 k

/-- An element converted for a drain (R435): the product by 2^SCALE is exact before the one rounding. -/
def drainElem (f : Fmt) (rm : Rm) (sat : Bool) (sc : Int) (x : W32) : W32 :=
  BitVec.ofNat 32 (f.convert rm 0 sat ((Fmt.f32.unpack x.toNat).scale (some sc)))

/-- The elements that a drain hands on: converted for registers and windows, as they are for a tile-table entry. -/
def DrainOp.converted (d : DrainOp) (xs : List W32) : List W32 :=
  match d.kind with
  | .entry _ => xs
  | _ => match convWord d.cc.toNat with
    | some (f, rm, sat, sc) => xs.map (drainElem f rm sat sc)
    | none => xs

/-- DRAIN_SETTLE (R432): the drain has read the whole tile, as the earlier mma operations left it. -/
def execDrainSettle (id : Nat) (s : State) : Out :=
  match s.drains.find? fun d => d.id == id with
  | none => s.noEvent
  | some d =>
    if d.settled || !s.unitRuns d.wg || s.mmas.any (fun m => d.after.contains m.id) then s.noEvent
    else
      let xs := match d.tile with | some i => (s.acc d.core i).elems | none => List.replicate 1024 0
      let s := match d.tile with | some i => s.modAcc d.core i AccTile.settle | none => s
      .next { s with drains := s.drains.map fun y => if y.id == id then { d with settled := true, vals := d.converted xs } else y }

/-- A drain's elements go into 32 threads' registers (R435). -/
def Group.takeDrain (g : Group) (reg per : Nat) (vals : List W32) : Group :=
  let w := 32 / per
  { g with win := (List.range (1024 / per)).foldl (fun t k =>
      let i := k / w
      let r := k % w
      let v := (List.range per).foldl (fun n j => n + (nth vals (32 * i + per * r + j) 0).toNat * 2^(w * j)) 0
      tabSet t ((reg + r) * g.width + i) (BitVec.ofNat 32 v)) g.win }

/-- The bytes of a drain reach its destination. -/
def State.writeDrain (s : State) (d : DrainOp) : State :=
  match convWord d.cc.toNat with
  | none => s
  | some (f, _, _, _) =>
    match d.kind with
    | .regs gid reg => s.modGroup gid fun g => if g.st == .ended then g else g.takeDrain reg (perReg f) d.vals
    | .window off pitch =>
      match (s.wg? d.wg).bind fun w => w.runOn d.core with
      | none => s
      | some base => (List.range 32).foldl (fun s i =>
          s.setMem (storePhys d.core (base + (off - 0x10000) + i * pitch))
            (((d.vals.drop (32 * i)).take 32).flatMap fun v => leBytes (f.width / 8) v.toNat)) s
    | .entry _ => s

/-- The bytes that a drain writes: 1024 elements of its format (R435, R436). -/
def DrainOp.bytes (d : DrainOp) : Nat := match convWord d.cc.toNat with | some (f, _) => 128 * f.width | none => 0

/-- The range of a drain retires (R208): its elements become visible at one point. -/
def State.retireDrain (s : State) (d : DrainOp) (r : RangeEntry) : State :=
  let s := { s.writeDrain d with ranges := s.ranges.filter fun x => x.id != r.id, drains := s.drains.filter fun x => x.id != d.id }
  ((s.homeWrites (storePhys d.core r.lo) (r.hi - r.lo)).count (s.cxOfWg d.wg) d.core 6 d.bytes).fireMonitors (storePhys d.core r.lo) (r.hi - r.lo)

/-- RANGE_RETIRE (R208): every byte of a recorded range has been written, by a window copy or by a drain that has settled. -/
def execRangeRetire (id : Nat) (s : State) : Out :=
  match s.ranges.find? fun r => r.id == id && !r.saved with
  | none => s.noEvent
  | some r =>
    match s.copies.find? fun c => c.id == r.op with
    | some c => s.retireCopy c r
    | none => match s.drains.find? fun d => d.id == r.op && d.settled with
      | some d => .next (s.retireDrain d r)
      | none => s.noEvent

/-- An element converted to an entry's format (R437). -/
def landElem (f : Nat) (x : W32) : W32 :=
  match tileFmt f with
  | some fm => drainElem fm .rn false 0 x
  | none => BitVec.ofInt 32 (toInt .rn 0 (-2^31) (2^31 - 1) (Fmt.f32.unpack x.toNat)).1

/-- ACCTX_LAND (R271, R437): the tile lands in the staging slot, which is the Ready event; an entry that is no longer Armed with
SKIND 0 discards it. -/
def execAcctxLand (id : Nat) (s : State) : Out :=
  match s.drains.find? fun d => d.id == id && d.settled with
  | none => s.noEvent
  | some d =>
    match d.kind with
    | .entry i =>
      let die := d.core / 256
      let t := s.tile die i
      if s.tileFull die t && t.st == .armed && !t.skind then .next s
      else
      let s := { s with drains := s.drains.filter fun x => x.id != id }
      if t.st != .armed || t.skind then .next s
      else
        let s := { s with collq := tabSet s.collq (512 * die + t.src % 512) (d.vals.map (landElem t.fmt)) }
        let kid := ((s.wg? d.wg).map fun w => w.kernel).getD 0
        .next ((s.modTile die i fun t => { t with issuer := some (.ctl d.wg) }).tileReady die i kid)
    | _ => s.noEvent

/-- `accwait` in both forms (R438). -/
def execAccwait (n : Nat) (k : Src) (one : Bool) (s : State) : Out :=
  s.word (.accwait n k one) fun e s =>
    let x := e.coreIn (e.n .i64 k 0)
    if s.drains.any fun d => d.wg == e.wid && (!one || (d.acc == n && d.core == x)) then .next s.tick
    else .next (s.finish e (done e.act))

/-- `accfree` (R432, R438). -/
def execAccfree (n : Nat) (k : Src) (s : State) : Out :=
  s.word (.accfree n k) fun e s => .next ((s.unbindAcc e.wid (e.coreIn (e.n .i64 k 0)) n).finish e (done e.act))

/-! ### `cbar` (R441) -/

/-- `cbar.arr`. -/
def execCbarArr (b : Nat) (s : State) : Out :=
  s.word (.cbarArr b) fun e s =>
    s.afterStores e fun s => .next ((s.finish e (done e.act)).arriveAt (e.bar b) 1 false none)

/-- `cbar.wait` (R164). -/
def execCbarWait (p : Option Nat) (b : Nat) (ph : Src) (s : State) : Out :=
  s.word (.cbarWait p b ph) fun e s => s.barWait e b (bitAt (e.n .i64 ph 0) 0) p

/-- `cbar.init` (R167). -/
def execCbarInit (b : Nat) (n : Src) (s : State) : Out :=
  s.word (.cbarInit b n) fun e s =>
    let v := e.n .i64 n 0
    if v = 0 ∨ 65535 < v then s.ctlTrap e .illegalEncoding
    else s.afterStores e fun s =>
      if (s.bar (e.bar b)).busy then s.ctlTrap e .barBusy
      else .next ((s.modBar (e.bar b) fun x => x.start v).finish e (done e.act))

/-- `cbar.inval` (R168). -/
def execCbarInval (b : Nat) (s : State) : Out :=
  s.word (.cbarInval b) fun e s => s.afterStores e fun s => .next ((s.finish e (done e.act)).invalBar (e.bar b))

/-- `cbar.q`. -/
def execCbarQ (d b : Nat) (bc : Bool) (s : State) : Out :=
  s.word (.cbarQ d b bc) fun e s =>
    s.afterStores e fun s =>
      let x := s.bar (e.bar b)
      .next (s.finish e [.reg 0 (.reg d) .i64 (BitVec.ofNat 64 (if bc then x.count else x.state))])

end Sys2Proof.Machine
end

