-- ==== Sys2Proof/Machine/Dispatch.lean ====
section
/-!
DEFINITION. Dispatch: one arm per constructor of Instr, each one direct call of the instruction's meaning.
-/
namespace Sys2Proof.Machine

/-- The effect of an instruction word issued by the agent that has the issue, or of a device step. -/
def exec (i : Instr) (s : State) : Host.Outcome State Fault Refusal :=
  match i with
  | .nop gd => Sys2Proof.Machine.execNop gd s
  | .mov gd d a w64 => Sys2Proof.Machine.execMov gd d a w64 s
  | .iadd gd d a b sat => Sys2Proof.Machine.execIadd gd d a b sat s
  | .isub gd d a b sat => Sys2Proof.Machine.execIsub gd d a b sat s
  | .imul gd d a b => Sys2Proof.Machine.execImul gd d a b s
  | .imulh gd d a b u => Sys2Proof.Machine.execImulh gd d a b u s
  | .imad gd d a b c => Sys2Proof.Machine.execImad gd d a b c s
  | .idiv gd d a b w64 u => Sys2Proof.Machine.execIdiv gd d a b w64 u s
  | .irem gd d a b w64 u => Sys2Proof.Machine.execIrem gd d a b w64 u s
  | .imin gd d a b u => Sys2Proof.Machine.execImin gd d a b u s
  | .imax gd d a b u => Sys2Proof.Machine.execImax gd d a b u s
  | .iabs gd d a ssat => Sys2Proof.Machine.execIabs gd d a ssat s
  | .ineg gd d a ssat => Sys2Proof.Machine.execIneg gd d a ssat s
  | .iand gd d a b => Sys2Proof.Machine.execIand gd d a b s
  | .ior gd d a b => Sys2Proof.Machine.execIor gd d a b s
  | .ixor gd d a b => Sys2Proof.Machine.execIxor gd d a b s
  | .inot gd d a => Sys2Proof.Machine.execInot gd d a s
  | .iandn gd d a b => Sys2Proof.Machine.execIandn gd d a b s
  | .shl gd d a b => Sys2Proof.Machine.execShl gd d a b s
  | .shr gd d a b => Sys2Proof.Machine.execShr gd d a b s
  | .sar gd d a b => Sys2Proof.Machine.execSar gd d a b s
  | .rotl gd d a b => Sys2Proof.Machine.execRotl gd d a b s
  | .bfe gd d a b sx => Sys2Proof.Machine.execBfe gd d a b sx s
  | .bfi gd d a b c => Sys2Proof.Machine.execBfi gd d a b c s
  | .popc gd d a => Sys2Proof.Machine.execPopc gd d a s
  | .clz gd d a => Sys2Proof.Machine.execClz gd d a s
  | .ctz gd d a => Sys2Proof.Machine.execCtz gd d a s
  | .brev gd d a => Sys2Proof.Machine.execBrev gd d a s
  | .icmp gd p a b w64 u cond => Sys2Proof.Machine.execIcmp gd p a b w64 u cond s
  | .sel gd d a b p w64 => Sys2Proof.Machine.execSel gd d a b p w64 s
  | .iadd64 gd d a b sub => Sys2Proof.Machine.execIadd64 gd d a b sub s
  | .imad64 gd d a b c u => Sys2Proof.Machine.execImad64 gd d a b c u s
  | .shf64 gd d a b mode => Sys2Proof.Machine.execShf64 gd d a b mode s
  | .lea gd d a b u sh => Sys2Proof.Machine.execLea gd d a b u sh s
  | .ext gd d a w64 sx width => Sys2Proof.Machine.execExt gd d a w64 sx width s
  | .bmrg gd d a b c swap => Sys2Proof.Machine.execBmrg gd d a b c swap s
  | .dot4 gd d a b c ub ua => Sys2Proof.Machine.execDot4 gd d a b c ub ua s
  | .iaddc gd d a b p => Sys2Proof.Machine.execIaddc gd d a b p s
  | .isubb gd d a b p => Sys2Proof.Machine.execIsubb gd d a b p s
  | .lop3 gd d a b c t => Sys2Proof.Machine.execLop3 gd d a b c t s
  | .fadd gd d a b sat rm => Sys2Proof.Machine.execFadd gd d a b sat rm s
  | .fsub gd d a b sat rm => Sys2Proof.Machine.execFsub gd d a b sat rm s
  | .fmul gd d a b sat rm => Sys2Proof.Machine.execFmul gd d a b sat rm s
  | .ffma gd d a b c sat rm => Sys2Proof.Machine.execFfma gd d a b c sat rm s
  | .fmin gd d a b => Sys2Proof.Machine.execFmin gd d a b s
  | .fmax gd d a b => Sys2Proof.Machine.execFmax gd d a b s
  | .fcmp gd p a b cond => Sys2Proof.Machine.execFcmp gd p a b cond s
  | .fclass gd p a b f64 => Sys2Proof.Machine.execFclass gd p a b f64 s
  | .frcp gd d a sat rm => Sys2Proof.Machine.execFrcp gd d a sat rm s
  | .frsq gd d a => Sys2Proof.Machine.execFrsq gd d a s
  | .fsqrt gd d a rm => Sys2Proof.Machine.execFsqrt gd d a rm s
  | .fsinpi gd d a => Sys2Proof.Machine.execFsinpi gd d a s
  | .fcospi gd d a => Sys2Proof.Machine.execFcospi gd d a s
  | .fexp2 gd d a => Sys2Proof.Machine.execFexp2 gd d a s
  | .flog2 gd d a => Sys2Proof.Machine.execFlog2 gd d a s
  | .ftanh gd d a => Sys2Proof.Machine.execFtanh gd d a s
  | .frnd gd d a rm => Sys2Proof.Machine.execFrnd gd d a rm s
  | .dadd gd d a b sub sat rm => Sys2Proof.Machine.execDadd gd d a b sub sat rm s
  | .dmul gd d a b sat rm => Sys2Proof.Machine.execDmul gd d a b sat rm s
  | .dfma gd d a b c sat rm => Sys2Proof.Machine.execDfma gd d a b c sat rm s
  | .dmin gd d a b => Sys2Proof.Machine.execDmin gd d a b s
  | .dmax gd d a b => Sys2Proof.Machine.execDmax gd d a b s
  | .dcmp gd p a b cond => Sys2Proof.Machine.execDcmp gd p a b cond s
  | .drcp gd d a sat rm => Sys2Proof.Machine.execDrcp gd d a sat rm s
  | .dsqrt gd d a rm => Sys2Proof.Machine.execDsqrt gd d a rm s
  | .hadd2 gd d a b bf16 sat rm => Sys2Proof.Machine.execHadd2 gd d a b bf16 sat rm s
  | .hmul2 gd d a b bf16 sat rm => Sys2Proof.Machine.execHmul2 gd d a b bf16 sat rm s
  | .hfma2 gd d a b c bf16 sat rm => Sys2Proof.Machine.execHfma2 gd d a b c bf16 sat rm s
  | .hmax2 gd d a b bf16 => Sys2Proof.Machine.execHmax2 gd d a b bf16 s
  | .hmin2 gd d a b bf16 => Sys2Proof.Machine.execHmin2 gd d a b bf16 s
  | .hcmp2 gd p a b bf16 cond => Sys2Proof.Machine.execHcmp2 gd p a b bf16 cond s
  | .cvtf gd d a cnt src sat rm => Sys2Proof.Machine.execCvtf gd d a cnt src sat rm s
  | .cvti gd d a cnt tgt f64 sat rm => Sys2Proof.Machine.execCvti gd d a cnt tgt f64 sat rm s
  | .cvtd gd d a src rm => Sys2Proof.Machine.execCvtd gd d a src rm s
  | .pk16 gd d a b cnt bf16 sat rm => Sys2Proof.Machine.execPk16 gd d a b cnt bf16 sat rm s
  | .unpk16 gd d a b bf16 => Sys2Proof.Machine.execUnpk16 gd d a b bf16 s
  | .cvt8 gd d a b cnt tgt x1 sat rm => Sys2Proof.Machine.execCvt8 gd d a b cnt tgt x1 sat rm s
  | .unpk8 gd d a b src => Sys2Proof.Machine.execUnpk8 gd d a b src s
  | .cvt4 gd d a b cnt x1 sat rm => Sys2Proof.Machine.execCvt4 gd d a b cnt x1 sat rm s
  | .unpk4 gd d a b => Sys2Proof.Machine.execUnpk4 gd d a b s
  | .mxsc gd d a sx cnt fmt b1 sat rm => Sys2Proof.Machine.execMxsc gd d a sx cnt fmt b1 sat rm s
  | .rnd gd d => Sys2Proof.Machine.execRnd gd d s
  | .rseed gd a => Sys2Proof.Machine.execRseed gd a s
  | .satq gd d clr k => Sys2Proof.Machine.execSatq gd d clr k s
  | .fdot2 gd d a b c bf16 sat rm => Sys2Proof.Machine.execFdot2 gd d a b c bf16 sat rm s
  | .shfl gd d a b w64 wseg mode => Sys2Proof.Machine.execShfl gd d a b w64 wseg mode s
  | .bfly gd x y m => Sys2Proof.Machine.execBfly gd x y m s
  | .bcast gd d a b w64 => Sys2Proof.Machine.execBcast gd d a b w64 s
  | .vote gd p q mode => Sys2Proof.Machine.execVote gd p q mode s
  | .ballot gd d q m64 => Sys2Proof.Machine.execBallot gd d q m64 s
  | .redux gd d a op => Sys2Proof.Machine.execRedux gd d a op s
  | .fredux gd d a op => Sys2Proof.Machine.execFredux gd d a op s
  | .scan gd d a excl f => Sys2Proof.Machine.execScan gd d a excl f s
  | .matchv gd d a m64 w64 => Sys2Proof.Machine.execMatchv gd d a m64 w64 s
  | .pand gd p q r nb na => Sys2Proof.Machine.execPand gd p q r nb na s
  | .por gd p q r nb na => Sys2Proof.Machine.execPor gd p q r nb na s
  | .pxor gd p q r nb na => Sys2Proof.Machine.execPxor gd p q r nb na s
  | .pnot gd p q => Sys2Proof.Machine.execPnot gd p q s
  | .pmov gd p q => Sys2Proof.Machine.execPmov gd p q s
  | .pmovGet gd d q => Sys2Proof.Machine.execPmovGet gd d q s
  | .pmovSet gd p a => Sys2Proof.Machine.execPmovSet gd p a s
  | .pcnt gd d q => Sys2Proof.Machine.execPcnt gd d q s
  | .elect gd p => Sys2Proof.Machine.execElect gd p s
  | .bra gd t a cond => Sys2Proof.Machine.execBra gd t a cond s
  | .brx gd a b => Sys2Proof.Machine.execBrx gd a b s
  | .call gd d a x => Sys2Proof.Machine.execCall gd d a x s
  | .ret gd a => Sys2Proof.Machine.execRet gd a s
  | .enrol j => Sys2Proof.Machine.execEnrol j s
  | .rejoin j => Sys2Proof.Machine.execRejoin j s
  | .exit gd => Sys2Proof.Machine.execExit gd s
  | .yield gd => Sys2Proof.Machine.execYield gd s
  | .trap gd n => Sys2Proof.Machine.execTrap gd n s
  | .brk gd n => Sys2Proof.Machine.execBrk gd n s
  | .rte gd => Sys2Proof.Machine.execRte gd s
  | .rteRetry gd => Sys2Proof.Machine.execRteRetry gd s
  | .signal gd a b => Sys2Proof.Machine.execSignal gd a b s
  | .signalMbox gd a b => Sys2Proof.Machine.execSignalMbox gd a b s
  | .rswitch gd p a => Sys2Proof.Machine.execRswitch gd p a s
  | .reggrow gd p n => Sys2Proof.Machine.execReggrow gd p n s
  | .regshrink gd n => Sys2Proof.Machine.execRegshrink gd n s
  | .growGrant g => Sys2Proof.Machine.execGrowGrant g s
  | .sleep gd a => Sys2Proof.Machine.execSleep gd a s
  | .sleepExpire ag => Sys2Proof.Machine.execSleepExpire ag s
  | .barinit gd b n => Sys2Proof.Machine.execBarinit gd b n s
  | .bararr gd b n => Sys2Proof.Machine.execBararr gd b n s
  | .barwait gd p b ph => Sys2Proof.Machine.execBarwait gd p b ph s
  | .barinval gd b => Sys2Proof.Machine.execBarinval gd b s
  | .barrarr gd h n => Sys2Proof.Machine.execBarrarr gd h n s
  | .remoteArrival id => Sys2Proof.Machine.execRemoteArrival id s
  | .barq gd d b which => Sys2Proof.Machine.execBarq gd d b which s
  | .hbarInit gd ix n sc => Sys2Proof.Machine.execHbarInit gd ix n sc s
  | .hbarArr gd ix sc => Sys2Proof.Machine.execHbarArr gd ix sc s
  | .hbarWait gd p ix ph sc => Sys2Proof.Machine.execHbarWait gd p ix ph sc s
  | .hbarQ gd d ix bc sc => Sys2Proof.Machine.execHbarQ gd d ix bc sc s
  | .hbarMessage id => Sys2Proof.Machine.execHbarMessage id s
  | .hbarReply id => Sys2Proof.Machine.execHbarReply id s
  | .ld gd d a o sx size => Sys2Proof.Machine.execLd gd d a o sx size s
  | .st gd a o sx size => Sys2Proof.Machine.execSt gd a o sx size s
  | .ldt gd d h x sx => Sys2Proof.Machine.execLdt gd d h x sx s
  | .stt gd h x sx => Sys2Proof.Machine.execStt gd h x sx s
  | .ldfr gd d a b t el => Sys2Proof.Machine.execLdfr gd d a b t el s
  | .stfr gd a b sx t el => Sys2Proof.Machine.execStfr gd a b sx t el s
  | .atom gd d a b sc w64 op => Sys2Proof.Machine.execAtom gd d a b sc w64 op s
  | .cas gd d a x y sc w64 => Sys2Proof.Machine.execCas gd d a x y sc w64 s
  | .ratom gd d a b w64 op => Sys2Proof.Machine.execRatom gd d a b w64 op s
  | .fence gd sc => Sys2Proof.Machine.execFence gd sc s
  | .fenceTc gd => Sys2Proof.Machine.execFenceTc gd s
  | .publish gd h => Sys2Proof.Machine.execPublish gd h s
  | .mon gd a => Sys2Proof.Machine.execMon gd a s
  | .mwait gd p t => Sys2Proof.Machine.execMwait gd p t s
  | .mwaitTimeout ag => Sys2Proof.Machine.execMwaitTimeout ag s
  | .tierpf gd b d sx n => Sys2Proof.Machine.execTierpf gd b d sx n s
  | .tierev gd b d sx n => Sys2Proof.Machine.execTierev gd b d sx n s
  | .lastuse gd a n => Sys2Proof.Machine.execLastuse gd a n s
  | .lastuseArm id => Sys2Proof.Machine.execLastuseArm id s
  | .mma n a b sx new => Sys2Proof.Machine.execMma n a b sx new s
  | .mmaEnd core => Sys2Proof.Machine.execMmaEnd core s
  | .residueMismatchMma core => Sys2Proof.Machine.execResidueMismatchMma core s
  | .accdrain n w c => Sys2Proof.Machine.execAccdrain n w c s
  | .accst n w c => Sys2Proof.Machine.execAccst n w c s
  | .acctx n e => Sys2Proof.Machine.execAcctx n e s
  | .acctxLand id => Sys2Proof.Machine.execAcctxLand id s
  | .accwait n k one => Sys2Proof.Machine.execAccwait n k one s
  | .accfree n k => Sys2Proof.Machine.execAccfree n k s
  | .drainSettle id => Sys2Proof.Machine.execDrainSettle id s
  | .cbarArr b => Sys2Proof.Machine.execCbarArr b s
  | .cbarWait p b ph => Sys2Proof.Machine.execCbarWait p b ph s
  | .cbarInit b n => Sys2Proof.Machine.execCbarInit b n s
  | .cbarInval b => Sys2Proof.Machine.execCbarInval b s
  | .cbarQ d b bc => Sys2Proof.Machine.execCbarQ d b bc s
  | .copy gd b h x d => Sys2Proof.Machine.execCopy gd b h x d s
  | .copymc gd l h x d m => Sys2Proof.Machine.execCopymc gd l h x d m s
  | .copyw gd b h x d => Sys2Proof.Machine.execCopyw gd b h x d s
  | .copyComplete id err => Sys2Proof.Machine.execCopyComplete id err s
  | .engineArrival id => Sys2Proof.Machine.execEngineArrival id s
  | .rangeRetire id => Sys2Proof.Machine.execRangeRetire id s
  | .tierMoveDone id err => Sys2Proof.Machine.execTierMoveDone id err s
  | .tready gd ix => Sys2Proof.Machine.execTready gd ix s
  | .fork gd p h k e => Sys2Proof.Machine.execFork gd p h k e s
  | .siblingsPlaced cx h places => Sys2Proof.Machine.execSiblingsPlaced cx h places s
  | .forkwaitExpire cx h => Sys2Proof.Machine.execForkwaitExpire cx h s
  | .reward gd h x => Sys2Proof.Machine.execReward gd h x s
  | .slack gd d h sx => Sys2Proof.Machine.execSlack gd d h sx s
  | .sgcancel gd h ix => Sys2Proof.Machine.execSgcancel gd h ix s
  | .sgq gd d h which => Sys2Proof.Machine.execSgq gd d h which s
  | .sgTimeout cx h => Sys2Proof.Machine.execSgTimeout cx h s
  | .sgResult cx h => Sys2Proof.Machine.execSgResult cx h s
  | .sgDrained cx h => Sys2Proof.Machine.execSgDrained cx h s
  | .tapepush gd p a b upd => Sys2Proof.Machine.execTapepush gd p a b upd s
  | .launch gd p a q => Sys2Proof.Machine.execLaunch gd p a q s
  | .rcomb gd d a r => Sys2Proof.Machine.execRcomb gd d a r s
  | .rcombRoundEnd die desc => Sys2Proof.Machine.execRcombRoundEnd die desc s
  | .rcombTimeout die desc => Sys2Proof.Machine.execRcombTimeout die desc s
  | .sysrd gd d idx => Sys2Proof.Machine.execSysrd gd d idx s
  | .syswr gd a idx => Sys2Proof.Machine.execSyswr gd a idx s
  | .dbgmark gd a => Sys2Proof.Machine.execDbgmark gd a s
  | .perfc gd d n => Sys2Proof.Machine.execPerfc gd d n s
  | .icinv gd a n => Sys2Proof.Machine.execIcinv gd a n s
  | .icinvInvalidate id => Sys2Proof.Machine.execIcinvInvalidate id s
  | .ckptmark gd a n e => Sys2Proof.Machine.execCkptmark gd a n e s
  | .checkpointCopyDone cx h => Sys2Proof.Machine.execCheckpointCopyDone cx h s
  | .checkpointCopyFail cx h cause => Sys2Proof.Machine.execCheckpointCopyFail cx h cause s
  | .clauseFetch ag => Sys2Proof.Machine.execClauseFetch ag s
  | .swashYield g k => Sys2Proof.Machine.execSwashYield g k s
  | .trapEntry ag => Sys2Proof.Machine.execTrapEntry ag s
  | .longLatencyResult id => Sys2Proof.Machine.execLongLatencyResult id s
  | .storePerform ag => Sys2Proof.Machine.execStorePerform ag s
  | .missFill id soft => Sys2Proof.Machine.execMissFill id soft s
  | .ptsTick u => Sys2Proof.Machine.execPtsTick u s
  | .invalidation die line => Sys2Proof.Machine.execInvalidation die line s
  | .upgradeRequest die line => Sys2Proof.Machine.execUpgradeRequest die line s
  | .homeWrite id => Sys2Proof.Machine.execHomeWrite id s
  | .mirrorAck id => Sys2Proof.Machine.execMirrorAck id s
  | .publishSwap id => Sys2Proof.Machine.execPublishSwap id s
  | .publishSwapRequest rank cx view len => Sys2Proof.Machine.execPublishSwapRequest rank cx view len s
  | .engineWriteAccept rank cx ofs data => Sys2Proof.Machine.execEngineWriteAccept rank cx ofs data s
  | .ratomApply id => Sys2Proof.Machine.execRatomApply id s
  | .ratomComplete id => Sys2Proof.Machine.execRatomComplete id s
  | .replicaUpdate ag => Sys2Proof.Machine.execReplicaUpdate ag s
  | .replicaApply id die => Sys2Proof.Machine.execReplicaApply id die s
  | .hostCoreAccess h acc => Sys2Proof.Machine.execHostCoreAccess h acc s
  | .build cx => Sys2Proof.Machine.execBuild cx s
  | .commit cx => Sys2Proof.Machine.execCommit cx s
  | .preempt cx => Sys2Proof.Machine.execPreempt cx s
  | .destroy cx => Sys2Proof.Machine.execDestroy cx s
  | .clear cx => Sys2Proof.Machine.execClear cx s
  | .contextDispatch cx => Sys2Proof.Machine.execContextDispatch cx s
  | .schedulerPreempt cx => Sys2Proof.Machine.execSchedulerPreempt cx s
  | .saveDone cx err => Sys2Proof.Machine.execSaveDone cx err s
  | .restoreDone cx err => Sys2Proof.Machine.execRestoreDone cx err s
  | .contextDrainDone cx => Sys2Proof.Machine.execContextDrainDone cx s
  | .phaseWrite cx v => Sys2Proof.Machine.execPhaseWrite cx v s
  | .budgetWrite cx v => Sys2Proof.Machine.execBudgetWrite cx v s
  | .ctxstatWrite cx v => Sys2Proof.Machine.execCtxstatWrite cx v s
  | .ckptstatWrite cx v => Sys2Proof.Machine.execCkptstatWrite cx v s
  | .registerWrite addr v => Sys2Proof.Machine.execRegisterWrite addr v s
  | .enable q => Sys2Proof.Machine.execEnable q s
  | .disable q => Sys2Proof.Machine.execDisable q s
  | .resume q => Sys2Proof.Machine.execResume q s
  | .skip q => Sys2Proof.Machine.execSkip q s
  | .tapeclr q => Sys2Proof.Machine.execTapeclr q s
  | .qtailWrite q v => Sys2Proof.Machine.execQtailWrite q v s
  | .qcheadWrite q v => Sys2Proof.Machine.execQcheadWrite q v s
  | .qwakeWrite q v => Sys2Proof.Machine.execQwakeWrite q v s
  | .qstatWrite q v => Sys2Proof.Machine.execQstatWrite q v s
  | .holdRelease q => Sys2Proof.Machine.execHoldRelease q s
  | .launchRecord q => Sys2Proof.Machine.execLaunchRecord q s
  | .reverse q => Sys2Proof.Machine.execReverse q s
  | .reverseNextKernel q => Sys2Proof.Machine.execReverseNextKernel q s
  | .mark q => Sys2Proof.Machine.execMark q s
  | .wait q => Sys2Proof.Machine.execWait q s
  | .waitTimeout q => Sys2Proof.Machine.execWaitTimeout q s
  | .signalRecord q => Sys2Proof.Machine.execSignalRecord q s
  | .phaseRecord q => Sys2Proof.Machine.execPhaseRecord q s
  | .nopRecord q => Sys2Proof.Machine.execNopRecord q s
  | .kernelAdmit k => Sys2Proof.Machine.execKernelAdmit k s
  | .kernelLeased k => Sys2Proof.Machine.execKernelLeased k s
  | .workgroupPlaced k at_ => Sys2Proof.Machine.execWorkgroupPlaced k at_ s
  | .groupLoaded g => Sys2Proof.Machine.execGroupLoaded g s
  | .kernelQuiet k => Sys2Proof.Machine.execKernelQuiet k s
  | .leaseRenewal k => Sys2Proof.Machine.execLeaseRenewal k s
  | .unmap cx page => Sys2Proof.Machine.execUnmap cx page s
  | .protect cx page => Sys2Proof.Machine.execProtect cx page s
  | .zero cx page => Sys2Proof.Machine.execZero cx page s
  | .translationLeaseExpire cx page => Sys2Proof.Machine.execTranslationLeaseExpire cx page s
  | .resolved cx seq => Sys2Proof.Machine.execResolved cx seq s
  | .refused cx seq => Sys2Proof.Machine.execRefused cx seq s
  | .xfheadWrite cx v => Sys2Proof.Machine.execXfheadWrite cx v s
  | .pageMoveDone cx page frame => Sys2Proof.Machine.execPageMoveDone cx page frame s
  | .off seg => Sys2Proof.Machine.execOff seg s
  | .on seg => Sys2Proof.Machine.execOn seg s
  | .tidecmdWrite v => Sys2Proof.Machine.execTidecmdWrite v s
  | .idleTimeout seg => Sys2Proof.Machine.execIdleTimeout seg s
  | .retentionTimeout seg => Sys2Proof.Machine.execRetentionTimeout seg s
  | .segmentWakeDone seg => Sys2Proof.Machine.execSegmentWakeDone seg s
  | .rowSpareSwitch id => Sys2Proof.Machine.execRowSpareSwitch id s
  | .retrain port => Sys2Proof.Machine.execRetrain port s
  | .linkDisable port => Sys2Proof.Machine.execLinkDisable port s
  | .linkEnable port => Sys2Proof.Machine.execLinkEnable port s
  | .trainingResult port res => Sys2Proof.Machine.execTrainingResult port res s
  | .trainingRetry port => Sys2Proof.Machine.execTrainingRetry port s
  | .laneFail port lane => Sys2Proof.Machine.execLaneFail port lane s
  | .silence port => Sys2Proof.Machine.execSilence port s
  | .flitReceive port flit => Sys2Proof.Machine.execFlitReceive port flit s
  | .replayRequest port ack => Sys2Proof.Machine.execReplayRequest port ack s
  | .creditReturn port vc n => Sys2Proof.Machine.execCreditReturn port vc n s
  | .routeSwitch dest vc => Sys2Proof.Machine.execRouteSwitch dest vc s
  | .noRouteTimeout rank => Sys2Proof.Machine.execNoRouteTimeout rank s
  | .peerFailureReport rank => Sys2Proof.Machine.execPeerFailureReport rank s
  | .lossDeclaration rank => Sys2Proof.Machine.execLossDeclaration rank s
  | .directoryRebuildDone rank => Sys2Proof.Machine.execDirectoryRebuildDone rank s
  | .tileArm die ix v => Sys2Proof.Machine.execTileArm die ix v s
  | .tileDisarm die ix v => Sys2Proof.Machine.execTileDisarm die ix v s
  | .tileEntryWrite die ix hi v => Sys2Proof.Machine.execTileEntryWrite die ix hi v s
  | .collectiveContribution die ix msg => Sys2Proof.Machine.execCollectiveContribution die ix msg s
  | .collectiveResult die ix => Sys2Proof.Machine.execCollectiveResult die ix s
  | .collectiveTimeout die ix => Sys2Proof.Machine.execCollectiveTimeout die ix s
  | .coolantOutOfEnvelope temp flow => Sys2Proof.Machine.execCoolantOutOfEnvelope temp flow s
  | .temperatureRise => Sys2Proof.Machine.execTemperatureRise s
  | .clockChange mhz => Sys2Proof.Machine.execClockChange mhz s
  | .budgetCurChange cx v => Sys2Proof.Machine.execBudgetCurChange cx v s
  | .powerOn => Sys2Proof.Machine.execPowerOn s
  | .resetInput => Sys2Proof.Machine.execResetInput s
  | .load => Sys2Proof.Machine.execLoad s
  | .reset v => Sys2Proof.Machine.execReset v s
  | .authCheckDone sigOk fuseMin => Sys2Proof.Machine.execAuthCheckDone sigOk fuseMin s
  | .firmwareTrainingDone res => Sys2Proof.Machine.execFirmwareTrainingDone res s
  | .mstatWrite v => Sys2Proof.Machine.execMstatWrite v s
  | .moheadWrite v => Sys2Proof.Machine.execMoheadWrite v s
  | .zeroDone cx page => Sys2Proof.Machine.execZeroDone cx page s
  | .replicaDiscard cx page => Sys2Proof.Machine.execReplicaDiscard cx page s
  | .conditionCleared => Sys2Proof.Machine.execConditionCleared s
  | .eviction core line => Sys2Proof.Machine.execEviction core line s
  | .publishAck id => Sys2Proof.Machine.execPublishAck id s
  | .icinvAck id rank => Sys2Proof.Machine.execIcinvAck id rank s

end Sys2Proof.Machine
end

