-- ==== Sys2Proof/Machine/Turns.lean ====
section
/-!
DEFINITION. What one step of the machine is made of: the issue of one slot (R17, R47, R107 to R118, R307, R434), requests of other packages
(R261), the time that passes, what the device does of itself after every step (R69, R82, R129, R240, R276, R421), and the placing of one
instruction where the issue takes it.
-/
namespace Sys2Proof.Machine

/-- An outcome with its next state changed. -/
def mapNext (f : State → State) : Out → Out
  | .next s => .next (f s)
  | .fault r => .fault r
  | .refused r => .refused r

/-! ### Issue -/

/-- A word that decodes to no instruction raises its cause at every lane of the path (R310, R323, R331), once it issues (R327). -/
def State.badWord (s : State) (ag : Agent) (w : W64) (c : Cause) : Out :=
  let s := s.landReady ag
  match s.env? ag .always false with
  | none => .fault .notReady
  | some e => if s.slotWait e then .next s.tick else .next (s.raisePath e (if permitted e.ctl (w.toNat / 2^56) then c else .illegalOpcode))

/-- The word in the clause buffer is decoded and has its effect. -/
def State.issueWord (s : State) (ag : Agent) (w : W64) : Out :=
  match decode w with
  | .ok i => exec i s
  | .error c => s.badWord ag w c

/-- The control thread's RESIDUE that is due (R434): the word of the failing mma. -/
def State.dueResidue (s : State) (ag : Agent) : Option (Nat × Nat) :=
  match ag with
  | .ctl w => (s.ct? w).bind fun c =>
      if c.due then some (w, (((s.mmas.find? fun m => some m.id == c.deferred).map fun m => m.pc).getD 0)) else none
  | .strand _ _ => none

/-- The path is at the end of a clause with a swash count that makes it yield (R117). -/
def Strand.mustYield (u : Strand) (l : Lane) : Bool := !l.inClause && decide (256 ≤ u.swash) && u.yieldPath.cur != u.cur

/-- One issue by an agent: a RESIDUE that is due, a sub-strand that enters its handler, a path that yields, a clause that is fetched, or
the word at the path's place in its clause. -/
def State.issueStep (s : State) (ag : Agent) : Out :=
  let s := { s with focus := some ag, stallOn := none }
  match s.mayIssue ag with
  | none => .fault .notReady
  | some (u, _, _) =>
    match s.dueResidue ag with
    | some (w, pc) => .next (s.raiseResidue w pc)
    | none =>
      if s.trapDue ag u then exec (.trapEntry ag) s
      else match lanesOf u.path with
        | [] => .fault .notReady
        | k0 :: _ =>
          let l := u.lane k0
          match u.mustYield l, ag with
          | true, .strand g j => exec (.swashYield g j) s
          | _, _ => match u.clause with
            | none => exec (.clauseFetch ag) s
            | some cl => if l.inClause && cl.hdr == l.hdr then s.issueWord ag (nth cl.words l.cwi 0) else exec (.clauseFetch ag) s

/-- The agent has something to issue. -/
def State.ready (s : State) (ag : Agent) : Bool :=
  match s.mayIssue ag with
  | none => false
  | some (u, _, _) => (s.dueResidue ag).isSome || s.trapDue ag u || u.path != 0

/-! ### Which strands issue (R17, R109, R110) -/

/-- The word that an agent has ready for a pipe (R110): the pipe, its kernel, its address, its place in the clause, and the word. -/
structure Ahead where
  pipe : Nat
  kid : Nat
  pc : Nat
  cwi : Nat
  word : W64
  deriving DecidableEq

/-- An issue by the agent now would issue a word: nothing holds it or makes it stall (R110, R327). -/
def State.wouldIssue (s : State) (ag : Agent) : Bool :=
  match s.issueStep ag with
  | .next x => match x.unit? ag with
    | some u => u.last == some s.clk
    | none => true
  | _ => false

/-- The word for which an agent is ready (R110): none where something else comes first, a clause has to be fetched, it has issued in this
clk, or the word would stall. -/
def State.ahead (s : State) (ag : Agent) : Option Ahead :=
  match s.mayIssue ag with
  | none => none
  | some (u, wid, _) =>
    match (s.wg? wid).map (fun w => w.kernel), u.clause, lanesOf u.path with
    | some kid, some cl, k0 :: _ =>
      let l := u.lane k0
      if (s.dueResidue ag).isSome || s.trapDue ag u || u.mustYield l || !l.inClause || cl.hdr != l.hdr
          || u.last == some s.clk || !s.wouldIssue ag then none
      else some ⟨cl.pipe l.cwi, kid, l.pc, l.cwi, nth cl.words l.cwi 0⟩
    | _, _, _ => none

/-- A strand that stands to issue: its priority class (R110), its timers, its slot number or control-thread index, and its word. -/
structure Standing where
  ag : Agent
  prio : Nat
  last : Option W64
  since : Option W64
  meek : Bool
  slot : Nat
  word : Ahead

/-- The strand has been ready and has not issued for 1024 clk (R110). -/
def Standing.old (x : Standing) (clk : W64) : Option Nat :=
  x.since.bind fun t => if 1024 ≤ (clk - t).toNat then some t.toNat else none

/-- Issued less recently, or as recently with a lower number. -/
def Standing.stale (x y : Standing) : Bool :=
  let n := fun (t : Option W64) => (t.map fun t => t.toNat + 1).getD 0
  decide (n x.last < n y.last) || (n x.last == n y.last && decide (x.slot < y.slot))

/-- `x` comes before `y` in the order of R110, apart from age. -/
def Standing.ranks (x y : Standing) : Bool := decide (y.prio < x.prio) || (x.prio == y.prio && x.stale y)

/-- `x` comes before `y` in the order of R110. -/
def Standing.order (clk : W64) (x y : Standing) : Bool :=
  match x.old clk, y.old clk with
  | some a, some b => decide (a < b) || (a == b && x.ranks y)
  | some _, none => true
  | none, some _ => false
  | none, none => x.ranks y

/-- How an agent stands to issue. -/
def State.standing (s : State) (ag : Agent) : Option Standing :=
  match s.unit? ag, s.ahead ag with
  | some u, some a =>
    let (prio, n) := match ag with
      | .strand g _ => (((s.group? g).map fun x => x.prio).getD 0, u.slot)
      | .ctl w => (0, ((s.ct? w).map fun c => c.ctIdx).getD 0)
    some ⟨ag, prio, u.last, u.since, decide (s.clk.toNat < u.meek.toNat), n, a⟩
  | _, _ => none

/-- Every strand of the package. -/
def State.strandsOf (s : State) : List Agent := s.groups.flatMap fun (g, x) => (List.range x.strands.length).map fun k => Agent.strand g k

/-- The strands that are ready for a pipe of a core (R110). -/
def State.readyFor (s : State) (core pipe : Nat) : List Standing :=
  (s.strandsOf.filter fun ag => s.coreOf ag == core).filterMap fun ag => (s.standing ag).bind fun x => if x.word.pipe = pipe then some x else none

/-- The control threads of a quad that are ready (R17). -/
def State.readyCts (s : State) (quad : Nat) : List Standing :=
  (s.cts.map fun c => Agent.ctl c.1).filterMap fun ag => if quadOf (s.coreOf ag) = quad then s.standing ag else none

/-- Set among strands by slot number. -/
def insSlot (x : Standing) : List Standing → List Standing
  | [] => [x]
  | y :: t => if x.slot < y.slot then x :: y :: t else y :: insSlot x t

/-- The group's pending group-wide instruction is an `rswitch`. -/
def Group.switching (g : Group) : Bool := match g.gw with | some ⟨_, .rswitch _ _ _, _, _⟩ => true | _ => false

/-- The order of the strands of one slot: ascending %strand (R186), but the launch sequence of the group for an `rswitch`, and for an `exit`
with which one may complete (R125). -/
def State.inSlot (s : State) (x : Standing) : Standing :=
  match x.ag with
  | .strand g _ =>
    let opc := x.word.word.toNat / 2^56
    match s.group? g with
    | some y => if opc == 0x9C || (opc == 0x96 && y.switching) then { x with slot := y.seq.toNat } else x
    | none => x
  | .ctl _ => x

/-- The issue slot that a strand leads (R110): with it the first three in the same order of those that stand at the same word of the same
kernel; none where another strand leads. One that keeps back after a YIELD or a `yield` leads none while another is ready (R313, R381). A
strand that is not ready stands alone. -/
def State.slotOf (s : State) (ag : Agent) : List Agent :=
  match s.standing ag with
  | none => [ag]
  | some x =>
    let ys := (s.readyFor (s.coreOf ag) x.word.pipe).filter fun y => y.ag != ag
    if ys.any fun y => x.meek || (!y.meek && y.order s.clk x) then []
    else
      let same := ys.filter fun y => y.word == x.word
      let added := same.filter fun y => decide ((same.filter fun z => z.ag != y.ag && z.order s.clk y).length < 3)
      (((x :: added).map s.inSlot).foldr insSlot []).map fun y => y.ag

/-- A control thread issues (R17): one of at most four of its quad in one clk, `n` of which have issued in it; one that keeps back after a
`yield` only while no other is ready (R381). -/
def State.ctIssues (s : State) (ag : Agent) (n : Nat) : Bool :=
  match s.standing ag with
  | none => true
  | some x =>
    let ys := (s.readyCts (quadOf (s.coreOf ag))).filter fun y => y.ag != ag && !y.meek
    if x.meek then ys.isEmpty && decide (n < 4) else decide ((ys.filter fun y => y.stale x).length + n < 4)

/-- The agents that issue when an agent does: none where it is not its turn. `n` control threads of its quad have issued in this clk. -/
def State.slotFor (s : State) (ag : Agent) (n : Nat) : List Agent :=
  match ag with
  | .ctl _ => if s.ctIssues ag n then [ag] else []
  | .strand _ _ => s.slotOf ag

/-- The strand, which was `old`, has had an issue at %clk `at_`: where it has issued a word, the end of a clause with YIELD (R311, R313: of
strands only) and a `yield` (opcode 0x97, R381) keep it back for 4 clk. -/
def Strand.issuedAt (old : Strand) (ag : Agent) (at_ : W64) (u : Strand) : Strand :=
  let shy := match old.clause, lanesOf old.path with
    | some cl, k :: _ =>
      let goesOn := (lanesOf old.path).any fun j => let l := u.lane j; l.runs && l.inClause && l.hdr == cl.hdr && decide ((old.lane k).cwi < l.cwi)
      (nth cl.words (old.lane k).cwi 0).toNat / 2^56 == 0x97 || (cl.yieldHint && !goesOn && (match ag with | .strand _ _ => true | .ctl _ => false))
    | _, _ => false
  { u with meek := if old.last != some at_ && u.last == some at_ && shy then at_ + 5 else u.meek }

/-- The strands of a slot issue in one clk, each in its turn; one that can issue no more is passed over. -/
def State.issueAll (s : State) (first : Bool) : List Agent → Out
  | [] => .next s
  | ag :: t =>
    if !first && (s.ahead ag).isNone then s.issueAll false t
    else
      match s.issueStep ag, s.unit? ag with
      | .next x, some u => State.issueAll { x.modUnit ag (u.issuedAt ag s.clk) with clk := s.clk } false t
      | .next x, none => State.issueAll { x with clk := s.clk } false t
      | o, _ => o

/-- So many strands of a core have been ready and have not issued for 1024 clk (R110). -/
def State.agedOn (s : State) (core : Nat) : Nat :=
  (s.groups.flatMap fun (_, g) => if g.core = core then g.strands.filter fun u => u.since.any fun t => decide (1024 ≤ (s.clk - t).toNat) else []).length

/-- Some strand has been ready and has not issued for 1024 clk (R110). -/
def State.anyAged (s : State) : Bool :=
  s.groups.any fun (_, g) => g.strands.any fun u => u.since.any fun t => decide (1024 ≤ (s.clk - t).toNat)

/-- The strand must lead a slot in this clk, lest one of its core that has waited as long leads none within 1536 clk of becoming ready (R110). -/
def State.isLate (s : State) (x : Standing) : Bool :=
  let core := s.coreOf x.ag
  match x.old s.clk, x.since with
  | some _, some t => decide (1536 ≤ (s.clk - t).toNat + s.agedOn core) && !(s.slotOf x.ag).isEmpty
      && !s.groups.any fun (_, g) => g.core == core && g.strands.any fun u => u.last == some s.clk && u.lastPipe == x.word.pipe
  | _, _ => false

/-- The strands that must issue in this clk. -/
def State.late (s : State) : List Standing := if s.anyAged then (s.strandsOf.filterMap s.standing).filter s.isLate else []

/-- A clk ends, once every strand that must issue in it has (R110). -/
def State.endClk (s : State) : State := if s.late.isEmpty then s.tick else s

/-- The slot that an agent leads issues, and its clk ends. -/
def State.issueSlot (s : State) (ag : Agent) (n : Nat) : Out :=
  match s.slotFor ag n with
  | [] => s.noEvent
  | ags => mapNext State.endClk (s.issueAll true ags)

/-- The strands that have issued in the clk before this one on a core. -/
def State.justIssued (s : State) (core : Nat) : List Strand :=
  s.groups.flatMap fun (_, g) => if g.core = core then g.strands.filter fun u => u.last == some (s.clk - 1) else []

/-- The control threads of a quad that have issued in the clk before this one. -/
def State.ctsJustIssued (s : State) (quad : Nat) : Nat :=
  (s.cts.filter fun (w, c) => c.unit.last == some (s.clk - 1) && quadOf (s.coreOf (.ctl w)) == quad).length

/-- Some agent has issued a word in the clk before this one, and all words issued in it may share their clk. -/
def State.clkShared (s : State) : Bool :=
  let us := ((s.groups.flatMap fun (_, g) => g.strands) ++ s.cts.map fun c => c.2.unit).filter fun u => u.last == some (s.clk - 1)
  !us.isEmpty && !us.any fun u => u.lone

/-- A slot issues in the clk of the step before (R17, R109), which was an issue: on a pipe that has issued none in it, by strands that have
not issued in it, of a word that may share its clk. -/
def State.issueAlso (s : State) (ag : Agent) : Out :=
  let core := s.coreOf ag
  let before : State := { s with clk := s.clk - 1 }
  let free := match ag with
    | .strand _ _ =>
      let us := s.justIssued core
      match s.standing ag with
      | some x => !(us.any fun u => u.lastPipe == x.word.pipe) && (before.slotOf ag).all fun a => !((s.unit? a).any fun u => u.last == some (s.clk - 1))
      | none => false
    | .ctl _ => !((s.unit? ag).any fun u => u.last == some (s.clk - 1))
  let shares := s.clkShared && match before.standing ag with | some x => !isLone (x.word.word.toNat / 2^56) | none => false
  if s.clk = 0 ∨ !free ∨ !shares then s.noEvent else before.issueSlot ag (s.ctsJustIssued (quadOf core))

/-- A strand has been ready since the first clk in which it was and has not issued (R110), or has had something else than a word to do. -/
def Strand.wait (u : Strand) (rdy busy : Bool) (clk : W64) : Strand :=
  { u with since := if rdy then some (u.since.getD clk) else none, chore := if busy then some (u.chore.getD clk) else none }

/-- The lanes that have parked in this step, in one instruction, are known as such from now on (R47). -/
def Strand.stamp (u : Strand) (clk : W64) : Strand :=
  if u.lanes.any fun l => l.batch.isNone && (l.parked.isSome || l.opening) then
    { u with lanes := u.lanes.map fun l => if l.batch.isNone && (l.parked.isSome || l.opening) then { l with batch := some clk } else l }
  else u

/-- The agent's next issue is none of a word, and nothing holds it: the fetch of a clause, the entry into a handler, the yield of a path. -/
def State.hasChore (s : State) (ag : Agent) : Bool :=
  s.ready ag && match s.mayIssue ag with
    | none => false
    | some (u, _, k) =>
      (s.dueResidue ag).isSome || s.trapDue ag u || match lanesOf u.path with
        | [] => false
        | j :: _ =>
          let l := u.lane j
          let hdr := if l.inClause then l.hdr else l.pc
          u.mustYield l || ((!l.inClause || (u.clause.map fun c => c.hdr) != some hdr) && !s.fetchHeld k (s.coreOf ag) hdr)

/-- The strands that have become ready, or are no longer, are noted, and the lanes that have parked. -/
def State.noteReady (s : State) : State :=
  { s with
    groups := s.groups.map fun (i, g) =>
      (i, { g with strands := g.strands.mapIdx fun k u =>
        (u.stamp s.clk).wait (s.ahead (.strand i k)).isSome (s.hasChore (.strand i k)) s.clk })
    cts := s.cts.map fun (w, c) => (w, { c with unit := (c.unit.stamp s.clk).wait false (s.hasChore (.ctl w)) s.clk }) }

/-- The counter of R457 that counts an agent's stall, if it stalls now. -/
def State.stallsOn (s : State) (ag : Agent) : Option Nat :=
  if s.ready ag && (s.ahead ag).isNone then
    match s.issueStep ag with
    | .next x => x.stallOn
    | _ => none
  else none

/-- The time that has passed since `old`, in which a context's words stalled on a core, is counted: clk of stalls for a miss-status entry and by
the range scoreboard, ticks of stalls for a wake (R457). -/
def State.noteStalls (s old : State) : State :=
  let ags := old.strandsOf ++ old.cts.map fun c => Agent.ctl c.1
  let ks := (ags.filterMap fun ag => (old.stallsOn ag).map fun n => (old.cxOf ag, old.coreOf ag, n)).eraseDups
  ks.foldl (fun s (cx, core, n) =>
    s.count cx core n (if n = 7 then (s.dtime - old.dtime).toNat else (s.clk - old.clk).toNat)) s

/-! ### Time -/

/-- A directory of the package's control space is being rebuilt (R266). -/
def State.inRebuild (s : State) : Bool := !s.fab.rebuilding.isEmpty

/-- Timers of a strand after some ticks in which its context was Active (R382, R422). -/
def Strand.pass (u : Strand) (n : Nat) : Strand :=
  { u with
    lanes := u.lanes.map fun (l : Lane) => match l.wait with | some (.sleep k) => { l with wait := some (.sleep (k - n)) } | _ => l
    mon := if u.mon.st == .waiting then { u.mon with left := u.mon.left.map (· - n) } else u.mon }

/-- The context is Active, be it under restore (R44, R278: only such ticks count). -/
def State.cxActive (s : State) (cx : Nat) : Bool := (s.ctx cx).st == .active

/-- The context is Active and not under restore (R153, R382: only such ticks count). -/
def State.cxRuns (s : State) (cx : Nat) : Bool := (s.ctx cx).st == .active && !(s.ctx cx).restoring

/-- A live descriptor after some ticks of running time (R153). -/
def SgDesc.pass (d : SgDesc) (n : Nat) : SgDesc :=
  match d.st with
  | .forming => { d with fwait := d.fwait + n }
  | .running => { d with elapsed := d.elapsed + BitVec.ofNat 64 n }
  | _ => d

/-- A sample group whose ELAPSED has reached TIMEOUT (R149). -/
def State.sgDue (s : State) (k : Nat) (d : SgDesc) : Bool :=
  d.st == .running && d.timeout != 0 && decide (d.timeout.toNat ≤ d.elapsed.toNat) && s.cxRuns (k / 4096)

/-- A sample group whose siblings wait to be placed while the context runs (R141). -/
def State.sgForms (s : State) (k : Nat) (d : SgDesc) : Bool := d.st == .forming && s.cxRuns (k / 4096)

/-- What the device has to do before anything else happens. -/
inductive Due where
  | timeout (cx h : Nat)                          -- SG_TIMEOUT (R149)
  | place (cx h : Nat) (places : List Place)      -- SIBLINGS_PLACED (R141)
  | forkwait (cx h : Nat)                         -- FORKWAIT_EXPIRE (R141)
  | grow (g : Nat)                                -- GROW_GRANT (R129)
  | round (die desc : Nat)                        -- RCOMB_TIMEOUT (R278)
  | tile (die entry : Nat)                        -- COLLECTIVE_TIMEOUT (R274)

/-- The event is what is due; siblings may be placed wherever there is room (R139). -/
def Due.is (d : Due) (i : Instr) : Bool :=
  match d, i with
  | .timeout cx h, .sgTimeout cx' h' => cx == cx' && h == h'
  | .place cx h _, .siblingsPlaced cx' h' _ => cx == cx' && h == h'
  | .forkwait cx h, .forkwaitExpire cx' h' => cx == cx' && h == h'
  | .grow g, .growGrant g' => g == g'
  | .round die r, .rcombTimeout die' r' => die == die' && r == r'
  | .tile die e, .collectiveTimeout die' e' => die == die' && e == e'
  | _, _ => false

/-- What is due is done. -/
def Due.run (d : Due) (s : State) : Out :=
  match d with
  | .timeout cx h => execSgTimeout cx h s
  | .place cx h ps => execSiblingsPlaced cx h ps s
  | .forkwait cx h => execForkwaitExpire cx h s
  | .grow g => execGrowGrant g s
  | .round die r => execRcombTimeout die r s
  | .tile die e => execCollectiveTimeout die e s

/-- What a sample group has due: its timeout (R149), the placing of its siblings once there is room, or the end of FORKWAIT without
room (R141). -/
def State.sgNext (s : State) (k : Nat) (d : SgDesc) : Option Due :=
  if s.sgDue k d then some (.timeout (k / 4096) (k % 4096))
  else if !s.sgForms k d then none
  else match s.forkRoom (k % 4096) d with
    | some ps => some (.place (k / 4096) (k % 4096) ps)
    | none => if d.forkwait.toNat ≤ d.fwait then some (.forkwait (k / 4096) (k % 4096)) else none

/-- A group in Growing may be granted its request (R129). -/
def State.growDue (s : State) (gid : Nat) (g : Group) : Bool :=
  g.st == .growing && s.growRoom gid g.want && s.cxRuns (s.cxOfWg g.wg)

/-- A round whose TIMEOUT has expired while its context is Active (R278). -/
def State.roundDue (s : State) (o : Round) : Bool := o.expired && s.cxActive o.cx

/-- What the device has to do before anything else happens: timeouts that have expired (R141, R149, R274, R278), siblings that have
room (R141), and requests to grow that have room (R129). What writes control space waits for the end of a rebuild (R266). -/
def State.due (s : State) : List Due :=
  (if s.inRebuild then [] else s.sgs.filterMap (fun x => s.sgNext x.1 x.2)
      ++ s.rounds.filterMap (fun o => if s.roundDue o then some (.round o.die o.desc) else none))
    ++ s.groups.filterMap (fun x => if s.growDue x.1 x.2 then some (.grow x.1) else none)
    ++ s.tiles.filterMap fun x => if s.tileDue x.2 then some (.tile (x.1 / 4096) (x.1 % 4096)) else none

/-- The ticks in which a strand's sleeps end (R382). -/
def Strand.sleeps (u : Strand) : List Nat :=
  u.lanes.filterMap fun l => match l.wait with | some (.sleep n) => some n | _ => none

/-- The ticks in which so many clk pass (R3, R5). -/
def State.ticksIn (s : State) (clks : Nat) : Nat := (s.part + 1000 * clks) / s.mgmt.mhz

/-- The ticks left to what happens at a stated time: a sleep that ends (R382), a TIMEOUT (R149, R278), a FORKWAIT (R141), CTO (R274). Those
whose step stalls in a rebuild (R266) are not among them. -/
def State.deadlines (s : State) : List Nat :=
  ((s.strandsOf ++ s.cts.map fun c => Agent.ctl c.1).flatMap fun ag => ((s.mayIssue ag).map fun x => x.1.sleeps).getD [])
    ++ s.sgs.filterMap (fun (k, d) =>
      if !s.cxRuns (k / 4096) || s.inRebuild then none
      else match d.st with
        | .running => if d.timeout = 0 then none else some (d.timeout.toNat - d.elapsed.toNat)
        | .forming => some (d.forkwait.toNat - d.fwait)
        | _ => none)
    ++ s.rounds.filterMap (fun o => if s.cxActive o.cx && !s.inRebuild && o.timeout != 0 && o.missing.isSome then some (o.timeout - o.elapsed) else none)
    ++ (tabVals s.tiles).filterMap fun t =>
      if t.st == .fired && t.result.isNone && s.fab.collto != 0 then some (t.firedAt.toNat + s.fab.collto.toNat - s.dtime.toNat) else none

/-- The strands of a core that are ready (R110). -/
def State.waitingOn (s : State) (core : Nat) : Nat :=
  (s.groups.flatMap fun (_, g) => if g.core = core then g.strands.filter fun u => u.since.isSome else []).length

/-- So many clk have passed for a strand since it became ready, or since it has had something else to do. -/
def Strand.age (u : Strand) (clk : W64) : Option Nat := (u.since <|> u.chore).map fun t => (clk - t).toNat

/-- So many clk may pass at once: no further than to the next deadline, and so that every strand that is ready still leads a slot within 1536
clk, whichever of its core go before it (R110). -/
def State.mayElapse (s : State) (clks : Nat) : Bool :=
  let n := s.ticksIn clks
  (n == 0 || s.deadlines.all fun d => decide (n ≤ d))
    && s.groups.all (fun (_, g) => g.strands.all fun u => match u.age s.clk with
      | some a => decide (a + clks + s.waitingOn g.core ≤ 1536)
      | none => true)
    && s.cts.all fun (_, c) => match c.unit.age s.clk with
      | some a => decide (a + clks ≤ 1536)
      | none => true

/-- Ticks pass for DTIME and for what counts running time (R5, R153, R278, R382, R422). -/
def State.passTicks (s : State) (n : Nat) : State :=
  { s with
    dtime := s.dtime + BitVec.ofNat 64 n
    groups := s.groups.map fun (k, g) =>
      (k, if s.cxRuns (s.cxOfWg g.wg) then { g with strands := g.strands.map fun u => u.pass n } else g)
    cts := s.cts.map fun (w, c) => (w, if s.cxRuns (s.cxOfWg w) then { c with unit := c.unit.pass n } else c)
    sgs := s.sgs.map fun (k, d) => (k, if s.cxRuns (k / 4096) then d.pass n else d)
    rounds := s.rounds.map fun (r : Round) => if s.cxActive r.cx then { r with elapsed := r.elapsed + n } else r }

/-- The clk that have passed since `old` are so many ticks as R3 and R5 give: one each nanosecond, at the rate of the arithmetic clock in
`old`. A package reset starts DTIME and %clk again. -/
def State.passTime (s old : State) : State :=
  if s.mgmt.bootn != old.mgmt.bootn then { s with part := 0 }
  else
    let k := (s.clk - old.clk).toNat
    let n := old.ticksIn k
    { (if n = 0 then s else s.passTicks n) with part := (old.part + 1000 * k) % old.mgmt.mhz * s.mgmt.mhz / old.mgmt.mhz }

/-! ### After a step -/

/-- Keep sets whose PHASE has been written or that have changed are woken (R240). -/
def State.keepWake (s old : State) : State :=
  (s.ctxs.map Prod.fst).foldl (fun s cx =>
    if (s.ctx cx).phased then (s.modCtx cx fun c => { c with phased := false }).preWake cx
    else if s.keepSet cx = old.keepSet cx then s else s.preWake cx) s

/-- Pages that a kernel in Ranging waits for are placed, moved and woken as they come (R95, R98, R235). -/
def State.rangeAll (s : State) : State :=
  (s.kernels.filter fun k => k.2.st == .ranging).foldl (fun s k => s.rangeOn k.1) s

/-- What the device does of itself once a step has changed the state: DTIME follows %clk (R5), queues are tested again (R69, R72, R79), group-wide instructions
that could not complete are tried again (R276), a request to grow is denied where all are in Growing (R129), kernels in Ranging go on
(R98), completed asynchronous operations are noted (R210), keep sets are woken (R240), contexts begin or cease to wait for a slot (R82), page-table entries and buffer records keep the device's fields (R199, R220), the
image of a saved context follows its registers (R53, R328), monitors see the queue registers that changed (R421), stalls
are counted (R457), and the strands that are ready are noted (R110). -/
def State.afterStep (old s : State) : State :=
  let s := s.passTime old
  let s := if s.fab.rebuilding.isEmpty then s.wakeQueues.wideRetry.rangeAll else s.wideRetry
  let s := ((s.groups.map fun g => g.2.core).eraseDups).foldl State.growDeny s
  let s := (s.strandsOf ++ s.cts.map fun c => Agent.ctl c.1).foldl (fun s ag => s.noteDone old ag) s
  (((((((s.keepWake old).noteWaits).tableSync old).genSync old).imageSync old).queueMonitors old).noteStalls old).noteReady

/-! ### Requests of other packages (R174, R212, R261, R270, R459) -/

/-- A copy of another package reads a line here (R204, R261): one that fails is answered PERMISSION; a segment that is not Active starts to
wake. -/
def State.peerRead (s : State) (cx va n : Nat) : State :=
  if (s.ctx cx).st == .free || (s.ctx cx).st == .building then s
  else match s.walk cx va with
    | .ok l =>
      if !(pteRd l.pte && s.pageHere cx va l) then s
      else if s.rangeReady cx va n false then (s.engineRead [] cx va n).2 else s.rangeWake cx va n false
    | .error _ => s

/-- A request of another package reaches this one. -/
def State.peerTurn (s : State) (rank cx : Nat) (m : PeerMsg) : Out :=
  let own := fun (va : Nat) => match spaceOf s.fab va with | some (.own _) => true | _ => false
  if !s.peer rank || decide (256 ≤ cx) then s.noEvent
  else match m with
    | .bar k op val => .next (s.podMessage cx k op val)
    | .mirror k b => if rank = s.podHolder then .next (s.podMirror cx k b) else s.noEvent
    | .read va n => if own va && n != 0 && decide (va % 64 + n ≤ 64) then .next (s.peerRead cx va n) else s.noEvent
    | .ratom va w64 op val =>
      if own va && va % (if w64 then 8 else 4) == 0 then .next (s.ratomAt cx none va w64 op val).2 else s.noEvent
    | .icinv va n => if va % 64 == 0 && n % 64 == 0 then .next (s.dropCode cx va n) else s.noEvent
    | .refuse die i perm => if die < 8 ∧ i < 4096 then .next (s.refusedBy die i perm) else s.noEvent

/-! ### Memory channels (R246) -/

/-- What waits at the channels: requests, fills, and the oldest store of every agent that can be performed. -/
def State.reqsWaiting (s : State) : List MemReq :=
  s.reqs
    ++ (s.misses.filter fun m => !s.rebuilding m.line).map (fun m => ⟨m.unit, 0, m.due, m.line⟩)
    ++ (s.strandsOf ++ s.cts.map fun c => Agent.ctl c.1).filterMap fun ag => (s.headStore ag).bind fun q =>
        if s.storeInFlight ag || s.storeHeld ag q then none else some ⟨s.coreOf ag, 0, q.due, q.at_⟩

/-- No request at the channel of this one comes before it (R246). -/
def State.servesNow (s : State) (r : MemReq) : Bool :=
  s.reqsWaiting.all fun x => !(s.reqBefore x r && Config.channelOf x.at_ == Config.channelOf r.at_)

/-- The request that an event serves, if it is a fill or a store. -/
def State.reqOf (s : State) (i : Instr) : Option MemReq :=
  match i with
  | .missFill id _ => (s.misses.find? fun m => m.id == id).map fun m => ⟨m.unit, 0, m.due, m.line⟩
  | .storePerform ag => (s.headStore ag).map fun q => ⟨s.coreOf ag, 0, q.due, q.at_⟩
  | _ => none

/-- A channel serves the i-th of the requests that wait: late, it counts in DLMISS (R246). -/
def State.serve (s : State) (i : Nat) : Out :=
  match s.reqs[i]? with
  | none => s.noEvent
  | some r => if s.servesNow r then .next ({ s with reqs := s.reqs.eraseIdx i }.served r.who r.due) else s.noEvent

/-! ### Turns -/

/-- The place of a word's event among those that reach one object in one clk (R9): on barriers inits, arrivals, waits and reads (R163, R177), on
sample groups rewards, arrivals, cancellations and exits (R155). -/
def eventRank (w : W64) : Nat :=
  match w.toNat / 2^56 with
  | 0xA1 => 1
  | 0xA4 => 1
  | 0xE6 => 1
  | 0xA2 => 2
  | 0xE7 => 2
  | 0xA5 => 3
  | 0x96 => 3
  | _ => 0

/-- The order in which the slots of one clk have their events: as the objects' tables have it, then ascending %core and %strand (R9, R163). -/
def State.slotKey (s : State) (x : Standing) : Nat := (eventRank x.word.word * 2048 + s.coreOf x.ag) * 512 + x.slot

/-- The least of some by a key. -/
def leastOf {α : Type} (key : α → Nat) : List α → Option α
  | [] => none
  | x :: t => match leastOf key t with
    | some y => if key y < key x then some y else some x
    | none => some x

/-- The agent that must go on now: a strand that must lead a slot in this clk (R110), else one that has had a fetch, the entry into a handler
or a yield to do for 1536 clk (DESIGN CHOICE, log entry 98). -/
def State.pressed (s : State) : Option Agent :=
  ((leastOf s.slotKey s.late).map fun x => x.ag) <|>
    (s.strandsOf ++ s.cts.map fun c => Agent.ctl c.1).find? fun ag => (s.unit? ag).any fun u =>
      (u.chore.any fun t => decide (1536 ≤ (s.clk - t).toNat)) && s.hasChore ag

/-- The turn may come now: what is due comes first, then a strand that must issue. -/
def State.mayTurn (s : State) (t : Turn) : Bool :=
  match s.due with
  | [] => match s.pressed with
    | none => true
    | some ag => t == .issue ag
  | ds => match t with
    | .event i => ds.any fun d => d.is i
    | _ => false

/-- Steps of the queue scheduler, of the launch and save units and of the units that write records and page tables: they reach control space,
and stall while a directory is being rebuilt (R266; all of them, whichever line they come to: DESIGN CHOICE, log entry 142). -/
def stallsInRebuild (i : Instr) : Bool :=
  match i with
  | .enable _ => true
  | .disable _ => true
  | .resume _ => true
  | .skip _ => true
  | .holdRelease _ => true
  | .launchRecord _ => true
  | .reverse _ => true
  | .reverseNextKernel _ => true
  | .mark _ => true
  | .wait _ => true
  | .waitTimeout _ => true
  | .signalRecord _ => true
  | .phaseRecord _ => true
  | .nopRecord _ => true
  | .kernelAdmit _ => true
  | .kernelLeased _ => true
  | .groupLoaded _ => true
  | .kernelQuiet _ => true
  | .saveDone _ _ => true
  | .restoreDone _ _ => true
  | .contextDrainDone _ => true
  | .unmap _ _ => true
  | .protect _ _ => true
  | .zeroDone _ _ => true
  | .pageMoveDone _ _ _ => true
  | .replicaDiscard _ _ => true
  | .resolved _ _ => true
  | .publishSwap _ => true
  | .publishAck _ => true
  | .publishSwapRequest _ _ _ _ => true
  | .checkpointCopyDone _ _ => true
  | .sgTimeout _ _ => true
  | .forkwaitExpire _ _ => true
  | .siblingsPlaced _ _ _ => true
  | .sgResult _ _ => true
  | .sgDrained _ _ => true
  | .rcombTimeout _ _ => true
  | .rcombRoundEnd _ _ => true
  | .refused _ _ => true
  | _ => false

/-- A write by software that may come in the clk of a device update (R7): of a register, by a host core or the management core, or with
`syswr`. -/
def State.softWrite (s : State) (t : Turn) : Bool :=
  match t with
  | .event (.phaseWrite _ _) => true
  | .event (.budgetWrite _ _) => true
  | .event (.registerWrite _ _) => true
  | .event (.ckptstatWrite _ _) => true
  | .event (.hostCoreAccess _ _) => true
  | .issue ag => (s.standing ag).any fun x => x.word.word.toNat / 2^56 == 0xF1
  | _ => false

/-- Device updates of fields that software writes too: PHASE by a record, a budget by the management core (R39), CERR by a checkpoint copy. -/
def softField (i : Instr) : Bool :=
  match i with
  | .phaseRecord _ => true
  | .budgetWrite _ _ => true
  | .checkpointCopyFail _ _ _ => true
  | _ => false

/-- One turn. An instruction word acts only through an issue. Every turn takes a clk of its own, but an issue of words that may share
the clk of the step before: words whose effects R9, R163 and R177 order within one clk share it with none, so that the order of their events is
that of the turns, but where more strands must issue in a clk than one (R110), which then do in the order of those rules. -/
def State.oneTurn (s : State) (t : Turn) : Out :=
  match t with
  | .event i =>
    if (formOf? i).isSome then s.noEvent
    else if s.inRebuild && stallsInRebuild i then .next s.tick
    else if (s.reqOf i).any fun r => !s.servesNow r then s.noEvent
    else mapNext State.tick (exec i s)
  | .issue ag => s.issueSlot ag 0
  | .also ag => s.issueAlso ag
  | .elapse clks => if clks != 0 && s.mayElapse clks then .next { s with clk := s.clk + BitVec.ofNat 64 clks } else s.noEvent
  | .upset m => .next ({ s with upset := m }.tick)
  | .fetch id line => .next (s.engineTurn id line).tick
  | .peer rank cx m => mapNext State.tick (s.peerTurn rank cx m)
  | .flit port src dest vc data => mapNext State.tick (s.flitSend port src dest vc data)
  | .hbmTrained dies => mapNext State.tick (s.hbmTrained dies)
  | .serve i => mapNext State.tick (s.serve i)
  | .choose q => mapNext State.tick (s.choose q)
  | .race _ _ => s.noEvent

/-- A turn, if it may come now. In the clk of a write by software the device's update of a field comes after it, so that it takes effect, the
write to that field is lost, and a bit that the device sets stays set (R7). -/
def State.turn (s : State) (t : Turn) : Out :=
  if !s.mayTurn t then s.noEvent
  else match t with
    | .race sw dev =>
      if !(s.softWrite sw && softField dev) then s.noEvent
      else match s.oneTurn sw with
        | .next x => mapNext (fun y => { y with clk := x.clk }) ({ x with clk := s.clk }.oneTurn (.event dev))
        | o => o
    | _ => s.oneTurn t

/-- The next turn where none is listed: what is due; else the issue of a strand that must; else the issue of the agent that has it, if it
has something to issue and it is its turn; else a clk passes. -/
def State.idleTurn (s : State) : Out :=
  match s.due with
  | d :: _ => mapNext State.tick (d.run s)
  | [] => match (s.pressed <|> s.focus) with
    | some ag => if s.ready ag && !(s.slotFor ag 0).isEmpty then s.issueSlot ag 0 else .next s.tick
    | none => .next s.tick

/-- The next turn: the first that is listed, if one is. -/
def State.nextTurn (s : State) : Out :=
  match s.turns with
  | t :: ts => ({ s with turns := ts } : State).turn t
  | [] => s.idleTurn

/-! ### One instruction at the issue -/

/-- The code address at which a placed instruction's clause stands. -/
def placedCode : Nat := 0x1000

/-- A lane at the first word of the placed clause. -/
def placedLane : Lane :=
  { Lane.init with live := true, pc := placedCode + 8, inClause := true, hdr := placedCode }

/-- A clause of one word, with eight literals of zero. -/
def placedClause (w : W64) : Clause := ⟨placedCode, classOf (w.toNat / 2^56), 0, 7, false, [w], List.replicate 8 0⟩

/-- A kernel of one workgroup that runs the placed clause. -/
def placedKernel : Kernel :=
  ⟨0, 0, 0, none, 0, .running, .running, placedCode, 0x30, 240, [0], some 0, [], 0, 0, 0, 0, (1, 1, 1), 1, 1, 0, [], [], 0, 0, 0, 0,
   [⟨240, 0, 0, true, 8, 1⟩], [], [], [], 1, 1, none, none, 0, 0, 0, []⟩

/-- Its workgroup, on core 0 of die 0. -/
def placedWg (ctl : Bool) : Workgroup := ⟨0, 0, 0, 0, 0, 1, 0, [0], 0, [], [0], ctl, none, false, false, []⟩

/-- Its group: eight threads with the copy role. -/
def placedGroup (w : W64) : Group :=
  ⟨0, 0, 0, 0, 8, 0, 240, [], [], true, 0, placedCode, 0, none, 0, .running, .running, 0, none, none,
   [{ Strand.init 0 0xFF (List.replicate 8 placedLane) with clause := some (placedClause w) }]⟩

/-- Its control thread. -/
def placedCt (w : W64) : CThread :=
  ⟨0, [], { Strand.init 0 1 [placedLane] with clause := some (placedClause w) }, none, false, []⟩

/-- An instruction placed as the next that the issue takes: in the clause buffer of a strand of group 0, or of control thread 0 for the
opcodes that only a control thread issues, of a running kernel of an Active context. Strands that could issue before it, on its core or
as control threads of its quad, and what is due before it are taken away. -/
def State.placeWord (s : State) (w : W64) : State :=
  let opc := w.toNat / 2^56
  let ctl := decide (0xD0 ≤ opc) && decide (opc < 0xD7)
  let s := s.modCtx 0 fun c => { c with st := .active, restoring := false }
  { s with
    turns := []
    focus := some (if ctl then .ctl 0 else .strand 0 0)
    kernels := tabSet s.kernels 0 placedKernel
    wgs := tabSet s.wgs 0 (placedWg ctl)
    groups := tabSet ((s.groups.filter fun x => x.2.core != 0 && x.2.st != .growing).map fun (i, g) =>
      (i, { g with strands := g.strands.map fun u => { u with since := none, chore := none } })) 0 (placedGroup w)
    cts :=
      let cs := s.cts.map fun (i, c) => (i, { c with unit := { c.unit with chore := none } })
      if ctl then tabSet (cs.filter fun x => quadOf (s.coreOf (.ctl x.1)) != 0) 0 (placedCt w) else cs
    sgs := s.sgs.filter fun x => !s.sgDue x.1 x.2 && !s.sgForms x.1 x.2
    rounds := s.rounds.filter fun o => !s.roundDue o
    tiles := s.tiles.filter fun x => !s.tileDue x.2 }

end Sys2Proof.Machine
end

