-- ==== Sys2Proof/Safety.lean ====
section
/-!
DEFINITION. What the statements speak about: a word that issues, the results it has, what a step leaves as it was, and the
invariant of memory.
-/
namespace Sys2Proof.Machine

/-! ### The issue of a word -/

/-- Word `i` issues from `s`: with this environment, from this state (in which the results that are due have landed). None where the
agent in focus may not issue (R44, R52, R130), a field of the word raises a cause (R323), the path stalls (R113), the clause waits on a slot or a register
of the word for a result or a recorded range (R207, R327), a register lies beyond the allotment (R126), its index is none that R455 or R457 lists, or it is
active at some lane and a g destination is not written by every lane of U (R120). -/
def State.issueOf? (s : State) (i : Instr) : Option (Env × State) :=
  match s.focus, formOf? i with
  | some ag, some f =>
    let t := s.landReady ag
    match t.env? ag f.gd f.readsClk with
    | none => none
    | some e =>
      if (f.cause e.ctl e.cl e.lane0.cwi).isNone && !badField i e && e.u.stall.isNone && !t.slotWait e && !t.scoreboardWait e f && !t.rangeWait e f
          && !f.beyond e && !badIndex i && !(f.writesG && e.act != 0 && !e.coversU) then some (e, t) else none
  | _, _ => none

/-- An agent stands at a word: nothing comes before it, and the word at its path's place in the clause it has fetched is `i` (R47, R307,
R311, R434). -/
def State.standsAt (s : State) (ag : Agent) (u : Strand) (i : Instr) : Prop :=
  ∃ w k k0 ks cl, s.mayIssue ag = some (u, w, k) ∧ s.dueResidue ag = none ∧ s.trapDue ag u = false ∧ lanesOf u.path = k0 :: ks ∧
    (u.lane k0).inClause = true ∧ u.clause = some cl ∧ cl.hdr = (u.lane k0).hdr ∧ decode (nth cl.words (u.lane k0).cwi 0) = .ok i

/-- The end of an issue from `s` by an agent whose strand was `u` (R110): what the next issues are ordered by, and the end of its clk, in which
other strands may have to issue too. -/
def State.afterIssue (s : State) (ag : Agent) (u : Strand) (x : State) : State :=
  ({ x.modUnit ag (u.issuedAt ag s.clk) with clk := s.clk } : State).endClk

/-- A source as a word. -/
def Env.w (e : Env) (a : Src) (l : Nat) : W32 := lo32 (e.src .i32 a l)

/-- A source as a double word. -/
def Env.d (e : Env) (a : Src) (l : Nat) : W64 := e.src .i64 a l

/-- A word as the value of a 32-bit result. -/
def ofW (x : W32) : W64 := x.setWidth 64

/-- Whenever word `i` issues, it goes on to a next state in which each active lane has the outcome `f`. -/
def LaneResults (i : Instr) (f : Env → Nat → LaneOut) : Prop :=
  ∀ s e t, s.issueOf? i = some (e, t) → exec i s = .next (t.finish e ((lanesOf e.act).map (f e)))

/-- Whenever word `i` issues, each active lane's destination receives `v`. -/
def RegResults (i : Instr) (d : Dst) (ty : Ty) (v : Env → Nat → W64) : Prop := LaneResults i fun e l => .reg l d ty (v e l)

/-- The lanes at which the next checked multiplication of a context meets a residue mismatch (R305). -/
def State.upsetLanes (s : State) (e : Env) : BitVec 8 := if (s.ctx e.cx).res then s.upset &&& e.act else 0

/-- Whenever a checked word `i` issues and meets no residue mismatch, each active lane's destination receives `v`. -/
def MulResults (i : Instr) (d : Dst) (ty : Ty) (v : Env → Nat → W64) : Prop :=
  ∀ s e t, s.issueOf? i = some (e, t) → t.upsetLanes e = 0 →
    exec i s = .next (({ t with upset := 0 } : State).finish e ((lanesOf e.act).map fun l => .reg l d ty (v e l)))

/-- A saturation counter of a context on the issuing core, raised by `n`; it stays at its largest value (R291). -/
def State.addSat (s : State) (e : Env) (k n : Nat) : State :=
  let v := BitVec.ofNat 32 (min ((s.satCount e.cx e.core k).toNat + n) (2^32 - 1))
  s.modCtx e.cx fun c => { c with satcnt := tabSet c.satcnt (16 * e.core + k) v }

/-- Counter `k`, raised by `n`, passes its threshold (R292). -/
def State.crosses (s : State) (e : Env) (k n : Nat) : Bool :=
  let old := (s.satCount e.cx e.core k).toNat
  let thr := (nth (s.ctx e.cx).satthr k 0).toNat
  thr != 0 && decide (old < thr) && decide (thr ≤ min (old + n) (2^32 - 1))

/-- The elements counted by a conversion with these lanes (R290, R291, R356): those of every active lane. -/
def countOf (rs : List (LaneOut × Nat)) : Nat := (rs.filter fun r => r.2 != 0).foldl (fun n r => n + r.2) 0

/-- The outcomes of a conversion whose count passes the threshold (R292): the lowest counted lane writes its result and then raises
SATURATION, unless it has a cause already (R46). -/
def saturated (rs : List (LaneOut × Nat)) (outs : List LaneOut) : List LaneOut :=
  match rs.filter fun r => r.2 != 0 with
  | [] => outs
  | r :: _ => outs.map fun o => if o.lane == r.1.lane && o.cause.isNone then { o with cause := some (.saturation, 0, 0), late := true } else o

/-- Whenever a conversion issues, each active lane has the outcome of `f`, and the counter it names, if any, rises by the elements
counted; where the counter passes its threshold the lowest counted lane raises SATURATION after all results are written. -/
def ConvResults (i : Instr) (cnt : Option Nat) (f : Env → Nat → LaneOut × Nat) : Prop :=
  ∀ s e t, s.issueOf? i = some (e, t) →
    let rs := (lanesOf e.act).map (f e)
    let outs := gResolve (rs.map Prod.fst)
    match cnt with
    | none => exec i s = .next (t.finish e outs)
    | some k => exec i s = .next ((t.addSat e k (countOf rs)).finish e (if t.crosses e k (countOf rs) then saturated rs outs else outs))

/-- The stores of the agent have been performed (R191), and its kernel has not ended with the agent gone: the state in which a word that
waits for them does its work. -/
def State.clear? (s : State) (e : Env) : Option State :=
  let t := s.drain e.ag
  match t.kernel? e.kid with
  | none => none
  | some kn => if kn.ending.isSome && (t.unit? e.ag).any (fun u => !u.live) then none else if t.drained e.ag then some t else none

/-- Word `i` issues from `s`, and nothing of its agent is left to be performed before it. -/
def State.clearOf? (s : State) (i : Instr) : Option (Env × State) :=
  (s.issueOf? i).bind fun x => (x.2.clear? x.1).map fun t => (x.1, t)

/-- Some lane is active, and the active lanes agree on the operands of a word (R119). -/
def Env.agree (e : Env) (vals : Nat → List W64) : Prop := e.act ≠ 0 ∧ ∀ l, inMask e.act l = true → vals l = vals e.low

/-- The state in which stores are made: at once where all of them enter the store queue (R191), else after the agent's earlier stores. -/
def State.storable? (s : State) (e : Env) (ws : List (Spot × List Byte)) : Option State :=
  if ws.all fun w => w.1.queued then some s else s.clear? e

/-- Every access of the lanes that the word has still to serve passes its checks (R399) and none has to wait: the accesses, and the
state. -/
def State.spots? (s : State) (e : Env) (tlbs : List Nat) (need : Need) (use : BlockUse) (plans : List (Nat × List Plan)) :
    Option (List (Nat × List Spot) × State) :=
  match s.locateLanes e tlbs need use (e.todo plans) with
  | ((good, []), t) => if t.waiting e need good = [] then some (good, t) else none
  | _ => none

/-- The accesses of a load are made, and each lane has its outcome, a lane that the word served before it waited too (R233). -/
def State.loaded (s : State) (e : Env) (pre : List LaneOut) (f : Nat → List (List Byte) → LaneOut) (good : List (Nat × List Spot)) : State :=
  (s.readLanes e good).2.finish e (pre ++ (lanesServed e.u.part (s.readLanes e good).1).map fun x => f x.1 x.2) true

/-- What each access of a store writes. -/
def writesOf (good : List (Nat × List Spot)) (data : Nat → List (List Byte)) : List (Spot × List Byte) :=
  good.flatMap fun x => x.2.zip (data x.1)

/-- The accesses of a store are made. -/
def State.stored (s : State) (e : Env) (pre : List LaneOut) (good : List (Nat × List Spot)) (data : Nat → List (List Byte)) : State :=
  (s.makeStores e (writesOf good data)).finish e
    (pre ++ (lanesServed e.u.part (good.map fun x => (x.1, []))).map fun x => .ok x.1 [] 0)

/-- The record of a uniform shape handle (R406): one that is not kept yet is read from memory, after the agent's stores and with no write of
its own on the way to its home. -/
def State.shape? (s : State) (e : Env) (h : Src) : Option (ShapeRec × State) :=
  let hv := (e.w h e.low).toNat
  let t := if s.recordKept e hv then some s else (s.clear? e).bind fun t => if t.recordHeld e hv then none else some t
  t.bind fun t =>
    match t.record e.kid e.cx e.core hv shapeOf with
    | (.ok r, t) => some (r, t)
    | _ => none

/-- What a copy-class word with destination handle register `d` finds of its source: the record, the coordinates, and the state in which
it is carried out (R443, R444). None where the group has no copy role, the record or a register cannot be had, or earlier stores
remain. -/
def State.copySource? (s : State) (e : Env) (h x d : Nat) : Option (ShapeRec × List Int × State) :=
  if e.act = 0 || !e.grp.copyRole then none
  else (s.clear? e).bind fun u =>
    if u.recordHeld e (e.greg h).toNat || u.recordHeld e (e.greg d).toNat then none
    else match u.engineRec e (e.greg h).toNat shapeOf with
    | (.ok r, t) =>
      if 63 < x + r.rank - 1 || t.gregsWait e x r.rank then none
      else some (r, (List.range r.rank).map fun d => sgn 32 (e.greg (x + d)).toNat, t)
    | _ => none

/-- No source element of a copy raises a cause (R444). -/
def State.sourcesGood (s : State) (e : Env) (r : ShapeRec) (xs : List Int) : Prop := ∀ a ∈ sources r xs, s.sourceCheck e a r.size = []

/-- The ranges that a window copy records are free: no source element lies in one, none meets a recorded range, and each can be
recorded (R206, R207, R444). -/
def State.rangesGood (s : State) (e : Env) (r : ShapeRec) (xs : List Int) (rs : List (Nat × Nat × Nat)) : Prop :=
  (∀ a ∈ sources r xs, ∀ c lo hi, s.sourceStore e a r.size = some (c, lo, hi) → ∀ x ∈ rs, ¬(c = x.1 ∧ lo < x.2.2 ∧ x.2.1 < hi)) ∧
  ∀ x ∈ rs, s.rangeHit x.1 x.2.1 x.2.2 = false ∧ s.rangesFull x.1 = false

/-- The ranges of one copy are held against each other as against recorded ones: on one core none overlaps an earlier one, and all of
them can be recorded (R206). -/
def State.rangesApart (s : State) (rs : List (Nat × Nat × Nat)) : Prop :=
  ∀ i x, rs[i]? = some x → (∀ y ∈ rs.take i, y.1 = x.1 → ¬(x.2.1 < y.2.2 ∧ y.2.1 < x.2.2)) ∧
    (s.ranges.filter fun r => r.core == x.1 && !r.saved).length + ((rs.take i).filter fun y => y.1 == x.1).length < 64

/-! ### What a word's results are written to -/

/-- The words of a register window of width `w` that a result of lane `l` of strand `k` is written to (R126, R316). -/
def Res.words (w k l : Nat) : Res → List Nat
  | .d32 (.reg n) _ => [n * w + (8 * k + l)]
  | .d64 (.reg n) _ => [n * w + (8 * k + l), (n + 1) * w + (8 * k + l)]
  | _ => []

/-- The g registers that a result is written to (R120). -/
def Res.gregs : Res → List Nat
  | .d32 (.g n) _ => [n]
  | .d64 (.g n) _ => [n, n + 1]
  | _ => []

/-- The c registers that a result of a control thread is written to (R341). -/
def Res.cregs : Res → List Nat
  | .d32 (.reg n) _ => [n]
  | .d64 (.reg n) _ => [n]
  | .p n _ => [n]
  | _ => []

/-- The predicates that a result is written to (R342). -/
def Res.preds : Res → List Nat
  | .p n _ => [n]
  | _ => []

/-- Byte `a` is one that a store request stores. -/
def QStore.covers (q : QStore) (a : Nat) : Prop := ∃ p ∈ q.parts, p.addr ≤ a ∧ a < p.addr + p.bytes.length

end Sys2Proof.Machine
end

