-- ==== Sys2Proof/Certificates/Slice0/Obligations.lean ====
section
/-!
DEFINITION. The statements for the provers.
-/
open Sys2Proof Sys2Proof.Machine

/-! ### Integer words (R345 to R348) -/

/-- R345: the 32-bit integer words with one sum, difference, minimum or sign change. -/
def Obligations.IntegerSumWordsGiveTheirResults : Prop :=
  (∀ gd d a b, RegResults (.iadd gd d a b .wrap) d .i32 fun e l => ofW (e.w a l + e.w b l)) ∧
  (∀ gd d a b, RegResults (.iadd gd d a b .ssat) d .i32 fun e l =>
    ofW (if (e.w a l).saddOverflow (e.w b l) then (if (e.w a l).msb then .intMin 32 else .intMax 32) else e.w a l + e.w b l)) ∧
  (∀ gd d a b, RegResults (.iadd gd d a b .usat) d .i32 fun e l =>
    ofW (if (e.w a l).uaddOverflow (e.w b l) then .allOnes 32 else e.w a l + e.w b l)) ∧
  (∀ gd d a b, RegResults (.isub gd d a b .wrap) d .i32 fun e l => ofW (e.w a l - e.w b l)) ∧
  (∀ gd d a b, RegResults (.isub gd d a b .ssat) d .i32 fun e l =>
    ofW (if (e.w a l).ssubOverflow (e.w b l) then (if (e.w a l).msb then .intMin 32 else .intMax 32) else e.w a l - e.w b l)) ∧
  (∀ gd d a b, RegResults (.isub gd d a b .usat) d .i32 fun e l =>
    ofW (if (e.w a l).ult (e.w b l) then 0 else e.w a l - e.w b l)) ∧
  (∀ gd d a b u, RegResults (.imin gd d a b u) d .i32 fun e l =>
    ofW (if (if u then (e.w a l).ult (e.w b l) else (e.w a l).slt (e.w b l)) then e.w a l else e.w b l)) ∧
  (∀ gd d a b u, RegResults (.imax gd d a b u) d .i32 fun e l =>
    ofW (if (if u then (e.w a l).ult (e.w b l) else (e.w a l).slt (e.w b l)) then e.w b l else e.w a l)) ∧
  (∀ gd d a sat, RegResults (.iabs gd d a sat) d .i32 fun e l =>
    ofW (if sat && e.w a l == .intMin 32 then .intMax 32 else (e.w a l).abs)) ∧
  (∀ gd d a sat, RegResults (.ineg gd d a sat) d .i32 fun e l =>
    ofW (if sat && e.w a l == .intMin 32 then .intMax 32 else -(e.w a l)))

/-- R345: moves, logic, shifts, bit fields and counts. -/
def Obligations.LogicAndShiftWordsGiveTheirResults : Prop :=
  (∀ gd, LaneResults (.nop gd) fun _ l => .ok l [] 0) ∧
  (∀ gd d a, RegResults (.mov gd d a false) d .i32 fun e l => ofW (e.w a l)) ∧
  (∀ gd d a, RegResults (.mov gd d a true) d .i64 fun e l => e.d a l) ∧
  (∀ gd d a b, RegResults (.iand gd d a b) d .i32 fun e l => ofW (e.w a l &&& e.w b l)) ∧
  (∀ gd d a b, RegResults (.ior gd d a b) d .i32 fun e l => ofW (e.w a l ||| e.w b l)) ∧
  (∀ gd d a b, RegResults (.ixor gd d a b) d .i32 fun e l => ofW (e.w a l ^^^ e.w b l)) ∧
  (∀ gd d a b, RegResults (.iandn gd d a b) d .i32 fun e l => ofW (e.w a l &&& ~~~(e.w b l))) ∧
  (∀ gd d a, RegResults (.inot gd d a) d .i32 fun e l => ofW (~~~(e.w a l))) ∧
  (∀ gd d a b, RegResults (.shl gd d a b) d .i32 fun e l => ofW (e.w a l <<< (e.w b l).toNat)) ∧
  (∀ gd d a b, RegResults (.shr gd d a b) d .i32 fun e l => ofW (e.w a l >>> (e.w b l).toNat)) ∧
  (∀ gd d a b, RegResults (.sar gd d a b) d .i32 fun e l => ofW ((e.w a l).sshiftRight (e.w b l).toNat)) ∧
  (∀ gd d a b, RegResults (.rotl gd d a b) d .i32 fun e l => ofW ((e.w a l).rotateLeft ((e.w b l).toNat % 32))) ∧
  (∀ gd d a b, RegResults (.bfe gd d a b false) d .i32 fun e l =>
    ofW ((e.w a l >>> bits (e.w b l).toNat 7 0) &&& BitVec.ofNat 32 (2^(min (bits (e.w b l).toNat 15 8) 32) - 1))) ∧
  (∀ gd d a b, RegResults (.bfe gd d a b true) d .i32 fun e l =>
    ofW ((((e.w a l).sshiftRight (bits (e.w b l).toNat 7 0)) <<< (32 - min (bits (e.w b l).toNat 15 8) 32)).sshiftRight
      (32 - min (bits (e.w b l).toNat 15 8) 32))) ∧
  (∀ gd d a b c, RegResults (.bfi gd d a b c) d .i32 fun e l =>
    let pos := bits (e.w c l).toNat 7 0
    let m := BitVec.ofNat 32 (2^(min (bits (e.w c l).toNat 15 8) 32) - 1) <<< pos
    ofW ((e.w b l &&& ~~~m) ||| ((e.w a l <<< pos) &&& m))) ∧
  (∀ gd d a, RegResults (.popc gd d a) d .i32 fun e l =>
    BitVec.ofNat 64 ((List.range 32).filter fun k => (e.w a l).getLsbD k).length) ∧
  (∀ gd d a, RegResults (.clz gd d a) d .i32 fun e l => ofW (e.w a l).clz) ∧
  (∀ gd d a, RegResults (.ctz gd d a) d .i32 fun e l => ofW (e.w a l).ctz) ∧
  (∀ gd d a, RegResults (.brev gd d a) d .i32 fun e l => ofW (e.w a l).reverse)

/-- R346, R347: division, compares, selects and the 64-bit words. -/
def Obligations.DivisionAndWideWordsGiveTheirResults : Prop :=
  (∀ gd d a b, RegResults (.idiv gd d a b false false) d .i32 fun e l =>
    ofW (if e.w b l = 0 then .allOnes 32 else (e.w a l).sdiv (e.w b l))) ∧
  (∀ gd d a b, RegResults (.idiv gd d a b false true) d .i32 fun e l =>
    ofW (if e.w b l = 0 then .allOnes 32 else e.w a l / e.w b l)) ∧
  (∀ gd d a b, RegResults (.idiv gd d a b true false) d .i64 fun e l =>
    if e.d b l = 0 then .allOnes 64 else (e.d a l).sdiv (e.d b l)) ∧
  (∀ gd d a b, RegResults (.idiv gd d a b true true) d .i64 fun e l =>
    if e.d b l = 0 then .allOnes 64 else e.d a l / e.d b l) ∧
  (∀ gd d a b, RegResults (.irem gd d a b false false) d .i32 fun e l => ofW ((e.w a l).srem (e.w b l))) ∧
  (∀ gd d a b, RegResults (.irem gd d a b false true) d .i32 fun e l => ofW (e.w a l % e.w b l)) ∧
  (∀ gd d a b, RegResults (.irem gd d a b true false) d .i64 fun e l => (e.d a l).srem (e.d b l)) ∧
  (∀ gd d a b, RegResults (.irem gd d a b true true) d .i64 fun e l => e.d a l % e.d b l) ∧
  (∀ gd d a b p w, RegResults (.sel gd d a b p w) d (wide w) fun e l =>
    if e.psrc p l then e.src (wide w) a l else e.src (wide w) b l) ∧
  (∀ gd d a b, RegResults (.iadd64 gd d a b false) d .i64 fun e l => e.d a l + e.d b l) ∧
  (∀ gd d a b, RegResults (.iadd64 gd d a b true) d .i64 fun e l => e.d a l - e.d b l) ∧
  (∀ gd d a b, RegResults (.shf64 gd d a b .left) d .i64 fun e l => e.d a l <<< (e.w b l).toNat) ∧
  (∀ gd d a b, RegResults (.shf64 gd d a b .lr) d .i64 fun e l => e.d a l >>> (e.w b l).toNat) ∧
  (∀ gd d a b, RegResults (.shf64 gd d a b .ar) d .i64 fun e l => (e.d a l).sshiftRight (e.w b l).toNat) ∧
  (∀ gd d a b, RegResults (.shf64 gd d a b .rot) d .i64 fun e l => (e.d a l).rotateLeft ((e.w b l).toNat % 64)) ∧
  (∀ gd d a b u sh, RegResults (.lea gd d a b u sh) d .i64 fun e l =>
    e.d a l + ((if u then ofW (e.w b l) else (e.w b l).signExtend 64) <<< sh)) ∧
  (∀ gd d a w, RegResults (.ext gd d a w false .w8) d (wide w) fun e l => ((e.w a l).setWidth 8).setWidth 64) ∧
  (∀ gd d a w, RegResults (.ext gd d a w true .w8) d (wide w) fun e l => ((e.w a l).setWidth 8).signExtend 64) ∧
  (∀ gd d a w, RegResults (.ext gd d a w false .w16) d (wide w) fun e l => ((e.w a l).setWidth 16).setWidth 64) ∧
  (∀ gd d a w, RegResults (.ext gd d a w true .w16) d (wide w) fun e l => ((e.w a l).setWidth 16).signExtend 64) ∧
  (∀ gd d a w, RegResults (.ext gd d a w false .w32) d (wide w) fun e l => (e.w a l).setWidth 64) ∧
  (∀ gd d a w, RegResults (.ext gd d a w true .w32) d (wide w) fun e l => (e.w a l).signExtend 64)

/-- The condition of `icmp` on words (R344, R347). -/
def holdsOn {n : Nat} (c : ICond) (u : Bool) (x y : BitVec n) : Bool :=
  match c with
  | .eq => x == y
  | .ne => x != y
  | .lt => if u then x.ult y else x.slt y
  | .le => if u then x.ule y else x.sle y
  | .gt => if u then y.ult x else y.slt x
  | .ge => if u then y.ule x else y.sle x

/-- R347, R348: `icmp` and the words with a carry, byte merges and truth tables. -/
def Obligations.CompareCarryAndTableWordsGiveTheirResults : Prop :=
  (∀ gd p a b u c, LaneResults (.icmp gd p a b false u c) fun e l => .pd l p (holdsOn c u (e.w a l) (e.w b l))) ∧
  (∀ gd p a b u c, LaneResults (.icmp gd p a b true u c) fun e l => .pd l p (holdsOn c u (e.d a l) (e.d b l))) ∧
  (∀ gd d a b p, LaneResults (.iaddc gd d a b p) fun e l =>
    let x := e.w a l + e.w b l + (if e.psrc p l then 1 else 0)
    .ok l [.d32 d x, .p p (decide (2^32 ≤ (e.w a l).toNat + (e.w b l).toNat + (if e.psrc p l then 1 else 0)))] (ofW x)) ∧
  (∀ gd d a b p, LaneResults (.isubb gd d a b p) fun e l =>
    let x := e.w a l - e.w b l - (if e.psrc p l then 1 else 0)
    .ok l [.d32 d x, .p p (decide ((e.w a l).toNat < (e.w b l).toNat + (if e.psrc p l then 1 else 0)))] (ofW x)) ∧
  (∀ gd d a b c t, ∃ v : Env → Nat → W32, RegResults (.lop3 gd d a b c t) d .i32 (fun e l => ofW (v e l)) ∧
    ∀ (e : Env) (l k : Nat), k < 32 → (v e l).getLsbD k
      = bitAt t (4 * bit ((e.w a l).getLsbD k) + 2 * bit ((e.w b l).getLsbD k) + bit ((e.w c l).getLsbD k))) ∧
  (∀ gd d a b c sw, ∃ v : Env → Nat → W32, RegResults (.bmrg gd d a b c sw) d .i32 (fun e l => ofW (v e l)) ∧
    ∀ (e : Env) (l k : Nat), k < 4 →
      let y : W64 := if sw then cat32 (e.w a l) (e.w b l) else cat32 (e.w b l) (e.w a l)
      let f := ((e.w c l) >>> (8 * k)).toNat
      let z0 : Byte := (y >>> (8 * (f % 8))).setWidth 8
      let z1 := if bitAt f 3 then z0.reverse else z0
      let z := if bitAt f 4 then ~~~z1 else z1
      ((v e l) >>> (8 * k)).setWidth 8 = match f / 32 % 4 with
        | 0 => z
        | 1 => 0
        | 2 => 255
        | _ => if z.getLsbD 0 then 255 else 0)

/-- R305, R345, R347, R348: the integer multiplications, where no residue mismatch is met. -/
def Obligations.IntegerMultiplicationsGiveTheirResults : Prop :=
  (∀ gd d a b, MulResults (.imul gd d a b) d .i32 fun e l => ofW (e.w a l * e.w b l)) ∧
  (∀ gd d a b, MulResults (.imulh gd d a b false) d .i32 fun e l =>
    ((e.w a l).signExtend 64 * (e.w b l).signExtend 64) >>> 32) ∧
  (∀ gd d a b, MulResults (.imulh gd d a b true) d .i32 fun e l => (ofW (e.w a l) * ofW (e.w b l)) >>> 32) ∧
  (∀ gd d a b c, MulResults (.imad gd d a b c) d .i32 fun e l => ofW (e.w a l * e.w b l + e.w c l)) ∧
  (∀ gd d a b c, MulResults (.imad64 gd d a b c false) d .i64 fun e l =>
    (e.w a l).signExtend 64 * (e.w b l).signExtend 64 + e.d c l) ∧
  (∀ gd d a b c, MulResults (.imad64 gd d a b c true) d .i64 fun e l => ofW (e.w a l) * ofW (e.w b l) + e.d c l) ∧
  (∀ gd d a b c ub ua, MulResults (.dot4 gd d a b c ub ua) d .i32 fun e l =>
    let byte := fun (u : Bool) (x : W32) (k : Nat) =>
      let y : Byte := (x >>> (8 * k)).setWidth 8
      if u then y.setWidth 32 else y.signExtend 32
    ofW (e.w c l + byte ua (e.w a l) 0 * byte ub (e.w b l) 0 + byte ua (e.w a l) 1 * byte ub (e.w b l) 1
      + byte ua (e.w a l) 2 * byte ub (e.w b l) 2 + byte ua (e.w a l) 3 * byte ub (e.w b l) 3))

/-! ### Floating-point words (R349 to R354) and the generator -/

/-- R350 to R354: the FP32 words with one exact operation and one rounding, the compares, and the special functions. That the exact results of frsq,
fsinpi, fcospi, fexp2, flog2 and ftanh are computed with 200 fraction bits is the model's reading (notes/assumptions/8). -/
def Obligations.SingleWordsRoundExactResultsOnce : Prop :=
  (∀ gd d a b sat rm, RegResults (.fadd gd d a b sat rm) d .i32 fun e l =>
    code (Fmt.f32.pack rm sat (Fp.sum (rm == .rd) [e.fp .f32 .f32 a l, e.fp .f32 .f32 b l]))) ∧
  (∀ gd d a b sat rm, RegResults (.fsub gd d a b sat rm) d .i32 fun e l =>
    code (Fmt.f32.pack rm sat (Fp.sum (rm == .rd) [e.fp .f32 .f32 a l, (e.fp .f32 .f32 b l).neg]))) ∧
  (∀ gd d a b sat rm, MulResults (.fmul gd d a b sat rm) d .i32 fun e l =>
    code (Fmt.f32.pack rm sat ((e.fp .f32 .f32 a l).mul (e.fp .f32 .f32 b l)))) ∧
  (∀ gd d a b c sat rm, MulResults (.ffma gd d a b c sat rm) d .i32 fun e l =>
    code (Fmt.f32.pack rm sat (Fp.sum (rm == .rd) [(e.fp .f32 .f32 a l).mul (e.fp .f32 .f32 b l), e.fp .f32 .f32 c l]))) ∧
  (∀ gd d a b, RegResults (.fmin gd d a b) d .i32 fun e l => code (Fmt.f32.extreme false (e.n .f32 a l) (e.n .f32 b l))) ∧
  (∀ gd d a b, RegResults (.fmax gd d a b) d .i32 fun e l => code (Fmt.f32.extreme true (e.n .f32 a l) (e.n .f32 b l))) ∧
  (∀ gd p a b c, LaneResults (.fcmp gd p a b c) fun e l => .pd l p (Fmt.f32.cmp c (e.n .f32 a l) (e.n .f32 b l))) ∧
  (∀ gd p a b, LaneResults (.fclass gd p a b false) fun e l => .pd l p ((e.w b l).getLsbD (Fmt.f32.cls (e.n .f32 a l)))) ∧
  (∀ gd p a b, LaneResults (.fclass gd p a b true) fun e l => .pd l p ((e.w b l).getLsbD (Fmt.f64.cls (e.n .f64 a l)))) ∧
  (∀ gd d a sat rm, RegResults (.frcp gd d a sat rm) d .i32 fun e l => code (Fmt.f32.pack rm sat (e.fp .f32 .f32 a l).recip)) ∧
  (∀ gd d a rm, RegResults (.fsqrt gd d a rm) d .i32 fun e l => code (Fmt.f32.pack rm false (e.fp .f32 .f32 a l).sqrt)) ∧
  (∀ gd d a rm, RegResults (.frnd gd d a rm) d .i32 fun e l => code (frndVal rm (e.fp .f32 .f32 a l))) ∧
  (∀ gd d a b c bf sat rm, MulResults (.fdot2 gd d a b c bf sat rm) d .i32 fun e l =>
    code (Fmt.f32.pack rm sat (Fp.sum (rm == .rd)
      [(e.hv bf a 0 l).mul (e.hv bf b 0 l), (e.hv bf a 1 l).mul (e.hv bf b 1 l), e.fp .f32 .f32 c l]))) ∧
  (∀ gd d a, RegResults (.frsq gd d a) d .i32 fun e l => code (Fmt.f32.pack .rn false (e.fp .f32 .f32 a l).rsqrt)) ∧
  (∀ gd d a, RegResults (.fsinpi gd d a) d .i32 fun e l => code (Fmt.f32.pack .rn false (e.fp .f32 .f32 a l).sinpi)) ∧
  (∀ gd d a, RegResults (.fcospi gd d a) d .i32 fun e l => code (Fmt.f32.pack .rn false (e.fp .f32 .f32 a l).cospi)) ∧
  (∀ gd d a, RegResults (.fexp2 gd d a) d .i32 fun e l => code (Fmt.f32.pack .rn false (e.fp .f32 .f32 a l).exp2)) ∧
  (∀ gd d a, RegResults (.flog2 gd d a) d .i32 fun e l => code (Fmt.f32.pack .rn false (e.fp .f32 .f32 a l).log2)) ∧
  (∀ gd d a, RegResults (.ftanh gd d a) d .i32 fun e l => code (Fmt.f32.pack .rn false (e.fp .f32 .f32 a l).tanh))

/-- R350 to R354: the FP64 words and the words on packed halves, element by element. -/
def Obligations.DoubleAndHalfWordsRoundExactResultsOnce : Prop :=
  (∀ gd d a b sat rm, RegResults (.dadd gd d a b false sat rm) d .i64 fun e l =>
    code (Fmt.f64.pack rm sat (Fp.sum (rm == .rd) [e.fp .f64 .f64 a l, e.fp .f64 .f64 b l]))) ∧
  (∀ gd d a b sat rm, RegResults (.dadd gd d a b true sat rm) d .i64 fun e l =>
    code (Fmt.f64.pack rm sat (Fp.sum (rm == .rd) [e.fp .f64 .f64 a l, (e.fp .f64 .f64 b l).neg]))) ∧
  (∀ gd d a b sat rm, MulResults (.dmul gd d a b sat rm) d .i64 fun e l =>
    code (Fmt.f64.pack rm sat ((e.fp .f64 .f64 a l).mul (e.fp .f64 .f64 b l)))) ∧
  (∀ gd d a b c sat rm, MulResults (.dfma gd d a b c sat rm) d .i64 fun e l =>
    code (Fmt.f64.pack rm sat (Fp.sum (rm == .rd) [(e.fp .f64 .f64 a l).mul (e.fp .f64 .f64 b l), e.fp .f64 .f64 c l]))) ∧
  (∀ gd d a b, RegResults (.dmin gd d a b) d .i64 fun e l => code (Fmt.f64.extreme false (e.n .f64 a l) (e.n .f64 b l))) ∧
  (∀ gd d a b, RegResults (.dmax gd d a b) d .i64 fun e l => code (Fmt.f64.extreme true (e.n .f64 a l) (e.n .f64 b l))) ∧
  (∀ gd p a b c, LaneResults (.dcmp gd p a b c) fun e l => .pd l p (Fmt.f64.cmp c (e.n .f64 a l) (e.n .f64 b l))) ∧
  (∀ gd d a sat rm, RegResults (.drcp gd d a sat rm) d .i64 fun e l => code (Fmt.f64.pack rm sat (e.fp .f64 .f64 a l).recip)) ∧
  (∀ gd d a rm, RegResults (.dsqrt gd d a rm) d .i64 fun e l => code (Fmt.f64.pack rm false (e.fp .f64 .f64 a l).sqrt)) ∧
  (∀ gd d a b bf sat rm, RegResults (.hadd2 gd d a b bf sat rm) d .i32 fun e l =>
    both fun k => (half bf).pack rm sat (Fp.sum (rm == .rd) [e.hv bf a k l, e.hv bf b k l])) ∧
  (∀ gd d a b bf sat rm, MulResults (.hmul2 gd d a b bf sat rm) d .i32 fun e l =>
    both fun k => (half bf).pack rm sat ((e.hv bf a k l).mul (e.hv bf b k l))) ∧
  (∀ gd d a b c bf sat rm, MulResults (.hfma2 gd d a b c bf sat rm) d .i32 fun e l =>
    both fun k => (half bf).pack rm sat (Fp.sum (rm == .rd) [(e.hv bf a k l).mul (e.hv bf b k l), e.hv bf c k l])) ∧
  (∀ gd d a b bf, RegResults (.hmin2 gd d a b bf) d .i32 fun e l =>
    both fun k => (half bf).extreme false (e.half bf a k l) (e.half bf b k l)) ∧
  (∀ gd d a b bf, RegResults (.hmax2 gd d a b bf) d .i32 fun e l =>
    both fun k => (half bf).extreme true (e.half bf a k l) (e.half bf b k l)) ∧
  (∀ gd p a b bf c, LaneResults (.hcmp2 gd p a b bf c) fun e l =>
    let h := fun k => (half bf).cmp c (e.half bf a k l) (e.half bf b k l)
    .ok l [.p p (h 0), .p (p + 1) (h 1)] (BitVec.ofNat 64 ((if h 0 then 1 else 0) + (if h 1 then 2 else 0))))

/-- R355, R356, R358: the conversions give their results, and count the elements beyond the target's range. -/
def Obligations.ConversionWordsGiveTheirResults : Prop :=
  (∀ gd d a cnt src sat rm, ConvResults (.cvtf gd d a cnt src sat rm) cnt fun e l =>
    convLane rm (if src = .f64 then toFmt .f32 rm sat else toFmtExact .f32 rm sat) d .i32 single e l [cvtfVal src e a l]) ∧
  (∀ gd d a cnt tgt sat rm, ConvResults (.cvti gd d a cnt tgt false sat rm) cnt fun e l =>
    convLane rm (cvtiTarget tgt rm) d tgt.ty single e l [e.fp .f32 .f32 a l]) ∧
  (∀ gd d a cnt tgt sat rm, ConvResults (.cvti gd d a cnt tgt true sat rm) cnt fun e l =>
    convLane rm (cvtiTarget tgt rm) d tgt.ty single e l [e.fp .f64 .f64 a l]) ∧
  (∀ gd d a src rm, ConvResults (.cvtd gd d a src rm) none fun e l =>
    convLane rm (toFmtExact .f64 rm false) d .i64 single e l [cvtdVal src e a l]) ∧
  (∀ gd d a b cnt bf sat rm, ConvResults (.pk16 gd d a b cnt bf sat rm) cnt fun e l =>
    convLane rm (toFmt (half bf) rm sat) d .i32 (packed 16) e l [e.fp .f32 .f32 a l, e.fp .f32 .f32 b l]) ∧
  (∀ gd d a b bf, RegResults (.unpk16 gd d a b bf) d .i32 fun e l =>
    code (Fmt.f32.pack .rn false (e.hv bf a (if (e.w b.src l).getLsbD 0 then 1 else 0) l))) ∧
  (∀ gd d a b cnt tgt x1 sat rm, ConvResults (.cvt8 gd d a b cnt tgt x1 sat rm) cnt fun e l =>
    convLane rm (cvt8Target tgt rm sat) d .i32 (packed 8) e l (fourOf x1 e a b l)) ∧
  (∀ gd d a b src, RegResults (.unpk8 gd d a b src) d .i32 fun e l =>
    code (unpack8 src (e.n .i32 a l / 256^(e.n .i32 b.src l % 4) % 256))) ∧
  (∀ gd d a b cnt x1 sat rm, ConvResults (.cvt4 gd d a b cnt x1 sat rm) cnt fun e l =>
    convLane rm (toFmt .e2m1 rm sat) d .i32 (packed 4) e l (fourOf x1 e a b l)) ∧
  (∀ gd d a b, RegResults (.unpk4 gd d a b) d .i32 fun e l =>
    code (Fmt.f32.pack .rn false (Fmt.e2m1.unpack (e.n .i32 a l / 16^(e.n .i32 b.src l % 8) % 16)))) ∧
  (∀ gd d a r cnt fmt b1 sat rm, ConvResults (.mxsc gd d a r cnt fmt b1 sat rm) cnt (mxscLane d a r fmt b1 sat rm))

/-- R296: the generator words. -/
def Obligations.GeneratorWordsFollowTheirStep : Prop :=
  let step := fun (x : W32) =>
    let y := x ^^^ (x <<< 13)
    let z := y ^^^ (y >>> 17)
    z ^^^ (z <<< 5)
  (∀ gd d, LaneResults (.rnd gd d) fun e l =>
    { LaneOut.reg l d .i32 (ofW (step (e.u.lane l).gen)) with gen := some (step (e.u.lane l).gen) }) ∧
  (∀ gd a, LaneResults (.rseed gd a) fun e l =>
    let i := e.wg.idx * e.kern.threads + e.grp.v3base + 8 * e.k + l
    let x := e.w a l ^^^ BitVec.ofNat 32 (0x9E3779B9 * (i + 1))
    { LaneOut.ok l [] 0 with gen := some (if x = 0 then 1 else x) }) ∧
  (∀ x, x ≠ 0 → step x ≠ 0) ∧
  (∀ gd d s e t, s.issueOf? (.rnd gd d) = some (e, t) → ∀ u, exec (.rnd gd d) s = .next u → ∀ v, u.unit? e.ag = some v →
    (∀ l, inMask e.act l = true → (v.lane l).gen = step (e.u.lane l).gen) ∧
    ∀ l, inMask e.act l = false → (v.lane l).gen = (e.u.lane l).gen)

/-- R40, R291, R292, R361: the query of a saturation counter; a count that crosses its threshold parks the lowest counted lane with SATURATION
after all results are written; thresholds of zero. -/
def Obligations.SaturationCountersTrapAtTheirThreshold : Prop :=
  (∀ cx k, k < 16 → nth (State.reset.ctx cx).satthr k 1 = 0) ∧
  (∀ gd d a src sat rm k s e t, s.issueOf? (.cvtf gd d a (some k) src sat rm) = some (e, t) → nth (t.ctx e.cx).satthr k 0 = 0 →
    let rs := (lanesOf e.act).map fun l =>
      convLane rm (if src = .f64 then toFmt .f32 rm sat else toFmtExact .f32 rm sat) d .i32 single e l [cvtfVal src e a l]
    exec (.cvtf gd d a (some k) src sat rm) s = .next ((t.addSat e k (countOf rs)).finish e (gResolve (rs.map Prod.fst)))) ∧
  (∀ gd d a src sat rm k s e t, s.issueOf? (.cvtf gd d a (some k) src sat rm) = some (e, t) →
    let rs := (lanesOf e.act).map fun l =>
      convLane rm (if src = .f64 then toFmt .f32 rm sat else toFmtExact .f32 rm sat) d .i32 single e l [cvtfVal src e a l]
    t.crosses e k (countOf rs) = true → ∃ r ∈ rs, r.2 ≠ 0 ∧ (∀ q ∈ rs, q.2 ≠ 0 → r.1.lane ≤ q.1.lane) ∧
      exec (.cvtf gd d a (some k) src sat rm) s = .next ((t.addSat e k (countOf rs)).finish e ((gResolve (rs.map Prod.fst)).map fun o =>
        if o.lane == r.1.lane && o.cause.isNone then { o with cause := some (.saturation, 0, 0), late := true } else o))) ∧
  (∀ (l : Lane) (o : LaneOut) next, o.cause = some (.saturation, 0, 0) → o.late = true →
    let m := l.after (some o) next
    m.parked = some .saturation ∧ m.tcause = BitVec.ofNat 8 (Cause.code .saturation) ∧ m.taddr = 0 ∧ m.tpc = BitVec.ofNat 64 l.pc ∧
      m.lat0 = o.lat ∧ m.tlat0 = o.lat) ∧
  (∀ (s : State) (e : Env) (k n : Nat), nth (s.ctx e.cx).satthr k 0 = 0 → s.crosses e k n = false) ∧
  (∀ gd d k s e t, s.issueOf? (.satq gd d false k) = some (e, t) →
    exec (.satq gd d false k) s = .next (t.finish e ((lanesOf e.act).map fun l => .reg l d .i32 (ofW (t.satCount e.cx e.core k))))) ∧
  (∀ gd d k s e t, s.issueOf? (.satq gd d true k) = some (e, t) → e.act ≠ 0 →
    exec (.satq gd d true k) s = .next
      ((t.modCtx e.cx fun c => { c with satcnt := tabSet c.satcnt (16 * e.core + k) 0 }).finish e
        ((lanesOf e.act).map fun l => .reg l d .i32 (ofW (t.satCount e.cx e.core k)))))

/-! ### Cross-lane words and predicates (R366 to R375) -/

/-- Whenever word `i` issues in a group of 8 and the condition `c` holds of its operands, each active lane has the outcome `f`. -/
def NarrowResults (i : Instr) (c : Env → Prop) (f : Env → Nat → LaneOut) : Prop :=
  ∀ s e t, s.issueOf? i = some (e, t) → e.grp.width = 8 → c e → exec i s = .next (t.finish e ((lanesOf e.act).map (f e)))

/-- The active lanes of a group of 8 with one value each. -/
def values (e : Env) (v : Nat → W64) : Gathered := ⟨8, inMask e.act, fun _ l => v l⟩

/-- The active lanes for which `p` holds, as a mask in a result register. -/
def laneMask (e : Env) (p : Nat → Bool) : W64 := BitVec.ofNat 64 (maskNat ((lanesOf e.act).filter p))

/-- R370 to R374: in a group of 8 lanes the cross-lane words complete at their issue. -/
def Obligations.CrossLaneWordsOfNarrowGroupsGiveTheirResults : Prop :=
  (∀ gd d a b w sg mode, NarrowResults (.shfl gd d a b w sg mode) (fun _ => True) fun e l =>
    .reg l d (wide w) (let j := shflSrc 8 sg mode l (e.w b l).toNat; if j < 8 then e.src (wide w) a j else 0)) ∧
  (∀ gd x y m, NarrowResults (.bfly gd x y m) (fun e => e.n .i32 m 0 ∈ [1, 2, 4] ∧ ∀ l, l < 8 → e.n .i32 m l = e.n .i32 m 0) fun e l =>
    let j := l ^^^ e.n .i32 m 0
    if l / e.n .i32 m 0 % 2 = 0 then .ok l [.d32 (.reg x) (e.vreg x l), .d32 (.reg y) (e.vreg x j)] (ofW (e.vreg x l))
    else .ok l [.d32 (.reg x) (e.vreg y j), .d32 (.reg y) (e.vreg y l)] (ofW (e.vreg y j))) ∧
  (∀ gd d a b w, NarrowResults (.bcast gd d a b w) (fun e => e.agree fun l => [e.src .i32 b l]) fun e l =>
    .reg l d (wide w) (e.src (wide w) a (if (e.w b l).toNat < 8 then (e.w b l).toNat else l))) ∧
  (∀ gd p q mode, NarrowResults (.vote gd p q mode) (fun _ => True) fun e l =>
    let all := (lanesOf e.act).all (e.psrc q)
    let none := (lanesOf e.act).all fun j => !e.psrc q j
    let t := match mode with | .all => all | .any => !none | .uni => all || none
    .pd l p t) ∧
  (∀ gd d q m64, NarrowResults (.ballot gd d q m64) (fun _ => True) fun e l => .reg l d (wide m64) (laneMask e (e.psrc q))) ∧
  (∀ gd d a m64 w, NarrowResults (.matchv gd d a m64 w) (fun _ => True) fun e l =>
    .reg l d (wide m64) (laneMask e fun j => e.src (wide w) a j == e.src (wide w) a l)) ∧
  (∀ gd d a op, NarrowResults (.redux gd d a op) (fun _ => True) fun e l =>
    .reg l d .i32 (BitVec.ofNat 64 (reduxVal op ((lanesOf e.act).map fun j => (e.w a j).toNat)))) ∧
  (∀ gd d a op, NarrowResults (.fredux gd d a op) (fun _ => True) fun e l =>
    .reg l d .i32 (BitVec.ofNat 64 (freduxVal op (values e (e.src .f32 a))))) ∧
  (∀ gd d a excl f, NarrowResults (.scan gd d a excl f) (fun _ => True) fun e l =>
    .reg l d .i32 (BitVec.ofNat 64 (scanVal f excl (values e (e.src (if f then .f32 else .i32) a)) l))) ∧
  (∀ gd d q, NarrowResults (.pcnt gd d q) (fun _ => True) fun e l =>
    .reg l d .i32 (BitVec.ofNat 64 ((lanesOf e.act).filter (e.psrc q)).length)) ∧
  (∀ gd p, NarrowResults (.elect gd p) (fun _ => True) fun e l => .pd l p (l == e.low))

/-- R368: in a wider group the first strand to arrive waits, and its lanes and their values are kept for the others. -/
def Obligations.CrossLaneWordsOfWideGroupsGather : Prop :=
  ∀ i s e t, s.issueOf? i = some (e, t) → 8 < e.grp.width → e.grp.gather = none →
    (match i with
      | .shfl .. => True | .vote .. => True | .ballot .. => True | .redux .. => True | .fredux .. => True
      | .scan .. => True | .matchv .. => True | .pcnt .. => True | .elect .. => True | _ => False) →
    let u := (t.holdPath e .gather).modGroup e.gid fun g =>
      { g with gather := some ⟨e.lane0.pc, i, e.cl.lits, [⟨e.k, e.act, (List.range 8).map (gatherVals i e)⟩]⟩ }
    exec i s = .next (u.gatherCheck e.gid e)

/-- R375: the predicate forms. -/
def Obligations.PredicateWordsGiveTheirResults : Prop :=
  (∀ gd p q r nb na, LaneResults (.pand gd p q r nb na) fun e l => .pd l p ((na ^^ e.psrc q l) && (nb ^^ e.psrc r l))) ∧
  (∀ gd p q r nb na, LaneResults (.por gd p q r nb na) fun e l => .pd l p ((na ^^ e.psrc q l) || (nb ^^ e.psrc r l))) ∧
  (∀ gd p q r nb na, LaneResults (.pxor gd p q r nb na) fun e l => .pd l p ((na ^^ e.psrc q l) ^^ (nb ^^ e.psrc r l))) ∧
  (∀ gd p q, LaneResults (.pnot gd p q) fun e l => .pd l p (!e.psrc q l)) ∧
  (∀ gd p q, LaneResults (.pmov gd p q) fun e l => .pd l p (e.psrc q l)) ∧
  (∀ gd d q, ∃ v : Env → Nat → W32, RegResults (.pmovGet gd d q) d .i32 (fun e l => ofW (v e l)) ∧
    ∀ (e : Env) (l k : Nat), k < 32 → (v e l).getLsbD k = (decide (q + k < 96) && e.psrc (q + k) l)) ∧
  (∀ gd p a, ∃ v : Env → Nat → W32, (∀ (e : Env) (l k : Nat), (v e l).getLsbD k = (decide (p + k < 96) && (e.w a l).getLsbD k)) ∧
    LaneResults (.pmovSet gd p a) fun e l =>
      .ok l ((List.range (min 32 (96 - p))).map fun k => .p (p + k) ((e.w a l).getLsbD k)) (ofW (v e l)))

/-! ### Control flow (R376 to R386) -/

/-- The condition of `bra` on its value (R377). -/
def branches {n : Nat} (c : BraCond) (x : BitVec n) : Bool :=
  match c with
  | .always => true
  | .z => x == 0
  | .nz => x != 0
  | .neg => x.msb
  | .nneg => !x.msb

/-- The lanes that are active and for which `p` holds go to `CODE` plus their target; the others go to the next clause (R377). -/
def goesTo (e : Env) (p : Nat → Bool) (target : Nat → Nat) (l : Nat) : Nat × Bool :=
  if inMask e.act l && p l then (e.kern.code + target l, false) else (e.nextHeader, false)

/-- R377: the transfers to aligned targets. -/
def Obligations.TransfersGoToTheirTargets : Prop :=
  (∀ gd tgt a c s e t, s.issueOf? (.bra gd tgt a c) = some (e, t) → (∀ l, inMask e.act l = true → (e.w tgt l).toNat % 8 = 0) →
    exec (.bra gd tgt a c) s = .next (t.finishTo e (done e.act) false
      (goesTo e (fun l => if e.ctl then branches c (e.d a l) else branches c (e.w a l)) fun l => (e.w tgt l).toNat))) ∧
  (∀ gd a b s e t, s.issueOf? (.brx gd a b) = some (e, t) → (∀ l, inMask e.act l = true → (e.w a l + 8 * e.w b l).toNat % 8 = 0) →
    exec (.brx gd a b) s = .next (t.finishTo e (done e.act) false
      (goesTo e (fun _ => true) fun l => (e.w a l + 8 * e.w b l).toNat))) ∧
  (∀ gd d a x s e t, s.issueOf? (.call gd d a x) = some (e, t) → (∀ l, inMask e.act l = true → (e.w a l).toNat % 8 = 0) →
    exec (.call gd d a x) s = .next (t.finishTo e
      ((lanesOf e.act).map fun l => .reg l (.reg d) .i32 (BitVec.ofInt 64 ((e.nextHeader : Int) - e.kern.code))) false
      (goesTo e (fun _ => true) fun l => (e.w a l).toNat))) ∧
  (∀ gd a s e t, s.issueOf? (.ret gd a) = some (e, t) → (∀ l, inMask e.act l = true → (e.w a l).toNat % 8 = 0) →
    exec (.ret gd a) s = .next (t.finishTo e (done e.act) false (goesTo e (fun _ => true) fun l => (e.w a l).toNat)))

/-- R114, R115, R380 to R383: rejoin masks, exit, yield, traps and sleep. -/
def Obligations.RejoinExitYieldAndTrapWordsComplete : Prop :=
  (∀ j s e t, s.issueOf? (.enrol j) = some (e, t) → exec (.enrol j) s = .next
    ((t.modUnit e.ag fun u => { u with jmask := modAt u.jmask j fun _ => e.path, u := e.path }).finish e (done e.act))) ∧
  (∀ j s e t, s.issueOf? (.rejoin j) = some (e, t) → e.path &&& nth e.u.jmask j 0 = 0 →
    exec (.rejoin j) s = .next (t.finish e (done e.act))) ∧
  (∀ j s e t, s.issueOf? (.rejoin j) = some (e, t) → e.path &&& nth e.u.jmask j 0 = e.path → e.path ≠ 0 →
    exec (.rejoin j) s = .next ((t.modUnit e.ag fun u =>
      (Strand.rejoinRelease
        { u.mapLanes (inMask e.path) (fun _ l => l.hold (.rejoin j) (e.cl.next l)) with swash := min 511 (u.swash + 1) }
        j).settle e.lane0.pc).issued e)) ∧
  (∀ gd s e t, s.clearOf? (.exit gd) = some (e, t) → e.act = e.path → e.act ≠ 0 →
    (e.ctl = true → t.mmas.all (fun m => m.wg != e.wid || m.heldBy) = true) →
    let u := (t.dropResults e.ag e.act).exitFails e.ag e.act e.kid
    let v := u.modUnit e.ag fun u =>
      let last := u.liveMask &&& ~~~e.act = 0
      let x : Strand := { u with
        swash := min 511 (u.swash + 1)
        gAtExit := if last then e.grp.gregs else u.gAtExit
        vAtExit := if last then e.grp.win.filter fun x => decide (x.1 % e.grp.width / 8 = e.k) else u.vAtExit }
      (x.exitLanes e.act).rejoinAll.settle e.lane0.pc
    exec (.exit gd) s = .next ((v.afterExit e).issued e)) ∧
  (∀ gd s e t, s.issueOf? (.yield gd) = some (e, t) → e.act ≠ 0 →
    exec (.yield gd) s = .next ((t.finish e (done e.act)).modUnit e.ag fun u => { u.yieldPath with swash := 0 })) ∧
  (∀ gd n s e t, s.issueOf? (.trap gd n) = some (e, t) → exec (.trap gd n) s = .next (t.finish e (allBad e.act .soft))) ∧
  (∀ gd n s e t, s.issueOf? (.brk gd n) = some (e, t) → exec (.brk gd n) s = .next (t.finish e (allBad e.act .brk))) ∧
  (∀ gd a s e t, s.issueOf? (.sleep gd a) = some (e, t) → (e.agree fun l => [e.src .i32 a l]) →
    exec (.sleep gd a) s = .next (t.holdPath e (.sleep (e.w a e.low).toNat))) ∧
  (∀ ag s u k x, s.mayIssue ag = some (u, k, x) → (u.lanes.any fun l => l.wait == some (.sleep 0)) = true →
    exec (.sleepExpire ag) s = .next (s.modUnit ag fun u => u.release (fun w => w == .sleep 0) fun _ => 0))

/-- R50, R51, R384: every active lane being in its handler, the return resumes each. -/
def Obligations.ReturnsResumeTheTrappedLanes : Prop :=
  ∀ gd retry s e t, s.issueOf? (if retry then .rteRetry gd else .rte gd) = some (e, t) → e.act = e.path → e.act ≠ 0 →
    (∀ l, inMask e.act l = true → (e.u.lane l).inHandler = true) →
    (e.ctl = true → (lanesOf e.act).all (fun l => !(e.u.lane l).tflags.getLsbD 1) = true) →
    exec (if retry then .rteRetry gd else .rte gd) s = .next (((t.modUnit e.ag fun u =>
      { u.mapLanes (inMask e.path) (fun _ l => l.rte retry (t.clauseShape e.cx l.thdr)) with swash := min 511 (u.swash + 1) }).issued
        e).modUnit e.ag fun u => u.settle e.lane0.pc)

/-- R83, R386: the signals. -/
def Obligations.SignalsReachTheirQueueAndMailbox : Prop :=
  (∀ gd a b s e t, s.clearOf? (.signal gd a b) = some (e, t) → (e.agree fun l => [e.src .i32 a l]) →
    (e.w a e.low).toNat < 1024 → (t.queue (e.w a e.low).toNat).cx = e.cx →
    exec (.signal gd a b) s = .next ((t.modQueue (e.w a e.low).toNat Queue.signal).finish e (done e.act))) ∧
  (∀ gd a b s e t, s.clearOf? (.signalMbox gd a b) = some (e, t) → (e.agree fun l => [e.src .i32 a l]) →
    exec (.signalMbox gd a b) s = .next ((t.mailbox e.cx (e.w b e.low)).finish e (done e.act)))

/-! ### Barriers (R156 to R177, R388 to R395) -/

/-- R162, R164, R167, R168, R171, R393: the words on barriers of the workgroup. R166, R188: that a wait that returns brings its core's program time
up to the barrier's is the model's choice (notes/assumptions/114). -/
def Obligations.WorkgroupBarrierWordsComplete : Prop :=
  (∀ gd b n s e t, s.clearOf? (.barinit gd b n) = some (e, t) → (e.agree fun l => [e.src .i32 n l]) →
    1 ≤ (e.w n e.low).toNat → (e.w n e.low).toNat ≤ 65535 → (t.bar (.wg e.wid b)).waiters = 0 → (t.bar (.wg e.wid b)).pend = 0 →
    exec (.barinit gd b n) s = .next ((t.modBar (.wg e.wid b) fun x => { x with
      expect := (e.w n e.low).toNat, arrived := 0, phase := false, err := false, ecause := 0, stray := 0, valid := true }).finish e
      (done e.act))) ∧
  (∀ gd b n s e t, s.clearOf? (.bararr gd b n) = some (e, t) → (e.agree fun l => [e.src .i32 n l]) → e.coversU = true →
    (e.w n e.low).toNat ≤ 65535 →
    exec (.bararr gd b n) s = .next ((t.finish e (done e.act)).arriveAt (.wg e.wid b) (e.w n e.low).toNat false none)) ∧
  (∀ gd p b ph s e t, s.clearOf? (.barwait gd p b ph) = some (e, t) → e.act ≠ 0 → e.coversU = true →
    let x := t.bar (.wg e.wid b)
    (x.valid = false ∨ x.phase ≠ (e.w ph e.low).getLsbD 0) →
    exec (.barwait gd p b ph) s = .next ((t.finish e (waitOuts e.act p x.outcome.1 x.outcome.2)).raisePts e.unit x.time)) ∧
  (∀ gd p b ph s e t, s.clearOf? (.barwait gd p b ph) = some (e, t) → e.act ≠ 0 → e.coversU = true →
    let x := t.bar (.wg e.wid b)
    x.valid = true → x.phase = (e.w ph e.low).getLsbD 0 →
    exec (.barwait gd p b ph) s = .next (t.holdBar e b ((e.w ph e.low).getLsbD 0) p e.act)) ∧
  (∀ gd b s e t, s.clearOf? (.barinval gd b) = some (e, t) → e.act ≠ 0 →
    exec (.barinval gd b) s = .next ((t.finish e (done e.act)).invalBar (.wg e.wid b))) ∧
  (∀ gd h n s e t w, s.clearOf? (.barrarr gd h n) = some (e, t) → (e.agree fun l => [e.src .i32 h l, e.src .i32 n l]) →
    e.coversU = true → (e.w n e.low).toNat ≤ 65535 → t.remoteWg e (e.w h e.low).toNat = some w →
    exec (.barrarr gd h n) s = .next ((t.postArrival (.wg w ((e.w h e.low).toNat % 16)) (some e.ag) (e.w n e.low).toNat false none).finish e
      (done e.act))) ∧
  (∀ gd d b which s e t, s.clearOf? (.barq gd d b which) = some (e, t) → e.act ≠ 0 → (which ≠ .handle → e.coversU = true) →
    exec (.barq gd d b which) s = .next (t.finish e ((lanesOf e.act).map fun l =>
      match which with
      | .state => .reg l d .i64 (BitVec.ofNat 64 (t.bar (.wg e.wid b)).state)
      | .count => .reg l d .i64 (BitVec.ofNat 64 (t.bar (.wg e.wid b)).count)
      | .handle => .reg l d .i32 (BitVec.ofNat 64 (e.wg.first * 2^13 + e.wg.slot * 16 + b)))))

/-- R173, R394: the words on barriers of a wider scope send a message to the barrier's holder; all but an arrival wait for the reply. -/
def Obligations.WideBarrierWordsSendTheirMessages : Prop :=
  let sent := fun (t : State) (e : Env) (sc : HScope) (i : Src) (op val : Nat) (pd : Option Nat) (d : Nat) (bc : Bool) =>
    ({ t with hmsgs := t.hmsgs ++ [⟨t.nextId, e.ag, e.act, e.lane0.pc, e.lane0.hdr, e.hbar sc (e.w i e.low).toNat, op, val, pd, d, bc, false, none⟩]
              nextId := t.nextId + 1 } : State)
  let held := fun (t u : State) (e : Env) => u.holdPath e (.hbar t.nextId)
  (∀ gd i n sc s e t, s.clearOf? (.hbarInit gd i n sc) = some (e, t) → (e.agree fun l => [e.src .i32 i l, e.src .i32 n l]) →
    (e.w i e.low).toNat < scopeCount sc → 1 ≤ (e.w n e.low).toNat → (e.w n e.low).toNat ≤ 65535 →
    exec (.hbarInit gd i n sc) s = .next (held t (sent t e sc i 0 (e.w n e.low).toNat none 0 false) e)) ∧
  (∀ gd i sc s e t, s.clearOf? (.hbarArr gd i sc) = some (e, t) → (e.agree fun l => [e.src .i32 i l]) → e.coversU = true →
    (e.w i e.low).toNat < scopeCount sc →
    exec (.hbarArr gd i sc) s = .next ((sent t e sc i 1 1 none 0 false).finish e (done e.act))) ∧
  (∀ gd p i ph sc s e t, s.clearOf? (.hbarWait gd p i ph sc) = some (e, t) → (e.agree fun l => [e.src .i32 i l]) → e.coversU = true →
    (e.w i e.low).toNat < scopeCount sc →
    exec (.hbarWait gd p i ph sc) s = .next (held t (sent t e sc i 2 ((e.w ph e.low).toNat % 2) p 0 false) e)) ∧
  (∀ gd d i bc sc s e t, s.clearOf? (.hbarQ gd d i bc sc) = some (e, t) → (e.agree fun l => [e.src .i32 i l]) → e.coversU = true →
    (e.w i e.low).toNat < scopeCount sc →
    exec (.hbarQ gd d i bc sc) s = .next (held t (sent t e sc i 3 0 none d bc) e))

/-- R159, R161, R169, R394: the steps that carry arrivals and messages to barriers, and the replies to an init, a wait and a query. That a wait's
return brings its core's program time up to the present is the model's choice (notes/assumptions/114). -/
def Obligations.ArrivalsAndMessagesTakeEffect : Prop :=
  (∀ id s a, (s.arrivals.find? fun a => a.id == id && !a.engine) = some a →
    exec (.remoteArrival id) s = .next
      (({ s with arrivals := s.arrivals.filter fun x => x.id != id } : State).arriveAt a.bar a.n false a.cause)) ∧
  (∀ id s a, (s.arrivals.find? fun a => a.id == id && a.engine) = some a →
    exec (.engineArrival id) s = .next
      (({ s with arrivals := s.arrivals.filter fun x => x.id != id } : State).arriveAt a.bar a.n true a.cause)) ∧
  (∀ id s m, (s.hmsgs.find? fun m => m.id == id && !m.waiting && m.reply.isNone) = some m → s.holdsBar m.bar = true →
    ∃ t, exec (.hbarMessage id) s = .next t ∧
      (m.op = 0 → (s.bar m.bar).busy = false →
        t = (s.modBar m.bar fun x => x.start m.val).modMsg id fun m => { m with reply := some (none, false, 0) }) ∧
      (m.op = 1 → t = ({ s with hmsgs := s.hmsgs.filter fun x => x.id != id } : State).arriveAt m.bar 1 false none) ∧
      (m.op = 2 → (s.bar m.bar).valid = true → (s.bar m.bar).phase = (m.val == 1) →
        t = (s.modBar m.bar fun x => { x with waiters := x.waiters + 1 }).modMsg id fun m => { m with waiting := true })) ∧
  (∀ id s m r, (s.hmsgs.find? fun m => m.id == id) = some m → m.reply = some r → m.op = 0 → r.1 = none →
    exec (.hbarReply id) s = .next ((({ s with hmsgs := s.hmsgs.filter fun x => x.id != id } : State).modUnit m.ag fun u =>
      let u := u.mapLanes (fun k => (u.lane k).wait == some (.hbar id)) fun _ l => l.resume 0
      u.settle u.gave).trapStep m.ag)) ∧
  (∀ id s m (p : Nat) (b : Bool) x, (s.hmsgs.find? fun m => m.id == id) = some m → m.reply = some (none, b, x) → m.op = 2 → m.pd = some p →
    let t := (lanesOf m.act).foldl (fun s l => s.put m.ag l (.p p b)) ({ s with hmsgs := s.hmsgs.filter fun x => x.id != id } : State)
    let u := t.modUnit m.ag fun u =>
      let v := u.mapLanes (fun k => (u.lane k).wait == some (.hbar id)) fun k l => l.resume (if inMask m.act k && b then 1 else 0)
      v.settle v.gave
    exec (.hbarReply id) s = .next ((u.raisePts (u.unitOf m.ag) u.devNow).trapStep m.ag)) ∧
  (∀ id s m c (b : Bool) x, (s.hmsgs.find? fun m => m.id == id) = some m → m.reply = some (some c, b, x) → m.op = 2 →
    let u := ({ s with hmsgs := s.hmsgs.filter fun x => x.id != id } : State).modUnit m.ag fun u =>
      let v := u.mapLanes (fun k => (u.lane k).wait == some (.hbar id)) fun k l => if inMask m.act k then l.park c 0 1 else l.resume 0
      v.settle v.gave
    exec (.hbarReply id) s = .next ((u.raisePts (u.unitOf m.ag) u.devNow).trapStep m.ag)) ∧
  (∀ id s m (b : Bool) x, (s.hmsgs.find? fun m => m.id == id) = some m → m.reply = some (none, b, x) → m.op = 3 →
    let t := (lanesOf m.act).foldl (fun s l => s.put m.ag l (.d64 (.reg m.d) x)) ({ s with hmsgs := s.hmsgs.filter fun x => x.id != id } : State)
    exec (.hbarReply id) s = .next ((t.modUnit m.ag fun u =>
      let v := u.mapLanes (fun k => (u.lane k).wait == some (.hbar id)) fun k l => l.resume (if inMask m.act k then x else 0)
      v.settle v.gave).trapStep m.ag))

/-! ### Memory words (R397 to R424) -/

/-- R397, R399, R402, R409 to R412: the loads read what their addresses hold. That the latch after a result wider than 64 bits is 0 (ldfr) is the
model's reading (notes/assumptions/54). -/
def Obligations.LoadWordsReadTheirBytes : Prop :=
  (∀ gd d a o sx size s e t good u, s.clearOf? (.ld gd d a o sx size) = some (e, t) →
    t.spots? e e.tlbs Need.load .load ((lanesOf e.act).map fun l => (l, [⟨(e.d a l + (e.w o l).signExtend 64).toNat, memBytes size, memBytes size⟩]))
      = some (good, u) →
    exec (.ld gd d a o sx size) s = .next (u.loaded e [] (fun l bs => loadOut l d (memBytes size) sx bs.flatten) good)) ∧
  (∀ gd d h x sx s e t r t1 t2 good u, s.issueOf? (.ldt gd d h x sx) = some (e, t) → (e.agree fun l => [e.src .i32 h l]) →
    t.shape? e h = some (r, t1) → (r.size = 8 → d % 2 = 0) →
    e.regsBeyond [(x, r.rank), (d, if r.size = 8 then 2 else 1)] = false →
    t1.regsWait e [(x, r.rank), (d, if r.size = 8 then 2 else 1)] = false → t1.clear? e = some t2 →
    t2.spots? e [walkerOf e.core] Need.load .load
      (((lanesOf e.act).filter fun l => !r.clipped (e.coords x r.rank l)).map fun l => (l, [⟨r.addr (e.coords x r.rank l), r.size, r.size⟩]))
      = some (good, u) →
    exec (.ldt gd d h x sx) s = .next (u.loaded e
      (((lanesOf e.act).filter fun l => r.clipped (e.coords x r.rank l)).map fun l => loadOut l (.reg d) r.size sx r.fillBytes)
      (fun l bs => loadOut l (.reg d) r.size sx bs.flatten) good)) ∧
  (∀ gd d a p tr el s e t good u, s.clearOf? (.ldfr gd d a p tr el) = some (e, t) →
    (e.agree fun l => [e.src .i64 a l, e.src .i32 p l]) →
    (let q := if tr then fragBits el / 8 else 16; q = 0 ∨ ((e.d a e.low).toNat % q = 0 ∧ (e.w p e.low).toNat % q = 0)) →
    t.spots? e e.tlbs Need.load .load
      ((lanesOf e.act).map fun l => (l, fragPlans tr (fragBits el) (e.d a e.low).toNat (e.w p e.low).toNat (8 * e.k + l))) = some (good, u) →
    exec (.ldfr gd d a p tr el) s = .next (u.loaded e [] (fun l bs =>
      .ok l ((List.range 8).map fun r => .d32 (.reg (d + r))
        (BitVec.ofNat 32 (fragWord tr (fragBits el) (8 * e.k + l) bs / 2^(32 * r)))) 0) good))

/-- The vector registers that `stt` turns out to name (R409). -/
def sttRegs (x : Nat) (r : ShapeRec) (sv : Src) : List (Nat × Nat) :=
  (x, r.rank) :: (match sv with | .reg n => [(n, if r.size = 8 then 2 else 1)] | _ => [])

/-- R191, R397, R402, R404, R409 to R412: the stores enter the store queue, or are made at once in windows and register blocks. -/
def Obligations.StoreWordsQueueTheirBytes : Prop :=
  (∀ gd a o x size s e t good u v, s.issueOf? (.st gd a o x size) = some (e, t) →
    t.spots? e e.tlbs Need.store .store ((lanesOf e.act).map fun l => (l, [⟨(e.d a l + (e.w o l).signExtend 64).toNat, memBytes size, memBytes size⟩]))
      = some (good, u) →
    u.storable? e (writesOf good fun l => [e.storeBytes x (memBytes size) l]) = some v →
    exec (.st gd a o x size) s = .next (v.stored e [] good fun l => [e.storeBytes x (memBytes size) l])) ∧
  (∀ gd h x sv s e t r t1 good u v, s.issueOf? (.stt gd h x sv) = some (e, t) → (e.agree fun l => [e.src .i32 h l]) →
    t.shape? e h = some (r, t1) → e.sttOk sv r.size = true →
    e.regsBeyond (sttRegs x r sv) = false → t1.regsWait e (sttRegs x r sv) = false →
    t1.spots? e [walkerOf e.core] Need.store .store
      (((lanesOf e.act).filter fun l => !r.clipped (e.coords x r.rank l)).map fun l => (l, [⟨r.addr (e.coords x r.rank l), r.size, r.size⟩]))
      = some (good, u) →
    u.storable? e (writesOf good fun l => [e.storeBytes sv r.size l]) = some v →
    exec (.stt gd h x sv) s = .next (v.stored e
      (((lanesOf e.act).filter fun l => r.clipped (e.coords x r.rank l)).map fun l => .ok l [] 0) good
      fun l => [e.storeBytes sv r.size l])) ∧
  (∀ gd a p x tr el s e t good u v, s.issueOf? (.stfr gd a p x tr el) = some (e, t) →
    (e.agree fun l => [e.src .i64 a l, e.src .i32 p l]) →
    (let q := if tr then fragBits el / 8 else 16; q = 0 ∨ ((e.d a e.low).toNat % q = 0 ∧ (e.w p e.low).toNat % q = 0)) →
    t.spots? e e.tlbs Need.store .store
      ((lanesOf e.act).map fun l => (l, fragPlans tr (fragBits el) (e.d a e.low).toNat (e.w p e.low).toNat (8 * e.k + l))) = some (good, u) →
    let data := fun l => fragBytes tr (fragBits el) ((List.range 8).foldl (fun n r => n + (e.vreg (x + r) l).toNat * 2^(32 * r)) 0)
    u.storable? e (writesOf good data) = some v →
    exec (.stfr gd a p x tr el) s = .next (v.stored e [] good data))

/-- R413 to R416: the atomics, and the acceptance of remote ones. -/
def Obligations.AtomicWordsReadAndReplace : Prop :=
  (∀ gd d a b sc w op s e t good u, s.clearOf? (.atom gd d a b sc w op) = some (e, t) →
    t.spots? e e.tlbs Need.rmw (if op = .max then .max else .other)
      ((lanesOf e.act).map fun l => (l, [⟨(e.d a l).toNat, if w then 8 else 4, if w then 8 else 4⟩])) = some (good, u) →
    let r := u.atomLanes e (if w then 8 else 4) (fun l old => some (atomNew (regOp op (e.n .i64 a l)) w old (e.n (op.ty w) b l))) good
    exec (.atom gd d a b sc w op) s = .next
      (r.2.finish e ((lanesServed e.u.part r.1).map fun x => atomOut d w x.1 (leNat x.2.flatten)) true)) ∧
  (∀ gd d a x y sc w s e t good u, s.clearOf? (.cas gd d a x y sc w) = some (e, t) →
    t.spots? e e.tlbs Need.rmw .other
      ((lanesOf e.act).map fun l => (l, [⟨(e.d a l).toNat, if w then 8 else 4, if w then 8 else 4⟩])) = some (good, u) →
    let r := u.atomLanes e (if w then 8 else 4)
      (fun l old => if old = (e.src (wide w) x l).toNat then some (e.src (wide w) y l).toNat else none) good
    exec (.cas gd d a x y sc w) s = .next
      (r.2.finish e ((lanesServed e.u.part r.1).map fun x => atomOut d w x.1 (leNat x.2.flatten)) true)) ∧
  (∀ gd d a b w op s e t, s.issueOf? (.ratom gd d a b w op) = some (e, t) →
    (∀ l, inMask e.act l = true → t.ratomCheck e (e.d a l).toNat (if w then 8 else 4) = none) →
    exec (.ratom gd d a b w op) s = .next
      ((((lanesOf e.act).foldl (fun s l => s.ratomSend e d (e.d a l).toNat w op (e.src (op.ty w) b l) l) t).finish e (done e.act)).owe
        e.ag t.nextId))

/-- R199 to R202, R210, R211, R417 to R423: fences, publication, monitors, tier moves and last use. The model's readings and choices: a publish
swaps in the step that issues it (notes/assumptions/49); lastuse waits for all outstanding operations of its issuer (notes/assumptions/58); a fence
and a returning mwait raise the program time (notes/assumptions/114). -/
def Obligations.OrderingWordsComplete : Prop :=
  (∀ gd sc s e t, s.issueOf? (.fence gd sc) = some (e, t) → e.act ≠ 0 → (∀ x, x ∈ t.asyncScopes e.ag → scopeCode sc < x) →
    (∀ l, inMask e.act l = true → t.failOf e.ag (scopeCode sc) l = none) →
    exec (.fence gd sc) s = .next ((t.raisePts e.unit (e.u.doneTime (scopeCode sc))).finish e (done e.act))) ∧
  (∀ gd s e t, s.clearOf? (.fenceTc gd) = some (e, t) → e.act ≠ 0 → t.asyncScopes e.ag = [] →
    (t.homes.any fun h => h.ag == some e.ag) = false → (∀ l, inMask e.act l = true → t.failOf e.ag 5 l = none) →
    exec (.fenceTc gd) s = .next ((t.raisePts e.unit (e.u.doneTime 5)).finish e (done e.act))) ∧
  (∀ gd h s e t b u, s.clearOf? (.publish gd h) = some (e, t) → e.u.stall = none → (e.agree fun l => [e.src .i32 h l]) → e.coversU = true →
    let hv := (e.w h e.low).toNat % 4096
    t.recordHeld e hv = false → t.record e.kid e.cx e.core hv bufOf = (.ok b, u) → u.publishCheck e b = none →
    (∀ r o, spaceOf u.fab b.view ≠ some (.other r o)) → u.engineWrites e.cx b.view b.len = [] → u.ckptOn e.cx b.view = false →
    exec (.publish gd h) s = .next (((u.finish e (done e.act)).publishHere e.cx hv b).afterSwap e.ag)) ∧
  (∀ gd a s e t x u, s.clearOf? (.mon gd a) = some (e, t) → (e.agree fun l => [e.src .i64 a l]) →
    t.spotOf e e.tlbs Need.load .load e.low ⟨(e.d a e.low).toNat, 1, 1⟩ = (.ok x, u) → u.mustWait e 1 Need.load x.loc = false →
    exec (.mon gd a) s = .next (((u.monTime e x).finish e (done e.act)).modUnit e.ag fun v => { v with mon := v.mon.arm (e.monLine x.loc) })) ∧
  (∀ gd p n s e t v, s.clearOf? (.mwait gd p n) = some (e, t) → (e.agree fun l => [e.src .i32 n l]) →
    t.unit? e.ag = some v → v.mon.st ≠ .armed → v.mon.st ≠ .waiting →
    exec (.mwait gd p n) s = .next (((if v.mon.st = .fired then t.raisePts e.unit v.mon.time else t).finish e (match p with | some q => allPd e.act q true | none => done e.act)).modUnit e.ag fun u =>
        { u with mon := { v.mon with st := .disarmed, left := none } })) ∧
  (∀ gd p n s e t v, s.clearOf? (.mwait gd p n) = some (e, t) → (e.agree fun l => [e.src .i32 n l]) →
    t.unit? e.ag = some v → v.mon.st = .armed →
    let left := if e.w n e.low = 0 then none else some (e.w n e.low).toNat
    exec (.mwait gd p n) s = .next
      ((t.modUnit e.ag fun u => { u with mon := { v.mon with st := .waiting, left := left } }).holdMwait e e.act [] p)) ∧
  (∀ ev gd b d x n s e t, s.clearOf? (if ev then .tierev gd b d x n else .tierpf gd b d x n) = some (e, t) → e.grp.copyRole = true →
    (∀ u, s.issueOf? (if ev then .tierev gd b d x n else .tierpf gd b d x n) = some (e, u) → (u.bar (.wg e.wid b)).pend < 0xFFFF) →
    (e.agree fun l => [e.src .i64 d l, e.src .i64 x l, e.src .i32 n l]) → (e.w n e.low).toNat ≠ 0 →
    t.tierCheck e (!ev) (e.d d e.low).toNat (e.d x e.low).toNat ((e.w n e.low).toNat * 4096) = none →
    let u := t.pendUp (.wg e.wid b)
    let op : TierOp := ⟨u.nextId, e.ag, e.kid, (e.d x e.low).toNat, (e.d d e.low).toNat, (e.w n e.low).toNat * 4096, .wg e.wid b, [], u.dueIn 2⟩
    exec (if ev then .tierev gd b d x n else .tierpf gd b d x n) s = .next
      (((({ u with nextId := u.nextId + 1, tiers := u.tiers ++ [op] } : State).wakeRange e.cx op.src op.len).wakeRange e.cx op.dst op.len).finish e
        (done e.act))) ∧
  (∀ gd a n s e t, s.issueOf? (.lastuse gd a n) = some (e, t) → (e.agree fun l => [e.src .i64 a l, e.src .i32 n l]) →
    t.lastuseCheck e (e.d a e.low).toNat (e.w n e.low).toNat = none →
    let sp := t.homeSpans e.cx (e.d a e.low).toNat (e.w n e.low).toNat
    exec (.lastuse gd a n) s = .next (((List.range 8).foldl (fun s d =>
      s.lifetime e.ag d ((sp.filter fun x => x.1 == d).map fun x => x.2) (t.ownOps e.ag)) (t.drain e.ag)).finish e (done e.act)))

/-! ### The matrix unit (R427 to R441) -/

/-- R428 to R432: `mma` on a tile that is bound, and on a free tile that it binds. -/
def Obligations.MatrixWordsAreAccepted : Prop :=
  let queued := fun (t : State) (e : Env) (x i : Nat) (a b sv : Src) =>
    ({ t with nextId := t.nextId + 1, mmas := t.mmas ++
      [⟨t.nextId, e.wid, x, i, e.d a 0, e.d b 0, e.d sv 0, e.lane0.pc, e.lane0.hdr, t.mmas.any fun m => m.wg == e.wid && m.heldBy⟩] } : State)
  (∀ n a b sv s e t i, s.issueOf? (.mma n a b sv false) = some (e, t) →
    t.mmaCheck e (e.d a 0).toNat (e.d b 0).toNat (e.d sv 0).toNat = none →
    let x := e.coreIn (e.d a 0).toNat
    t.mmaWaiting e.wid x < 4 → t.tileOf e.wid x n = some i → (t.acc x i).st ≠ .draining →
    exec (.mma n a b sv false) s = .next ((queued t e x i a b sv).finish e (done e.act))) ∧
  (∀ n a b sv new s e t i, s.issueOf? (.mma n a b sv new) = some (e, t) →
    t.mmaCheck e (e.d a 0).toNat (e.d b 0).toNat (e.d sv 0).toNat = none →
    let x := e.coreIn (e.d a 0).toNat
    t.mmaWaiting e.wid x < 4 → (new = true ∨ t.tileOf e.wid x n = none) → t.spareTile x = some i →
    exec (.mma n a b sv new) s = .next
      ((queued ((t.unbindAcc e.wid x n).modAcc x i fun _ => ⟨.bound, 0, e.wid, n, []⟩) e x i a b sv).finish e (done e.act))) ∧
  (∀ n w c s e t f rm sat sc gid g, s.issueOf? (.accdrain n w c) = some (e, t) →
    convWord (e.d c 0).toNat = some (f, rm, sat, sc) →
    let v := (e.d w 0).toNat
    let x := e.coreIn v
    let k := 32 / perReg f
    v % 8 = 0 → t.regUseCheck e x [e.regUse v k] = none → t.groupOn e.wid x (bits v 43 32) = some (gid, g) →
    let lo := g.base + 4 * (v % 256) * g.width
    let hi := g.base + 4 * (v % 256 + k) * g.width
    t.rangeHit x lo hi = false → t.rangesFull x = false →
    exec (.accdrain n w c) s = .next ((t.acceptDrain e x n (.regs gid (v % 256)) (e.d c 0) (some (lo, hi))).finish e (done e.act))) ∧
  (∀ n w c s e t f rm sat sc base r, s.issueOf? (.accst n w c) = some (e, t) →
    convWord (e.d c 0).toNat = some (f, rm, sat, sc) →
    let v := (e.d w 0).toNat
    let x := e.coreIn v
    let pitch := bits v 51 32
    let len := 31 * pitch + 32 * (f.width / 8)
    (v % 2^20) % 16 = 0 → pitch % 16 = 0 → 32 * (f.width / 8) ≤ pitch → e.wg.runOn x = some base →
    e.kern.area (v % 2^20) len = some (.awin, r) →
    t.rangeHit x (base + r) (base + r + len) = false → t.rangesFull x = false →
    exec (.accst n w c) s = .next
      ((t.acceptDrain e x n (.window (v % 2^20) pitch) (e.d c 0) (some (base + r, base + r + len))).finish e (done e.act))) ∧
  (∀ n w s e t, s.issueOf? (.acctx n w) = some (e, t) →
    let v := (e.d w 0).toNat
    let x := e.coreIn v
    let y := t.tile (x / 256) (v % 4096)
    y.cx = e.cx → y.st = .armed → y.skind = false → t.inView e (t.ownVa y.roff) y.len = true →
    y.lost t.fab.lostmap.toNat = false → t.tileFull (x / 256) y = false →
    (t.drains.filter fun (y : DrainOp) => y.core / 256 == x / 256 && (match y.kind with | .entry _ => true | _ => false)).length < 64 →
    exec (.acctx n w) s = .next ((t.acceptDrain e x n (.entry (v % 4096)) 0 none).finish e (done e.act))) ∧
  (∀ n k one s e t, s.issueOf? (.accwait n k one) = some (e, t) →
    (∀ d ∈ t.drains, d.wg = e.wid → one = true ∧ ¬(d.acc = n ∧ d.core = e.coreIn (e.d k 0).toNat)) →
    exec (.accwait n k one) s = .next (t.finish e (done e.act))) ∧
  (∀ n k s e t, s.issueOf? (.accfree n k) = some (e, t) →
    exec (.accfree n k) s = .next ((t.unbindAcc e.wid (e.coreIn (e.d k 0).toNat) n).finish e (done e.act)))

/-- R208, R301, R431, R432, R434, R437: the steps by which the matrix unit finishes sums and drains. The model's readings: the operands are read at
MMA_END (notes/assumptions/99), a sum on an unbound tile has no effect (notes/assumptions/129), and a RESIDUE is raised at once unless the thread
waits elsewhere (notes/assumptions/66). -/
def Obligations.MatrixUnitStepsTakeEffect : Prop :=
  (∀ core s m a b, s.nextMma core = some m → m.cs = 0 →
    s.operandOf m.wg core (bits m.ca.toNat 43 32) = some a → s.operandOf m.wg core (bits m.cb.toNat 43 32) = some b →
    s.operandHeld m.id core (some a) (m.ca.toNat % 256) 8 = false → s.operandHeld m.id core (some b) (m.cb.toNat % 256) 8 = false →
    let u := if m.tile < 32 then s.modAcc core m.tile fun t => { t with data := mmaTile m (s.acc core m.tile).data a.2 b.2 none none } else s
    exec (.mmaEnd core) s = .next (({ u with mmas := u.mmas.filter fun x => x.id != m.id } : State).count (u.cxOfWg m.wg) core 2 1)) ∧
  (∀ core s m c, s.nextMma core = some m → (s.ctx (s.cxOfWg m.wg)).res = true →
    let u := s.mismatch core 1
    let v := ({ u with mmas := u.mmas.map fun (x : MmaOp) =>
      if x.wg == m.wg && decide (m.id ≤ x.id) then { x with heldBy := true } else x } : State).modCt m.wg fun c =>
        { c with deferred := some m.id, due := true }
    v.ct? m.wg = some c →
    exec (.residueMismatchMma core) s = .next (if (c.unit.lane 0).stopsNow then v.raiseResidue m.wg m.pc else v)) ∧
  (∀ id s d i, (s.drains.find? fun d => d.id == id) = some d → d.settled = false → s.unitRuns d.wg = true → d.tile = some i →
    (∀ m ∈ s.mmas, m.id ∉ d.after) →
    let u := s.modAcc d.core i AccTile.settle
    exec (.drainSettle id) s = .next { u with drains := u.drains.map fun y =>
      if y.id == id then { d with settled := true, vals := d.converted (s.acc d.core i).elems } else y }) ∧
  (∀ id s r d, (s.ranges.find? fun r => r.id == id && !r.saved) = some r → (s.copies.find? fun c => c.id == r.op) = none →
    (s.drains.find? fun d => d.id == r.op && d.settled) = some d →
    exec (.rangeRetire id) s = .next (s.retireDrain d r)) ∧
  (∀ id s d i, (s.drains.find? fun d => d.id == id && d.settled) = some d → d.kind = .entry i →
    (s.tile (d.core / 256) i).st = .armed → (s.tile (d.core / 256) i).skind = false →
    ({ s with drains := s.drains.filter fun x => x.id != id } : State).tileFull (d.core / 256) (s.tile (d.core / 256) i) = false →
    let t := s.tile (d.core / 256) i
    let u := ({ s with drains := s.drains.filter fun x => x.id != id
                       collq := tabSet s.collq (512 * (d.core / 256) + t.src % 512) (d.vals.map (landElem t.fmt)) } : State)
    exec (.acctxLand id) s = .next ((u.modTile (d.core / 256) i fun t => { t with issuer := some (.ctl d.wg) }).tileReady (d.core / 256) i
      (((u.wg? d.wg).map fun w => w.kernel).getD 0)))

/-- R164, R167, R168, R441: the control thread's barrier words. R166, R188: that a wait that returns brings its core's program time up to the
barrier's is the model's choice (notes/assumptions/114). -/
def Obligations.ControlBarrierWordsComplete : Prop :=
  (∀ b s e t, s.clearOf? (.cbarArr b) = some (e, t) →
    exec (.cbarArr b) s = .next ((t.finish e (done e.act)).arriveAt (.wg e.wid b) 1 false none)) ∧
  (∀ p b ph s e t, s.clearOf? (.cbarWait p b ph) = some (e, t) → e.act ≠ 0 → e.coversU = true →
    (t.bar (.wg e.wid b)).valid = true → (t.bar (.wg e.wid b)).phase = (e.d ph 0).getLsbD 0 →
    exec (.cbarWait p b ph) s = .next (t.holdBar e b ((e.d ph 0).getLsbD 0) p e.act)) ∧
  (∀ p b ph s e t, s.clearOf? (.cbarWait p b ph) = some (e, t) → e.act ≠ 0 → e.coversU = true →
    ((t.bar (.wg e.wid b)).valid = false ∨ (t.bar (.wg e.wid b)).phase ≠ (e.d ph 0).getLsbD 0) →
    exec (.cbarWait p b ph) s = .next
      ((t.finish e (waitOuts e.act p (t.bar (.wg e.wid b)).outcome.1 (t.bar (.wg e.wid b)).outcome.2)).raisePts e.unit
        (t.bar (.wg e.wid b)).time)) ∧
  (∀ b n s e t, s.clearOf? (.cbarInit b n) = some (e, t) → 1 ≤ (e.d n 0).toNat → (e.d n 0).toNat ≤ 65535 →
    (t.bar (.wg e.wid b)).waiters = 0 → (t.bar (.wg e.wid b)).pend = 0 →
    exec (.cbarInit b n) s = .next ((t.modBar (.wg e.wid b) fun x => x.start (e.d n 0).toNat).finish e (done e.act))) ∧
  (∀ b s e t, s.clearOf? (.cbarInval b) = some (e, t) →
    exec (.cbarInval b) s = .next ((t.finish e (done e.act)).invalBar (.wg e.wid b))) ∧
  (∀ d b bc s e t, s.clearOf? (.cbarQ d b bc) = some (e, t) →
    exec (.cbarQ d b bc) s = .next (t.finish e [.reg 0 (.reg d) .i64
      (BitVec.ofNat 64 (if bc then (t.bar (.wg e.wid b)).count else (t.bar (.wg e.wid b)).state))]))

/-! ### The copy engine, ready tiles, tapes and launches (R442 to R452) -/

/-- R443 to R447: a copy whose record, sources and destination pass their checks is accepted. -/
def Obligations.CopyWordsAreAccepted : Prop :=
  (∀ gd b h x d s e t r xs u bf v, s.issueOf? (.copy gd b h x d) = some (e, t) → t.copySource? e h x d = some (r, xs, u) →
    u.engineRec e (e.greg d).toNat bufOf = (.ok bf, v) → v.sourcesGood e r xs →
    let off := 64 * (e.greg (d + 1)).toNat
    (∃ sp, spaceOf v.fab bf.view = some sp ∧ v.oneSpace sp (bf.view + off) (r.size * r.count) = true ∧
      match sp with
      | .other k _ => bitAt v.fab.lostmap.toNat k = false
      | .own _ => e.kern.leases true (bf.view + off) (r.size * r.count) = true
      | .ctl => e.kern.leases true (bf.view + off) (r.size * r.count) = true
      | _ => False) →
    off + r.size * r.count ≤ bf.len → v.engineFull e [.wg e.wid b] = false →
    exec (.copy gd b h x d) s = .next
      ((v.acceptCopy e r xs (.buffer bf off) (some (.wg e.wid b)) [.wg e.wid b] []).finish e (done e.act))) ∧
  (∀ gd b h x d s e t r xs u dr v sel peer o rg, s.issueOf? (.copyw gd b h x d) = some (e, t) →
    t.copySource? e h x d = some (r, xs, u) → u.engineRec e (e.greg d).toNat shapeOf = (.ok dr, v) → dr.rank = r.rank → dr.size = r.size →
    spaceOf v.fab dr.base = some (.window sel peer o) →
    windowDest e.wg e.kern (windowCore e.core sel peer) r dr = .ok (some rg) → v.sourcesGood e r xs → v.rangesGood e r xs [rg] →
    v.engineFull e [.wg e.wid b] = false →
    exec (.copyw gd b h x d) s = .next ((v.acceptCopy e r xs (.window (windowCore e.core sel peer) e.wid dr) (some (.wg e.wid b))
      [.wg e.wid b] [rg]).finish e (done e.act))) ∧
  (∀ gd l h x d m s e t r xs u dr v peer o (good : List (Nat × Nat × Nat × Option (Nat × Nat × Nat))), s.issueOf? (.copymc gd l h x d m) = some (e, t) →
    t.copySource? e h x d = some (r, xs, u) → u.engineRec e (e.greg d).toNat shapeOf = (.ok dr, v) → dr.rank = r.rank → dr.size = r.size →
    let hs := (List.range (m + 1)).map fun j => (e.greg (l + j)).toNat
    (hs.map fun h => h / 16).Nodup → spaceOf v.fab dr.base = some (.window 0 peer o) → hs.map (v.receiver e r dr) = good.map .ok →
    let rs := good.filterMap fun w => w.2.2.2
    rs ≠ [] → v.sourcesGood e r xs → v.rangesGood e r xs rs → v.rangesApart rs →
    v.engineFull e (good.map fun w => .wg w.2.1 w.2.2.1) = false →
    exec (.copymc gd l h x d m) s = .next ((v.acceptCopy e r xs (.multi dr (good.map fun w => (w.1, w.2.1, w.2.2.1))) none
      (good.map fun w => .wg w.2.1 w.2.2.1) rs).finish e (done e.act)))

/-- R77, R103, R271, R449, R451, R452: a ready tile, a push onto the tape, a launch. -/
def Obligations.TileTapeAndLaunchWordsComplete : Prop :=
  (∀ gd i s e t, s.clearOf? (.tready gd i) = some (e, t) → e.act ≠ 0 →
    let d := e.core / 256
    let k := (e.greg i).toNat % 4096
    let y := t.tile d k
    y.cx = e.cx → y.st = .armed → y.skind = true → t.inView e (t.ownVa y.roff) y.len = true → y.lost t.fab.lostmap.toNat = false →
    t.tileFull d y = false → t.tileSourceReady y = true →
    exec (.tready gd i) s = .next (((t.modTile d k fun t => { t with issuer := some e.ag }).tileReady d k e.kid).finish e (done e.act))) ∧
  (∀ gd p a b upd s e t u, s.clearOf? (.tapepush gd p a b upd) = some (e, t) → (e.agree fun l => [e.src .i64 a l, e.src .i64 b l]) →
    tapeCheck (e.d a e.low).toNat (e.d b e.low).toNat = none → (t.queue e.kern.queue).pushRefused = false →
    t.pushTape e.kern.queue (e.d a e.low).toNat (e.d b e.low).toNat upd = some u →
    exec (.tapepush gd p a b upd) s = .next (u.finish e (allPd e.act p true))) ∧
  (∀ gd p a q s e t ok u, s.clearOf? (.launch gd p a q) = some (e, t) → (e.agree fun l => [e.src .i64 a l, e.src .i32 q l]) →
    t.launchCheck e (e.d a e.low).toNat (e.w q e.low).toNat = none →
    t.launchInto e.cx (e.d a e.low).toNat (e.w q e.low).toNat = some (ok, u) →
    exec (.launch gd p a q) s = .next (u.finish e (allPd e.act p ok)))

/-- R161, R203, R204, R423, R443, R445: a copy into a buffer and a tier move that fail nowhere end by arriving on their barrier. R245, R246: the
count in DLMISS at the end of an operation follows the model's readings (notes/assumptions/70 and 116). -/
def Obligations.EngineOperationsArriveWhenDone : Prop :=
  (∀ id s c b off bar c' u v, (s.copies.find? fun c => c.id == id) = some c → c.dst = .buffer b off → s.engineHas c = true →
    (∀ x ∈ c.lines, s.sourceReady c x = true) → s.copyReady c b off = true → s.fetchAll c c.lines = (none, c', u) →
    u.copyShadow c' b off = (none, v) → c'.bar = some bar →
    exec (.copyComplete id none) s = .next
      ((({ v with copies := v.copies.filter fun x => x.id != id } : State).served c'.core c'.due).postArrival bar none 1 true none)) ∧
  (∀ id s t u, (s.tiers.find? fun t => t.id == id) = some t → s.tierReady t = true →
    s.tierLines t t.moved.length (t.len / 64 + 1) = (none, u) →
    exec (.tierMoveDone id none) s = .next
      ((({ u with tiers := u.tiers.filter fun x => x.id != id } : State).served (u.coreOf t.ag) t.due).postArrival t.bar none 1 true none))

/-! ### Group-wide words and sample groups (R121 to R155, R450, R453) -/

/-- R121, R124 to R128, R138 to R144, R276, R387, R450, R453: a group-wide word waits for its group, and takes effect once every live strand has
arrived. That refused operands raise their cause once all have arrived, and that the waiting path gives up the issue, are the model's readings
(notes/assumptions/30 and 121). -/
def Obligations.GroupWideWordsTakeEffectOnceAllHaveArrived : Prop :=
  let wide := fun (i : Instr) (vals : Env → Nat → List W64) (c : Env → State → Prop) (f : Env → List W64 → State → State) =>
    ∀ s e t u, s.issueOf? i = some (e, t) → c e t → t.clear? e = some u → e.agree (vals e) → e.coversU = true →
      ((u.group? e.gid).bind fun g => g.gw) = none →
      let w := (u.holdWide e []).modGroup e.gid fun g => { g with st := .converging, gw := some ⟨e.lane0.pc, i, vals e e.low, [(e.k, e.act)]⟩ }
      exec i s = .next ((w.wideCheck e.gid gwApply).widePass e) ∧
      (∀ g, w.group? e.gid = some g → g.st = .converging → g.gw = some ⟨e.lane0.pc, i, vals e e.low, [(e.k, e.act)]⟩ →
        (∀ k, k < g.strands.length → k ≠ e.k → (nth g.strands k (Strand.init 0 0 [])).live = false) →
        exec i s = .next ((f e (vals e e.low) w).widePass e))
  let none_ := fun (e : Env) (t : State) => ((t.group? e.gid).bind fun g => g.gw) = none
  (∀ gd p a, wide (.rswitch gd p a) (fun e l => [e.d a l]) (fun _ _ => True) fun e vs w => w.roleSwitch e.gid p (nth vs 0 0).toNat) ∧
  (∀ gd p n, wide (.reggrow gd p n) (fun e l => [e.src .i32 n l]) none_ fun e vs w =>
    let n := (nth vs 0 0).toNat
    if 1 ≤ n ∧ n ≤ 240 then w.regGrow e.gid p n else w.wideTrap e.gid .illegalEncoding) ∧
  (∀ gd n, wide (.regshrink gd n) (fun e l => [e.src .i32 n l]) none_ fun e vs w =>
    let n := (nth vs 0 0).toNat
    if 1 ≤ n ∧ n ≤ 240 then w.regShrink e.gid n else w.wideTrap e.gid .illegalEncoding) ∧
  (∀ gd p h k en, wide (.fork gd p h k en) (fun e l => [e.src .i32 h l, e.src .i32 k l, e.src .i32 en l])
    none_ fun e vs w =>
    if (w.kernelOf e.gid).any (fun q => w.forkOk q (nth vs 1 0).toNat (nth vs 2 0).toNat) then w.forkApply e.gid p vs
    else w.wideTrap e.gid .illegalEncoding) ∧
  (∀ gd h x, wide (.reward gd h x) (fun e l => [e.src .i32 h l, e.src .f32 x l]) (fun _ _ => True) fun e vs w => w.rewardApply e.gid vs) ∧
  (∀ gd d h sx, wide (.slack gd d h sx) (fun e l => [e.src .i32 h l]) (fun _ _ => True)
    fun e vs w => w.slackApply e.gid d sx vs) ∧
  (∀ gd d a r, wide (.rcomb gd d a r) (fun e l => [e.d r l])
    (fun e _ => a + 32 / min e.grp.width 32 ≤ e.grp.regs ∧ d + 32 / min e.grp.width 32 ≤ e.grp.regs)
    fun e vs w => w.rcombApply e.gid d a vs)

/-- R127 to R129, R139 to R141, R145, R147, R149 to R152, R277, R278: grants of growth, and the steps of sample groups and of their
combining. -/
def Obligations.SampleGroupStepsTakeEffect : Prop :=
  (∀ g s x k, s.group? g = some x → s.kernelOf g = some k → x.st = .growing → s.growRoom g x.want = true → (s.ctx k.cx).st = .active →
    exec (.growGrant g) s = .next ((s.modGroup g fun x => { x.growTo x.want with st := .converging }).granted g k)) ∧
  (∀ cx h places s d g k pw gs u, s.sg? cx h = some d → s.group? d.parent = some g → s.kernel? d.kernel = some k → s.wg? g.wg = some pw →
    d.st = .forming → places.length = d.k → d.fwait ≤ d.forkwait.toNat → (s.ctx cx).st = .active → (s.ctx cx).restoring = false →
    s.placeSiblings d.kernel k h (d.origin.getD g) pw d.entry places 0 = some (gs, u) →
    exec (.siblingsPlaced cx h places) s = .next
      (((u.modKernel d.kernel fun k => { k with liveWgs := k.liveWgs + d.k }).sgState cx h { d with st := .running, sibs := gs.map siblingOf, origin := none }).wideDone
        d.parent (some (d.pd, true)))) ∧
  (∀ cx h s d, s.sg? cx h = some d → d.st = .forming →
    d.forkwait.toNat ≤ d.fwait → s.forkRoom h d = none → (s.ctx cx).st = .active →
    exec (.forkwaitExpire cx h) s = .next
      ((((s.sgUnform cx h d).wideDone d.parent (some (d.pd, false))).parkObservers (4096 * cx + h)).trapAll cx)) ∧
  (∀ gd h i s e t d, s.clearOf? (.sgcancel gd h i) = some (e, t) → (e.agree fun l => [e.src .i32 h l, e.src .i32 i l]) →
    t.sgHeld e.cx (sgIndex (e.src .i32 h e.low)) = false →
    t.sgSee e.cx (sgIndex (e.src .i32 h e.low)) = some d → (e.w i e.low).toNat < d.k → d.st ≠ .free → d.st ≠ .forming →
    exec (.sgcancel gd h i) s = .next
      (((t.sgSeen e.unit e.cx (sgIndex (e.src .i32 h e.low))).finish e (done e.act)).sgCancel e.cx (sgIndex (e.src .i32 h e.low)) (e.w i e.low).toNat)) ∧
  (∀ gd r h sel s e t d, s.clearOf? (.sgq gd r h sel) = some (e, t) → (e.agree fun l => [e.src .i32 h l]) →
    (∀ u, s.issueOf? (.sgq gd r h sel) = some (e, u) → u.sgHeld e.cx (sgIndex (e.src .i32 h e.low)) = false ∧
      ∀ x, u.sgSee e.cx (sgIndex (e.src .i32 h e.low)) = some x →
        ∀ a ∈ u.sgArrays e.cx (sgIndex (e.src .i32 h e.low)) (e.w sel 0).toNat x, u.devHeld e.cx a = false) →
    t.sgSee e.cx (sgIndex (e.src .i32 h e.low)) = some d →
    exec (.sgq gd r h sel) s = .next ((((t.sgArrays e.cx (sgIndex (e.src .i32 h e.low)) (e.w sel 0).toNat d).foldl
        (fun s a => s.unitLoad e.cx a) t).sgSeen e.unit e.cx (sgIndex (e.src .i32 h e.low))).finish e ((lanesOf e.act).map fun l =>
      .reg l (.reg r) .i64 (BitVec.ofNat 64 (t.sgValue e.cx (sgIndex (e.src .i32 h e.low)) (e.w sel 0).toNat d))))) ∧
  (∀ cx h s d, s.sg? cx h = some d → d.st = .running → d.timeout ≠ 0 → d.timeout.toNat ≤ d.elapsed.toNat → (s.ctx cx).st = .active →
    exec (.sgTimeout cx h) s = .next ((d.late.map fun i => (nth d.sibs i (siblingOf 0)).grp).foldl State.sgEnd
      (if d.quorum ≤ d.narr then s.sgState cx h { d.expire with part := true, st := .gathering }
        else s.sgFinish cx h ({ d.expire with qfail := true } : SgDesc).fail))) ∧
  (∀ cx h s d, s.sg? cx h = some d → d.st = .gathering → exec (.sgResult cx h) s = .next (s.sgFinish cx h d.scored)) ∧
  (∀ cx h s d, s.sg? cx h = some d → (d.st = .scored ∨ d.st = .failed) →
    exec (.sgDrained cx h) s = .next ((s.sgState cx h { d with st := .released }).sgDrop cx h)) ∧
  (∀ die desc s o, (s.rounds.find? fun o => o.die == die && o.desc == desc &&
      (List.range o.n).all fun p => o.packets.any fun q => q.pos == p) = some o →
    exec (.rcombRoundEnd die desc) s = .next (s.endRound o
      (some (heapValue combineSum (fun p => ((o.packets.find? fun q => q.pos == p).map fun q => q.vals).getD []) o.n 7 0).1) none)) ∧
  (∀ die desc s o m, (s.rounds.find? fun o => o.die == die && o.desc == desc && o.expired && (s.ctx o.cx).st == .active) = some o →
    ((List.range o.n).find? fun p => !(o.packets.any fun q => q.pos == p)) = some m →
    exec (.rcombTimeout die desc) s = .next (s.endRound o none (some m)))

/-! ### System words (R454 to R460, R511) -/

/-- R39, R59, R60, R455 to R460, R511: the system words, and the steps that end invalidations of instruction caches and checkpoint copies. The
model's readings: icinv completes at once where the package is alone in its pod (notes/assumptions/76), and the end of a checkpoint copy
(notes/assumptions/78) counts in DLMISS (notes/assumptions/116). -/
def Obligations.SystemWordsComplete : Prop :=
  (∀ gd d n s e t, s.issueOf? (.sysrd gd d n) = some (e, t) → (n ≤ 9 ∨ (0x10 ≤ n ∧ n ≤ 0x17) ∨ (0x40 ≤ n ∧ n ≤ 0x4F)) →
    exec (.sysrd gd d n) s = .next (t.finish e ((lanesOf e.act).map fun l => .reg l d (SysReg.ty n) (t.sysVal e n l)))) ∧
  (∀ gd a s e t, s.clearOf? (.syswr gd a 6) = some (e, t) → e.act ≠ 0 →
    exec (.syswr gd a 6) s = .next ((t.setPhase e.cx (e.n .i32 a e.low % 8)).finish e (done e.act))) ∧
  (∀ gd a n s e t, s.issueOf? (.syswr gd a n) = some (e, t) → (n = 0x10 ∨ (0x14 ≤ n ∧ n ≤ 0x17)) →
    (∀ l, inMask e.act l = true → (e.u.lane l).inHandler = true ∧ (n = 0x10 → (e.d a l).toNat % 8 = 0)) →
    exec (.syswr gd a n) s = .next
      ((t.modUnit e.ag fun u => u.mapLanes (inMask e.act) fun l x => x.setSys n (e.d a l)).finish e (done e.act))) ∧
  (∀ gd a s e t, s.issueOf? (.dbgmark gd a) = some (e, t) →
    bitAt (nth t.mgmt.tracemask (e.cx / 64) 0).toNat (e.cx % 64) = true → e.act ≠ 0 →
    exec (.dbgmark gd a) s = .next (({ t with mgmt := { t.mgmt with trace := t.mgmt.trace ++
      [⟨t.dtime, e.cx, e.core / 256, e.core % 256, e.u.slot, e.w a e.low⟩] } } : State).finish e (done e.act))) ∧
  (∀ gd d n s e t, s.issueOf? (.perfc gd d n) = some (e, t) → n < 8 →
    exec (.perfc gd d n) s = .next (t.finish e ((lanesOf e.act).map fun l =>
      .reg l d .i64 (tabGet (t.ctx e.cx).perf 0 (8 * e.core + n))))) ∧
  (∀ gd a n s e t, s.clearOf? (.icinv gd a n) = some (e, t) → e.u.stall = none → (e.agree fun l => [e.src .i64 a l, e.src .i32 n l]) →
    (∀ u, s.issueOf? (.icinv gd a n) = some (e, u) → u.icinvCheck e (e.d a e.low).toNat (e.w n e.low).toNat = none) →
    e.w n e.low ≠ 0 → t.liveRanks = [t.fab.rank] →
    exec (.icinv gd a n) s = .next ((t.dropCode e.cx (e.d a e.low).toNat (e.w n e.low).toNat).finish e (done e.act))) ∧
  (∀ gd a n ep s e t ws locs u bs v, s.clearOf? (.ckptmark gd a n ep) = some (e, t) →
    (e.agree fun l => [e.src .i64 a l, e.src .i32 n l, e.src .i32 ep l]) → 1 ≤ (e.w n e.low).toNat → (e.w n e.low).toNat ≤ 64 →
    (e.d a e.low).toNat % 16 = 0 → (e.d a e.low).toNat < 2^62 →
    t.loadList e (e.d a e.low).toNat (2 * (e.w n e.low).toNat) = (.ok (ws, locs), u) →
    (∀ x ∈ locs, t.mustWait e 8 Need.load x = false) → u.ckptBufs e ws = (.ok bs, v) →
    v.ckptEntryCheck bs (e.d a e.low).toNat = none →
    exec (.ckptmark gd a n ep) s = .next ((v.mark e.cx e.kid bs (e.w ep e.low)).finish e (done e.act))) ∧
  (∀ id s x, (s.icinvs.find? fun x => x.id == id) = some x → x.dropped = false →
    exec (.icinvInvalidate id) s = .next ((s.dropCode x.cx x.addr x.len).modIcinv id fun x => { x with dropped := true })) ∧
  (∀ id rank s x, (s.icinvs.find? fun x => x.id == id) = some x → rank ∈ x.acks → (rank = s.fab.rank → x.dropped = true) →
    exec (.icinvAck id rank) s = .next ((s.modIcinv id fun x => { x with acks := x.acks.erase rank }).icinvEnd id)) ∧
  (∀ cx h s c u, (s.ckpts.find? fun c => c.cx == cx && c.handle == h) = some c →
    s.rangeReady cx c.buf.view c.buf.len false = true → s.rangeReady cx c.dest c.buf.len false = true →
    s.ckptParts cx c.buf.view c.dest c.buf.len (2 * (c.buf.len / 64 + 2)) = (none, u) →
    exec (.checkpointCopyDone cx h) s = .next ((u.ckptDone cx h).served 2056 c.due)) ∧
  (∀ cx h c s, (s.ckpts.any fun c => c.cx == cx && c.handle == h) = true → (c = .peerLost ∨ c = .integrity ∨ c = .permission) →
    exec (.checkpointCopyFail cx h c) s = .next (s.ckptFail cx h))

/-! ### Contexts (R33 to R60, R82) -/

/-- R35, R36, R41, R44: each context command, in the states where it takes effect. -/
def Obligations.ContextCommandsMoveTheirContext : Prop :=
  ∀ cx s, cx < 256 → s.isReady = true →
    ((s.ctx cx).st = .free → ∃ t, exec (.build cx) s = .next t ∧ (t.ctx cx).st = .building ∧ (t.ctx cx).lastcmd = 1 ∧
      (t.ctx cx).rej = false ∧ (t.ctx cx).rlease = 50000 ∧ (t.ctx cx).tlease = 20000 ∧ ∀ c, c ≠ cx → t.ctx c = s.ctx c) ∧
    ((s.ctx cx).st = .building → (s.ctx cx).commitOk s.fab.rank = true →
      exec (.commit cx) s = .next (s.modCtx cx fun c => { c with st := .ready, lastcmd := 2 })) ∧
    ((s.ctx cx).st = .active →
      exec (.preempt cx) s = .next ((s.modCtx cx fun c => { c with st := .preempting, bySched := false, lastcmd := 3 }).stopCtx cx)) ∧
    ((s.ctx cx).st = .building → exec (.destroy cx) s = .next (s.modCtx cx fun c => { c with st := .free, lastcmd := 4 })) ∧
    ((s.ctx cx).st = .ready ∨ (s.ctx cx).st = .active ∨ (s.ctx cx).st = .saved →
      exec (.destroy cx) s = .next (s.drainCtx cx (s.kernelsOf cx KState.busy))) ∧
    ((s.ctx cx).st = .faulted → exec (.destroy cx) s = .next (s.drainCtx cx (s.kernelsOf cx fun k => k == .queued))) ∧
    ((s.ctx cx).st = .faulted → ∃ t, exec (.clear cx) s = .next t ∧ (t.ctx cx).st = .ready ∧ (t.ctx cx).lastcmd = 5)

/-- R37, R44, R229: a context command in a state where the table gives it no transition, and a COMMIT that fails its checks, set REJ and change
nothing else: LASTCMD stays that of the last command accepted (R36). -/
def Obligations.ContextCommandsAreRejectedElsewhere : Prop :=
  ∀ cx s, cx < 256 → s.isReady = true →
    let rejected := s.modCtx cx fun c => { c with rej := true }
    ((s.ctx cx).st ≠ .free → exec (.build cx) s = .next rejected) ∧
    ((s.ctx cx).st ≠ .building → exec (.commit cx) s = .next rejected) ∧
    ((s.ctx cx).st = .building → (s.ctx cx).commitOk s.fab.rank = false → exec (.commit cx) s = .next rejected) ∧
    ((s.ctx cx).st ≠ .active → exec (.preempt cx) s = .next rejected) ∧
    ((s.ctx cx).st = .free ∨ (s.ctx cx).st = .preempting ∨ (s.ctx cx).st = .draining → exec (.destroy cx) s = .next rejected) ∧
    ((s.ctx cx).st ≠ .faulted → exec (.clear cx) s = .next rejected)

/-- R36, R38, R39, R42, R44, R52, R55, R82: writes of context registers, and the steps that grant, take away, save and restore. That CUR is CEIL in
the very step of the BUDGET write is the model's choice (notes/assumptions/42). -/
def Obligations.ContextStepsTakeEffect : Prop :=
  (∀ cx v s, cx < 256 → exec (.phaseWrite cx v) s = .next (s.setPhase cx v.toNat)) ∧
  (∀ cx v s, cx < 256 → s.mgmt.coolOut = false → s.mgmt.hot = false → ∃ t, exec (.budgetWrite cx v) s = .next t ∧
    (t.ctx cx).floor = v.extractLsb' 32 16 ∧ (t.ctx cx).ceil = v.extractLsb' 16 16 ∧ (t.ctx cx).cur = v.extractLsb' 16 16) ∧
  (∀ cx (v : W64) s, cx < 256 → exec (.ctxstatWrite cx v) s = .next (s.modCtx cx fun c => { c with rej := c.rej && !v.getLsbD 16 })) ∧
  (∀ cx (v : W64) s, cx < 256 → exec (.ckptstatWrite cx v) s = .next (s.modCtx cx fun c => { c with cerr := c.cerr && !v.getLsbD 16 })) ∧
  (∀ cx v s, cx < 256 → (s.mgmt.coolOut = true ∨ s.mgmt.hot = true) → min (s.ctx cx).floor.toNat (s.ctx cx).ceil.toNat ≤ v.toNat →
    v.toNat < (s.ctx cx).cur.toNat → exec (.budgetCurChange cx v) s = .next (s.modCtx cx fun c => { c with cur := v })) ∧
  (∀ cx s, s.firstWaiting = some cx → s.waitsForSlot cx = true → s.slotHolders.length < 16 → (s.ctx cx).st ≠ .saved →
    exec (.contextDispatch cx) s = .next (s.modCtx cx fun c =>
      { c with st := .active, restoring := false, dispatched := s.clk, waitSince := none })) ∧
  (∀ cx s, s.firstWaiting = some cx → s.waitsForSlot cx = true → s.slotHolders.length < 16 → (s.ctx cx).st = .saved →
    ∃ t, exec (.contextDispatch cx) s = .next t ∧ (t.ctx cx).st = .active ∧ (t.ctx cx).restoring = true) ∧
  (∀ cx w s, s.firstWaiting = some w → s.slotHolders.length = 16 → (s.ctxs.any fun (_, c) => c.st == .preempting && c.bySched) = false →
    s.victim (s.rankOf w) = some cx → exec (.schedulerPreempt cx) s = .next (s.preemptBy cx true)) ∧
  (∀ cx s u, (s.ctx cx).st = .preempting → s.saveReady cx = true →
    let s1 := (s.sgs.filter fun (key, _) => key / 4096 == cx).foldl (fun s (key, _) => s.sgWriteBack cx (key % 4096)) s
    s1.writeImage cx = .ok u →
    let u1 := u.markRanges cx true
    exec (.saveDone cx none) s = .next ((((u1.liveWgs cx).map Prod.fst).foldl
      (fun s w => if (u.ctx cx).restoring then s.modWg w fun w => { w with saved := true } else s.saveWg w) u1).modCtx cx fun c =>
      { c with st := .saved, saveseq := c.saveseq + 1, bySched := false, restoring := false })) ∧
  (∀ cx s u, (s.ctx cx).st = .active → (s.ctx cx).restoring = true →
    s.restoreWgs cx (sectionIn (s.imageDir cx)) ((s.liveWgs cx).map Prod.fst) = .ok u →
    let v := (u.kernelsOf cx fun k => k == .saved).foldl (fun s k => s.modKernel k fun k => { k with st := k.savedFrom }) u
    exec (.restoreDone cx none) s = .next
      ((((v.markRanges cx false).modCtx cx fun c => { c with restoring := false }).dropWays cx).ctxIdle cx)) ∧
  (∀ cx s, (s.ctx cx).st = .draining → s.engineBusy cx = false → s.kernelsOf cx KState.busy = [] →
    exec (.contextDrainDone cx) s = .next
      (({ s with sgs := s.sgs.filter fun e => e.1 / 4096 != cx, gens := s.gens.filter fun e => e.1 / 4096 != cx } : State).modCtx cx fun c => { c with st := .free }))

/-! ### Queues (R61 to R85) -/

/-- R62, R64 to R66, R70, R79, R83, R84: queue commands and writes of queue registers, where they take effect and where they set REJ alone. -/
def Obligations.QueueCommandsTakeEffect : Prop :=
  (∀ q s, q < 1024 → s.isReady = true → (s.queue q).st = .disabled → 3 ≤ (s.queue q).rlog2 → (s.queue q).rlog2 ≤ 16 →
    3 ≤ (s.queue q).clog2 → (s.queue q).clog2 ≤ 12 → baseOk (s.queue q).qring 256 = true → baseOk (s.queue q).qcring 64 = true →
    baseOk (s.queue q).qtape (2^22) = true → (s.ctx (s.queue q).cx).st ≠ .free →
    ∃ t, exec (.enable q) s = .next t ∧ (t.queue q).st = .idle ∧ (t.queue q).qhead = (s.queue q).qiseq ∧
      (t.queue q).qtail = (s.queue q).qiseq ∧ (t.queue q).qcseq = (s.queue q).qicseq ∧ (t.queue q).qchead = (s.queue q).qicseq ∧
      (t.queue q).lastcmd = 1) ∧
  (∀ q s, q < 1024 → s.isReady = true → (s.queue q).st ≠ .disabled → (s.queue q).st ≠ .draining → (s.queue q).st ≠ .dispatching →
    exec (.disable q) s = .next ((s.modQueue q fun x => { x with lastcmd := 2 }).drainQueue q)) ∧
  (∀ q s, q < 1024 → s.isReady = true → (s.queue q).st = .dispatching →
    exec (.disable q) s = .next (((s.takeNow q).modQueue q fun x => { x with lastcmd := 2 }).drainQueue q)) ∧
  (∀ q s, q < 1024 → s.isReady = true → (s.queue q).st = .stalled → ((s.queue q).stallRev = false ∨ (s.queue q).rev = none) →
    ∃ t, exec (.resume q) s = .next t ∧ (t.queue q).st = .idle ∧ (t.queue q).scause = .none ∧ (t.queue q).lastcmd = 3 ∧
      (t.queue q).qhead = (s.queue q).qhead) ∧
  (∀ q s, q < 1024 → s.isReady = true → (s.queue q).st = .stalled → ((s.queue q).stallRev = false ∨ (s.queue q).rev = none) →
    ∃ t : State, ∃ u : State, exec (.skip q) s = .next t ∧ (u.queue q).qhead = (s.queue q).qhead + 1 ∧ (u.queue q).st = .idle ∧
      t = u.complete q (simpleRec (s.queue q).qhead.toNat (s.queue q).stallTyp 2 s.dtime)) ∧
  (∀ q s r r' d, q < 1024 → s.isReady = true → (s.queue q).st = .stalled → (s.queue q).stallRev = true → (s.queue q).rev = some r →
    let t := s.modQueue q fun x => { x with scause := .none, lastcmd := 3, stallRev := false }
    t.revNext (s.queue q) { r with kernel := none, since := s.dtime } = (r', d, .kernel) →
    exec (.resume q) s = .next (t.modQueue q fun x => { x with st := .blocked, hold := 4, rev := some r', depth := d })) ∧
  (∀ q s r, q < 1024 → s.isReady = true → (s.queue q).st = .stalled → (s.queue q).stallRev = true → (s.queue q).rev = some r →
    (s.queue q).scause = .revabort → exec (.skip q) s = .next
      ((s.modQueue q fun x => { x with st := .idle, scause := .none, lastcmd := 4 }).revComplete q r (some (s.revEnding r)))) ∧
  (∀ q s, q < 1024 → s.isReady = true →
    let rejected := s.modQueue q fun x => { x with rej := true }
    ((s.queue q).st ≠ .disabled → exec (.enable q) s = .next rejected) ∧
    (((s.queue q).rlog2 < 3 ∨ 16 < (s.queue q).rlog2 ∨ (s.queue q).clog2 < 3 ∨ 12 < (s.queue q).clog2 ∨ baseOk (s.queue q).qring 256 = false ∨
        baseOk (s.queue q).qcring 64 = false ∨ baseOk (s.queue q).qtape (2^22) = false ∨ (s.ctx (s.queue q).cx).st = .free) →
      exec (.enable q) s = .next rejected) ∧
    (((s.queue q).st = .disabled ∨ (s.queue q).st = .draining) → exec (.disable q) s = .next rejected) ∧
    ((s.queue q).st ≠ .stalled → exec (.resume q) s = .next rejected ∧ exec (.skip q) s = .next rejected) ∧
    (((s.queue q).st = .armed ∨ (s.queue q).st = .dispatching ∨ (s.queue q).st = .blocked ∨ (s.queue q).st = .draining) →
      exec (.tapeclr q) s = .next rejected)) ∧
  (∀ q (v : W64) s, q < 1024 → (s.queue q).st = .disabled →
    exec (.qtailWrite q v) s = .next (s.modQueue q fun x => { x with rej := true }) ∧
    exec (.qcheadWrite q v) s = .next (s.modQueue q fun x => { x with rej := true })) ∧
  (∀ q s, q < 1024 → s.isReady = true → ((s.queue q).st = .disabled ∨ (s.queue q).st = .idle ∨ (s.queue q).st = .stalled) →
    exec (.tapeclr q) s = .next (s.modQueue q fun x => { x with depth := 0, lastcmd := 5 })) ∧
  (∀ q (v : W64) s, q < 1024 → (s.queue q).st ≠ .disabled →
    exec (.qtailWrite q v) s = .next (s.modQueue q fun x => { x with qtail := if x.qtail.ult v then v else x.qtail })) ∧
  (∀ q (v : W64) s, q < 1024 → (s.queue q).st ≠ .disabled →
    exec (.qcheadWrite q v) s = .next (s.modQueue q fun x => { x with qchead := if x.qchead.ult v then v else x.qchead })) ∧
  (∀ q v s, q < 1024 → ∃ t, exec (.qwakeWrite q v) s = .next t ∧ (t.queue q).wake = true) ∧
  (∀ q (v : W64) s, q < 1024 → exec (.qstatWrite q v) s = .next (s.modQueue q fun x =>
    { x with tovf := x.tovf && !v.getLsbD 19, wake := x.wake && !v.getLsbD 18, rej := x.rej && !v.getLsbD 16 }))

/-- R65: a write of QCMD, at its control address, gives the command of its lowest byte. The bits above it are reserved. A value that is
no command sets REJ and changes nothing else. -/
def Obligations.QueueCommandValuesGiveTheirCommands : Prop :=
  ∀ q (v : W64) s, q < 1024 → s.isReady = true → s.fab.rank < 64 →
    let out := exec (.registerWrite (blockBase + 2^20 * s.fab.rank + 0x10000 + 0x80 * q + 0x20) v) s
    (v.toNat % 256 = 1 → out = exec (.enable q) s) ∧
    (v.toNat % 256 = 2 → out = exec (.disable q) s) ∧
    (v.toNat % 256 = 3 → out = exec (.resume q) s) ∧
    (v.toNat % 256 = 4 → out = exec (.skip q) s) ∧
    (v.toNat % 256 = 5 → out = exec (.tapeclr q) s) ∧
    (v.toNat % 256 = 0 ∨ 5 < v.toNat % 256 → out = .next (s.modQueue q fun x => { x with rej := true }))

/-- R69, R72, R73, R77, R78, R80, R101, R240: the records of a queue that the scheduler chooses, and what happens to its holds. The model's readings
and choices: a MARK whose push is refused completes (notes/assumptions/19), the other bytes of a mark's entry stay (notes/assumptions/18), and
reading a record is a request to memory (notes/assumptions/116). -/
def Obligations.QueueRecordsTakeEffect : Prop :=
  (∀ q (s : State) rec, s.takeDue = true → s.chosen q false = true → s.head q = .record rec →
    s.choose q = .next ((s.modQueue q fun x => { x with st := .dispatching, disp := some rec }).requestAt 2059 0 (s.queue q).cx
      ((s.queue q).slotAt (s.queue q).qhead.toNat))) ∧
  (∀ q s rec, (s.queue q).st = .dispatching → (s.queue q).disp = some rec → recError rec = none →
    (recType rec = 1 → exec (.launchRecord q) s = .next ((s.takeHead q 1).launch (s.launchOf q rec))) ∧
    (recType rec = 2 → exec (.reverse q) s = .next (s.takeReverse q)) ∧
    (recType rec = 3 → (s.queue q).pushRefused = true → exec (.mark q) s = .next
      ((s.modQueue q fun x => { x with tovf := x.tovf || x.depth == 65536 }).takeDone q 3)) ∧
    (recType rec = 3 → (s.queue q).pushRefused = false → ∀ t u,
      s.devWrite (s.queue q).cx ((s.queue q).entryAt (s.queue q).depth) (leBytes 8 2) = some t →
      t.devWrite (s.queue q).cx ((s.queue q).entryAt (s.queue q).depth + 0x18) (leBytes 8 (wordAt rec 2 % 2^32)) = some u →
      exec (.mark q) s = .next ((u.modQueue q fun x => { x with depth := x.depth + 1 }).takeDone q 3)) ∧
    (recType rec = 4 → (∀ b, s.waitMet (s.queue q) rec = .ok b → exec (.wait q) s = .next (s.takeDone q 4)) ∧
      ∀ c, s.waitMet (s.queue q) rec = .error c → exec (.wait q) s = .next (s.takeError q c 4)) ∧
    (recType rec = 5 → ∀ v t,
      (match wordAt rec 4 % 4 with
        | 0 => v = wordAt rec 3
        | 1 => ∃ bs, s.devRead (s.queue q).cx (wordAt rec 2) 8 = some bs ∧ v = (leNat bs + wordAt rec 3) % 2^64
        | _ => ∃ bs, s.devRead (s.queue q).cx (wordAt rec 2) 8 = some bs ∧ v = max (leNat bs) (wordAt rec 3)) →
      s.devWrite (s.queue q).cx (wordAt rec 2) (leBytes 8 v) = some t →
      exec (.signalRecord q) s = .next
        ((if bitAt (wordAt rec 4) 31 then t.modQueue (bits (wordAt rec 4) 25 16) Queue.signal else t).takeDone q 5)) ∧
    (recType rec = 6 → exec (.phaseRecord q) s = .next ((s.setPhase (s.queue q).cx (wordAt rec 2 % 8)).takeDone q 6)) ∧
    (recType rec = 7 → exec (.nopRecord q) s = .next (s.takeDone q 7))) ∧
  (∀ q s r i is, s.chosen q true = true → (s.queue q).rev = some r → r.todo = i :: is →
    exec (.reverseNextKernel q) s = .next (s.launchTape q r i)) ∧
  (∀ q s rec, (s.queue q).st = .blocked → s.head q = .record rec → s.holdOf q rec = .ok 0 →
    exec (.holdRelease q) s = .next (s.modQueue q fun x => { x with st := .armed, hold := 0, ready := some (x.ready.getD s.dtime) })) ∧
  (∀ q s rec t h, (s.queue q).st = .blocked → s.head q = .record rec → (s.queue q).ready = some t → recType rec = 4 →
    s.holdOf q rec = .ok h → h ≠ 0 →
    wordAt rec 4 / 2^32 ≠ 0 → t.toNat + wordAt rec 4 / 2^32 ≤ s.dtime.toNat →
    exec (.waitTimeout q) s = .next (s.modQueue q fun x =>
      { x with st := .stalled, scause := .waitto, qwait := x.qhead, hold := 0, disp := none, stallTyp := 4 }))

/-! ### Kernels, clauses and traps (R46 to R49, R86 to R107, R117, R130, R307 to R309) -/

/-- R88 to R106, R130: the steps of a kernel's life. -/
def Obligations.KernelStepsTakeEffect : Prop :=
  (∀ k s x, s.kernel? k = some x → x.st = .queued → (s.ctx x.cx).st ≠ .faulted → x.deps.all s.depMet = true →
    (x.grid.1 * x.grid.2.1 * x.grid.2.2 = 0 → exec (.kernelAdmit k) s = .next (s.finishKernel k)) ∧
    (x.grid.1 * x.grid.2.1 * x.grid.2.2 ≠ 0 →
      exec (.kernelAdmit k) s = .next (((s.modKernel k fun x => { x with st := .ranging }).rangeOn k).preWake x.cx))) ∧
  (∀ k s x ls bs, s.kernel? k = some x → s.kernelLeaves x = some ls → x.st = .ranging → s.leasable x (firstEach ls) = true →
    ((s.ctx x.cx).faults.any fun f => f.kernels.contains k) = false →
    let t := ((firstEach ls).foldl (fun s l => s.leasePage x.cx l) s).modKernel k fun x => { x with leased := (firstEach ls).map Prod.fst }
    t.devReadN x.cx x.params ((x.plen + 7) / 8) = some bs → x.pcopy = 0 →
    exec (.kernelLeased k) s = .next (t.modKernel k fun x => { x with st := .ready, pblock := bs.take x.plen, readySince := t.dtime })) ∧
  (∀ k s x, s.kernel? k = some x → x.leased ≠ [] → exec (.leaseRenewal k) s = .next s) ∧
  (∀ k p s x wid t u, s.kernel? k = some x → s.placing x = true →
    let w := wgAt k x x.nextWg p none
    s.addWg x w p (if x.centry.isSome then some (ctAt x p.ctIdx (x.xyz x.nextWg) (w.coreAt 0)) else none) = some (wid, t) →
    t.addGroups x wid w x.specs 0 0 p.strands = some u → u.waysFit w = true →
    exec (.workgroupPlaced k p) s = .next (u.modKernel k fun y => { y with
      nextWg := y.nextWg + 1, liveWgs := y.liveWgs + 1
      st := if y.nextWg + 1 = x.grid.1 * x.grid.2.1 * x.grid.2.2 then .running else .dispatching })) ∧
  (∀ g s x, s.group? g = some x → x.st = .loading → (s.ctx (s.cxOfWg x.wg)).st = .active →
    exec (.groupLoaded g) s = .next (s.loadGroup g)) ∧
  (∀ k s x, s.kernel? k = some x → x.st = .draining → s.quiet k x = true →
    let t := (s.kernelAgents k).foldl State.drain s
    (s.kernelAgents k).all t.drained = true → exec (.kernelQuiet k) s = .next (t.finishKernel k))

/-- R47 to R49, R117, R307 to R309: fetching a clause, yielding at its end, entering a handler. -/
def Obligations.IssueStepsTakeEffect : Prop :=
  (∀ ag s u w k k0 ks c t, s.mayIssue ag = some (u, w, k) → lanesOf u.path = k0 :: ks → (u.lane k0).inClause = false →
    s.fetchHeld k (s.coreOf ag) (u.lane k0).pc = false → s.fetchClause k (s.coreOf ag) (u.lane k0).pc = (.ok c, t) →
    exec (.clauseFetch ag) s = .next (t.modUnit ag fun u =>
      { u.mapLanes (inMask u.path) (fun _ l =>
          if l.inClause then l else { l with inClause := true, hdr := (u.lane k0).pc, pc := (u.lane k0).pc + 8, cwi := 0 }) with
        clause := some c }).tick) ∧
  (∀ g k s u w x k0 ks, s.mayIssue (.strand g k) = some (u, w, x) → lanesOf u.path = k0 :: ks → (u.lane k0).inClause = false →
    256 ≤ u.swash → u.yieldPath.cur ≠ u.cur → exec (.swashYield g k) s = .next (s.modUnit (.strand g k) Strand.yieldPath)) ∧
  (∀ ag s u w k, s.mayIssue ag = some (u, w, k) → s.trapDue ag u = true →
    exec (.trapEntry ag) s = .next (s.trapStep ag))

/-! ### Pages and segments (R217 to R242) -/

/-- R218, R226, R227, R229 to R231, R234, R235: translation commands, verdicts and page moves. The model's readings: ZERO covers both frames of a
DUAL page (notes/assumptions/24), and ZERO and page moves are served as one requester under R245 and R246 (notes/assumptions/116). -/
def Obligations.PageStepsTakeEffect : Prop :=
  let ready := fun (s : State) (cx page : Nat) (l : Leaf) => cx < 256 ∧ s.isReady = true ∧ (s.ctx cx).xcmd = none ∧ s.pageOk page = true ∧
    s.leaf cx page = .ok l ∧ s.pageState cx page l < 3
  (∀ cx page s l, ready s cx page l → exec (.unmap cx page) s = .next
    (({ (s.modCtx cx fun c => { c with xres := 0, xcmd := some ⟨1, page, s.leaseEnd cx page l⟩ }) with
      pages := s.pages.filter fun p => !(p.cx == cx && p.vpage == l.page page) } : State).mapPte l fun e =>
        pteSetState (pteSetBit e 63 false) 6)) ∧
  (∀ cx page s l, ready s cx page l → exec (.protect cx page) s = .next
    ((s.modCtx cx fun c => { c with xres := 0, xcmd := some ⟨2, page, s.leaseEnd cx page l⟩ }).mapPte l fun e =>
      pteSetBit (pteSetBit e 60 false) 59 false)) ∧
  (∀ cx page s l, ready s cx page l → exec (.zero cx page) s = .next
    (s.modCtx cx fun c => { c with xres := 0, xcmd := some ⟨3, page, s.dueIn 2⟩ })) ∧
  (∀ cx page s x, (s.ctx cx).xcmd = some x → x.page = page → (x.op = 1 ∨ x.op = 2) → x.expiry.toNat ≤ s.dtime.toNat →
    exec (.translationLeaseExpire cx page) s = .next (s.modCtx cx fun c => { c with xcmd := none })) ∧
  (∀ cx page s x l, (s.ctx cx).xcmd = some x → x.page = page → x.op = 3 →
    s.leaf cx page = .ok l → s.segsActive (s.frameSegs page l) = true →
    let t := ((s.modCtx cx fun c => { c with xcmd := none }).served 2056 x.expiry).segsUse cx (s.frameSegs page l)
    exec (.zeroDone cx page) s = .next (t.zeroBytes cx (t.frames page l).1 (t.frames page l).2)) ∧
  (∀ cx seq s, exec (.resolved cx seq) s = .next (s.verdict cx seq true)) ∧
  (∀ cx seq s, exec (.refused cx seq) s = .next (s.verdict cx seq false)) ∧
  (∀ cx v s, exec (.xfheadWrite cx v) s = .next (s.raiseXfhead cx v)) ∧
  (∀ cx page s l m, s.leaf cx page = .ok l → (s.page cx (l.page page)).moving = some (1, m) →
    segDie (pteFrame l.pte / 2^30) = (maskDies m).headD 0 →
    exec (.pageMoveDone cx page (pteFrame l.pte)) s = .next
      ((s.setPage { s.page cx (l.page page) with moving := none }).served 2056 (s.page cx (l.page page)).due)) ∧
  (∀ cx page frame s l m, s.leaf cx page = .ok l → (s.page cx (l.page page)).moving = some (1, m) → frame ≠ pteFrame l.pte →
    s.frameFree (s.frames page l).2 l.psize frame ((maskDies m).headD 0) false = true →
    let gs := s.frameSegs page l ++ segsFrom frame (s.frames page l).2
    s.segsActive gs = true →
    let t := ((s.segsUse cx gs).setPage { s.page cx (l.page page) with moving := none }).moveData (s.frames page l).1
      (tensorPhys s.fab.rank frame) (s.frames page l).2
    exec (.pageMoveDone cx page frame) s = .next
      ((t.mapPte l fun e => e - pteFrame e + frame).served 2056 (s.page cx (l.page page)).due)) ∧
  (∀ cx page s l, s.leaf cx page = .ok l → (s.page cx (l.page page)).discard = true → (s.page cx (l.page page)).leases = 0 →
    (s.page cx (l.page page)).repl ≠ [] → (s.leaseEnd cx page l).toNat ≤ s.dtime.toNat →
    exec (.replicaDiscard cx page) s = .next (s.setPage { s.page cx (l.page page) with discard := false, repl := [] }))

/-- R237 to R242, R250: segments go off, on, idle, to retention and back, and a row is replaced. -/
def Obligations.SegmentStepsTakeEffect : Prop :=
  (∀ g s, s.isReady = true → g < 824 → s.wakers g = [] → s.poolSeg g = false → s.mirrorSeg g = false →
    ∃ t, exec (.off g) s = .next t ∧ (t.seg g).tide = .off ∧ (t.seg g).waking = false ∧ t.mb.tideSeg = g) ∧
  (∀ g s, s.isReady = true → g < 824 → exec (.on g) s = .next (({ s with mb := { s.mb with tideSeg := g } } : State).wakeSeg g)) ∧
  (∀ v s, exec (.tidecmdWrite v) s = .next (s.tideCmd v.toNat)) ∧
  (∀ g s, g < 824 → (s.seg g).waking = false → s.kept g = false → (s.seg g).tide = .active →
    s.segTimer g (fun p => p.idlet.toNat) ≠ 0 →
    (s.seg g).last.toNat + 1000 * s.segTimer g (fun p => p.idlet.toNat) ≤ s.dtime.toNat →
    exec (.idleTimeout g) s = .next (s.modSeg g fun x => { x with tide := .idle, last := s.dtime })) ∧
  (∀ g s, g < 824 → (s.seg g).waking = false → s.kept g = false → (s.seg g).tide = .idle →
    s.segTimer g (fun p => p.rett.toNat) ≠ 0 →
    (s.seg g).last.toNat + 1000 * s.segTimer g (fun p => p.rett.toNat) ≤ s.dtime.toNat →
    exec (.retentionTimeout g) s = .next (s.modSeg g fun x => { x with tide := .retention, last := s.dtime })) ∧
  (∀ g s, (s.seg g).waking = true →
    exec (.segmentWakeDone g) s = .next (s.modSeg g fun x => { x with tide := .active, waking := false, last := s.dtime })) ∧
  (∀ id s r, (s.mgmt.spares.find? fun r => r.id == id) = some r → exec (.rowSpareSwitch id) s = .next { s with mgmt := { s.mgmt with
    spares := s.mgmt.spares.filter fun x => x.id != id
    rowCount := tabErase s.mgmt.rowCount (rowKey ⟨r.stack, r.bank, r.row⟩) } })

/-! ### The memory service (R184 to R216, R241 to R262, R265, R327, R421 to R424) -/

/-- R184, R187 to R193, R195, R197, R198, R201, R215, R246, R249, R265, R327: results land, stores are performed, fills return, lines are
invalidated and owned, and writes reach their home, their mirror and their replicas. R190, R249. The model's readings and choices: when a program
time advances (notes/assumptions/119), a store's landing at MIRROR_ACK (notes/assumptions/143), and the requests for the dies' agents and for
evictions (notes/assumptions/116). -/
def Obligations.MemoryServiceStepsTakeEffect : Prop :=
  (∀ id s p, (s.pend.find? fun p => p.id == id && p.ready) = some p →
    exec (.longLatencyResult id) s = .next { (s.landWrites p.ag p.writes) with pend := s.pend.filter fun x => x.id != id }) ∧
  (∀ ag s q, s.headStore ag = some q → s.storeInFlight ag = false → s.replicated (s.cxOf ag) q.va = false → s.rebuilding q.at_ = false →
    (s.storeHeld ag q = true → exec (.storePerform ag) s = .next (s.storeAsk ag q)) ∧
    (s.storeHeld ag q = false → ¬(q.at_ < 2^43 ∧ homeRank q.at_ ≠ s.fab.rank) →
      exec (.storePerform ag) s = .next (s.performStore ag)) ∧
    (s.storeHeld ag q = false → q.at_ < 2^43 → homeRank q.at_ ≠ s.fab.rank → exec (.storePerform ag) s = .next
      ((s.popStore ag).homeSend (some ag) (s.cxOf ag) (s.unitOf ag) (s.pageShared (s.cxOf ag) q.va)
        q.parts q.issued (some (s.coreOf ag, q.due))).2)) ∧
  (∀ id s m, (s.misses.find? fun m => m.id == id) = some m → s.rebuilding m.line = false → ∃ t, exec (.missFill id []) s = .next t ∧
    t.misses = s.misses.filter (fun x => x.id != id) ∧ t.mem = s.mem ∧
    (s.fillKept m = true → ∃ x ∈ t.l1, x.core = m.unit ∧ x.line = m.line ∧ x.data = memRead s.mem m.line 64)) ∧
  (∀ id s m er, (s.misses.find? fun m => m.id == id) = some m → s.rebuilding m.line = false → er.stack < 16 → er.bank < 2^16 →
    ∃ t, exec (.missFill id [er]) s = .next t ∧
      tabGet t.mgmt.softCount 0 er.stack = tabGet s.mgmt.softCount 0 er.stack + 1) ∧
  (∀ u s, u ≤ devUnit → s.clk.toNat % 64 = 63 → tabGet s.ptsAt 0 u ≤ s.span → exec (.ptsTick u) s = .next { s with
    pts := tabSet s.pts u (s.ptsOf u + 1), ptsAt := tabSet s.ptsAt u (s.span + 1) }) ∧
  (∀ die line s, die < 8 → line < 2^43 → s.dieHolds die (lineOf line) = false → ∃ t, exec (.invalidation die line) s = .next t ∧
    t.dirAt die (lineOf line) = .invalid ∧ (∀ x ∈ t.l1, x.core / 256 = die → x.line ≠ lineOf line) ∧ (die, lineOf line) ∉ t.inval) ∧
  (∀ die line s, die < 8 → line < 2^43 → s.rebuilding line = false →
    (s.agentsIn die (lineOf line) true ≠ [] → exec (.upgradeRequest die line) s = .next (s.askAgents die (lineOf line) true)) ∧
    (s.agentsIn die (lineOf line) true = [] →
      let t := (s.ctlOwn die (lineOf line)).request (2076 + die) 0 (lineOf line)
      (t.storers die (lineOf line) = [] → exec (.upgradeRequest die line) s = .next t) ∧
      (∀ ag rest, t.storers die (lineOf line) = ag :: rest → t.storeInFlight ag = false →
        (∀ q, t.headStore ag = some q → t.storeBefore ag q = false) → homeRank (lineOf line) = s.fab.rank →
        exec (.upgradeRequest die line) s = .next (t.performStore ag)))) ∧
  (∀ id s h, (s.homes.find? fun h => h.id == id && !h.applied) = some h →
    (∀ x ∈ s.homes, x.ag = h.ag → x.core = h.core → h.id ≤ x.id) →
    (s.homeHeld h = false → exec (.homeWrite id) s = .next (s.homeApply h)) ∧
    (s.homeHeld h = true → exec (.homeWrite id) s = .next (s.homeAsk h))) ∧
  (∀ id s h, (s.homes.find? fun h => h.id == id && h.applied) = some h →
    (s.homeHeld h = false → exec (.mirrorAck id) s = .next (s.homeLand h)) ∧
    (s.homeHeld h = true → exec (.mirrorAck id) s = .next (s.homeAsk h))) ∧
  (∀ rank cx ofs data s, rank < s.fab.podsize → rank ≠ s.fab.rank → bitAt s.fab.lostmap.toNat rank = false → cx < 256 → ofs < 2^48 →
    s.inNode (inHbm ofs) (s.ownVa ofs) data.length = true →
    (s.inWriteOk cx (s.ownVa ofs) data.length = true → exec (.engineWriteAccept rank cx ofs data) s = .next
      (({ s with nextId := s.nextId + 1, inWrites := s.inWrites ++ [⟨s.nextId, rank, cx, ofs, data⟩] } : State).rangeWake cx
        (s.ownVa ofs) data.length true)) ∧
    (s.inWriteOk cx (s.ownVa ofs) data.length = false → exec (.engineWriteAccept rank cx ofs data) s = .next s)) ∧
  (∀ ag s q k, s.headStore ag = some q → s.kidOf ag = some k → s.replicated (s.cxOf ag) q.va = true → s.storeInFlight ag = false →
    s.storeBefore ag q = false → s.segReady q.at_ = true → s.mergeGood (s.cxOf ag) q = true →
    exec (.replicaUpdate ag) s = .next
      ((s.popStore ag).repUpdate (some ag) (s.cxOf ag) (s.unitOf ag) (lineOf q.va) (lineOf q.at_) (s.replicaLine q) false
        q.issued (some (s.coreOf ag, q.due)))) ∧
  (∀ id die s r, (s.reps.find? fun r => r.id == id) = some r → die ∈ r.dies →
    (∀ x ∈ s.reps, die ∈ x.dies → r.t.toNat < x.t.toNat ∨ (x.t = r.t ∧ r.id ≤ x.id)) →
    let y := { r with dies := r.dies.erase die }
    (s.segReady (s.replAddr die r.addr) = true → exec (.replicaApply id die) s = .next
      ((({ s with reps := s.reps.map fun (x : RepUpdate) => if x.id == id then y else x } : State).touch (s.replAddr die r.addr)).repSettle y)) ∧
    (s.segReady (s.replAddr die r.addr) = false →
      exec (.replicaApply id die) s = .next (s.wakeFor r.cx (s.replAddr die r.addr)))) ∧
  (∀ core line s, (∃ x ∈ s.l1, x.core = core ∧ x.line = lineOf line) →
    exec (.eviction core line) s = .next { s with l1 := s.l1.filter fun x => !(x.core == core && x.line == lineOf line) }) ∧
  (∀ core line s, (∀ x ∈ s.l1, x.core = core → x.line ≠ lineOf line) → (∃ x ∈ s.dirty, x.line = lineOf line) →
    (∀ x ∈ s.l1, x.line = lineOf line → x.dirty = false) →
    exec (.eviction core line) s = .next
      (({ s with dirty := s.dirty.filter fun x => x.line != lineOf line } : State).request (core % 2048) 2 (lineOf line)))

/-- R202, R212, R244, R261, R262, R324, R422: a monitored wait times out, a `lastuse` takes hold, a `publish` swaps, and remote atomics are
applied and completed. What a publish finds at another rank is the model's choice (notes/assumptions/50: a free front selector), and so are the
issuer's program time after a swap (notes/assumptions/114) and what a remote atomic finds there (notes/assumptions/51). -/
def Obligations.WaitingMemoryWordsTakeEffect : Prop :=
  (∀ ag s u, s.unit? ag = some u → u.mon.st = .waiting → u.mon.left = some 0 → (s.ctx (s.cxOf ag)).st = .active →
    let t := match ag, (u.lane 0).wait with
      | .ctl w, some (.mwait (some p)) => s.modCt w fun c => if p = 0 then c else { c with cregs := tabSet c.cregs p 0 }
      | _, _ => s
    exec (.mwaitTimeout ag) s = .next ((t.modUnit ag fun u =>
      let v := { u with lanes := u.lanes.map Lane.mwaitOver, mon := { u.mon with st := .disarmed, left := none } }
      v.settle v.gave).trapStep ag)) ∧
  (∀ (l : Lane), (l.wait = some (.mwait none) → l.mwaitOver = l.park .mwaitTimeout 0 0) ∧
    (∀ p, p ≠ inactive → p < 96 → l.wait = some (.mwait (some p)) →
      let m := l.mwaitOver
      m.wait = none ∧ m.pred p = false ∧ (∀ q, q < 96 → q ≠ p → m.pred q = l.pred q) ∧ m.pc = l.npc ∧ m.parked = l.parked ∧ m.lat0 = 0) ∧
    ((∀ p, l.wait ≠ some (.mwait p)) → l.mwaitOver = l)) ∧
  (∀ id s x, (s.lastuses.find? fun x => x.id == id) = some x → (∀ o ∈ x.after, s.writeOpen o = false ∧ ∀ r ∈ s.ratoms, r.id ≠ o) →
    (∀ u, s.unit? x.ag = some u → u.stores = []) → (∀ h ∈ s.homes, h.ag ≠ some x.ag) → (∀ r ∈ s.reps, r.ag ≠ some x.ag) →
    let drop := fun (d : Dirty) => (x.spans.any fun p => decide (p.1 ≤ d.line) && decide (d.line < p.2)) && !x.written.contains d.line
      && !(s.l1.any fun l => l.line == d.line && l.dirty)
    exec (.lastuseArm id) s = .next { (s.dirty.filter drop).foldl State.dropLine s with
      dirty := s.dirty.filter fun d => !drop d, lastuses := s.lastuses.filter fun y => y.id != id }) ∧
  (∀ id s p, (s.pubs.find? fun p => p.id == id && p.remote.isNone) = some p → (∀ w ∈ p.before, s.writeOpen w = false) →
    s.ckptOn p.cx p.buf.view = false → exec (.publishSwap id) s = .next
      (((({ s with pubs := s.pubs.filter fun x => x.id != id } : State).publishHere p.cx p.handle p.buf).afterSwap p.ag).unstall p.ag p.act none 0)) ∧
  (∀ id s p, (s.pubs.find? fun p => p.id == id && p.remote.isSome) = some p → exec (.publishAck id) s = .next
    (((({ s with fresh := s.fresh + 1, pubs := s.pubs.filter fun x => x.id != id } : State).writeGen p.cx p.handle
      ((Config.freeValue s.fresh).getLsbD 0)).afterSwap p.ag).unstall p.ag p.act none 0)) ∧
  (∀ rank cx view len o s, spaceOf s.fab view = some (.own o) → rank < s.fab.podsize → rank ≠ s.fab.rank →
    bitAt s.fab.lostmap.toNat rank = false → cx < 256 → s.engineWrites cx view len = [] → s.ckptOn cx view = false →
    (s.ctx cx).st ≠ .free → (s.ctx cx).st ≠ .building →
    (∀ a r, (a, r) ∈ s.rangeLeaves cx view len → ∃ l, r = .ok l ∧ pteDual l.pte = true ∧ pteWr l.pte = true ∧
      s.pageHere cx a l = true) →
    exec (.publishSwapRequest rank cx view len) s = .next (s.swapFront cx view len)) ∧
  (∀ id s r, (s.ratoms.find? fun r => r.id == id) = some r → r.applied = none →
    (∀ x ∈ s.ratoms, x.ag = r.ag → x.addr / 8 = r.addr / 8 → x.applied = none → id ≤ x.id) →
    (bits r.addr 61 48 = s.fab.rank → exec (.ratomApply id) s = .next (s.ratomHere r)) ∧
    (bits r.addr 61 48 ≠ s.fab.rank → bitAt s.fab.lostmap.toNat (bits r.addr 61 48) = true →
      exec (.ratomApply id) s = .next (s.modRatom id fun r => { r with applied := some (.inr .peerLost) })) ∧
    (bits r.addr 61 48 ≠ s.fab.rank → bitAt s.fab.lostmap.toNat (bits r.addr 61 48) = false →
      exec (.ratomApply id) s = .next (s.ratomThere r))) ∧
  (∀ id s r v, (s.ratoms.find? fun r => r.id == id) = some r → r.applied = some (.inl v) →
    exec (.ratomComplete id) s = .next ((({ s with
      ratoms := s.ratoms.filter fun x => x.id != id
      pend := s.pend.map fun p => if p.id == r.pend then { p with ready := true, writes := p.writes.mapIdx fun k w => w.fill v r.w64 k } else p } :
        State).modUnit r.ag fun u => { u with lanes := modAt u.lanes r.lane fun l => l.lateLat id v }).served (s.coreOf r.ag) r.due)) ∧
  (∀ id s r c, (s.ratoms.find? fun r => r.id == id) = some r → r.applied = some (.inr c) → s.laneLive r.ag r.lane = true →
    exec (.ratomComplete id) s = .next ({ ((({ s with
      ratoms := s.ratoms.filter fun x => x.id != id
      pend := s.pend.map fun p => if p.id == r.pend then { p with ready := true, writes := p.writes.mapIdx fun k w => w.fill 0 r.w64 k } else p } :
        State).modUnit r.ag fun u => { u with lanes := modAt u.lanes r.lane fun l => l.lateLat id 0 }).served (s.coreOf r.ag) r.due) with
      ratomFails := s.ratomFails ++ [⟨r.ag, r.lane, r.addr, c, bits r.addr 61 48 != s.fab.rank⟩] })) ∧
  (∀ (l : Lane) id v k, k < 4 → nth l.owed k none = some id → nth [(l.lateLat id v).lat0, (l.lateLat id v).lat1, (l.lateLat id v).lat2,
    (l.lateLat id v).lat3] k 0 = v)

/-- R6, R20, R61, R70, R185, R504: host cores load, store and make atomics in control memory, and registers of this package are read and written.
That an access to a register block takes the present as its time is the model's reading (notes/assumptions/114). -/
def Obligations.HostAndRegisterAccessesComplete : Prop :=
  (∀ h map acc s p, h < 64 → ((hostPlace acc).2 = 1 ∨ (hostPlace acc).2 = 2 ∨ (hostPlace acc).2 = 4 ∨ (hostPlace acc).2 = 8) →
    (hostPlace acc).1 % (hostPlace acc).2 = 0 → ((hostPlace acc).1 < blockBase ∨ 2^48 ≤ (hostPlace acc).1) →
    s.hostPhys map (hostPlace acc).1 = some p → s.hostWaits map (hostPlace acc).1 p = false → s.agentsIn 8 p (hostWrites acc) = [] →
    exec (.hostCoreAccess ⟨h, map⟩ acc) s = .next ((s.hostFills map (hostPlace acc).1).hostMemory h (hostPlace acc).1 p (hostPlace acc).2 map acc)) ∧
  (∀ h map a s b, h < 64 → a % 8 = 0 → blockBase ≤ a → a < 2^48 → s.blockOf a = some (some b) → (∀ w ∈ s.homes, w.core ≠ hostUnit) →
    exec (.hostCoreAccess ⟨h, map⟩ (.load a 8)) s = .next { s.blockTime hostUnit with hostReply := some (h, false, BitVec.ofNat 64 (s.regRead b % 2^64)) }) ∧
  (∀ h map a v s b, h < 64 → a % 8 = 0 → blockBase ≤ a → a < 2^48 → s.blockOf a = some (some b) → (∀ w ∈ s.homes, w.core ≠ hostUnit) → ∃ t,
    exec (.hostCoreAccess ⟨h, map⟩ (.store a 8 v)) s = .next t ∧
      t = ((((s.blockTime hostUnit).regWrite b v false).fireMonitors a 8).reply h false (s.regRead b % 2^64))) ∧
  (∀ h map n a s, h < 64 → (n = 1 ∨ n = 2 ∨ n = 4 ∨ n = 8) → a % n = 0 →
    (2^48 ≤ a ∨ (map = none ∧ 2^43 ≤ a ∧ a < blockBase) ∨ (a < blockBase ∧ ∃ cx c, map = some cx ∧ s.walk cx a = .error c)) →
    exec (.hostCoreAccess ⟨h, map⟩ (.load a n)) s = .next { s with hostReply := some (h, true, 0) }) ∧
  (∀ addr v s b, s.blockOf (addr / 8 * 8) = some (some b) → exec (.registerWrite addr v) s = .next (s.regWrite b v false))

/-! ### The fabric (R175, R251 to R267) -/

/-- R175, R252, R253, R255, R256, R258, R259, R263 to R266: the events of a port, of a route, and of the loss of a peer. -/
def Obligations.FabricStepsTakeEffect : Prop :=
  let up := fun (p : Port) => p.st = .up ∨ p.st = .degraded
  let at_ := fun (i : Instr) (port : Nat) (c : Port → Prop) (f : Port → Port) =>
    ∀ s : State, port < 12 → c (s.fab.port port) → exec i s = .next (s.modPort port f)
  (∀ port, at_ (.retrain port) port up fun p => { p with st := .training, retryWait := false }) ∧
  (∀ port, at_ (.retrain port) port (fun p => p.st = .lost) fun p => { p with st := .training, retryWait := false, failures := 0 }) ∧
  (∀ port, at_ (.retrain port) port (fun p => p.st = .down ∨ p.st = .training) id) ∧
  (∀ port, at_ (.linkDisable port) port (fun _ => True) fun p => { p with st := .down, retryWait := false }) ∧
  (∀ port, at_ (.linkEnable port) port (fun p => p.st = .down ∨ p.st = .lost)
    fun p => { p with st := .training, retryWait := false, failures := 0 }) ∧
  (∀ port, at_ (.linkEnable port) port (fun p => p.st = .training ∨ up p) id) ∧
  (∀ port peer, peer < 64 → at_ (.trainingResult port (.trained peer)) port (fun p => p.st = .training ∧ p.retryWait = false)
    fun p => { p with st := .up, lanes := 0xFF, peer := peer }) ∧
  (∀ port peer h, peer < 64 → at_ (.trainingResult port (.half peer h)) port (fun p => p.st = .training ∧ p.retryWait = false)
    fun p => { p with st := .degraded, lanes := if h then 0xF0 else 0x0F, peer := peer }) ∧
  (∀ port, at_ (.trainingResult port .fail) port (fun p => p.st = .training ∧ p.retryWait = false ∧ p.failures < 2)
    fun p => { p with failures := p.failures + 1, retryWait := true }) ∧
  (∀ port, at_ (.trainingResult port .fail) port (fun p => p.st = .training ∧ p.retryWait = false ∧ p.failures = 2)
    fun p => { p with failures := 3, st := .lost }) ∧
  (∀ port, at_ (.trainingRetry port) port (fun p => p.st = .training ∧ p.retryWait = true) fun p => { p with retryWait := false }) ∧
  (∀ port lane, lane < 8 → at_ (.laneFail port lane) port (fun p => p.st = .up ∧ p.lanes.getLsbD lane = true)
    fun p => { p with st := .degraded, lanes := if lane < 4 then 0xF0 else 0x0F, credits := p.credits.map fun n => n / 2 }) ∧
  (∀ port lane, lane < 8 → at_ (.laneFail port lane) port (fun p => p.st = .degraded ∧ p.lanes.getLsbD lane = true)
    fun p => { p with st := .training, retryWait := false }) ∧
  (∀ port, at_ (.silence port) port up fun p => { p with st := .training, retryWait := false }) ∧
  (∀ port bs, bs.length = 64 → at_ (.flitReceive port bs) port
      (fun p => up p ∧ crc32 (bs.take 60) = leNat (bs.drop 60) ∧ flitSeq bs = p.expect ∧ flitVc bs < 6 ∧ flitKind bs ≠ 2 ∧ flitKind bs ≠ 3)
    fun p => { p with expect := (p.expect + 1) % 4096, wantReplay := false, unacked := ackUpTo p.unacked (flitAck bs),
                          sendq := p.sendq.filter fun f => (ackUpTo p.unacked (flitAck bs)).any fun h => h.seq == f.seq }) ∧
  (∀ port bs, bs.length = 64 → at_ (.flitReceive port bs) port
      (fun p => up p ∧ (crc32 (bs.take 60) ≠ leNat (bs.drop 60) ∨ flitSeq bs ≠ p.expect))
    fun p => { p with crcerr := p.crcerr + 1, wantReplay := true }) ∧
  (∀ port ack, ack < 4096 → at_ (.replayRequest port ack) port up fun p => p.replay ack) ∧
  (∀ port vc n, vc < 6 → at_ (.creditReturn port vc n) port up fun p => { p with credits := modAt p.credits vc (· + n) }) ∧
  (∀ t vc p s, vc < 6 → t < s.fab.podsize → t ≠ s.fab.rank → s.fab.bestRoute t = some p → tabFind? s.fab.route (8 * t + vc) ≠ some p →
    (∀ q, tabFind? s.fab.route (8 * t + vc) = some q → ∀ f ∈ (s.fab.port q).unacked, f.vc ≠ vc) →
    exec (.routeSwitch t vc) s = .next (s.modFab fun f => { f with route := tabSet f.route (8 * t + vc) p })) ∧
  (∀ t s, s.peer t = true →
    exec (.lossDeclaration t) s = .next (s.lose t) ∧ exec (.peerFailureReport t) s = .next (s.foundLost t) ∧
    (s.fab.bestRoute t = none → exec (.noRouteTimeout t) s = .next (s.foundLost t))) ∧
  (∀ t s, t ∈ s.fab.rebuilding → exec (.directoryRebuildDone t) s = .next
    ((s.modFab fun f => { f with rebuilding := f.rebuilding.filter fun r => r != t }).reissue t))

/-! ### Collectives (R268 to R275) -/

/-- R268 to R275: stores to a tile-table entry, contributions, results and timeouts. That contributions wait where they agree and that one that
disagrees takes an Armed entry to Error as it comes is the model's choice (notes/assumptions/35). -/
def Obligations.CollectiveStepsTakeEffect : Prop :=
  let set_ := fun (s : State) (d i : Nat) (t : TileEntry) => { s with tiles := tabSet s.tiles (4096 * d + i) t }
  (∀ d i (v : W64) s, d < 8 → i < 4096 → ((s.tile d i).st = .empty ∨ (s.tile d i).st = .complete ∨ (s.tile d i).st = .error) →
    let t := { (s.tile d i).setWord1 v.toNat with inv := false, ovf := false, ecause := 0, got := [], result := none, own := [] }
    let fails := fun (c : Cause) =>
      let u := set_ s d i { t with st := .error, ecause := BitVec.ofNat 8 c.code }
      if t.bv then u.postArrival (.die t.cx d t.bar) none 1 false (some c) else u
    exec (.tileArm d i v) s = .next (if t.armOk s.fab.rank s.fab.podsize = false then fails .illegalEncoding
      else if (List.range t.rcnt).any (fun j => bitAt s.fab.lostmap.toNat (t.rbase + j * t.rstride)) = true then fails .peerLost
      else set_ s d i { t with st := .armed })) ∧
  (∀ d i (v : W64) s, d < 8 → i < 4096 → (s.tile d i).st = .empty →
    exec (.tileDisarm d i v) s = .next (set_ s d i ((s.tile d i).setWord1 v.toNat))) ∧
  (∀ d i v s, d < 8 → i < 4096 → (s.tile d i).st = .armed →
    exec (.tileDisarm d i v) s = .next (set_ s d i { s.tile d i with st := .empty, waiting := [] })) ∧
  (∀ d i v s, d < 8 → i < 4096 → (s.tile d i).st = .fired → exec (.tileDisarm d i v) s = .next (set_ s d i (s.tile d i))) ∧
  (∀ d i v s, d < 8 → i < 4096 → ((s.tile d i).st = .complete ∨ (s.tile d i).st = .error) →
    exec (.tileDisarm d i v) s = .next (set_ s d i { s.tile d i with st := .empty })) ∧
  (∀ d i (v : W64) s, d < 8 → i < 4096 → ((s.tile d i).st = .empty ∨ (s.tile d i).st = .complete ∨ (s.tile d i).st = .error) →
    exec (.tileEntryWrite d i false v) s = .next (set_ s d i ((s.tile d i).setWord0 v.toNat false)) ∧
    (2 ≤ v.toNat / 2^61 → exec (.tileEntryWrite d i true v) s = .next (set_ s d i ((s.tile d i).setWord1 v.toNat)))) ∧
  (∀ d i v s, d < 8 → i < 4096 → ((s.tile d i).st = .armed ∨ (s.tile d i).st = .fired) →
    exec (.tileEntryWrite d i false v) s = .next (set_ s d i (s.tile d i))) ∧
  (∀ d i c s, d < 8 → i < 4096 → s.contributionOk (s.tile d i) c = false → exec (.collectiveContribution d i c) s = .next s) ∧
  (∀ d i c s j t, d < 8 → i < 4096 → s.contributionOk (s.tile d i) c = true → (s.tile d i).st = .fired → (s.tile d i).agrees c = true →
    (s.tile d i).position s.fab.rank = some j → (s.tile d i).take j c = some t →
    exec (.collectiveContribution d i c) s = .next (set_ s d i (t.settle j))) ∧
  (∀ d i c s, d < 8 → i < 4096 → s.contributionOk (s.tile d i) c = true → ((s.tile d i).st = .armed ∨ (s.tile d i).st = .fired) → (s.tile d i).agrees c = false →
    exec (.collectiveContribution d i c) s = .next (s.tileFail d i .illegalEncoding)) ∧
  (∀ d i c s, d < 8 → i < 4096 → s.contributionOk (s.tile d i) c = true → (s.tile d i).st ≠ .fired → ((s.tile d i).st = .armed → (s.tile d i).agrees c = true) →
    s.pendingStore d < 64 →
    exec (.collectiveContribution d i c) s = .next (set_ s d i { s.tile d i with waiting := (s.tile d i).waiting ++ [c] })) ∧
  (∀ d i s r j u, (s.tile d i).st = .fired → (s.tile d i).result = some r → (s.tile d i).position s.fab.rank = some j →
    (s.ctx (s.tile d i).cx).st ≠ .free → (s.ctx (s.tile d i).cx).st ≠ .building → (s.tile d i).op ≤ 3 → (s.tile d i).bv = false →
    s.rangeReady (s.tile d i).cx (s.ownVa (s.tile d i).roff) (1024 * tileElem (s.tile d i).fmt) true = true →
    (s.served (2048 + d) ((s.tile d i).firedAt + (s.dueIn 1 - s.dtime))).shadowWrites [] true (s.tile d i).cx (s.ownVa (s.tile d i).roff) (tileBytes (s.tile d i).fmt r.data)
      ((tileBytes (s.tile d i).fmt r.data).length / 64 + 2) = (none, u) →
    ∃ t, exec (.collectiveResult d i) s = .next t ∧ t.mem = u.mem ∧ (t.tile d i).st = .complete ∧
      ((s.tile d i).op ≤ 2 → (t.tile d i).inv = r.inv ∧ (t.tile d i).ovf = r.ovf)) ∧
  (∀ d i s, (s.tile d i).st = .fired → (s.tile d i).result = none → s.fab.collto ≠ 0 →
    (s.tile d i).firedAt.toNat + s.fab.collto.toNat ≤ s.dtime.toNat →
    exec (.collectiveTimeout d i) s = .next (s.tileFail d i .reduceTimeout))

/-! ### Power-up and cooling (R15, R30 to R32, R39, R504 to R510) -/

/-- R30 to R32, R39, R504 to R510: what the management core does. The model's choices: after power-on memory is empty (notes/assumptions/1) and
BOOTN is 1 (notes/assumptions/10), the clock rises again in steps of 100 MHz to 1900 MHz, and by how much budgets fall is a free value
(notes/assumptions/42); whether a signature verifies and the fused minimum are open constants of the part (notes/assumptions/156). -/
def Obligations.ManagementStepsTakeEffect : Prop :=
  (∀ a f s, ∃ t, exec (.coolantOutOfEnvelope a f) s = .next t ∧ t.mgmt.coolOut = true ∧
    ∀ cx, let lo := min (s.ctx cx).floor.toNat (s.ctx cx).ceil.toNat
      (t.ctx cx).floor = (s.ctx cx).floor ∧ (t.ctx cx).ceil = (s.ctx cx).ceil ∧ (t.ctx cx).cur.toNat ≤ (s.ctx cx).cur.toNat ∧
      (lo ≤ (s.ctx cx).cur.toNat → lo ≤ (t.ctx cx).cur.toNat) ∧
      ((∃ c, (cx, c) ∈ s.ctxs) → lo < (s.ctx cx).cur.toNat → (t.ctx cx).cur.toNat < (s.ctx cx).cur.toNat)) ∧
  (∀ s, exec .temperatureRise s = .next { s with mgmt := { s.mgmt with hot := true } }) ∧
  (∀ s, ∃ t, exec .conditionCleared s = .next t ∧ t.mgmt.coolOut = false ∧ t.mgmt.hot = false ∧
    ∀ cx c, (cx, c) ∈ t.ctxs → c.cur = c.ceil) ∧
  (∀ s, 1100 ≤ s.mgmt.mhz → s.mgmt.hot = true → s.atFloor = true → s.atBoundary = true →
    exec (.clockChange (s.mgmt.mhz - 100)) s = .next { s with mgmt := { s.mgmt with mhz := s.mgmt.mhz - 100 } }) ∧
  (∀ m s, s.mgmt.mhz < m → m ≤ 1900 → m % 100 = 0 → s.atBoundary = true →
    exec (.clockChange m) s = .next { s with mgmt := { s.mgmt with mhz := m } }) ∧
  (∀ s, ∃ t, exec .powerOn s = .next t ∧ t.mem = [] ∧ t.mgmt.st = .reset ∧ t.mgmt.bootn = 1) ∧
  (∀ s, ∃ t, exec .resetInput s = .next t ∧ t.mgmt.bootn = s.mgmt.bootn + 1 ∧ t.mgmt.st = .reset ∧ t.dtime = 0 ∧ t.ctxs = [] ∧
    t.queues = [] ∧ t.tiles = [] ∧ t.mgmt.image = []) ∧
  (∀ (v : W64) s, v.toNat / 2^32 = 0x52535445 → exec (.reset v) s = .next s.packageReset) ∧
  (∀ (v : W64) s, v.toNat / 2^32 ≠ 0x52535445 → exec (.reset v) s = .next (s.modMgmt fun m => { m with rej := true })) ∧
  (∀ s, (s.mgmt.st = .reset ∨ s.mgmt.st = .failed) → s.mgmt.wellFormed = true → exec .load s = .next (s.modMgmt fun m =>
    { m with image := memRead s.mem m.fwbase.toNat m.fwlen.toNat, st := .authenticating })) ∧
  (∀ s, s.mgmt.st ≠ .reset → s.mgmt.st ≠ .failed → exec .load s = .next (s.modMgmt fun m => { m with rej := true })) ∧
  (∀ s, s.mgmt.st = .authenticating → exec (.authCheckDone s.mgmt.signed Config.fuseMin) s = .next (s.modMgmt fun m =>
    if s.mgmt.check = 0 then { m with st := .training } else { m with st := .failed, fail := BitVec.ofNat 8 s.mgmt.check, image := [] })) ∧
  (∀ m : Mgmt, let w := fun k => leNat ((m.image.drop (8 * k)).take 8)
    m.check = 0 ↔ m.wellFormed = true ∧ w 0 % 2^32 = 0x4D524E54 ∧ w 2 = m.fwlen.toNat ∧
      Config.signatureOk (m.image.take (m.image.length - 96)) (m.image.drop (m.image.length - 96)) = true ∧ Config.fuseMin ≤ w 1) ∧
  (∀ (s : State) (dies : Byte), s.mgmt.st = .training → s.mgmt.dieok = 0 → dies ≠ 0 → ∃ t, s.hbmTrained dies = .next t ∧ t.mgmt.dieok = dies ∧
    t.fab.retired = ~~~dies ∧ t.mgmt.st = .training ∧ ∀ p ∈ t.fab.ports, p.st ≠ .down ∧ p.st ≠ .lost) ∧
  (∀ s r, s.mgmt.st = .training → r.dieok = s.mgmt.dieok → r.rank < 64 → r.podsize ≤ 64 → r.rank < r.podsize → r.dieok ≠ 0 →
    ∃ t, exec (.firmwareTrainingDone r) s = .next t ∧ t.mgmt.st = .ready ∧ t.mgmt.dieok = r.dieok ∧ t.fab.rank = r.rank ∧
      t.fab.podsize = r.podsize ∧ t.fab.peermap = r.peermap ∧
      (∀ p, mirrorOf r.rank r.podsize = some p → t.fab.mv = r.peermap.getLsbD p)) ∧
  (∀ s r, s.mgmt.st = .training → r.dieok = s.mgmt.dieok → r.rank < 64 → r.podsize ≤ 64 → r.rank < r.podsize → r.dieok = 0 →
    exec (.firmwareTrainingDone r) s = .next (s.modMgmt fun m => { m with st := .failed, fail := 4 })) ∧
  (∀ (v : W64) s, exec (.mstatWrite v) s = .next (s.modMgmt fun m => { m with rej := m.rej && !v.getLsbD 8 })) ∧
  (∀ (v : W64) s, exec (.moheadWrite v) s = .next (s.modMgmt fun m => { m with mohead := if m.mohead.ult v then v else m.mohead }))

/-! ### Encodings (R312 to R331) -/

/-- R312, R313, R315, R316: every well-formed instruction word has an encoding, which decodes to it. -/
def Obligations.EncodedInstructionsDecodeToThemselves : Prop :=
  ∀ i : Instr, i.isWord = true → i.wf = true → ∃ w, encode i = some w ∧ decode w = .ok i

/-- R312, R323, R330: what decodes is well formed and has the word for its encoding, so that no reserved bit is set; no two words decode
to one instruction. -/
def Obligations.DecodedWordsAreTheEncodingOfTheirInstruction : Prop :=
  (∀ w i, decode w = .ok i → i.wf = true ∧ i.isWord = true ∧ encode i = some w) ∧
  (∀ w v i, decode w = .ok i → decode v = .ok i → w = v) ∧
  (∀ w, unassigned (w.toNat / 2^56) = true → decode w = .error .illegalOpcode) ∧
  (∀ w c, unassigned (w.toNat / 2^56) = false → decode w = .error c → c = .illegalEncoding)

/-- R25, R322: where the scope code of a word stands, what it names, and codes 6 and 7. -/
def Obligations.ScopeCodesStandInTheirField : Prop :=
  (∀ gd sc w, encode (.fence gd sc) = some w → w.toNat % 8 = sc.toBits) ∧
  (∀ gd i n sc w, encode (.hbarInit gd i n sc) = some w → w.toNat % 8 = sc.toBits) ∧
  (∀ gd i sc w, encode (.hbarArr gd i sc) = some w → w.toNat % 8 = sc.toBits) ∧
  (∀ gd p i ph sc w, encode (.hbarWait gd p i ph sc) = some w → w.toNat % 8 = sc.toBits) ∧
  (∀ gd d i bc sc w, encode (.hbarQ gd d i bc sc) = some w → w.toNat % 8 = sc.toBits) ∧
  (∀ gd d a b sc w64 op w, encode (.atom gd d a b sc w64 op) = some w → w.toNat / 32 % 8 = sc.toBits) ∧
  (∀ gd d a x y sc w64 w, encode (.cas gd d a x y sc w64) = some w → w.toNat / 32 % 8 = sc.toBits) ∧
  (∀ w : W64, (w.toNat / 2^56 = 0xA6 ∨ w.toNat / 2^56 = 0xB9) → 6 ≤ w.toNat % 8 → decode w = .error .illegalEncoding) ∧
  (∀ w : W64, (w.toNat / 2^56 = 0xB6 ∨ w.toNat / 2^56 = 0xB7) → 6 ≤ w.toNat / 32 % 8 → decode w = .error .illegalEncoding) ∧
  (∀ w : W64, w.toNat / 2^56 = 0xA6 → w.toNat % 8 < 3 → decode w = .error .illegalEncoding)

/-- Words that the manual writes out (R375, R466, R471, R484, R491) decode to the instructions it gives them. -/
def Obligations.WordsOfTheManualDecodeAsItSays : Prop :=
  decode 0x76097F0080000000 = .ok (.fredux .always (.reg 9) (.reg 4) .sum) ∧
  decode 0xD0017F0140680001 = .ok (.mma 1 (.reg 10) (.reg 13) (.reg 0) true) ∧
  decode 0xE2007F2148A21800 = .ok (.copyw .always 0 10 20 12) ∧
  decode 0xB6067F2047D00060 = .ok (.atom .always 6 (.g 2) (.spec 250) .die false .add)

/-! ### Steps -/

/-- R8, R110, R307, R311: an issue runs the word at its path's place in the clause; a device step that is its turn runs; a placed word
runs at once. The device's own doings after a step (`State.afterStep`) follow in each case. -/
def Obligations.StepsRunTheDecodedInstruction : Prop :=
  (∀ (s : State) ag u i, s.standsAt ag u i → s.issueStep ag = exec i { s with focus := some ag, stallOn := none }) ∧
  (∀ (s : State) ag ts u i, s.turns = .issue ag :: ts →
    let t := { s with turns := ts }
    t.mayTurn (.issue ag) = true → t.standsAt ag u i → t.slotFor ag 0 = [ag] →
    step s = mapNext (State.afterStep s) (mapNext (t.afterIssue ag u) (exec i { t with focus := some ag, stallOn := none }))) ∧
  (∀ (s : State) ag u i, s.turns = [] → s.focus = some ag → s.due = [] → s.pressed = none → s.standsAt ag u i → s.slotFor ag 0 = [ag] →
    step s = mapNext (State.afterStep s) (mapNext (s.afterIssue ag u) (exec i { s with stallOn := none }))) ∧
  (∀ (s : State) w i, decode w = .ok i → ∃ ag u, (s.placeWord w).unit? ag = some u ∧
    step (s.placeWord w) = mapNext (State.afterStep (s.placeWord w)) (mapNext ((s.placeWord w).afterIssue ag u)
      (exec i { s.placeWord w with stallOn := none }))) ∧
  (∀ (s : State) i ts, s.turns = .event i :: ts → i.isWord = false →
    let t := { s with turns := ts }
    t.mayTurn (.event i) = true → (∀ r, t.reqOf i = some r → t.servesNow r = true) →
    ((t.inRebuild = false ∨ stallsInRebuild i = false) → step s = mapNext (State.afterStep s) (mapNext State.tick (exec i t))) ∧
    (t.inRebuild = true → stallsInRebuild i = true → step s = .next (s.afterStep t.tick))) ∧
  (∀ (s : State) clks ts, s.turns = .elapse clks :: ts → clks ≠ 0 →
    let t := { s with turns := ts }
    t.mayTurn (.elapse clks) = true → t.mayElapse clks = true → step s = .next (s.afterStep { t with clk := t.clk + BitVec.ofNat 64 clks })) ∧
  (∀ (s : State) d ds, s.turns = [] → s.due = d :: ds → step s = mapNext (State.afterStep s) (mapNext State.tick (d.run s))) ∧
  (∀ s : State, s.turns = [] → s.focus = none → s.due = [] → s.pressed = none → step s = .next (s.afterStep s.tick))

/-- The memory of every state that a step reaches from a memory in canonical form is in canonical form: addresses strictly rising, no
byte listed that equals what an unlisted address reads as. -/
def Obligations.StepsKeepMemoryCanonical : Prop :=
  ∀ s t, Memory.wf s.mem = true → step s = .next t → Memory.wf t.mem = true

/-- R34 to R43, R62 to R64, R157, R158, R237, R239, R251, R252, R268, R504, R505: the values that registers have right after reset, and
the canonical form of memory. That memory reads as zero is the model's choice (notes/assumptions/1). -/
def Obligations.ResetHoldsTheValuesOfTheManual : Prop :=
  let s := State.reset
  Memory.wf s.mem = true ∧ s.dtime = 0 ∧ s.mgmt.st = .reset ∧ s.mgmt.fwbase = 0 ∧ s.mgmt.fwlen = 0 ∧ s.mgmt.mout = 0 ∧ s.mgmt.moseq = 0 ∧
  s.mgmt.mohead = 0 ∧ s.mgmt.mwake = 0 ∧ s.mgmt.tracemask = [0, 0, 0, 0] ∧ s.mgmt.fail = 0 ∧ s.mgmt.dieok = 0 ∧ s.mgmt.rej = false ∧
  (∀ cx, (s.ctx cx).st = .free ∧ (s.ctx cx).trapbase = 0 ∧ (s.ctx cx).savebase = 0 ∧ (s.ctx cx).shapebase = 0 ∧ (s.ctx cx).sgbase = 0 ∧
    (s.ctx cx).rlease = 0xC350 ∧ (s.ctx cx).tlease = 0x4E20 ∧ (s.ctx cx).phase = 0 ∧ (s.ctx cx).res = false ∧ (s.ctx cx).epoch = 0) ∧
  (∀ q, s.queue q = Queue.init ∧ ∀ off, (s.queue q).read off = 0) ∧
  (∀ g, (s.seg g).tide = .active) ∧
  (∀ p, p < 8 → nth s.mb.phasetab p (PhaseTab.init 0) = ⟨0x03E8, 0x0004, 96 * p⟩) ∧
  s.mb.dlbudget = 0x0000800010000400 ∧ s.mb.replpool = 0 ∧
  s.fab.podsize = 1 ∧ s.fab.rank = 0 ∧ s.fab.collto = 0x000F4240 ∧ s.fab.peermap = 0 ∧ s.fab.lostmap = 0 ∧
  (∀ p, (s.fab.port p).st = .down ∧ (s.fab.port p).lcnt = 0) ∧
  (∀ d i, (s.tile d i).word0 = 0 ∧ (s.tile d i).word1 = 0)

/-! ### What words leave as it was, and where they trap -/

/-- R120, R126, R316, R317, R324, R327, R341, R342, R457: a word that has issued with no cause changes its results, the latches and the
place of its path, performance counters of its context and %clk; its results stand in their registers, and nothing else changes. -/
def Obligations.FinishedWordsChangeOnlyTheirResults : Prop :=
  (∀ (s : State) e outs long, (∀ o ∈ gResolve outs, o.cause = none) →
    let t := s.finish e outs long
    { t with groups := s.groups, cts := s.cts, ctxs := s.ctxs, pend := s.pend, nextId := s.nextId, clk := s.clk } = s ∧
    t.clk = s.clk + 1 ∧ (long = false → t.pend = s.pend ∧ t.nextId = s.nextId) ∧
    (∀ cx, { t.ctx cx with perf := (s.ctx cx).perf } = s.ctx cx ∧ (cx ≠ e.cx → t.ctx cx = s.ctx cx))) ∧
  (∀ (s : State) e outs long g k x, (∀ o ∈ gResolve outs, o.cause = none) → e.ag = .strand g k → s.group? g = some x →
    let t := s.finish e outs long
    t.cts = s.cts ∧ (∀ h, h ≠ g → t.group? h = s.group? h) ∧
    ∃ y, t.group? g = some y ∧ { y with win := x.win, gregs := x.gregs, strands := x.strands } = x ∧
      (∀ m, (∀ o ∈ outs, ∀ r ∈ o.res, m ∉ r.words x.width k o.lane) → tabGet y.win 0 m = tabGet x.win 0 m) ∧
      (∀ m, (∀ o ∈ outs, ∀ r ∈ o.res, m ∉ r.gregs) → tabGet y.gregs 0 m = tabGet x.gregs 0 m) ∧
      (∀ j, j ≠ k → y.strands[j]? = x.strands[j]?) ∧
      ∀ u, x.strands[k]? = some u → ∃ v, y.strands[k]? = some v ∧ v.slot = u.slot ∧ v.jmask = u.jmask ∧ v.u = u.u ∧ v.mon = u.mon ∧
        v.stores = u.stores ∧ v.gAtExit = u.gAtExit ∧ v.vAtExit = u.vAtExit ∧ v.doneAt = u.doneAt ∧
        (∀ l, inMask e.path l = false → (∀ o ∈ outs, o.lane ≠ l) → v.lane l = u.lane l) ∧
        (∀ l, (v.lane l).live = (u.lane l).live ∧ (v.lane l).inHandler = (u.lane l).inHandler ∧ (v.lane l).tpc = (u.lane l).tpc ∧
          (v.lane l).tcause = (u.lane l).tcause ∧ (v.lane l).taddr = (u.lane l).taddr ∧ (v.lane l).tflags = (u.lane l).tflags ∧
          (v.lane l).tlat0 = (u.lane l).tlat0 ∧ (v.lane l).tlat1 = (u.lane l).tlat1 ∧ (v.lane l).tlat2 = (u.lane l).tlat2 ∧
          (v.lane l).tlat3 = (u.lane l).tlat3 ∧ (v.lane l).towed = (u.lane l).towed) ∧
        ∀ l p, (∀ o ∈ outs, o.lane = l → ∀ r ∈ o.res, p ∉ r.preds) → (v.lane l).pred p = (u.lane l).pred p) ∧
  (∀ (s : State) e outs w c, (∀ o ∈ gResolve outs, o.cause = none) → e.ag = .ctl w → s.ct? w = some c →
    let t := s.finish e outs
    t.groups = s.groups ∧ (∀ v, v ≠ w → t.ct? v = s.ct? v) ∧
    ∃ d, t.ct? w = some d ∧ { d with cregs := c.cregs, unit := c.unit } = c ∧
      ∀ n, (∀ o ∈ outs, ∀ r ∈ o.res, n ∉ r.cregs) → tabGet d.cregs 0 n = tabGet c.cregs 0 n) ∧
  (∀ (s : State) e g k x u n (f : Nat → W32), e.ag = .strand g k → s.group? g = some x → x.strands[k]? = some u → e.act &&& ~~~e.path = 0 →
    (∀ l, inMask e.path l = true → l < u.lanes.length) →
    let t := s.finish e ((lanesOf e.act).map fun l => .reg l (.reg n) .i32 (ofW (f l)))
    ∃ y v, t.group? g = some y ∧ y.strands[k]? = some v ∧
      (∀ l, inMask e.act l = true → tabGet y.win 0 (n * x.width + (8 * k + l)) = f l ∧ (v.lane l).lat0 = ofW (f l)) ∧
      (∀ l, inMask e.path l = true → (v.lane l).lat1 = (u.lane l).lat0 ∧ (v.lane l).lat2 = (u.lane l).lat1 ∧
        (v.lane l).lat3 = (u.lane l).lat2) ∧
      ∀ l, inMask e.path l = true → inMask e.act l = false → (v.lane l).lat0 = 0) ∧
  (∀ (s : State) ag, { s.landReady ag with groups := s.groups, cts := s.cts, pend := s.pend } = s ∧
    ((∀ p ∈ s.pend, sameGroup p.ag ag = true → p.ready = false) → s.landReady ag = s))

/-- R187, R191, R194, R327, R402: a store word changes no byte of memory: its bytes join the store queue, or the register window of its
own group. A store that is performed changes the bytes that it stores alone. A result that lands changes no byte of memory. -/
def Obligations.StoresChangeOnlyTheirBytes : Prop :=
  (∀ (s : State) e pre good data, (∀ x ∈ pre, x.cause = none ∧ x.res = []) →
    (∀ w ∈ writesOf good data, ∃ a sh r, w.1.loc = .phys a sh r) → ∀ a, memGet (s.stored e pre good data).mem a = memGet s.mem a) ∧
  (∀ (s : State) e g k x u (good : List (Nat × List Spot)) data, e.ag = .strand g k → s.group? g = some x → x.strands[k]? = some u →
    (∀ w ∈ writesOf good data, ∃ a sh r, w.1.loc = .phys a sh r) →
    ∃ v, (s.makeStores e (writesOf good data)).unit? e.ag = some { u with stores := u.stores ++ v } ∧
      ∀ q ∈ v, ∀ p ∈ q.parts, ∃ w ∈ writesOf good data, p.lane = w.1.lane ∧ p.va = w.1.va ∧ p.bytes = w.2 ∧
        ∃ sh r, w.1.loc = .phys p.addr sh r) ∧
  (∀ (s : State) ag q, s.headStore ag = some q → s.mergeGood (s.cxOf ag) q = true →
    ∀ a, ¬ q.covers a → memGet (s.performStore ag).mem a = memGet s.mem a) ∧
  (∀ (s : State) ag q p kid, Memory.wf s.mem = true → s.headStore ag = some q → s.kidOf ag = some kid → s.mergeGood (s.cxOf ag) q = true → q.parts = [p] →
    s.mirrored p.addr = false →
    memRead (s.performStore ag).mem p.addr p.bytes.length = p.bytes) ∧
  (∀ (s : State) ag ws, (s.landWrites ag ws).mem = s.mem) ∧
  (∀ (s : State) ag, (s.landReady ag).mem = s.mem)

/-- R47 to R49: what a lane records when a cause parks it, which lanes enter which handler, and when the kernel ends instead. -/
def Obligations.TrapsAreRecordedAndEntered : Prop :=
  (∀ (l : Lane) c a f, l.park c a f = { l with
    parked := some c, wait := none, batch := none, tpc := BitVec.ofNat 64 l.pc, tcause := BitVec.ofNat 8 c.code, taddr := a, tflags := f
    tlat0 := l.lat0, tlat1 := l.lat1, tlat2 := l.lat2, tlat3 := l.lat3, towed := l.owed, thdr := if l.inClause then l.hdr else l.pc }) ∧
  (∀ (s : State) g k u kid x, s.group? g = some x → x.strands[k]? = some u → s.kidOf (.strand g k) = some kid →
    let ag := Agent.strand g k
    let waits := fun (l : Nat) (c : Cause) => u.handlerOpens (u.lane l).batch = true ∨
      ∃ p ∈ u.parkedLanes, (u.lane p.1).batch = (u.lane l).batch ∧ p.2.code < c.code
    (∀ p ∈ u.parkedLanes, s.endsKernel (s.cxOf ag) (u.lane p.1) p.2 = false ∧ s.trapHeld (s.cxOf ag) p.2 = false) →
    (∀ c ∈ u.enters, s.handler (s.cxOf ag) c ≠ none) →
    ∃ v, (s.trapStep ag).unit? ag = some v ∧ (s.trapStep ag).mem = s.mem ∧
      (∀ l c h, (l, c) ∈ u.parkedLanes → ¬ waits l c → s.handler (s.cxOf ag) c = some h →
        v.lane l = { u.lane l with parked := none, inHandler := true, opening := true, pc := h, inClause := false, cwi := 0 }) ∧
      (∀ l c, (l, c) ∈ u.parkedLanes → waits l c → v.lane l = u.lane l) ∧
      ∀ l, l < 8 → (u.lane l).parked = none → v.lane l = u.lane l) ∧
  (∀ (s : State) ag u kid l c rest, s.unit? ag = some u → s.kidOf ag = some kid → u.parkedLanes = (l, c) :: rest →
    (∀ p ∈ u.parkedLanes, s.trapHeld (s.cxOf ag) p.2 = false) →
    (c = .lease ∨ c = .integrity ∨ (s.ctx (s.cxOf ag)).trapbase = 0 ∨ (u.lane l).inHandler = true ∨ s.handler (s.cxOf ag) c = some 0) →
    s.trapStep ag = (s.abortKernel kid ⟨BitVec.ofNat 8 c.code, (u.lane l).tpc, (u.lane l).taddr⟩).modUnit ag fun u => u.settle u.gave) ∧
  (∀ (s : State) kid k ed, s.kernel? kid = some k → (k.st = .dispatching ∨ k.st = .running) →
    ∃ y, (s.abortKernel kid ed).kernel? kid = some y ∧ y.st = .draining ∧ y.ending = some (k.ending.getD ed))

/-- R44, R46, R50, R113, R120, R126, R167, R207, R310, R323, R327, R331, R384, R399: the checks that every word passes before it has its effect, in
their order, and what a word that fails one does; the checks of an access, of `barinit` and of `rte`. That a word that meets a recorded range does
not issue while one clk passes is the model's reading (notes/assumptions/34), and the one-clk stall on a result is its choice (notes/assumptions/4).
-/
def Obligations.WordsTrapOrWaitBeforeTheirEffect : Prop :=
  (∀ (s : State) i ag f e, s.focus = some ag → formOf? i = some f → (s.landReady ag).env? ag f.gd f.readsClk = some e →
    let t := s.landReady ag
    (t.slotWait e = true → exec i s = .next { t with clk := t.clk + 1 }) ∧
    (t.slotWait e = false →
      (permitted e.ctl f.opc = false → exec i s = .next (t.raisePath e .illegalOpcode)) ∧
      (permitted e.ctl f.opc = true → (f.ok e.ctl e.cl e.lane0.cwi = false ∨ badField i e = true) →
        exec i s = .next (t.raisePath e .illegalEncoding)) ∧
      (permitted e.ctl f.opc = true → f.ok e.ctl e.cl e.lane0.cwi = true → badField i e = false →
        (e.u.stall = none → t.scoreboardWait e f = true → exec i s = .next { t with clk := t.clk + 1 }) ∧
        (e.u.stall = none → t.scoreboardWait e f = false → t.rangeWait e f = true →
          exec i s = .next { t with clk := t.clk + 1, stallOn := some 5 }) ∧
        ((e.u.stall ≠ none ∨ (t.scoreboardWait e f = false ∧ t.rangeWait e f = false)) →
          (e.act ≠ 0 → (f.beyond e = true ∨ badIndex i = true) → exec i s = .next (t.raiseAct e .illegalEncoding)) ∧
          (f.beyond e = false → badIndex i = false → f.writesG = true → e.act ≠ 0 → e.coversU = false →
            exec i s = .next (t.finish e (e.divergent i)) ∧
            ((∀ gd d a b w, i ≠ .bcast gd d a b w) → exec i s = .next (t.raiseAct e .uniformDivergent))))))) ∧
  (∀ (s : State) e tlbs need use l va n al, va % al ≠ 0 → s.spotOf e tlbs need use l ⟨va, n, al⟩ = (.error .align, s)) ∧
  (∀ (s : State) e tlbs need use l va n al, va % al = 0 → spaceOf s.fab va = none →
    s.spotOf e tlbs need use l ⟨va, n, al⟩ = (.error .addrTag, s)) ∧
  (∀ (s : State) e tlbs l va n al, va % al = 0 → spaceOf s.fab va = some .ctl → e.kern.leases false va n = false →
    s.spotOf e tlbs Need.load .load l ⟨va, n, al⟩ = (.error .lease, s)) ∧
  (∀ gd b n s e t, s.issueOf? (.barinit gd b n) = some (e, t) → (e.agree fun l => [e.src .i32 n l]) →
    (e.w n e.low = 0 ∨ 65535 < (e.w n e.low).toNat) → exec (.barinit gd b n) s = .next (t.raiseAct e .illegalEncoding)) ∧
  (∀ gd b n s e t, s.clearOf? (.barinit gd b n) = some (e, t) → (e.agree fun l => [e.src .i32 n l]) →
    1 ≤ (e.w n e.low).toNat → (e.w n e.low).toNat ≤ 65535 →
    ((t.bar (.wg e.wid b)).waiters ≠ 0 ∨ (t.bar (.wg e.wid b)).pend ≠ 0) → exec (.barinit gd b n) s = .next (t.raiseAct e .barBusy)) ∧
  (∀ gd (retry : Bool) s e t, s.issueOf? (if retry then .rteRetry gd else .rte gd) = some (e, t) →
    (∀ l, inMask e.act l = true → (e.u.lane l).inHandler = false) →
    exec (if retry then .rteRetry gd else .rte gd) s = .next (t.raiseAct e .priv))
end

