-- ==== Sys2Proof/Laws/Issue.lean ====
section
/-!
SUPPORT. What the issue of a word comes to: a word that issues runs its body.
-/
namespace Sys2Proof.Machine

/-- A word that issues runs its body. -/
theorem word_of_issueOf {s t : State} {i : Instr} {e : Env} (h : s.issueOf? i = some (e, t)) (body : Env → State → Out) :
    s.word i body = body e t := by
  unfold State.issueOf? at h
  unfold State.word
  split at h
  · rename_i ag f hf hi
    simp only [hf, hi]
    dsimp only at h
    split at h
    · cases h
    · rename_i e' he
      split at h
      · rename_i hc
        simp only [Option.some.injEq, Prod.mk.injEq] at h
        obtain ⟨rfl, rfl⟩ := h
        simp only [Bool.and_eq_true, Bool.not_eq_true', Option.isNone_iff_eq_none] at hc
        obtain ⟨⟨⟨⟨⟨⟨⟨⟨h1, h8⟩, h2⟩, h9⟩, h3⟩, h4⟩, h5⟩, h7⟩, h6⟩ := hc
        simp only [he, h1, h3, h4, h5, h6, h7, h8, h9, Bool.or_self, Bool.and_false, Bool.false_eq_true, if_false, HOrElse.hOrElse, OrElse.orElse, Option.orElse]
      · cases h
  · cases h

/-- The state after a lane-wise word that issues. -/
theorem lanewise_of_issueOf {s t : State} {i : Instr} {e : Env} (h : s.issueOf? i = some (e, t)) (f : Env → Nat → LaneOut) :
    s.lanewise i f = .next (t.finish e ((lanesOf e.act).map (f e))) := by
  simp only [State.lanewise, word_of_issueOf h]

/-- The state after a lane-wise word with one register result. -/
theorem alu_of_issueOf {s t : State} {i : Instr} {e : Env} (h : s.issueOf? i = some (e, t)) (d : Dst) (ty : Ty) (f : Env → Nat → W64) :
    s.alu i d ty f = .next (t.finish e ((lanesOf e.act).map fun l => .reg l d ty (f e l))) := by
  simp only [State.alu, lanewise_of_issueOf h]

/-- The first element that satisfies a test stays the first one that satisfies a narrower test which holds of it. -/
theorem find?_narrow {α : Type} {p q : α → Bool} {l : List α} {o : α} (h : l.find? p = some o) (hq : q o = true)
    (hpq : ∀ x, q x = true → p x = true) : l.find? q = some o := by
  induction l with
  | nil => cases h
  | cons a t ih =>
    rw [List.find?_cons] at h ⊢
    cases hp : p a
    · rw [hp] at h
      have : q a = false := by
        cases hqa : q a
        · rfl
        · rw [hpq a hqa] at hp
          cases hp
      rw [this]
      exact ih h
    · rw [hp] at h
      cases h
      rw [hq]

/-- What the choice of g results comes to, where `o` is the first lane with none of the causes that keep it from having results (R120). -/
theorem gResolve_of_find {outs : List LaneOut} {o : LaneOut} (h : outs.find? (fun o => o.cause.isNone || o.late) = some o) :
    gResolve outs = outs.map fun x =>
      if (x.cause.isNone || x.late) && x.res.filter Res.isG != o.res.filter Res.isG then
        { LaneOut.bad x.lane .nonuniformOperand with gen := x.gen } else x := by
  unfold gResolve
  rw [h]

/-- The choice of g results made once stays (R120). -/
theorem gResolve_idem (outs : List LaneOut) : gResolve (gResolve outs) = gResolve outs := by
  cases h : outs.find? fun o => o.cause.isNone || o.late with
  | none =>
    have e : gResolve outs = outs := by
      unfold gResolve
      rw [h]
    rw [e, e]
  | some o =>
    have e := gResolve_of_find h
    have ho := List.find?_some (p := fun o : LaneOut => o.cause.isNone || o.late) h
    have h2 : (gResolve outs).find? (fun o => o.cause.isNone || o.late) = some o := by
      rw [e, List.find?_map, find?_narrow h (q := (fun o => o.cause.isNone || o.late) ∘ fun x =>
        if (x.cause.isNone || x.late) && x.res.filter Res.isG != o.res.filter Res.isG then
          { LaneOut.bad x.lane .nonuniformOperand with gen := x.gen } else x)]
      · simp
      · simpa using ho
      · intro x hx
        cases hc : x.cause.isNone || x.late
        · rw [Function.comp_apply, if_neg (by rw [hc, Bool.false_and]; exact Bool.false_ne_true), hc] at hx
          exact hx
        · rfl
    rw [gResolve_of_find h2, e, List.map_map]
    refine List.map_congr_left fun x _ => ?_
    by_cases hc : ((x.cause.isNone || x.late) && x.res.filter Res.isG != o.res.filter Res.isG) = true
    · simp only [Function.comp_apply, if_pos hc]
      rfl
    · simp only [Function.comp_apply, if_neg hc]

/-- A word finishes alike whether or not the choice of g results has been made. -/
theorem finish_gResolve (s : State) (e : Env) (outs : List LaneOut) (long : Bool) : s.finish e (gResolve outs) long = s.finish e outs long := by
  unfold State.finish State.finishTo
  rw [gResolve_idem]

/-- The state after a checked word that issues and meets no mismatch. -/
theorem mul_of_issueOf {s t : State} {i : Instr} {e : Env} (h : s.issueOf? i = some (e, t)) (hu : t.upsetLanes e = 0) (d : Dst) (ty : Ty)
    (f : Env → Nat → W64) :
    s.mul i d ty f = .next (({ t with upset := 0 } : State).finish e ((lanesOf e.act).map fun l => .reg l d ty (f e l))) := by
  have hz : lanesOf 0 = [] := by decide
  have hm : ∀ l, inMask 0 l = false := by intro l; simp [inMask]
  unfold State.upsetLanes at hu
  simp only [State.mul, State.checked, word_of_issueOf h, hu, hz, hm, State.mismatch, List.length_nil, Bool.false_eq_true, if_false,
    Bool.false_and, List.map_id', finish_gResolve]

/-- A word that is lane-wise has its lane's outcome. -/
theorem laneResults_of_lanewise {i : Instr} {f : Env → Nat → LaneOut} (h : ∀ s, exec i s = s.lanewise i f) : LaneResults i f := by
  intro s e t hi
  rw [h]
  exact lanewise_of_issueOf hi f

/-- A word with one register result has it. -/
theorem regResults_of_alu {i : Instr} {d : Dst} {ty : Ty} {v : Env → Nat → W64} (h : ∀ s, exec i s = s.alu i d ty v) :
    RegResults i d ty v := by
  intro s e t hi
  rw [h]
  exact alu_of_issueOf hi d ty v

/-- A checked word with one register result has it. -/
theorem mulResults_of_mul {i : Instr} {d : Dst} {ty : Ty} {v : Env → Nat → W64} (h : ∀ s, exec i s = s.mul i d ty v) :
    MulResults i d ty v := by
  intro s e t hi hu
  rw [h]
  exact mul_of_issueOf hi hu d ty v

/-- A conversion has the outcomes of its lanes and its count. -/
theorem convResults_of_convert {i : Instr} {cnt : Option Nat} {f : Env → Nat → LaneOut × Nat} (h : ∀ s, exec i s = s.convert i cnt f) :
    ConvResults i cnt f := by
  intro s e t hi
  cases cnt with
  | none => simp only [h, State.convert, word_of_issueOf hi]
  | some k =>
    simp only [h, State.convert, word_of_issueOf hi]
    rfl

/-- What a clear word finds: it issues, and its stores are done. -/
theorem clearOf_iff {s t : State} {i : Instr} {e : Env} :
    s.clearOf? i = some (e, t) ↔ ∃ u, s.issueOf? i = some (e, u) ∧ u.clear? e = some t := by
  simp only [State.clearOf?, Option.bind_eq_some_iff, Option.map_eq_some_iff]
  constructor
  · rintro ⟨⟨e', u⟩, h1, t', h2, h3⟩
    simp only [Prod.mk.injEq] at h3
    obtain ⟨rfl, rfl⟩ := h3
    exact ⟨u, h1, h2⟩
  · rintro ⟨u, h1, h2⟩
    exact ⟨(e, u), h1, t, h2, rfl⟩

/-- A word whose stores are done does its work. -/
theorem afterStores_of_clear {s t : State} {e : Env} (h : s.clear? e = some t) (k : State → Out) : s.afterStores e k = k t := by
  unfold State.clear? at h
  unfold State.afterStores
  dsimp only at h ⊢
  split at h
  · cases h
  · split at h
    · cases h
    · split at h
      · rename_i h1 h2 h3
        cases h
        simp only [h1, if_neg h2, if_pos h3]
      · cases h

/-- The mask of a mask's lanes is the mask. -/
theorem maskOf_inMask : ∀ m : BitVec 8, (maskOf fun l => inMask m l) = m := by decide

/-- A lane listed is in the mask. -/
theorem inMask_of_mem {m : BitVec 8} {l : Nat} (h : l ∈ lanesOf m) : inMask m l = true := by
  simp only [lanesOf, List.mem_filter] at h
  exact h.2

/-- The lanes that carry out a word whose operands agree are all the active ones. -/
theorem strandOp_of_agree {e : Env} {vals : Nat → List W64} (h : e.agree vals) {illegal : Nat → Bool}
    (hi : ∀ l, inMask e.act l = true → illegal l = false) {u : Bool} (hu : u = true → e.coversU = true) :
    e.strandOp vals illegal u = (e.act, []) := by
  have hb : (lanesOf e.act).filterMap (fun l =>
      if illegal l then some (LaneOut.bad l .illegalEncoding) else if vals l != vals e.low then some (.bad l .nonuniformOperand) else none)
      = [] := by
    rw [List.filterMap_eq_nil_iff]
    intro l hl
    have hm := inMask_of_mem hl
    simp [hi l hm, h.2 l hm]
  unfold Env.strandOp
  simp only [hb, List.any_nil, Bool.not_false, Bool.and_true, maskOf_inMask]
  cases u
  · simp
  · simp [hu rfl]

/-- The lanes whose operands agree are all the active ones. -/
theorem uniform_of_agree {e : Env} {vals : Nat → List W64} (h : e.agree vals) : e.uniform vals = (e.act, []) := by
  have hb : (lanesOf e.act).filter (fun l => vals l != vals e.low) = [] := by
    rw [List.filter_eq_nil_iff]
    intro l hl
    simp [h.2 l (inMask_of_mem hl)]
  have hm : (maskOf fun l => inMask e.act l && vals l == vals e.low) = e.act := by
    rw [← maskOf_inMask e.act]
    congr 1
    funext l
    rw [maskOf_inMask]
    cases hq : inMask e.act l
    · simp
    · simp [h.2 l hq]
  unfold Env.uniform
  simp only [hb, hm, List.map_nil]

end Sys2Proof.Machine
end

