-- ==== Sys2Proof/Laws/State.lean ====
section
/-!
SUPPORT. What each update of the state leaves as it was: one lemma for each field and update.
-/
namespace Sys2Proof.Machine
set_option Elab.async false

/-! ### `modCtx` -/

@[simp] theorem modCtx_turns (s : State) (c : Nat) (f : Context → Context) : (s.modCtx c f).turns = s.turns := rfl
@[simp] theorem modCtx_focus (s : State) (c : Nat) (f : Context → Context) : (s.modCtx c f).focus = s.focus := rfl
@[simp] theorem modCtx_fresh (s : State) (c : Nat) (f : Context → Context) : (s.modCtx c f).fresh = s.fresh := rfl
@[simp] theorem modCtx_nextId (s : State) (c : Nat) (f : Context → Context) : (s.modCtx c f).nextId = s.nextId := rfl
@[simp] theorem modCtx_stallOn (s : State) (c : Nat) (f : Context → Context) : (s.modCtx c f).stallOn = s.stallOn := rfl
@[simp] theorem modCtx_dtime (s : State) (c : Nat) (f : Context → Context) : (s.modCtx c f).dtime = s.dtime := rfl
@[simp] theorem modCtx_clk (s : State) (c : Nat) (f : Context → Context) : (s.modCtx c f).clk = s.clk := rfl
@[simp] theorem modCtx_mem (s : State) (c : Nat) (f : Context → Context) : (s.modCtx c f).mem = s.mem := rfl
@[simp] theorem modCtx_keys (s : State) (c : Nat) (f : Context → Context) : (s.modCtx c f).keys = s.keys := rfl
@[simp] theorem modCtx_dropped (s : State) (c : Nat) (f : Context → Context) : (s.modCtx c f).dropped = s.dropped := rfl
@[simp] theorem modCtx_mgmt (s : State) (c : Nat) (f : Context → Context) : (s.modCtx c f).mgmt = s.mgmt := rfl
@[simp] theorem modCtx_fab (s : State) (c : Nat) (f : Context → Context) : (s.modCtx c f).fab = s.fab := rfl
@[simp] theorem modCtx_mb (s : State) (c : Nat) (f : Context → Context) : (s.modCtx c f).mb = s.mb := rfl
@[simp] theorem modCtx_ctxs (s : State) (c : Nat) (f : Context → Context) : (s.modCtx c f).ctxs = tabSet s.ctxs c (f (s.ctx c)) := rfl
@[simp] theorem modCtx_queues (s : State) (c : Nat) (f : Context → Context) : (s.modCtx c f).queues = s.queues := rfl
@[simp] theorem modCtx_kernels (s : State) (c : Nat) (f : Context → Context) : (s.modCtx c f).kernels = s.kernels := rfl
@[simp] theorem modCtx_wgs (s : State) (c : Nat) (f : Context → Context) : (s.modCtx c f).wgs = s.wgs := rfl
@[simp] theorem modCtx_groups (s : State) (c : Nat) (f : Context → Context) : (s.modCtx c f).groups = s.groups := rfl
@[simp] theorem modCtx_cts (s : State) (c : Nat) (f : Context → Context) : (s.modCtx c f).cts = s.cts := rfl
@[simp] theorem modCtx_seqs (s : State) (c : Nat) (f : Context → Context) : (s.modCtx c f).seqs = s.seqs := rfl
@[simp] theorem modCtx_sgs (s : State) (c : Nat) (f : Context → Context) : (s.modCtx c f).sgs = s.sgs := rfl
@[simp] theorem modCtx_accs (s : State) (c : Nat) (f : Context → Context) : (s.modCtx c f).accs = s.accs := rfl
@[simp] theorem modCtx_mmas (s : State) (c : Nat) (f : Context → Context) : (s.modCtx c f).mmas = s.mmas := rfl
@[simp] theorem modCtx_drains (s : State) (c : Nat) (f : Context → Context) : (s.modCtx c f).drains = s.drains := rfl
@[simp] theorem modCtx_collq (s : State) (c : Nat) (f : Context → Context) : (s.modCtx c f).collq = s.collq := rfl
@[simp] theorem modCtx_ranges (s : State) (c : Nat) (f : Context → Context) : (s.modCtx c f).ranges = s.ranges := rfl
@[simp] theorem modCtx_copies (s : State) (c : Nat) (f : Context → Context) : (s.modCtx c f).copies = s.copies := rfl
@[simp] theorem modCtx_tiers (s : State) (c : Nat) (f : Context → Context) : (s.modCtx c f).tiers = s.tiers := rfl
@[simp] theorem modCtx_ratoms (s : State) (c : Nat) (f : Context → Context) : (s.modCtx c f).ratoms = s.ratoms := rfl
@[simp] theorem modCtx_ratomFails (s : State) (c : Nat) (f : Context → Context) : (s.modCtx c f).ratomFails = s.ratomFails := rfl
@[simp] theorem modCtx_arrivals (s : State) (c : Nat) (f : Context → Context) : (s.modCtx c f).arrivals = s.arrivals := rfl
@[simp] theorem modCtx_hmsgs (s : State) (c : Nat) (f : Context → Context) : (s.modCtx c f).hmsgs = s.hmsgs := rfl
@[simp] theorem modCtx_pend (s : State) (c : Nat) (f : Context → Context) : (s.modCtx c f).pend = s.pend := rfl
@[simp] theorem modCtx_pubs (s : State) (c : Nat) (f : Context → Context) : (s.modCtx c f).pubs = s.pubs := rfl
@[simp] theorem modCtx_fronts (s : State) (c : Nat) (f : Context → Context) : (s.modCtx c f).fronts = s.fronts := rfl
@[simp] theorem modCtx_icinvs (s : State) (c : Nat) (f : Context → Context) : (s.modCtx c f).icinvs = s.icinvs := rfl
@[simp] theorem modCtx_icache (s : State) (c : Nat) (f : Context → Context) : (s.modCtx c f).icache = s.icache := rfl
@[simp] theorem modCtx_lastuses (s : State) (c : Nat) (f : Context → Context) : (s.modCtx c f).lastuses = s.lastuses := rfl
@[simp] theorem modCtx_marks (s : State) (c : Nat) (f : Context → Context) : (s.modCtx c f).marks = s.marks := rfl
@[simp] theorem modCtx_part (s : State) (c : Nat) (f : Context → Context) : (s.modCtx c f).part = s.part := rfl
@[simp] theorem modCtx_gens (s : State) (c : Nat) (f : Context → Context) : (s.modCtx c f).gens = s.gens := rfl
@[simp] theorem modCtx_reqs (s : State) (c : Nat) (f : Context → Context) : (s.modCtx c f).reqs = s.reqs := rfl
@[simp] theorem modCtx_ckpts (s : State) (c : Nat) (f : Context → Context) : (s.modCtx c f).ckpts = s.ckpts := rfl
@[simp] theorem modCtx_tiles (s : State) (c : Nat) (f : Context → Context) : (s.modCtx c f).tiles = s.tiles := rfl
@[simp] theorem modCtx_rounds (s : State) (c : Nat) (f : Context → Context) : (s.modCtx c f).rounds = s.rounds := rfl
@[simp] theorem modCtx_l1 (s : State) (c : Nat) (f : Context → Context) : (s.modCtx c f).l1 = s.l1 := rfl
@[simp] theorem modCtx_lines (s : State) (c : Nat) (f : Context → Context) : (s.modCtx c f).lines = s.lines := rfl
@[simp] theorem modCtx_pts (s : State) (c : Nat) (f : Context → Context) : (s.modCtx c f).pts = s.pts := rfl
@[simp] theorem modCtx_ptsAt (s : State) (c : Nat) (f : Context → Context) : (s.modCtx c f).ptsAt = s.ptsAt := rfl
@[simp] theorem modCtx_floors (s : State) (c : Nat) (f : Context → Context) : (s.modCtx c f).floors = s.floors := rfl
@[simp] theorem modCtx_lastTake (s : State) (c : Nat) (f : Context → Context) : (s.modCtx c f).lastTake = s.lastTake := rfl
@[simp] theorem modCtx_misses (s : State) (c : Nat) (f : Context → Context) : (s.modCtx c f).misses = s.misses := rfl
@[simp] theorem modCtx_dirty (s : State) (c : Nat) (f : Context → Context) : (s.modCtx c f).dirty = s.dirty := rfl
@[simp] theorem modCtx_tlbs (s : State) (c : Nat) (f : Context → Context) : (s.modCtx c f).tlbs = s.tlbs := rfl
@[simp] theorem modCtx_pages (s : State) (c : Nat) (f : Context → Context) : (s.modCtx c f).pages = s.pages := rfl
@[simp] theorem modCtx_inval (s : State) (c : Nat) (f : Context → Context) : (s.modCtx c f).inval = s.inval := rfl
@[simp] theorem modCtx_dir (s : State) (c : Nat) (f : Context → Context) : (s.modCtx c f).dir = s.dir := rfl
@[simp] theorem modCtx_homes (s : State) (c : Nat) (f : Context → Context) : (s.modCtx c f).homes = s.homes := rfl
@[simp] theorem modCtx_reps (s : State) (c : Nat) (f : Context → Context) : (s.modCtx c f).reps = s.reps := rfl
@[simp] theorem modCtx_inWrites (s : State) (c : Nat) (f : Context → Context) : (s.modCtx c f).inWrites = s.inWrites := rfl
@[simp] theorem modCtx_hostReply (s : State) (c : Nat) (f : Context → Context) : (s.modCtx c f).hostReply = s.hostReply := rfl
@[simp] theorem modCtx_upset (s : State) (c : Nat) (f : Context → Context) : (s.modCtx c f).upset = s.upset := rfl

/-! ### `modQueue` -/

@[simp] theorem modQueue_turns (s : State) (q : Nat) (f : Queue → Queue) : (s.modQueue q f).turns = s.turns := rfl
@[simp] theorem modQueue_focus (s : State) (q : Nat) (f : Queue → Queue) : (s.modQueue q f).focus = s.focus := rfl
@[simp] theorem modQueue_fresh (s : State) (q : Nat) (f : Queue → Queue) : (s.modQueue q f).fresh = s.fresh := rfl
@[simp] theorem modQueue_nextId (s : State) (q : Nat) (f : Queue → Queue) : (s.modQueue q f).nextId = s.nextId := rfl
@[simp] theorem modQueue_stallOn (s : State) (q : Nat) (f : Queue → Queue) : (s.modQueue q f).stallOn = s.stallOn := rfl
@[simp] theorem modQueue_dtime (s : State) (q : Nat) (f : Queue → Queue) : (s.modQueue q f).dtime = s.dtime := rfl
@[simp] theorem modQueue_clk (s : State) (q : Nat) (f : Queue → Queue) : (s.modQueue q f).clk = s.clk := rfl
@[simp] theorem modQueue_mem (s : State) (q : Nat) (f : Queue → Queue) : (s.modQueue q f).mem = s.mem := rfl
@[simp] theorem modQueue_keys (s : State) (q : Nat) (f : Queue → Queue) : (s.modQueue q f).keys = s.keys := rfl
@[simp] theorem modQueue_dropped (s : State) (q : Nat) (f : Queue → Queue) : (s.modQueue q f).dropped = s.dropped := rfl
@[simp] theorem modQueue_mgmt (s : State) (q : Nat) (f : Queue → Queue) : (s.modQueue q f).mgmt = s.mgmt := rfl
@[simp] theorem modQueue_fab (s : State) (q : Nat) (f : Queue → Queue) : (s.modQueue q f).fab = s.fab := rfl
@[simp] theorem modQueue_mb (s : State) (q : Nat) (f : Queue → Queue) : (s.modQueue q f).mb = s.mb := rfl
@[simp] theorem modQueue_ctxs (s : State) (q : Nat) (f : Queue → Queue) : (s.modQueue q f).ctxs = s.ctxs := rfl
@[simp] theorem modQueue_queues (s : State) (q : Nat) (f : Queue → Queue) : (s.modQueue q f).queues = tabSet s.queues q (f (s.queue q)) := rfl
@[simp] theorem modQueue_kernels (s : State) (q : Nat) (f : Queue → Queue) : (s.modQueue q f).kernels = s.kernels := rfl
@[simp] theorem modQueue_wgs (s : State) (q : Nat) (f : Queue → Queue) : (s.modQueue q f).wgs = s.wgs := rfl
@[simp] theorem modQueue_groups (s : State) (q : Nat) (f : Queue → Queue) : (s.modQueue q f).groups = s.groups := rfl
@[simp] theorem modQueue_cts (s : State) (q : Nat) (f : Queue → Queue) : (s.modQueue q f).cts = s.cts := rfl
@[simp] theorem modQueue_seqs (s : State) (q : Nat) (f : Queue → Queue) : (s.modQueue q f).seqs = s.seqs := rfl
@[simp] theorem modQueue_sgs (s : State) (q : Nat) (f : Queue → Queue) : (s.modQueue q f).sgs = s.sgs := rfl
@[simp] theorem modQueue_accs (s : State) (q : Nat) (f : Queue → Queue) : (s.modQueue q f).accs = s.accs := rfl
@[simp] theorem modQueue_mmas (s : State) (q : Nat) (f : Queue → Queue) : (s.modQueue q f).mmas = s.mmas := rfl
@[simp] theorem modQueue_drains (s : State) (q : Nat) (f : Queue → Queue) : (s.modQueue q f).drains = s.drains := rfl
@[simp] theorem modQueue_collq (s : State) (q : Nat) (f : Queue → Queue) : (s.modQueue q f).collq = s.collq := rfl
@[simp] theorem modQueue_ranges (s : State) (q : Nat) (f : Queue → Queue) : (s.modQueue q f).ranges = s.ranges := rfl
@[simp] theorem modQueue_copies (s : State) (q : Nat) (f : Queue → Queue) : (s.modQueue q f).copies = s.copies := rfl
@[simp] theorem modQueue_tiers (s : State) (q : Nat) (f : Queue → Queue) : (s.modQueue q f).tiers = s.tiers := rfl
@[simp] theorem modQueue_ratoms (s : State) (q : Nat) (f : Queue → Queue) : (s.modQueue q f).ratoms = s.ratoms := rfl
@[simp] theorem modQueue_ratomFails (s : State) (q : Nat) (f : Queue → Queue) : (s.modQueue q f).ratomFails = s.ratomFails := rfl
@[simp] theorem modQueue_arrivals (s : State) (q : Nat) (f : Queue → Queue) : (s.modQueue q f).arrivals = s.arrivals := rfl
@[simp] theorem modQueue_hmsgs (s : State) (q : Nat) (f : Queue → Queue) : (s.modQueue q f).hmsgs = s.hmsgs := rfl
@[simp] theorem modQueue_pend (s : State) (q : Nat) (f : Queue → Queue) : (s.modQueue q f).pend = s.pend := rfl
@[simp] theorem modQueue_pubs (s : State) (q : Nat) (f : Queue → Queue) : (s.modQueue q f).pubs = s.pubs := rfl
@[simp] theorem modQueue_fronts (s : State) (q : Nat) (f : Queue → Queue) : (s.modQueue q f).fronts = s.fronts := rfl
@[simp] theorem modQueue_icinvs (s : State) (q : Nat) (f : Queue → Queue) : (s.modQueue q f).icinvs = s.icinvs := rfl
@[simp] theorem modQueue_icache (s : State) (q : Nat) (f : Queue → Queue) : (s.modQueue q f).icache = s.icache := rfl
@[simp] theorem modQueue_lastuses (s : State) (q : Nat) (f : Queue → Queue) : (s.modQueue q f).lastuses = s.lastuses := rfl
@[simp] theorem modQueue_marks (s : State) (q : Nat) (f : Queue → Queue) : (s.modQueue q f).marks = s.marks := rfl
@[simp] theorem modQueue_part (s : State) (q : Nat) (f : Queue → Queue) : (s.modQueue q f).part = s.part := rfl
@[simp] theorem modQueue_gens (s : State) (q : Nat) (f : Queue → Queue) : (s.modQueue q f).gens = s.gens := rfl
@[simp] theorem modQueue_reqs (s : State) (q : Nat) (f : Queue → Queue) : (s.modQueue q f).reqs = s.reqs := rfl
@[simp] theorem modQueue_ckpts (s : State) (q : Nat) (f : Queue → Queue) : (s.modQueue q f).ckpts = s.ckpts := rfl
@[simp] theorem modQueue_tiles (s : State) (q : Nat) (f : Queue → Queue) : (s.modQueue q f).tiles = s.tiles := rfl
@[simp] theorem modQueue_rounds (s : State) (q : Nat) (f : Queue → Queue) : (s.modQueue q f).rounds = s.rounds := rfl
@[simp] theorem modQueue_l1 (s : State) (q : Nat) (f : Queue → Queue) : (s.modQueue q f).l1 = s.l1 := rfl
@[simp] theorem modQueue_lines (s : State) (q : Nat) (f : Queue → Queue) : (s.modQueue q f).lines = s.lines := rfl
@[simp] theorem modQueue_pts (s : State) (q : Nat) (f : Queue → Queue) : (s.modQueue q f).pts = s.pts := rfl
@[simp] theorem modQueue_ptsAt (s : State) (q : Nat) (f : Queue → Queue) : (s.modQueue q f).ptsAt = s.ptsAt := rfl
@[simp] theorem modQueue_floors (s : State) (q : Nat) (f : Queue → Queue) : (s.modQueue q f).floors = s.floors := rfl
@[simp] theorem modQueue_lastTake (s : State) (q : Nat) (f : Queue → Queue) : (s.modQueue q f).lastTake = s.lastTake := rfl
@[simp] theorem modQueue_misses (s : State) (q : Nat) (f : Queue → Queue) : (s.modQueue q f).misses = s.misses := rfl
@[simp] theorem modQueue_dirty (s : State) (q : Nat) (f : Queue → Queue) : (s.modQueue q f).dirty = s.dirty := rfl
@[simp] theorem modQueue_tlbs (s : State) (q : Nat) (f : Queue → Queue) : (s.modQueue q f).tlbs = s.tlbs := rfl
@[simp] theorem modQueue_pages (s : State) (q : Nat) (f : Queue → Queue) : (s.modQueue q f).pages = s.pages := rfl
@[simp] theorem modQueue_inval (s : State) (q : Nat) (f : Queue → Queue) : (s.modQueue q f).inval = s.inval := rfl
@[simp] theorem modQueue_dir (s : State) (q : Nat) (f : Queue → Queue) : (s.modQueue q f).dir = s.dir := rfl
@[simp] theorem modQueue_homes (s : State) (q : Nat) (f : Queue → Queue) : (s.modQueue q f).homes = s.homes := rfl
@[simp] theorem modQueue_reps (s : State) (q : Nat) (f : Queue → Queue) : (s.modQueue q f).reps = s.reps := rfl
@[simp] theorem modQueue_inWrites (s : State) (q : Nat) (f : Queue → Queue) : (s.modQueue q f).inWrites = s.inWrites := rfl
@[simp] theorem modQueue_hostReply (s : State) (q : Nat) (f : Queue → Queue) : (s.modQueue q f).hostReply = s.hostReply := rfl
@[simp] theorem modQueue_upset (s : State) (q : Nat) (f : Queue → Queue) : (s.modQueue q f).upset = s.upset := rfl

/-! ### `modSeg` -/

@[simp] theorem modSeg_turns (s : State) (g : Nat) (f : Segment → Segment) : (s.modSeg g f).turns = s.turns := rfl
@[simp] theorem modSeg_focus (s : State) (g : Nat) (f : Segment → Segment) : (s.modSeg g f).focus = s.focus := rfl
@[simp] theorem modSeg_fresh (s : State) (g : Nat) (f : Segment → Segment) : (s.modSeg g f).fresh = s.fresh := rfl
@[simp] theorem modSeg_nextId (s : State) (g : Nat) (f : Segment → Segment) : (s.modSeg g f).nextId = s.nextId := rfl
@[simp] theorem modSeg_stallOn (s : State) (g : Nat) (f : Segment → Segment) : (s.modSeg g f).stallOn = s.stallOn := rfl
@[simp] theorem modSeg_dtime (s : State) (g : Nat) (f : Segment → Segment) : (s.modSeg g f).dtime = s.dtime := rfl
@[simp] theorem modSeg_clk (s : State) (g : Nat) (f : Segment → Segment) : (s.modSeg g f).clk = s.clk := rfl
@[simp] theorem modSeg_mem (s : State) (g : Nat) (f : Segment → Segment) : (s.modSeg g f).mem = s.mem := rfl
@[simp] theorem modSeg_keys (s : State) (g : Nat) (f : Segment → Segment) : (s.modSeg g f).keys = s.keys := rfl
@[simp] theorem modSeg_dropped (s : State) (g : Nat) (f : Segment → Segment) : (s.modSeg g f).dropped = s.dropped := rfl
@[simp] theorem modSeg_mgmt (s : State) (g : Nat) (f : Segment → Segment) : (s.modSeg g f).mgmt = s.mgmt := rfl
@[simp] theorem modSeg_fab (s : State) (g : Nat) (f : Segment → Segment) : (s.modSeg g f).fab = s.fab := rfl
@[simp] theorem modSeg_mb (s : State) (g : Nat) (f : Segment → Segment) : (s.modSeg g f).mb = { s.mb with segs := tabSet s.mb.segs g (f (s.seg g)) } := rfl
@[simp] theorem modSeg_ctxs (s : State) (g : Nat) (f : Segment → Segment) : (s.modSeg g f).ctxs = s.ctxs := rfl
@[simp] theorem modSeg_queues (s : State) (g : Nat) (f : Segment → Segment) : (s.modSeg g f).queues = s.queues := rfl
@[simp] theorem modSeg_kernels (s : State) (g : Nat) (f : Segment → Segment) : (s.modSeg g f).kernels = s.kernels := rfl
@[simp] theorem modSeg_wgs (s : State) (g : Nat) (f : Segment → Segment) : (s.modSeg g f).wgs = s.wgs := rfl
@[simp] theorem modSeg_groups (s : State) (g : Nat) (f : Segment → Segment) : (s.modSeg g f).groups = s.groups := rfl
@[simp] theorem modSeg_cts (s : State) (g : Nat) (f : Segment → Segment) : (s.modSeg g f).cts = s.cts := rfl
@[simp] theorem modSeg_seqs (s : State) (g : Nat) (f : Segment → Segment) : (s.modSeg g f).seqs = s.seqs := rfl
@[simp] theorem modSeg_sgs (s : State) (g : Nat) (f : Segment → Segment) : (s.modSeg g f).sgs = s.sgs := rfl
@[simp] theorem modSeg_accs (s : State) (g : Nat) (f : Segment → Segment) : (s.modSeg g f).accs = s.accs := rfl
@[simp] theorem modSeg_mmas (s : State) (g : Nat) (f : Segment → Segment) : (s.modSeg g f).mmas = s.mmas := rfl
@[simp] theorem modSeg_drains (s : State) (g : Nat) (f : Segment → Segment) : (s.modSeg g f).drains = s.drains := rfl
@[simp] theorem modSeg_collq (s : State) (g : Nat) (f : Segment → Segment) : (s.modSeg g f).collq = s.collq := rfl
@[simp] theorem modSeg_ranges (s : State) (g : Nat) (f : Segment → Segment) : (s.modSeg g f).ranges = s.ranges := rfl
@[simp] theorem modSeg_copies (s : State) (g : Nat) (f : Segment → Segment) : (s.modSeg g f).copies = s.copies := rfl
@[simp] theorem modSeg_tiers (s : State) (g : Nat) (f : Segment → Segment) : (s.modSeg g f).tiers = s.tiers := rfl
@[simp] theorem modSeg_ratoms (s : State) (g : Nat) (f : Segment → Segment) : (s.modSeg g f).ratoms = s.ratoms := rfl
@[simp] theorem modSeg_ratomFails (s : State) (g : Nat) (f : Segment → Segment) : (s.modSeg g f).ratomFails = s.ratomFails := rfl
@[simp] theorem modSeg_arrivals (s : State) (g : Nat) (f : Segment → Segment) : (s.modSeg g f).arrivals = s.arrivals := rfl
@[simp] theorem modSeg_hmsgs (s : State) (g : Nat) (f : Segment → Segment) : (s.modSeg g f).hmsgs = s.hmsgs := rfl
@[simp] theorem modSeg_pend (s : State) (g : Nat) (f : Segment → Segment) : (s.modSeg g f).pend = s.pend := rfl
@[simp] theorem modSeg_pubs (s : State) (g : Nat) (f : Segment → Segment) : (s.modSeg g f).pubs = s.pubs := rfl
@[simp] theorem modSeg_fronts (s : State) (g : Nat) (f : Segment → Segment) : (s.modSeg g f).fronts = s.fronts := rfl
@[simp] theorem modSeg_icinvs (s : State) (g : Nat) (f : Segment → Segment) : (s.modSeg g f).icinvs = s.icinvs := rfl
@[simp] theorem modSeg_icache (s : State) (g : Nat) (f : Segment → Segment) : (s.modSeg g f).icache = s.icache := rfl
@[simp] theorem modSeg_lastuses (s : State) (g : Nat) (f : Segment → Segment) : (s.modSeg g f).lastuses = s.lastuses := rfl
@[simp] theorem modSeg_marks (s : State) (g : Nat) (f : Segment → Segment) : (s.modSeg g f).marks = s.marks := rfl
@[simp] theorem modSeg_part (s : State) (g : Nat) (f : Segment → Segment) : (s.modSeg g f).part = s.part := rfl
@[simp] theorem modSeg_gens (s : State) (g : Nat) (f : Segment → Segment) : (s.modSeg g f).gens = s.gens := rfl
@[simp] theorem modSeg_reqs (s : State) (g : Nat) (f : Segment → Segment) : (s.modSeg g f).reqs = s.reqs := rfl
@[simp] theorem modSeg_ckpts (s : State) (g : Nat) (f : Segment → Segment) : (s.modSeg g f).ckpts = s.ckpts := rfl
@[simp] theorem modSeg_tiles (s : State) (g : Nat) (f : Segment → Segment) : (s.modSeg g f).tiles = s.tiles := rfl
@[simp] theorem modSeg_rounds (s : State) (g : Nat) (f : Segment → Segment) : (s.modSeg g f).rounds = s.rounds := rfl
@[simp] theorem modSeg_l1 (s : State) (g : Nat) (f : Segment → Segment) : (s.modSeg g f).l1 = s.l1 := rfl
@[simp] theorem modSeg_lines (s : State) (g : Nat) (f : Segment → Segment) : (s.modSeg g f).lines = s.lines := rfl
@[simp] theorem modSeg_pts (s : State) (g : Nat) (f : Segment → Segment) : (s.modSeg g f).pts = s.pts := rfl
@[simp] theorem modSeg_ptsAt (s : State) (g : Nat) (f : Segment → Segment) : (s.modSeg g f).ptsAt = s.ptsAt := rfl
@[simp] theorem modSeg_floors (s : State) (g : Nat) (f : Segment → Segment) : (s.modSeg g f).floors = s.floors := rfl
@[simp] theorem modSeg_lastTake (s : State) (g : Nat) (f : Segment → Segment) : (s.modSeg g f).lastTake = s.lastTake := rfl
@[simp] theorem modSeg_misses (s : State) (g : Nat) (f : Segment → Segment) : (s.modSeg g f).misses = s.misses := rfl
@[simp] theorem modSeg_dirty (s : State) (g : Nat) (f : Segment → Segment) : (s.modSeg g f).dirty = s.dirty := rfl
@[simp] theorem modSeg_tlbs (s : State) (g : Nat) (f : Segment → Segment) : (s.modSeg g f).tlbs = s.tlbs := rfl
@[simp] theorem modSeg_pages (s : State) (g : Nat) (f : Segment → Segment) : (s.modSeg g f).pages = s.pages := rfl
@[simp] theorem modSeg_inval (s : State) (g : Nat) (f : Segment → Segment) : (s.modSeg g f).inval = s.inval := rfl
@[simp] theorem modSeg_dir (s : State) (g : Nat) (f : Segment → Segment) : (s.modSeg g f).dir = s.dir := rfl
@[simp] theorem modSeg_homes (s : State) (g : Nat) (f : Segment → Segment) : (s.modSeg g f).homes = s.homes := rfl
@[simp] theorem modSeg_reps (s : State) (g : Nat) (f : Segment → Segment) : (s.modSeg g f).reps = s.reps := rfl
@[simp] theorem modSeg_inWrites (s : State) (g : Nat) (f : Segment → Segment) : (s.modSeg g f).inWrites = s.inWrites := rfl
@[simp] theorem modSeg_hostReply (s : State) (g : Nat) (f : Segment → Segment) : (s.modSeg g f).hostReply = s.hostReply := rfl
@[simp] theorem modSeg_upset (s : State) (g : Nat) (f : Segment → Segment) : (s.modSeg g f).upset = s.upset := rfl

/-! ### `modTile` -/

@[simp] theorem modTile_turns (s : State) (d i : Nat) (f : TileEntry → TileEntry) : (s.modTile d i f).turns = s.turns := rfl
@[simp] theorem modTile_focus (s : State) (d i : Nat) (f : TileEntry → TileEntry) : (s.modTile d i f).focus = s.focus := rfl
@[simp] theorem modTile_fresh (s : State) (d i : Nat) (f : TileEntry → TileEntry) : (s.modTile d i f).fresh = s.fresh := rfl
@[simp] theorem modTile_nextId (s : State) (d i : Nat) (f : TileEntry → TileEntry) : (s.modTile d i f).nextId = s.nextId := rfl
@[simp] theorem modTile_stallOn (s : State) (d i : Nat) (f : TileEntry → TileEntry) : (s.modTile d i f).stallOn = s.stallOn := rfl
@[simp] theorem modTile_dtime (s : State) (d i : Nat) (f : TileEntry → TileEntry) : (s.modTile d i f).dtime = s.dtime := rfl
@[simp] theorem modTile_clk (s : State) (d i : Nat) (f : TileEntry → TileEntry) : (s.modTile d i f).clk = s.clk := rfl
@[simp] theorem modTile_mem (s : State) (d i : Nat) (f : TileEntry → TileEntry) : (s.modTile d i f).mem = s.mem := rfl
@[simp] theorem modTile_keys (s : State) (d i : Nat) (f : TileEntry → TileEntry) : (s.modTile d i f).keys = s.keys := rfl
@[simp] theorem modTile_dropped (s : State) (d i : Nat) (f : TileEntry → TileEntry) : (s.modTile d i f).dropped = s.dropped := rfl
@[simp] theorem modTile_mgmt (s : State) (d i : Nat) (f : TileEntry → TileEntry) : (s.modTile d i f).mgmt = s.mgmt := rfl
@[simp] theorem modTile_fab (s : State) (d i : Nat) (f : TileEntry → TileEntry) : (s.modTile d i f).fab = s.fab := rfl
@[simp] theorem modTile_mb (s : State) (d i : Nat) (f : TileEntry → TileEntry) : (s.modTile d i f).mb = s.mb := rfl
@[simp] theorem modTile_ctxs (s : State) (d i : Nat) (f : TileEntry → TileEntry) : (s.modTile d i f).ctxs = s.ctxs := rfl
@[simp] theorem modTile_queues (s : State) (d i : Nat) (f : TileEntry → TileEntry) : (s.modTile d i f).queues = s.queues := rfl
@[simp] theorem modTile_kernels (s : State) (d i : Nat) (f : TileEntry → TileEntry) : (s.modTile d i f).kernels = s.kernels := rfl
@[simp] theorem modTile_wgs (s : State) (d i : Nat) (f : TileEntry → TileEntry) : (s.modTile d i f).wgs = s.wgs := rfl
@[simp] theorem modTile_groups (s : State) (d i : Nat) (f : TileEntry → TileEntry) : (s.modTile d i f).groups = s.groups := rfl
@[simp] theorem modTile_cts (s : State) (d i : Nat) (f : TileEntry → TileEntry) : (s.modTile d i f).cts = s.cts := rfl
@[simp] theorem modTile_seqs (s : State) (d i : Nat) (f : TileEntry → TileEntry) : (s.modTile d i f).seqs = s.seqs := rfl
@[simp] theorem modTile_sgs (s : State) (d i : Nat) (f : TileEntry → TileEntry) : (s.modTile d i f).sgs = s.sgs := rfl
@[simp] theorem modTile_accs (s : State) (d i : Nat) (f : TileEntry → TileEntry) : (s.modTile d i f).accs = s.accs := rfl
@[simp] theorem modTile_mmas (s : State) (d i : Nat) (f : TileEntry → TileEntry) : (s.modTile d i f).mmas = s.mmas := rfl
@[simp] theorem modTile_drains (s : State) (d i : Nat) (f : TileEntry → TileEntry) : (s.modTile d i f).drains = s.drains := rfl
@[simp] theorem modTile_collq (s : State) (d i : Nat) (f : TileEntry → TileEntry) : (s.modTile d i f).collq = s.collq := rfl
@[simp] theorem modTile_ranges (s : State) (d i : Nat) (f : TileEntry → TileEntry) : (s.modTile d i f).ranges = s.ranges := rfl
@[simp] theorem modTile_copies (s : State) (d i : Nat) (f : TileEntry → TileEntry) : (s.modTile d i f).copies = s.copies := rfl
@[simp] theorem modTile_tiers (s : State) (d i : Nat) (f : TileEntry → TileEntry) : (s.modTile d i f).tiers = s.tiers := rfl
@[simp] theorem modTile_ratoms (s : State) (d i : Nat) (f : TileEntry → TileEntry) : (s.modTile d i f).ratoms = s.ratoms := rfl
@[simp] theorem modTile_ratomFails (s : State) (d i : Nat) (f : TileEntry → TileEntry) : (s.modTile d i f).ratomFails = s.ratomFails := rfl
@[simp] theorem modTile_arrivals (s : State) (d i : Nat) (f : TileEntry → TileEntry) : (s.modTile d i f).arrivals = s.arrivals := rfl
@[simp] theorem modTile_hmsgs (s : State) (d i : Nat) (f : TileEntry → TileEntry) : (s.modTile d i f).hmsgs = s.hmsgs := rfl
@[simp] theorem modTile_pend (s : State) (d i : Nat) (f : TileEntry → TileEntry) : (s.modTile d i f).pend = s.pend := rfl
@[simp] theorem modTile_pubs (s : State) (d i : Nat) (f : TileEntry → TileEntry) : (s.modTile d i f).pubs = s.pubs := rfl
@[simp] theorem modTile_fronts (s : State) (d i : Nat) (f : TileEntry → TileEntry) : (s.modTile d i f).fronts = s.fronts := rfl
@[simp] theorem modTile_icinvs (s : State) (d i : Nat) (f : TileEntry → TileEntry) : (s.modTile d i f).icinvs = s.icinvs := rfl
@[simp] theorem modTile_icache (s : State) (d i : Nat) (f : TileEntry → TileEntry) : (s.modTile d i f).icache = s.icache := rfl
@[simp] theorem modTile_lastuses (s : State) (d i : Nat) (f : TileEntry → TileEntry) : (s.modTile d i f).lastuses = s.lastuses := rfl
@[simp] theorem modTile_marks (s : State) (d i : Nat) (f : TileEntry → TileEntry) : (s.modTile d i f).marks = s.marks := rfl
@[simp] theorem modTile_part (s : State) (d i : Nat) (f : TileEntry → TileEntry) : (s.modTile d i f).part = s.part := rfl
@[simp] theorem modTile_gens (s : State) (d i : Nat) (f : TileEntry → TileEntry) : (s.modTile d i f).gens = s.gens := rfl
@[simp] theorem modTile_reqs (s : State) (d i : Nat) (f : TileEntry → TileEntry) : (s.modTile d i f).reqs = s.reqs := rfl
@[simp] theorem modTile_ckpts (s : State) (d i : Nat) (f : TileEntry → TileEntry) : (s.modTile d i f).ckpts = s.ckpts := rfl
@[simp] theorem modTile_tiles (s : State) (d i : Nat) (f : TileEntry → TileEntry) : (s.modTile d i f).tiles = tabSet s.tiles (4096 * d + i) (f (s.tile d i)) := rfl
@[simp] theorem modTile_rounds (s : State) (d i : Nat) (f : TileEntry → TileEntry) : (s.modTile d i f).rounds = s.rounds := rfl
@[simp] theorem modTile_l1 (s : State) (d i : Nat) (f : TileEntry → TileEntry) : (s.modTile d i f).l1 = s.l1 := rfl
@[simp] theorem modTile_lines (s : State) (d i : Nat) (f : TileEntry → TileEntry) : (s.modTile d i f).lines = s.lines := rfl
@[simp] theorem modTile_pts (s : State) (d i : Nat) (f : TileEntry → TileEntry) : (s.modTile d i f).pts = s.pts := rfl
@[simp] theorem modTile_ptsAt (s : State) (d i : Nat) (f : TileEntry → TileEntry) : (s.modTile d i f).ptsAt = s.ptsAt := rfl
@[simp] theorem modTile_floors (s : State) (d i : Nat) (f : TileEntry → TileEntry) : (s.modTile d i f).floors = s.floors := rfl
@[simp] theorem modTile_lastTake (s : State) (d i : Nat) (f : TileEntry → TileEntry) : (s.modTile d i f).lastTake = s.lastTake := rfl
@[simp] theorem modTile_misses (s : State) (d i : Nat) (f : TileEntry → TileEntry) : (s.modTile d i f).misses = s.misses := rfl
@[simp] theorem modTile_dirty (s : State) (d i : Nat) (f : TileEntry → TileEntry) : (s.modTile d i f).dirty = s.dirty := rfl
@[simp] theorem modTile_tlbs (s : State) (d i : Nat) (f : TileEntry → TileEntry) : (s.modTile d i f).tlbs = s.tlbs := rfl
@[simp] theorem modTile_pages (s : State) (d i : Nat) (f : TileEntry → TileEntry) : (s.modTile d i f).pages = s.pages := rfl
@[simp] theorem modTile_inval (s : State) (d i : Nat) (f : TileEntry → TileEntry) : (s.modTile d i f).inval = s.inval := rfl
@[simp] theorem modTile_dir (s : State) (d i : Nat) (f : TileEntry → TileEntry) : (s.modTile d i f).dir = s.dir := rfl
@[simp] theorem modTile_homes (s : State) (d i : Nat) (f : TileEntry → TileEntry) : (s.modTile d i f).homes = s.homes := rfl
@[simp] theorem modTile_reps (s : State) (d i : Nat) (f : TileEntry → TileEntry) : (s.modTile d i f).reps = s.reps := rfl
@[simp] theorem modTile_inWrites (s : State) (d i : Nat) (f : TileEntry → TileEntry) : (s.modTile d i f).inWrites = s.inWrites := rfl
@[simp] theorem modTile_hostReply (s : State) (d i : Nat) (f : TileEntry → TileEntry) : (s.modTile d i f).hostReply = s.hostReply := rfl
@[simp] theorem modTile_upset (s : State) (d i : Nat) (f : TileEntry → TileEntry) : (s.modTile d i f).upset = s.upset := rfl

/-! ### `modAcc` -/

@[simp] theorem modAcc_turns (s : State) (c i : Nat) (f : AccTile → AccTile) : (s.modAcc c i f).turns = s.turns := rfl
@[simp] theorem modAcc_focus (s : State) (c i : Nat) (f : AccTile → AccTile) : (s.modAcc c i f).focus = s.focus := rfl
@[simp] theorem modAcc_fresh (s : State) (c i : Nat) (f : AccTile → AccTile) : (s.modAcc c i f).fresh = s.fresh := rfl
@[simp] theorem modAcc_nextId (s : State) (c i : Nat) (f : AccTile → AccTile) : (s.modAcc c i f).nextId = s.nextId := rfl
@[simp] theorem modAcc_stallOn (s : State) (c i : Nat) (f : AccTile → AccTile) : (s.modAcc c i f).stallOn = s.stallOn := rfl
@[simp] theorem modAcc_dtime (s : State) (c i : Nat) (f : AccTile → AccTile) : (s.modAcc c i f).dtime = s.dtime := rfl
@[simp] theorem modAcc_clk (s : State) (c i : Nat) (f : AccTile → AccTile) : (s.modAcc c i f).clk = s.clk := rfl
@[simp] theorem modAcc_mem (s : State) (c i : Nat) (f : AccTile → AccTile) : (s.modAcc c i f).mem = s.mem := rfl
@[simp] theorem modAcc_keys (s : State) (c i : Nat) (f : AccTile → AccTile) : (s.modAcc c i f).keys = s.keys := rfl
@[simp] theorem modAcc_dropped (s : State) (c i : Nat) (f : AccTile → AccTile) : (s.modAcc c i f).dropped = s.dropped := rfl
@[simp] theorem modAcc_mgmt (s : State) (c i : Nat) (f : AccTile → AccTile) : (s.modAcc c i f).mgmt = s.mgmt := rfl
@[simp] theorem modAcc_fab (s : State) (c i : Nat) (f : AccTile → AccTile) : (s.modAcc c i f).fab = s.fab := rfl
@[simp] theorem modAcc_mb (s : State) (c i : Nat) (f : AccTile → AccTile) : (s.modAcc c i f).mb = s.mb := rfl
@[simp] theorem modAcc_ctxs (s : State) (c i : Nat) (f : AccTile → AccTile) : (s.modAcc c i f).ctxs = s.ctxs := rfl
@[simp] theorem modAcc_queues (s : State) (c i : Nat) (f : AccTile → AccTile) : (s.modAcc c i f).queues = s.queues := rfl
@[simp] theorem modAcc_kernels (s : State) (c i : Nat) (f : AccTile → AccTile) : (s.modAcc c i f).kernels = s.kernels := rfl
@[simp] theorem modAcc_wgs (s : State) (c i : Nat) (f : AccTile → AccTile) : (s.modAcc c i f).wgs = s.wgs := rfl
@[simp] theorem modAcc_groups (s : State) (c i : Nat) (f : AccTile → AccTile) : (s.modAcc c i f).groups = s.groups := rfl
@[simp] theorem modAcc_cts (s : State) (c i : Nat) (f : AccTile → AccTile) : (s.modAcc c i f).cts = s.cts := rfl
@[simp] theorem modAcc_seqs (s : State) (c i : Nat) (f : AccTile → AccTile) : (s.modAcc c i f).seqs = s.seqs := rfl
@[simp] theorem modAcc_sgs (s : State) (c i : Nat) (f : AccTile → AccTile) : (s.modAcc c i f).sgs = s.sgs := rfl
@[simp] theorem modAcc_accs (s : State) (c i : Nat) (f : AccTile → AccTile) : (s.modAcc c i f).accs = tabSet s.accs (32 * c + i) (f (s.acc c i)) := rfl
@[simp] theorem modAcc_mmas (s : State) (c i : Nat) (f : AccTile → AccTile) : (s.modAcc c i f).mmas = s.mmas := rfl
@[simp] theorem modAcc_drains (s : State) (c i : Nat) (f : AccTile → AccTile) : (s.modAcc c i f).drains = s.drains := rfl
@[simp] theorem modAcc_collq (s : State) (c i : Nat) (f : AccTile → AccTile) : (s.modAcc c i f).collq = s.collq := rfl
@[simp] theorem modAcc_ranges (s : State) (c i : Nat) (f : AccTile → AccTile) : (s.modAcc c i f).ranges = s.ranges := rfl
@[simp] theorem modAcc_copies (s : State) (c i : Nat) (f : AccTile → AccTile) : (s.modAcc c i f).copies = s.copies := rfl
@[simp] theorem modAcc_tiers (s : State) (c i : Nat) (f : AccTile → AccTile) : (s.modAcc c i f).tiers = s.tiers := rfl
@[simp] theorem modAcc_ratoms (s : State) (c i : Nat) (f : AccTile → AccTile) : (s.modAcc c i f).ratoms = s.ratoms := rfl
@[simp] theorem modAcc_ratomFails (s : State) (c i : Nat) (f : AccTile → AccTile) : (s.modAcc c i f).ratomFails = s.ratomFails := rfl
@[simp] theorem modAcc_arrivals (s : State) (c i : Nat) (f : AccTile → AccTile) : (s.modAcc c i f).arrivals = s.arrivals := rfl
@[simp] theorem modAcc_hmsgs (s : State) (c i : Nat) (f : AccTile → AccTile) : (s.modAcc c i f).hmsgs = s.hmsgs := rfl
@[simp] theorem modAcc_pend (s : State) (c i : Nat) (f : AccTile → AccTile) : (s.modAcc c i f).pend = s.pend := rfl
@[simp] theorem modAcc_pubs (s : State) (c i : Nat) (f : AccTile → AccTile) : (s.modAcc c i f).pubs = s.pubs := rfl
@[simp] theorem modAcc_fronts (s : State) (c i : Nat) (f : AccTile → AccTile) : (s.modAcc c i f).fronts = s.fronts := rfl
@[simp] theorem modAcc_icinvs (s : State) (c i : Nat) (f : AccTile → AccTile) : (s.modAcc c i f).icinvs = s.icinvs := rfl
@[simp] theorem modAcc_icache (s : State) (c i : Nat) (f : AccTile → AccTile) : (s.modAcc c i f).icache = s.icache := rfl
@[simp] theorem modAcc_lastuses (s : State) (c i : Nat) (f : AccTile → AccTile) : (s.modAcc c i f).lastuses = s.lastuses := rfl
@[simp] theorem modAcc_marks (s : State) (c i : Nat) (f : AccTile → AccTile) : (s.modAcc c i f).marks = s.marks := rfl
@[simp] theorem modAcc_part (s : State) (c i : Nat) (f : AccTile → AccTile) : (s.modAcc c i f).part = s.part := rfl
@[simp] theorem modAcc_gens (s : State) (c i : Nat) (f : AccTile → AccTile) : (s.modAcc c i f).gens = s.gens := rfl
@[simp] theorem modAcc_reqs (s : State) (c i : Nat) (f : AccTile → AccTile) : (s.modAcc c i f).reqs = s.reqs := rfl
@[simp] theorem modAcc_ckpts (s : State) (c i : Nat) (f : AccTile → AccTile) : (s.modAcc c i f).ckpts = s.ckpts := rfl
@[simp] theorem modAcc_tiles (s : State) (c i : Nat) (f : AccTile → AccTile) : (s.modAcc c i f).tiles = s.tiles := rfl
@[simp] theorem modAcc_rounds (s : State) (c i : Nat) (f : AccTile → AccTile) : (s.modAcc c i f).rounds = s.rounds := rfl
@[simp] theorem modAcc_l1 (s : State) (c i : Nat) (f : AccTile → AccTile) : (s.modAcc c i f).l1 = s.l1 := rfl
@[simp] theorem modAcc_lines (s : State) (c i : Nat) (f : AccTile → AccTile) : (s.modAcc c i f).lines = s.lines := rfl
@[simp] theorem modAcc_pts (s : State) (c i : Nat) (f : AccTile → AccTile) : (s.modAcc c i f).pts = s.pts := rfl
@[simp] theorem modAcc_ptsAt (s : State) (c i : Nat) (f : AccTile → AccTile) : (s.modAcc c i f).ptsAt = s.ptsAt := rfl
@[simp] theorem modAcc_floors (s : State) (c i : Nat) (f : AccTile → AccTile) : (s.modAcc c i f).floors = s.floors := rfl
@[simp] theorem modAcc_lastTake (s : State) (c i : Nat) (f : AccTile → AccTile) : (s.modAcc c i f).lastTake = s.lastTake := rfl
@[simp] theorem modAcc_misses (s : State) (c i : Nat) (f : AccTile → AccTile) : (s.modAcc c i f).misses = s.misses := rfl
@[simp] theorem modAcc_dirty (s : State) (c i : Nat) (f : AccTile → AccTile) : (s.modAcc c i f).dirty = s.dirty := rfl
@[simp] theorem modAcc_tlbs (s : State) (c i : Nat) (f : AccTile → AccTile) : (s.modAcc c i f).tlbs = s.tlbs := rfl
@[simp] theorem modAcc_pages (s : State) (c i : Nat) (f : AccTile → AccTile) : (s.modAcc c i f).pages = s.pages := rfl
@[simp] theorem modAcc_inval (s : State) (c i : Nat) (f : AccTile → AccTile) : (s.modAcc c i f).inval = s.inval := rfl
@[simp] theorem modAcc_dir (s : State) (c i : Nat) (f : AccTile → AccTile) : (s.modAcc c i f).dir = s.dir := rfl
@[simp] theorem modAcc_homes (s : State) (c i : Nat) (f : AccTile → AccTile) : (s.modAcc c i f).homes = s.homes := rfl
@[simp] theorem modAcc_reps (s : State) (c i : Nat) (f : AccTile → AccTile) : (s.modAcc c i f).reps = s.reps := rfl
@[simp] theorem modAcc_inWrites (s : State) (c i : Nat) (f : AccTile → AccTile) : (s.modAcc c i f).inWrites = s.inWrites := rfl
@[simp] theorem modAcc_hostReply (s : State) (c i : Nat) (f : AccTile → AccTile) : (s.modAcc c i f).hostReply = s.hostReply := rfl
@[simp] theorem modAcc_upset (s : State) (c i : Nat) (f : AccTile → AccTile) : (s.modAcc c i f).upset = s.upset := rfl

/-! ### `setSg` -/

@[simp] theorem setSg_turns (s : State) (c h : Nat) (d : SgDesc) : (s.setSg c h d).turns = s.turns := rfl
@[simp] theorem setSg_focus (s : State) (c h : Nat) (d : SgDesc) : (s.setSg c h d).focus = s.focus := rfl
@[simp] theorem setSg_fresh (s : State) (c h : Nat) (d : SgDesc) : (s.setSg c h d).fresh = s.fresh := rfl
@[simp] theorem setSg_nextId (s : State) (c h : Nat) (d : SgDesc) : (s.setSg c h d).nextId = s.nextId := rfl
@[simp] theorem setSg_stallOn (s : State) (c h : Nat) (d : SgDesc) : (s.setSg c h d).stallOn = s.stallOn := rfl
@[simp] theorem setSg_dtime (s : State) (c h : Nat) (d : SgDesc) : (s.setSg c h d).dtime = s.dtime := rfl
@[simp] theorem setSg_clk (s : State) (c h : Nat) (d : SgDesc) : (s.setSg c h d).clk = s.clk := rfl
@[simp] theorem setSg_mem (s : State) (c h : Nat) (d : SgDesc) : (s.setSg c h d).mem = s.mem := rfl
@[simp] theorem setSg_keys (s : State) (c h : Nat) (d : SgDesc) : (s.setSg c h d).keys = s.keys := rfl
@[simp] theorem setSg_dropped (s : State) (c h : Nat) (d : SgDesc) : (s.setSg c h d).dropped = s.dropped := rfl
@[simp] theorem setSg_mgmt (s : State) (c h : Nat) (d : SgDesc) : (s.setSg c h d).mgmt = s.mgmt := rfl
@[simp] theorem setSg_fab (s : State) (c h : Nat) (d : SgDesc) : (s.setSg c h d).fab = s.fab := rfl
@[simp] theorem setSg_mb (s : State) (c h : Nat) (d : SgDesc) : (s.setSg c h d).mb = s.mb := rfl
@[simp] theorem setSg_ctxs (s : State) (c h : Nat) (d : SgDesc) : (s.setSg c h d).ctxs = s.ctxs := rfl
@[simp] theorem setSg_queues (s : State) (c h : Nat) (d : SgDesc) : (s.setSg c h d).queues = s.queues := rfl
@[simp] theorem setSg_kernels (s : State) (c h : Nat) (d : SgDesc) : (s.setSg c h d).kernels = s.kernels := rfl
@[simp] theorem setSg_wgs (s : State) (c h : Nat) (d : SgDesc) : (s.setSg c h d).wgs = s.wgs := rfl
@[simp] theorem setSg_groups (s : State) (c h : Nat) (d : SgDesc) : (s.setSg c h d).groups = s.groups := rfl
@[simp] theorem setSg_cts (s : State) (c h : Nat) (d : SgDesc) : (s.setSg c h d).cts = s.cts := rfl
@[simp] theorem setSg_seqs (s : State) (c h : Nat) (d : SgDesc) : (s.setSg c h d).seqs = s.seqs := rfl
@[simp] theorem setSg_sgs (s : State) (c h : Nat) (d : SgDesc) : (s.setSg c h d).sgs = tabSet s.sgs (4096 * c + h) d := rfl
@[simp] theorem setSg_accs (s : State) (c h : Nat) (d : SgDesc) : (s.setSg c h d).accs = s.accs := rfl
@[simp] theorem setSg_mmas (s : State) (c h : Nat) (d : SgDesc) : (s.setSg c h d).mmas = s.mmas := rfl
@[simp] theorem setSg_drains (s : State) (c h : Nat) (d : SgDesc) : (s.setSg c h d).drains = s.drains := rfl
@[simp] theorem setSg_collq (s : State) (c h : Nat) (d : SgDesc) : (s.setSg c h d).collq = s.collq := rfl
@[simp] theorem setSg_ranges (s : State) (c h : Nat) (d : SgDesc) : (s.setSg c h d).ranges = s.ranges := rfl
@[simp] theorem setSg_copies (s : State) (c h : Nat) (d : SgDesc) : (s.setSg c h d).copies = s.copies := rfl
@[simp] theorem setSg_tiers (s : State) (c h : Nat) (d : SgDesc) : (s.setSg c h d).tiers = s.tiers := rfl
@[simp] theorem setSg_ratoms (s : State) (c h : Nat) (d : SgDesc) : (s.setSg c h d).ratoms = s.ratoms := rfl
@[simp] theorem setSg_ratomFails (s : State) (c h : Nat) (d : SgDesc) : (s.setSg c h d).ratomFails = s.ratomFails := rfl
@[simp] theorem setSg_arrivals (s : State) (c h : Nat) (d : SgDesc) : (s.setSg c h d).arrivals = s.arrivals := rfl
@[simp] theorem setSg_hmsgs (s : State) (c h : Nat) (d : SgDesc) : (s.setSg c h d).hmsgs = s.hmsgs := rfl
@[simp] theorem setSg_pend (s : State) (c h : Nat) (d : SgDesc) : (s.setSg c h d).pend = s.pend := rfl
@[simp] theorem setSg_pubs (s : State) (c h : Nat) (d : SgDesc) : (s.setSg c h d).pubs = s.pubs := rfl
@[simp] theorem setSg_fronts (s : State) (c h : Nat) (d : SgDesc) : (s.setSg c h d).fronts = s.fronts := rfl
@[simp] theorem setSg_icinvs (s : State) (c h : Nat) (d : SgDesc) : (s.setSg c h d).icinvs = s.icinvs := rfl
@[simp] theorem setSg_icache (s : State) (c h : Nat) (d : SgDesc) : (s.setSg c h d).icache = s.icache := rfl
@[simp] theorem setSg_lastuses (s : State) (c h : Nat) (d : SgDesc) : (s.setSg c h d).lastuses = s.lastuses := rfl
@[simp] theorem setSg_marks (s : State) (c h : Nat) (d : SgDesc) : (s.setSg c h d).marks = s.marks := rfl
@[simp] theorem setSg_part (s : State) (c h : Nat) (d : SgDesc) : (s.setSg c h d).part = s.part := rfl
@[simp] theorem setSg_gens (s : State) (c h : Nat) (d : SgDesc) : (s.setSg c h d).gens = s.gens := rfl
@[simp] theorem setSg_reqs (s : State) (c h : Nat) (d : SgDesc) : (s.setSg c h d).reqs = s.reqs := rfl
@[simp] theorem setSg_ckpts (s : State) (c h : Nat) (d : SgDesc) : (s.setSg c h d).ckpts = s.ckpts := rfl
@[simp] theorem setSg_tiles (s : State) (c h : Nat) (d : SgDesc) : (s.setSg c h d).tiles = s.tiles := rfl
@[simp] theorem setSg_rounds (s : State) (c h : Nat) (d : SgDesc) : (s.setSg c h d).rounds = s.rounds := rfl
@[simp] theorem setSg_l1 (s : State) (c h : Nat) (d : SgDesc) : (s.setSg c h d).l1 = s.l1 := rfl
@[simp] theorem setSg_lines (s : State) (c h : Nat) (d : SgDesc) : (s.setSg c h d).lines = s.lines := rfl
@[simp] theorem setSg_pts (s : State) (c h : Nat) (d : SgDesc) : (s.setSg c h d).pts = s.pts := rfl
@[simp] theorem setSg_ptsAt (s : State) (c h : Nat) (d : SgDesc) : (s.setSg c h d).ptsAt = s.ptsAt := rfl
@[simp] theorem setSg_floors (s : State) (c h : Nat) (d : SgDesc) : (s.setSg c h d).floors = s.floors := rfl
@[simp] theorem setSg_lastTake (s : State) (c h : Nat) (d : SgDesc) : (s.setSg c h d).lastTake = s.lastTake := rfl
@[simp] theorem setSg_misses (s : State) (c h : Nat) (d : SgDesc) : (s.setSg c h d).misses = s.misses := rfl
@[simp] theorem setSg_dirty (s : State) (c h : Nat) (d : SgDesc) : (s.setSg c h d).dirty = s.dirty := rfl
@[simp] theorem setSg_tlbs (s : State) (c h : Nat) (d : SgDesc) : (s.setSg c h d).tlbs = s.tlbs := rfl
@[simp] theorem setSg_pages (s : State) (c h : Nat) (d : SgDesc) : (s.setSg c h d).pages = s.pages := rfl
@[simp] theorem setSg_inval (s : State) (c h : Nat) (d : SgDesc) : (s.setSg c h d).inval = s.inval := rfl
@[simp] theorem setSg_dir (s : State) (c h : Nat) (d : SgDesc) : (s.setSg c h d).dir = s.dir := rfl
@[simp] theorem setSg_homes (s : State) (c h : Nat) (d : SgDesc) : (s.setSg c h d).homes = s.homes := rfl
@[simp] theorem setSg_reps (s : State) (c h : Nat) (d : SgDesc) : (s.setSg c h d).reps = s.reps := rfl
@[simp] theorem setSg_inWrites (s : State) (c h : Nat) (d : SgDesc) : (s.setSg c h d).inWrites = s.inWrites := rfl
@[simp] theorem setSg_hostReply (s : State) (c h : Nat) (d : SgDesc) : (s.setSg c h d).hostReply = s.hostReply := rfl
@[simp] theorem setSg_upset (s : State) (c h : Nat) (d : SgDesc) : (s.setSg c h d).upset = s.upset := rfl

/-! ### `setMem` -/

@[simp] theorem setMem_turns (s : State) (a : Nat) (bs : List Byte) : (s.setMem a bs).turns = s.turns := rfl
@[simp] theorem setMem_focus (s : State) (a : Nat) (bs : List Byte) : (s.setMem a bs).focus = s.focus := rfl
@[simp] theorem setMem_fresh (s : State) (a : Nat) (bs : List Byte) : (s.setMem a bs).fresh = s.fresh := rfl
@[simp] theorem setMem_nextId (s : State) (a : Nat) (bs : List Byte) : (s.setMem a bs).nextId = s.nextId := rfl
@[simp] theorem setMem_stallOn (s : State) (a : Nat) (bs : List Byte) : (s.setMem a bs).stallOn = s.stallOn := rfl
@[simp] theorem setMem_dtime (s : State) (a : Nat) (bs : List Byte) : (s.setMem a bs).dtime = s.dtime := rfl
@[simp] theorem setMem_clk (s : State) (a : Nat) (bs : List Byte) : (s.setMem a bs).clk = s.clk := rfl
@[simp] theorem setMem_mem (s : State) (a : Nat) (bs : List Byte) : (s.setMem a bs).mem = memWrite s.mem a bs := rfl
@[simp] theorem setMem_keys (s : State) (a : Nat) (bs : List Byte) : (s.setMem a bs).keys = s.keys := rfl
@[simp] theorem setMem_dropped (s : State) (a : Nat) (bs : List Byte) : (s.setMem a bs).dropped = s.dropped := rfl
@[simp] theorem setMem_mgmt (s : State) (a : Nat) (bs : List Byte) : (s.setMem a bs).mgmt = s.mgmt := rfl
@[simp] theorem setMem_fab (s : State) (a : Nat) (bs : List Byte) : (s.setMem a bs).fab = s.fab := rfl
@[simp] theorem setMem_mb (s : State) (a : Nat) (bs : List Byte) : (s.setMem a bs).mb = s.mb := rfl
@[simp] theorem setMem_ctxs (s : State) (a : Nat) (bs : List Byte) : (s.setMem a bs).ctxs = s.ctxs := rfl
@[simp] theorem setMem_queues (s : State) (a : Nat) (bs : List Byte) : (s.setMem a bs).queues = s.queues := rfl
@[simp] theorem setMem_kernels (s : State) (a : Nat) (bs : List Byte) : (s.setMem a bs).kernels = s.kernels := rfl
@[simp] theorem setMem_wgs (s : State) (a : Nat) (bs : List Byte) : (s.setMem a bs).wgs = s.wgs := rfl
@[simp] theorem setMem_groups (s : State) (a : Nat) (bs : List Byte) : (s.setMem a bs).groups = s.groups := rfl
@[simp] theorem setMem_cts (s : State) (a : Nat) (bs : List Byte) : (s.setMem a bs).cts = s.cts := rfl
@[simp] theorem setMem_seqs (s : State) (a : Nat) (bs : List Byte) : (s.setMem a bs).seqs = s.seqs := rfl
@[simp] theorem setMem_sgs (s : State) (a : Nat) (bs : List Byte) : (s.setMem a bs).sgs = s.sgs := rfl
@[simp] theorem setMem_accs (s : State) (a : Nat) (bs : List Byte) : (s.setMem a bs).accs = s.accs := rfl
@[simp] theorem setMem_mmas (s : State) (a : Nat) (bs : List Byte) : (s.setMem a bs).mmas = s.mmas := rfl
@[simp] theorem setMem_drains (s : State) (a : Nat) (bs : List Byte) : (s.setMem a bs).drains = s.drains := rfl
@[simp] theorem setMem_collq (s : State) (a : Nat) (bs : List Byte) : (s.setMem a bs).collq = s.collq := rfl
@[simp] theorem setMem_ranges (s : State) (a : Nat) (bs : List Byte) : (s.setMem a bs).ranges = s.ranges := rfl
@[simp] theorem setMem_copies (s : State) (a : Nat) (bs : List Byte) : (s.setMem a bs).copies = s.copies := rfl
@[simp] theorem setMem_tiers (s : State) (a : Nat) (bs : List Byte) : (s.setMem a bs).tiers = s.tiers := rfl
@[simp] theorem setMem_ratoms (s : State) (a : Nat) (bs : List Byte) : (s.setMem a bs).ratoms = s.ratoms := rfl
@[simp] theorem setMem_ratomFails (s : State) (a : Nat) (bs : List Byte) : (s.setMem a bs).ratomFails = s.ratomFails := rfl
@[simp] theorem setMem_arrivals (s : State) (a : Nat) (bs : List Byte) : (s.setMem a bs).arrivals = s.arrivals := rfl
@[simp] theorem setMem_hmsgs (s : State) (a : Nat) (bs : List Byte) : (s.setMem a bs).hmsgs = s.hmsgs := rfl
@[simp] theorem setMem_pend (s : State) (a : Nat) (bs : List Byte) : (s.setMem a bs).pend = s.pend := rfl
@[simp] theorem setMem_pubs (s : State) (a : Nat) (bs : List Byte) : (s.setMem a bs).pubs = s.pubs := rfl
@[simp] theorem setMem_fronts (s : State) (a : Nat) (bs : List Byte) : (s.setMem a bs).fronts = s.fronts := rfl
@[simp] theorem setMem_icinvs (s : State) (a : Nat) (bs : List Byte) : (s.setMem a bs).icinvs = s.icinvs := rfl
@[simp] theorem setMem_icache (s : State) (a : Nat) (bs : List Byte) : (s.setMem a bs).icache = s.icache := rfl
@[simp] theorem setMem_lastuses (s : State) (a : Nat) (bs : List Byte) : (s.setMem a bs).lastuses = s.lastuses := rfl
@[simp] theorem setMem_marks (s : State) (a : Nat) (bs : List Byte) : (s.setMem a bs).marks = s.marks := rfl
@[simp] theorem setMem_part (s : State) (a : Nat) (bs : List Byte) : (s.setMem a bs).part = s.part := rfl
@[simp] theorem setMem_gens (s : State) (a : Nat) (bs : List Byte) : (s.setMem a bs).gens = s.gens := rfl
@[simp] theorem setMem_reqs (s : State) (a : Nat) (bs : List Byte) : (s.setMem a bs).reqs = s.reqs := rfl
@[simp] theorem setMem_ckpts (s : State) (a : Nat) (bs : List Byte) : (s.setMem a bs).ckpts = s.ckpts := rfl
@[simp] theorem setMem_tiles (s : State) (a : Nat) (bs : List Byte) : (s.setMem a bs).tiles = s.tiles := rfl
@[simp] theorem setMem_rounds (s : State) (a : Nat) (bs : List Byte) : (s.setMem a bs).rounds = s.rounds := rfl
@[simp] theorem setMem_l1 (s : State) (a : Nat) (bs : List Byte) : (s.setMem a bs).l1 = s.l1 := rfl
@[simp] theorem setMem_lines (s : State) (a : Nat) (bs : List Byte) : (s.setMem a bs).lines = s.lines := rfl
@[simp] theorem setMem_pts (s : State) (a : Nat) (bs : List Byte) : (s.setMem a bs).pts = s.pts := rfl
@[simp] theorem setMem_ptsAt (s : State) (a : Nat) (bs : List Byte) : (s.setMem a bs).ptsAt = s.ptsAt := rfl
@[simp] theorem setMem_floors (s : State) (a : Nat) (bs : List Byte) : (s.setMem a bs).floors = s.floors := rfl
@[simp] theorem setMem_lastTake (s : State) (a : Nat) (bs : List Byte) : (s.setMem a bs).lastTake = s.lastTake := rfl
@[simp] theorem setMem_misses (s : State) (a : Nat) (bs : List Byte) : (s.setMem a bs).misses = s.misses := rfl
@[simp] theorem setMem_dirty (s : State) (a : Nat) (bs : List Byte) : (s.setMem a bs).dirty = s.dirty := rfl
@[simp] theorem setMem_tlbs (s : State) (a : Nat) (bs : List Byte) : (s.setMem a bs).tlbs = s.tlbs := rfl
@[simp] theorem setMem_pages (s : State) (a : Nat) (bs : List Byte) : (s.setMem a bs).pages = s.pages := rfl
@[simp] theorem setMem_inval (s : State) (a : Nat) (bs : List Byte) : (s.setMem a bs).inval = s.inval := rfl
@[simp] theorem setMem_dir (s : State) (a : Nat) (bs : List Byte) : (s.setMem a bs).dir = s.dir := rfl
@[simp] theorem setMem_homes (s : State) (a : Nat) (bs : List Byte) : (s.setMem a bs).homes = s.homes := rfl
@[simp] theorem setMem_reps (s : State) (a : Nat) (bs : List Byte) : (s.setMem a bs).reps = s.reps := rfl
@[simp] theorem setMem_inWrites (s : State) (a : Nat) (bs : List Byte) : (s.setMem a bs).inWrites = s.inWrites := rfl
@[simp] theorem setMem_hostReply (s : State) (a : Nat) (bs : List Byte) : (s.setMem a bs).hostReply = s.hostReply := rfl
@[simp] theorem setMem_upset (s : State) (a : Nat) (bs : List Byte) : (s.setMem a bs).upset = s.upset := rfl

/-! ### `modFab` -/

@[simp] theorem modFab_turns (s : State) (f : Fabric → Fabric) : (s.modFab f).turns = s.turns := rfl
@[simp] theorem modFab_focus (s : State) (f : Fabric → Fabric) : (s.modFab f).focus = s.focus := rfl
@[simp] theorem modFab_fresh (s : State) (f : Fabric → Fabric) : (s.modFab f).fresh = s.fresh := rfl
@[simp] theorem modFab_nextId (s : State) (f : Fabric → Fabric) : (s.modFab f).nextId = s.nextId := rfl
@[simp] theorem modFab_stallOn (s : State) (f : Fabric → Fabric) : (s.modFab f).stallOn = s.stallOn := rfl
@[simp] theorem modFab_dtime (s : State) (f : Fabric → Fabric) : (s.modFab f).dtime = s.dtime := rfl
@[simp] theorem modFab_clk (s : State) (f : Fabric → Fabric) : (s.modFab f).clk = s.clk := rfl
@[simp] theorem modFab_mem (s : State) (f : Fabric → Fabric) : (s.modFab f).mem = s.mem := rfl
@[simp] theorem modFab_keys (s : State) (f : Fabric → Fabric) : (s.modFab f).keys = s.keys := rfl
@[simp] theorem modFab_dropped (s : State) (f : Fabric → Fabric) : (s.modFab f).dropped = s.dropped := rfl
@[simp] theorem modFab_mgmt (s : State) (f : Fabric → Fabric) : (s.modFab f).mgmt = s.mgmt := rfl
@[simp] theorem modFab_fab (s : State) (f : Fabric → Fabric) : (s.modFab f).fab = f s.fab := rfl
@[simp] theorem modFab_mb (s : State) (f : Fabric → Fabric) : (s.modFab f).mb = s.mb := rfl
@[simp] theorem modFab_ctxs (s : State) (f : Fabric → Fabric) : (s.modFab f).ctxs = s.ctxs := rfl
@[simp] theorem modFab_queues (s : State) (f : Fabric → Fabric) : (s.modFab f).queues = s.queues := rfl
@[simp] theorem modFab_kernels (s : State) (f : Fabric → Fabric) : (s.modFab f).kernels = s.kernels := rfl
@[simp] theorem modFab_wgs (s : State) (f : Fabric → Fabric) : (s.modFab f).wgs = s.wgs := rfl
@[simp] theorem modFab_groups (s : State) (f : Fabric → Fabric) : (s.modFab f).groups = s.groups := rfl
@[simp] theorem modFab_cts (s : State) (f : Fabric → Fabric) : (s.modFab f).cts = s.cts := rfl
@[simp] theorem modFab_seqs (s : State) (f : Fabric → Fabric) : (s.modFab f).seqs = s.seqs := rfl
@[simp] theorem modFab_sgs (s : State) (f : Fabric → Fabric) : (s.modFab f).sgs = s.sgs := rfl
@[simp] theorem modFab_accs (s : State) (f : Fabric → Fabric) : (s.modFab f).accs = s.accs := rfl
@[simp] theorem modFab_mmas (s : State) (f : Fabric → Fabric) : (s.modFab f).mmas = s.mmas := rfl
@[simp] theorem modFab_drains (s : State) (f : Fabric → Fabric) : (s.modFab f).drains = s.drains := rfl
@[simp] theorem modFab_collq (s : State) (f : Fabric → Fabric) : (s.modFab f).collq = s.collq := rfl
@[simp] theorem modFab_ranges (s : State) (f : Fabric → Fabric) : (s.modFab f).ranges = s.ranges := rfl
@[simp] theorem modFab_copies (s : State) (f : Fabric → Fabric) : (s.modFab f).copies = s.copies := rfl
@[simp] theorem modFab_tiers (s : State) (f : Fabric → Fabric) : (s.modFab f).tiers = s.tiers := rfl
@[simp] theorem modFab_ratoms (s : State) (f : Fabric → Fabric) : (s.modFab f).ratoms = s.ratoms := rfl
@[simp] theorem modFab_ratomFails (s : State) (f : Fabric → Fabric) : (s.modFab f).ratomFails = s.ratomFails := rfl
@[simp] theorem modFab_arrivals (s : State) (f : Fabric → Fabric) : (s.modFab f).arrivals = s.arrivals := rfl
@[simp] theorem modFab_hmsgs (s : State) (f : Fabric → Fabric) : (s.modFab f).hmsgs = s.hmsgs := rfl
@[simp] theorem modFab_pend (s : State) (f : Fabric → Fabric) : (s.modFab f).pend = s.pend := rfl
@[simp] theorem modFab_pubs (s : State) (f : Fabric → Fabric) : (s.modFab f).pubs = s.pubs := rfl
@[simp] theorem modFab_fronts (s : State) (f : Fabric → Fabric) : (s.modFab f).fronts = s.fronts := rfl
@[simp] theorem modFab_icinvs (s : State) (f : Fabric → Fabric) : (s.modFab f).icinvs = s.icinvs := rfl
@[simp] theorem modFab_icache (s : State) (f : Fabric → Fabric) : (s.modFab f).icache = s.icache := rfl
@[simp] theorem modFab_lastuses (s : State) (f : Fabric → Fabric) : (s.modFab f).lastuses = s.lastuses := rfl
@[simp] theorem modFab_marks (s : State) (f : Fabric → Fabric) : (s.modFab f).marks = s.marks := rfl
@[simp] theorem modFab_part (s : State) (f : Fabric → Fabric) : (s.modFab f).part = s.part := rfl
@[simp] theorem modFab_gens (s : State) (f : Fabric → Fabric) : (s.modFab f).gens = s.gens := rfl
@[simp] theorem modFab_reqs (s : State) (f : Fabric → Fabric) : (s.modFab f).reqs = s.reqs := rfl
@[simp] theorem modFab_ckpts (s : State) (f : Fabric → Fabric) : (s.modFab f).ckpts = s.ckpts := rfl
@[simp] theorem modFab_tiles (s : State) (f : Fabric → Fabric) : (s.modFab f).tiles = s.tiles := rfl
@[simp] theorem modFab_rounds (s : State) (f : Fabric → Fabric) : (s.modFab f).rounds = s.rounds := rfl
@[simp] theorem modFab_l1 (s : State) (f : Fabric → Fabric) : (s.modFab f).l1 = s.l1 := rfl
@[simp] theorem modFab_lines (s : State) (f : Fabric → Fabric) : (s.modFab f).lines = s.lines := rfl
@[simp] theorem modFab_pts (s : State) (f : Fabric → Fabric) : (s.modFab f).pts = s.pts := rfl
@[simp] theorem modFab_ptsAt (s : State) (f : Fabric → Fabric) : (s.modFab f).ptsAt = s.ptsAt := rfl
@[simp] theorem modFab_floors (s : State) (f : Fabric → Fabric) : (s.modFab f).floors = s.floors := rfl
@[simp] theorem modFab_lastTake (s : State) (f : Fabric → Fabric) : (s.modFab f).lastTake = s.lastTake := rfl
@[simp] theorem modFab_misses (s : State) (f : Fabric → Fabric) : (s.modFab f).misses = s.misses := rfl
@[simp] theorem modFab_dirty (s : State) (f : Fabric → Fabric) : (s.modFab f).dirty = s.dirty := rfl
@[simp] theorem modFab_tlbs (s : State) (f : Fabric → Fabric) : (s.modFab f).tlbs = s.tlbs := rfl
@[simp] theorem modFab_pages (s : State) (f : Fabric → Fabric) : (s.modFab f).pages = s.pages := rfl
@[simp] theorem modFab_inval (s : State) (f : Fabric → Fabric) : (s.modFab f).inval = s.inval := rfl
@[simp] theorem modFab_dir (s : State) (f : Fabric → Fabric) : (s.modFab f).dir = s.dir := rfl
@[simp] theorem modFab_homes (s : State) (f : Fabric → Fabric) : (s.modFab f).homes = s.homes := rfl
@[simp] theorem modFab_reps (s : State) (f : Fabric → Fabric) : (s.modFab f).reps = s.reps := rfl
@[simp] theorem modFab_inWrites (s : State) (f : Fabric → Fabric) : (s.modFab f).inWrites = s.inWrites := rfl
@[simp] theorem modFab_hostReply (s : State) (f : Fabric → Fabric) : (s.modFab f).hostReply = s.hostReply := rfl
@[simp] theorem modFab_upset (s : State) (f : Fabric → Fabric) : (s.modFab f).upset = s.upset := rfl

/-! ### `modPort` -/

@[simp] theorem modPort_turns (s : State) (p : Nat) (f : Port → Port) : (s.modPort p f).turns = s.turns := rfl
@[simp] theorem modPort_focus (s : State) (p : Nat) (f : Port → Port) : (s.modPort p f).focus = s.focus := rfl
@[simp] theorem modPort_fresh (s : State) (p : Nat) (f : Port → Port) : (s.modPort p f).fresh = s.fresh := rfl
@[simp] theorem modPort_nextId (s : State) (p : Nat) (f : Port → Port) : (s.modPort p f).nextId = s.nextId := rfl
@[simp] theorem modPort_stallOn (s : State) (p : Nat) (f : Port → Port) : (s.modPort p f).stallOn = s.stallOn := rfl
@[simp] theorem modPort_dtime (s : State) (p : Nat) (f : Port → Port) : (s.modPort p f).dtime = s.dtime := rfl
@[simp] theorem modPort_clk (s : State) (p : Nat) (f : Port → Port) : (s.modPort p f).clk = s.clk := rfl
@[simp] theorem modPort_mem (s : State) (p : Nat) (f : Port → Port) : (s.modPort p f).mem = s.mem := rfl
@[simp] theorem modPort_keys (s : State) (p : Nat) (f : Port → Port) : (s.modPort p f).keys = s.keys := rfl
@[simp] theorem modPort_dropped (s : State) (p : Nat) (f : Port → Port) : (s.modPort p f).dropped = s.dropped := rfl
@[simp] theorem modPort_mgmt (s : State) (p : Nat) (f : Port → Port) : (s.modPort p f).mgmt = s.mgmt := rfl
@[simp] theorem modPort_fab (s : State) (p : Nat) (f : Port → Port) : (s.modPort p f).fab = { s.fab with ports := modAt s.fab.ports p f } := rfl
@[simp] theorem modPort_mb (s : State) (p : Nat) (f : Port → Port) : (s.modPort p f).mb = s.mb := rfl
@[simp] theorem modPort_ctxs (s : State) (p : Nat) (f : Port → Port) : (s.modPort p f).ctxs = s.ctxs := rfl
@[simp] theorem modPort_queues (s : State) (p : Nat) (f : Port → Port) : (s.modPort p f).queues = s.queues := rfl
@[simp] theorem modPort_kernels (s : State) (p : Nat) (f : Port → Port) : (s.modPort p f).kernels = s.kernels := rfl
@[simp] theorem modPort_wgs (s : State) (p : Nat) (f : Port → Port) : (s.modPort p f).wgs = s.wgs := rfl
@[simp] theorem modPort_groups (s : State) (p : Nat) (f : Port → Port) : (s.modPort p f).groups = s.groups := rfl
@[simp] theorem modPort_cts (s : State) (p : Nat) (f : Port → Port) : (s.modPort p f).cts = s.cts := rfl
@[simp] theorem modPort_seqs (s : State) (p : Nat) (f : Port → Port) : (s.modPort p f).seqs = s.seqs := rfl
@[simp] theorem modPort_sgs (s : State) (p : Nat) (f : Port → Port) : (s.modPort p f).sgs = s.sgs := rfl
@[simp] theorem modPort_accs (s : State) (p : Nat) (f : Port → Port) : (s.modPort p f).accs = s.accs := rfl
@[simp] theorem modPort_mmas (s : State) (p : Nat) (f : Port → Port) : (s.modPort p f).mmas = s.mmas := rfl
@[simp] theorem modPort_drains (s : State) (p : Nat) (f : Port → Port) : (s.modPort p f).drains = s.drains := rfl
@[simp] theorem modPort_collq (s : State) (p : Nat) (f : Port → Port) : (s.modPort p f).collq = s.collq := rfl
@[simp] theorem modPort_ranges (s : State) (p : Nat) (f : Port → Port) : (s.modPort p f).ranges = s.ranges := rfl
@[simp] theorem modPort_copies (s : State) (p : Nat) (f : Port → Port) : (s.modPort p f).copies = s.copies := rfl
@[simp] theorem modPort_tiers (s : State) (p : Nat) (f : Port → Port) : (s.modPort p f).tiers = s.tiers := rfl
@[simp] theorem modPort_ratoms (s : State) (p : Nat) (f : Port → Port) : (s.modPort p f).ratoms = s.ratoms := rfl
@[simp] theorem modPort_ratomFails (s : State) (p : Nat) (f : Port → Port) : (s.modPort p f).ratomFails = s.ratomFails := rfl
@[simp] theorem modPort_arrivals (s : State) (p : Nat) (f : Port → Port) : (s.modPort p f).arrivals = s.arrivals := rfl
@[simp] theorem modPort_hmsgs (s : State) (p : Nat) (f : Port → Port) : (s.modPort p f).hmsgs = s.hmsgs := rfl
@[simp] theorem modPort_pend (s : State) (p : Nat) (f : Port → Port) : (s.modPort p f).pend = s.pend := rfl
@[simp] theorem modPort_pubs (s : State) (p : Nat) (f : Port → Port) : (s.modPort p f).pubs = s.pubs := rfl
@[simp] theorem modPort_fronts (s : State) (p : Nat) (f : Port → Port) : (s.modPort p f).fronts = s.fronts := rfl
@[simp] theorem modPort_icinvs (s : State) (p : Nat) (f : Port → Port) : (s.modPort p f).icinvs = s.icinvs := rfl
@[simp] theorem modPort_icache (s : State) (p : Nat) (f : Port → Port) : (s.modPort p f).icache = s.icache := rfl
@[simp] theorem modPort_lastuses (s : State) (p : Nat) (f : Port → Port) : (s.modPort p f).lastuses = s.lastuses := rfl
@[simp] theorem modPort_marks (s : State) (p : Nat) (f : Port → Port) : (s.modPort p f).marks = s.marks := rfl
@[simp] theorem modPort_part (s : State) (p : Nat) (f : Port → Port) : (s.modPort p f).part = s.part := rfl
@[simp] theorem modPort_gens (s : State) (p : Nat) (f : Port → Port) : (s.modPort p f).gens = s.gens := rfl
@[simp] theorem modPort_reqs (s : State) (p : Nat) (f : Port → Port) : (s.modPort p f).reqs = s.reqs := rfl
@[simp] theorem modPort_ckpts (s : State) (p : Nat) (f : Port → Port) : (s.modPort p f).ckpts = s.ckpts := rfl
@[simp] theorem modPort_tiles (s : State) (p : Nat) (f : Port → Port) : (s.modPort p f).tiles = s.tiles := rfl
@[simp] theorem modPort_rounds (s : State) (p : Nat) (f : Port → Port) : (s.modPort p f).rounds = s.rounds := rfl
@[simp] theorem modPort_l1 (s : State) (p : Nat) (f : Port → Port) : (s.modPort p f).l1 = s.l1 := rfl
@[simp] theorem modPort_lines (s : State) (p : Nat) (f : Port → Port) : (s.modPort p f).lines = s.lines := rfl
@[simp] theorem modPort_pts (s : State) (p : Nat) (f : Port → Port) : (s.modPort p f).pts = s.pts := rfl
@[simp] theorem modPort_ptsAt (s : State) (p : Nat) (f : Port → Port) : (s.modPort p f).ptsAt = s.ptsAt := rfl
@[simp] theorem modPort_floors (s : State) (p : Nat) (f : Port → Port) : (s.modPort p f).floors = s.floors := rfl
@[simp] theorem modPort_lastTake (s : State) (p : Nat) (f : Port → Port) : (s.modPort p f).lastTake = s.lastTake := rfl
@[simp] theorem modPort_misses (s : State) (p : Nat) (f : Port → Port) : (s.modPort p f).misses = s.misses := rfl
@[simp] theorem modPort_dirty (s : State) (p : Nat) (f : Port → Port) : (s.modPort p f).dirty = s.dirty := rfl
@[simp] theorem modPort_tlbs (s : State) (p : Nat) (f : Port → Port) : (s.modPort p f).tlbs = s.tlbs := rfl
@[simp] theorem modPort_pages (s : State) (p : Nat) (f : Port → Port) : (s.modPort p f).pages = s.pages := rfl
@[simp] theorem modPort_inval (s : State) (p : Nat) (f : Port → Port) : (s.modPort p f).inval = s.inval := rfl
@[simp] theorem modPort_dir (s : State) (p : Nat) (f : Port → Port) : (s.modPort p f).dir = s.dir := rfl
@[simp] theorem modPort_homes (s : State) (p : Nat) (f : Port → Port) : (s.modPort p f).homes = s.homes := rfl
@[simp] theorem modPort_reps (s : State) (p : Nat) (f : Port → Port) : (s.modPort p f).reps = s.reps := rfl
@[simp] theorem modPort_inWrites (s : State) (p : Nat) (f : Port → Port) : (s.modPort p f).inWrites = s.inWrites := rfl
@[simp] theorem modPort_hostReply (s : State) (p : Nat) (f : Port → Port) : (s.modPort p f).hostReply = s.hostReply := rfl
@[simp] theorem modPort_upset (s : State) (p : Nat) (f : Port → Port) : (s.modPort p f).upset = s.upset := rfl

/-! ### `modMgmt` -/

@[simp] theorem modMgmt_turns (s : State) (f : Mgmt → Mgmt) : (s.modMgmt f).turns = s.turns := rfl
@[simp] theorem modMgmt_focus (s : State) (f : Mgmt → Mgmt) : (s.modMgmt f).focus = s.focus := rfl
@[simp] theorem modMgmt_fresh (s : State) (f : Mgmt → Mgmt) : (s.modMgmt f).fresh = s.fresh := rfl
@[simp] theorem modMgmt_nextId (s : State) (f : Mgmt → Mgmt) : (s.modMgmt f).nextId = s.nextId := rfl
@[simp] theorem modMgmt_stallOn (s : State) (f : Mgmt → Mgmt) : (s.modMgmt f).stallOn = s.stallOn := rfl
@[simp] theorem modMgmt_dtime (s : State) (f : Mgmt → Mgmt) : (s.modMgmt f).dtime = s.dtime := rfl
@[simp] theorem modMgmt_clk (s : State) (f : Mgmt → Mgmt) : (s.modMgmt f).clk = s.clk := rfl
@[simp] theorem modMgmt_mem (s : State) (f : Mgmt → Mgmt) : (s.modMgmt f).mem = s.mem := rfl
@[simp] theorem modMgmt_keys (s : State) (f : Mgmt → Mgmt) : (s.modMgmt f).keys = s.keys := rfl
@[simp] theorem modMgmt_dropped (s : State) (f : Mgmt → Mgmt) : (s.modMgmt f).dropped = s.dropped := rfl
@[simp] theorem modMgmt_mgmt (s : State) (f : Mgmt → Mgmt) : (s.modMgmt f).mgmt = f s.mgmt := rfl
@[simp] theorem modMgmt_fab (s : State) (f : Mgmt → Mgmt) : (s.modMgmt f).fab = s.fab := rfl
@[simp] theorem modMgmt_mb (s : State) (f : Mgmt → Mgmt) : (s.modMgmt f).mb = s.mb := rfl
@[simp] theorem modMgmt_ctxs (s : State) (f : Mgmt → Mgmt) : (s.modMgmt f).ctxs = s.ctxs := rfl
@[simp] theorem modMgmt_queues (s : State) (f : Mgmt → Mgmt) : (s.modMgmt f).queues = s.queues := rfl
@[simp] theorem modMgmt_kernels (s : State) (f : Mgmt → Mgmt) : (s.modMgmt f).kernels = s.kernels := rfl
@[simp] theorem modMgmt_wgs (s : State) (f : Mgmt → Mgmt) : (s.modMgmt f).wgs = s.wgs := rfl
@[simp] theorem modMgmt_groups (s : State) (f : Mgmt → Mgmt) : (s.modMgmt f).groups = s.groups := rfl
@[simp] theorem modMgmt_cts (s : State) (f : Mgmt → Mgmt) : (s.modMgmt f).cts = s.cts := rfl
@[simp] theorem modMgmt_seqs (s : State) (f : Mgmt → Mgmt) : (s.modMgmt f).seqs = s.seqs := rfl
@[simp] theorem modMgmt_sgs (s : State) (f : Mgmt → Mgmt) : (s.modMgmt f).sgs = s.sgs := rfl
@[simp] theorem modMgmt_accs (s : State) (f : Mgmt → Mgmt) : (s.modMgmt f).accs = s.accs := rfl
@[simp] theorem modMgmt_mmas (s : State) (f : Mgmt → Mgmt) : (s.modMgmt f).mmas = s.mmas := rfl
@[simp] theorem modMgmt_drains (s : State) (f : Mgmt → Mgmt) : (s.modMgmt f).drains = s.drains := rfl
@[simp] theorem modMgmt_collq (s : State) (f : Mgmt → Mgmt) : (s.modMgmt f).collq = s.collq := rfl
@[simp] theorem modMgmt_ranges (s : State) (f : Mgmt → Mgmt) : (s.modMgmt f).ranges = s.ranges := rfl
@[simp] theorem modMgmt_copies (s : State) (f : Mgmt → Mgmt) : (s.modMgmt f).copies = s.copies := rfl
@[simp] theorem modMgmt_tiers (s : State) (f : Mgmt → Mgmt) : (s.modMgmt f).tiers = s.tiers := rfl
@[simp] theorem modMgmt_ratoms (s : State) (f : Mgmt → Mgmt) : (s.modMgmt f).ratoms = s.ratoms := rfl
@[simp] theorem modMgmt_ratomFails (s : State) (f : Mgmt → Mgmt) : (s.modMgmt f).ratomFails = s.ratomFails := rfl
@[simp] theorem modMgmt_arrivals (s : State) (f : Mgmt → Mgmt) : (s.modMgmt f).arrivals = s.arrivals := rfl
@[simp] theorem modMgmt_hmsgs (s : State) (f : Mgmt → Mgmt) : (s.modMgmt f).hmsgs = s.hmsgs := rfl
@[simp] theorem modMgmt_pend (s : State) (f : Mgmt → Mgmt) : (s.modMgmt f).pend = s.pend := rfl
@[simp] theorem modMgmt_pubs (s : State) (f : Mgmt → Mgmt) : (s.modMgmt f).pubs = s.pubs := rfl
@[simp] theorem modMgmt_fronts (s : State) (f : Mgmt → Mgmt) : (s.modMgmt f).fronts = s.fronts := rfl
@[simp] theorem modMgmt_icinvs (s : State) (f : Mgmt → Mgmt) : (s.modMgmt f).icinvs = s.icinvs := rfl
@[simp] theorem modMgmt_icache (s : State) (f : Mgmt → Mgmt) : (s.modMgmt f).icache = s.icache := rfl
@[simp] theorem modMgmt_lastuses (s : State) (f : Mgmt → Mgmt) : (s.modMgmt f).lastuses = s.lastuses := rfl
@[simp] theorem modMgmt_marks (s : State) (f : Mgmt → Mgmt) : (s.modMgmt f).marks = s.marks := rfl
@[simp] theorem modMgmt_part (s : State) (f : Mgmt → Mgmt) : (s.modMgmt f).part = s.part := rfl
@[simp] theorem modMgmt_gens (s : State) (f : Mgmt → Mgmt) : (s.modMgmt f).gens = s.gens := rfl
@[simp] theorem modMgmt_reqs (s : State) (f : Mgmt → Mgmt) : (s.modMgmt f).reqs = s.reqs := rfl
@[simp] theorem modMgmt_ckpts (s : State) (f : Mgmt → Mgmt) : (s.modMgmt f).ckpts = s.ckpts := rfl
@[simp] theorem modMgmt_tiles (s : State) (f : Mgmt → Mgmt) : (s.modMgmt f).tiles = s.tiles := rfl
@[simp] theorem modMgmt_rounds (s : State) (f : Mgmt → Mgmt) : (s.modMgmt f).rounds = s.rounds := rfl
@[simp] theorem modMgmt_l1 (s : State) (f : Mgmt → Mgmt) : (s.modMgmt f).l1 = s.l1 := rfl
@[simp] theorem modMgmt_lines (s : State) (f : Mgmt → Mgmt) : (s.modMgmt f).lines = s.lines := rfl
@[simp] theorem modMgmt_pts (s : State) (f : Mgmt → Mgmt) : (s.modMgmt f).pts = s.pts := rfl
@[simp] theorem modMgmt_ptsAt (s : State) (f : Mgmt → Mgmt) : (s.modMgmt f).ptsAt = s.ptsAt := rfl
@[simp] theorem modMgmt_floors (s : State) (f : Mgmt → Mgmt) : (s.modMgmt f).floors = s.floors := rfl
@[simp] theorem modMgmt_lastTake (s : State) (f : Mgmt → Mgmt) : (s.modMgmt f).lastTake = s.lastTake := rfl
@[simp] theorem modMgmt_misses (s : State) (f : Mgmt → Mgmt) : (s.modMgmt f).misses = s.misses := rfl
@[simp] theorem modMgmt_dirty (s : State) (f : Mgmt → Mgmt) : (s.modMgmt f).dirty = s.dirty := rfl
@[simp] theorem modMgmt_tlbs (s : State) (f : Mgmt → Mgmt) : (s.modMgmt f).tlbs = s.tlbs := rfl
@[simp] theorem modMgmt_pages (s : State) (f : Mgmt → Mgmt) : (s.modMgmt f).pages = s.pages := rfl
@[simp] theorem modMgmt_inval (s : State) (f : Mgmt → Mgmt) : (s.modMgmt f).inval = s.inval := rfl
@[simp] theorem modMgmt_dir (s : State) (f : Mgmt → Mgmt) : (s.modMgmt f).dir = s.dir := rfl
@[simp] theorem modMgmt_homes (s : State) (f : Mgmt → Mgmt) : (s.modMgmt f).homes = s.homes := rfl
@[simp] theorem modMgmt_reps (s : State) (f : Mgmt → Mgmt) : (s.modMgmt f).reps = s.reps := rfl
@[simp] theorem modMgmt_inWrites (s : State) (f : Mgmt → Mgmt) : (s.modMgmt f).inWrites = s.inWrites := rfl
@[simp] theorem modMgmt_hostReply (s : State) (f : Mgmt → Mgmt) : (s.modMgmt f).hostReply = s.hostReply := rfl
@[simp] theorem modMgmt_upset (s : State) (f : Mgmt → Mgmt) : (s.modMgmt f).upset = s.upset := rfl

/-! ### `count` -/

@[simp] theorem count_turns (s : State) (cx core n k : Nat) : (s.count cx core n k).turns = s.turns := rfl
@[simp] theorem count_focus (s : State) (cx core n k : Nat) : (s.count cx core n k).focus = s.focus := rfl
@[simp] theorem count_fresh (s : State) (cx core n k : Nat) : (s.count cx core n k).fresh = s.fresh := rfl
@[simp] theorem count_nextId (s : State) (cx core n k : Nat) : (s.count cx core n k).nextId = s.nextId := rfl
@[simp] theorem count_stallOn (s : State) (cx core n k : Nat) : (s.count cx core n k).stallOn = s.stallOn := rfl
@[simp] theorem count_dtime (s : State) (cx core n k : Nat) : (s.count cx core n k).dtime = s.dtime := rfl
@[simp] theorem count_clk (s : State) (cx core n k : Nat) : (s.count cx core n k).clk = s.clk := rfl
@[simp] theorem count_mem (s : State) (cx core n k : Nat) : (s.count cx core n k).mem = s.mem := rfl
@[simp] theorem count_keys (s : State) (cx core n k : Nat) : (s.count cx core n k).keys = s.keys := rfl
@[simp] theorem count_dropped (s : State) (cx core n k : Nat) : (s.count cx core n k).dropped = s.dropped := rfl
@[simp] theorem count_mgmt (s : State) (cx core n k : Nat) : (s.count cx core n k).mgmt = s.mgmt := rfl
@[simp] theorem count_fab (s : State) (cx core n k : Nat) : (s.count cx core n k).fab = s.fab := rfl
@[simp] theorem count_mb (s : State) (cx core n k : Nat) : (s.count cx core n k).mb = s.mb := rfl
@[simp] theorem count_queues (s : State) (cx core n k : Nat) : (s.count cx core n k).queues = s.queues := rfl
@[simp] theorem count_kernels (s : State) (cx core n k : Nat) : (s.count cx core n k).kernels = s.kernels := rfl
@[simp] theorem count_wgs (s : State) (cx core n k : Nat) : (s.count cx core n k).wgs = s.wgs := rfl
@[simp] theorem count_groups (s : State) (cx core n k : Nat) : (s.count cx core n k).groups = s.groups := rfl
@[simp] theorem count_cts (s : State) (cx core n k : Nat) : (s.count cx core n k).cts = s.cts := rfl
@[simp] theorem count_seqs (s : State) (cx core n k : Nat) : (s.count cx core n k).seqs = s.seqs := rfl
@[simp] theorem count_sgs (s : State) (cx core n k : Nat) : (s.count cx core n k).sgs = s.sgs := rfl
@[simp] theorem count_accs (s : State) (cx core n k : Nat) : (s.count cx core n k).accs = s.accs := rfl
@[simp] theorem count_mmas (s : State) (cx core n k : Nat) : (s.count cx core n k).mmas = s.mmas := rfl
@[simp] theorem count_drains (s : State) (cx core n k : Nat) : (s.count cx core n k).drains = s.drains := rfl
@[simp] theorem count_collq (s : State) (cx core n k : Nat) : (s.count cx core n k).collq = s.collq := rfl
@[simp] theorem count_ranges (s : State) (cx core n k : Nat) : (s.count cx core n k).ranges = s.ranges := rfl
@[simp] theorem count_copies (s : State) (cx core n k : Nat) : (s.count cx core n k).copies = s.copies := rfl
@[simp] theorem count_tiers (s : State) (cx core n k : Nat) : (s.count cx core n k).tiers = s.tiers := rfl
@[simp] theorem count_ratoms (s : State) (cx core n k : Nat) : (s.count cx core n k).ratoms = s.ratoms := rfl
@[simp] theorem count_ratomFails (s : State) (cx core n k : Nat) : (s.count cx core n k).ratomFails = s.ratomFails := rfl
@[simp] theorem count_arrivals (s : State) (cx core n k : Nat) : (s.count cx core n k).arrivals = s.arrivals := rfl
@[simp] theorem count_hmsgs (s : State) (cx core n k : Nat) : (s.count cx core n k).hmsgs = s.hmsgs := rfl
@[simp] theorem count_pend (s : State) (cx core n k : Nat) : (s.count cx core n k).pend = s.pend := rfl
@[simp] theorem count_pubs (s : State) (cx core n k : Nat) : (s.count cx core n k).pubs = s.pubs := rfl
@[simp] theorem count_fronts (s : State) (cx core n k : Nat) : (s.count cx core n k).fronts = s.fronts := rfl
@[simp] theorem count_icinvs (s : State) (cx core n k : Nat) : (s.count cx core n k).icinvs = s.icinvs := rfl
@[simp] theorem count_icache (s : State) (cx core n k : Nat) : (s.count cx core n k).icache = s.icache := rfl
@[simp] theorem count_lastuses (s : State) (cx core n k : Nat) : (s.count cx core n k).lastuses = s.lastuses := rfl
@[simp] theorem count_marks (s : State) (cx core n k : Nat) : (s.count cx core n k).marks = s.marks := rfl
@[simp] theorem count_part (s : State) (cx core n k : Nat) : (s.count cx core n k).part = s.part := rfl
@[simp] theorem count_gens (s : State) (cx core n k : Nat) : (s.count cx core n k).gens = s.gens := rfl
@[simp] theorem count_reqs (s : State) (cx core n k : Nat) : (s.count cx core n k).reqs = s.reqs := rfl
@[simp] theorem count_ckpts (s : State) (cx core n k : Nat) : (s.count cx core n k).ckpts = s.ckpts := rfl
@[simp] theorem count_tiles (s : State) (cx core n k : Nat) : (s.count cx core n k).tiles = s.tiles := rfl
@[simp] theorem count_rounds (s : State) (cx core n k : Nat) : (s.count cx core n k).rounds = s.rounds := rfl
@[simp] theorem count_l1 (s : State) (cx core n k : Nat) : (s.count cx core n k).l1 = s.l1 := rfl
@[simp] theorem count_lines (s : State) (cx core n k : Nat) : (s.count cx core n k).lines = s.lines := rfl
@[simp] theorem count_pts (s : State) (cx core n k : Nat) : (s.count cx core n k).pts = s.pts := rfl
@[simp] theorem count_ptsAt (s : State) (cx core n k : Nat) : (s.count cx core n k).ptsAt = s.ptsAt := rfl
@[simp] theorem count_floors (s : State) (cx core n k : Nat) : (s.count cx core n k).floors = s.floors := rfl
@[simp] theorem count_lastTake (s : State) (cx core n k : Nat) : (s.count cx core n k).lastTake = s.lastTake := rfl
@[simp] theorem count_misses (s : State) (cx core n k : Nat) : (s.count cx core n k).misses = s.misses := rfl
@[simp] theorem count_dirty (s : State) (cx core n k : Nat) : (s.count cx core n k).dirty = s.dirty := rfl
@[simp] theorem count_tlbs (s : State) (cx core n k : Nat) : (s.count cx core n k).tlbs = s.tlbs := rfl
@[simp] theorem count_pages (s : State) (cx core n k : Nat) : (s.count cx core n k).pages = s.pages := rfl
@[simp] theorem count_inval (s : State) (cx core n k : Nat) : (s.count cx core n k).inval = s.inval := rfl
@[simp] theorem count_dir (s : State) (cx core n k : Nat) : (s.count cx core n k).dir = s.dir := rfl
@[simp] theorem count_homes (s : State) (cx core n k : Nat) : (s.count cx core n k).homes = s.homes := rfl
@[simp] theorem count_reps (s : State) (cx core n k : Nat) : (s.count cx core n k).reps = s.reps := rfl
@[simp] theorem count_inWrites (s : State) (cx core n k : Nat) : (s.count cx core n k).inWrites = s.inWrites := rfl
@[simp] theorem count_hostReply (s : State) (cx core n k : Nat) : (s.count cx core n k).hostReply = s.hostReply := rfl
@[simp] theorem count_upset (s : State) (cx core n k : Nat) : (s.count cx core n k).upset = s.upset := rfl

/-! ### `tick` -/

@[simp] theorem tick_turns (s : State) : (s.tick).turns = s.turns := rfl
@[simp] theorem tick_focus (s : State) : (s.tick).focus = s.focus := rfl
@[simp] theorem tick_fresh (s : State) : (s.tick).fresh = s.fresh := rfl
@[simp] theorem tick_nextId (s : State) : (s.tick).nextId = s.nextId := rfl
@[simp] theorem tick_stallOn (s : State) : (s.tick).stallOn = s.stallOn := rfl
@[simp] theorem tick_dtime (s : State) : (s.tick).dtime = s.dtime := rfl
@[simp] theorem tick_clk (s : State) : (s.tick).clk = s.clk + 1 := rfl
@[simp] theorem tick_mem (s : State) : (s.tick).mem = s.mem := rfl
@[simp] theorem tick_keys (s : State) : (s.tick).keys = s.keys := rfl
@[simp] theorem tick_dropped (s : State) : (s.tick).dropped = s.dropped := rfl
@[simp] theorem tick_mgmt (s : State) : (s.tick).mgmt = s.mgmt := rfl
@[simp] theorem tick_fab (s : State) : (s.tick).fab = s.fab := rfl
@[simp] theorem tick_mb (s : State) : (s.tick).mb = s.mb := rfl
@[simp] theorem tick_ctxs (s : State) : (s.tick).ctxs = s.ctxs := rfl
@[simp] theorem tick_queues (s : State) : (s.tick).queues = s.queues := rfl
@[simp] theorem tick_kernels (s : State) : (s.tick).kernels = s.kernels := rfl
@[simp] theorem tick_wgs (s : State) : (s.tick).wgs = s.wgs := rfl
@[simp] theorem tick_groups (s : State) : (s.tick).groups = s.groups := rfl
@[simp] theorem tick_cts (s : State) : (s.tick).cts = s.cts := rfl
@[simp] theorem tick_seqs (s : State) : (s.tick).seqs = s.seqs := rfl
@[simp] theorem tick_sgs (s : State) : (s.tick).sgs = s.sgs := rfl
@[simp] theorem tick_accs (s : State) : (s.tick).accs = s.accs := rfl
@[simp] theorem tick_mmas (s : State) : (s.tick).mmas = s.mmas := rfl
@[simp] theorem tick_drains (s : State) : (s.tick).drains = s.drains := rfl
@[simp] theorem tick_collq (s : State) : (s.tick).collq = s.collq := rfl
@[simp] theorem tick_ranges (s : State) : (s.tick).ranges = s.ranges := rfl
@[simp] theorem tick_copies (s : State) : (s.tick).copies = s.copies := rfl
@[simp] theorem tick_tiers (s : State) : (s.tick).tiers = s.tiers := rfl
@[simp] theorem tick_ratoms (s : State) : (s.tick).ratoms = s.ratoms := rfl
@[simp] theorem tick_ratomFails (s : State) : (s.tick).ratomFails = s.ratomFails := rfl
@[simp] theorem tick_arrivals (s : State) : (s.tick).arrivals = s.arrivals := rfl
@[simp] theorem tick_hmsgs (s : State) : (s.tick).hmsgs = s.hmsgs := rfl
@[simp] theorem tick_pend (s : State) : (s.tick).pend = s.pend := rfl
@[simp] theorem tick_pubs (s : State) : (s.tick).pubs = s.pubs := rfl
@[simp] theorem tick_fronts (s : State) : (s.tick).fronts = s.fronts := rfl
@[simp] theorem tick_icinvs (s : State) : (s.tick).icinvs = s.icinvs := rfl
@[simp] theorem tick_icache (s : State) : (s.tick).icache = s.icache := rfl
@[simp] theorem tick_lastuses (s : State) : (s.tick).lastuses = s.lastuses := rfl
@[simp] theorem tick_marks (s : State) : (s.tick).marks = s.marks := rfl
@[simp] theorem tick_part (s : State) : (s.tick).part = s.part := rfl
@[simp] theorem tick_gens (s : State) : (s.tick).gens = s.gens := rfl
@[simp] theorem tick_reqs (s : State) : (s.tick).reqs = s.reqs := rfl
@[simp] theorem tick_ckpts (s : State) : (s.tick).ckpts = s.ckpts := rfl
@[simp] theorem tick_tiles (s : State) : (s.tick).tiles = s.tiles := rfl
@[simp] theorem tick_rounds (s : State) : (s.tick).rounds = s.rounds := rfl
@[simp] theorem tick_l1 (s : State) : (s.tick).l1 = s.l1 := rfl
@[simp] theorem tick_lines (s : State) : (s.tick).lines = s.lines := rfl
@[simp] theorem tick_pts (s : State) : (s.tick).pts = s.pts := rfl
@[simp] theorem tick_ptsAt (s : State) : (s.tick).ptsAt = s.ptsAt := rfl
@[simp] theorem tick_floors (s : State) : (s.tick).floors = s.floors := rfl
@[simp] theorem tick_lastTake (s : State) : (s.tick).lastTake = s.lastTake := rfl
@[simp] theorem tick_misses (s : State) : (s.tick).misses = s.misses := rfl
@[simp] theorem tick_dirty (s : State) : (s.tick).dirty = s.dirty := rfl
@[simp] theorem tick_tlbs (s : State) : (s.tick).tlbs = s.tlbs := rfl
@[simp] theorem tick_pages (s : State) : (s.tick).pages = s.pages := rfl
@[simp] theorem tick_inval (s : State) : (s.tick).inval = s.inval := rfl
@[simp] theorem tick_dir (s : State) : (s.tick).dir = s.dir := rfl
@[simp] theorem tick_homes (s : State) : (s.tick).homes = s.homes := rfl
@[simp] theorem tick_reps (s : State) : (s.tick).reps = s.reps := rfl
@[simp] theorem tick_inWrites (s : State) : (s.tick).inWrites = s.inWrites := rfl
@[simp] theorem tick_hostReply (s : State) : (s.tick).hostReply = s.hostReply := rfl
@[simp] theorem tick_upset (s : State) : (s.tick).upset = s.upset := rfl

/-! ### `modKernel` -/

theorem modKernel_eq (s : State) (k : Nat) (f : Kernel → Kernel) : s.modKernel k f = match s.kernel? k with | none => s | some x => { s with kernels := tabSet s.kernels k (f x) } := rfl

@[simp] theorem modKernel_turns (s : State) (k : Nat) (f : Kernel → Kernel) : (s.modKernel k f).turns = s.turns := by unfold State.modKernel; split <;> rfl
@[simp] theorem modKernel_focus (s : State) (k : Nat) (f : Kernel → Kernel) : (s.modKernel k f).focus = s.focus := by unfold State.modKernel; split <;> rfl
@[simp] theorem modKernel_fresh (s : State) (k : Nat) (f : Kernel → Kernel) : (s.modKernel k f).fresh = s.fresh := by unfold State.modKernel; split <;> rfl
@[simp] theorem modKernel_nextId (s : State) (k : Nat) (f : Kernel → Kernel) : (s.modKernel k f).nextId = s.nextId := by unfold State.modKernel; split <;> rfl
@[simp] theorem modKernel_stallOn (s : State) (k : Nat) (f : Kernel → Kernel) : (s.modKernel k f).stallOn = s.stallOn := by unfold State.modKernel; split <;> rfl
@[simp] theorem modKernel_dtime (s : State) (k : Nat) (f : Kernel → Kernel) : (s.modKernel k f).dtime = s.dtime := by unfold State.modKernel; split <;> rfl
@[simp] theorem modKernel_clk (s : State) (k : Nat) (f : Kernel → Kernel) : (s.modKernel k f).clk = s.clk := by unfold State.modKernel; split <;> rfl
@[simp] theorem modKernel_mem (s : State) (k : Nat) (f : Kernel → Kernel) : (s.modKernel k f).mem = s.mem := by unfold State.modKernel; split <;> rfl
@[simp] theorem modKernel_keys (s : State) (k : Nat) (f : Kernel → Kernel) : (s.modKernel k f).keys = s.keys := by unfold State.modKernel; split <;> rfl
@[simp] theorem modKernel_dropped (s : State) (k : Nat) (f : Kernel → Kernel) : (s.modKernel k f).dropped = s.dropped := by unfold State.modKernel; split <;> rfl
@[simp] theorem modKernel_mgmt (s : State) (k : Nat) (f : Kernel → Kernel) : (s.modKernel k f).mgmt = s.mgmt := by unfold State.modKernel; split <;> rfl
@[simp] theorem modKernel_fab (s : State) (k : Nat) (f : Kernel → Kernel) : (s.modKernel k f).fab = s.fab := by unfold State.modKernel; split <;> rfl
@[simp] theorem modKernel_mb (s : State) (k : Nat) (f : Kernel → Kernel) : (s.modKernel k f).mb = s.mb := by unfold State.modKernel; split <;> rfl
@[simp] theorem modKernel_ctxs (s : State) (k : Nat) (f : Kernel → Kernel) : (s.modKernel k f).ctxs = s.ctxs := by unfold State.modKernel; split <;> rfl
@[simp] theorem modKernel_queues (s : State) (k : Nat) (f : Kernel → Kernel) : (s.modKernel k f).queues = s.queues := by unfold State.modKernel; split <;> rfl
@[simp] theorem modKernel_wgs (s : State) (k : Nat) (f : Kernel → Kernel) : (s.modKernel k f).wgs = s.wgs := by unfold State.modKernel; split <;> rfl
@[simp] theorem modKernel_groups (s : State) (k : Nat) (f : Kernel → Kernel) : (s.modKernel k f).groups = s.groups := by unfold State.modKernel; split <;> rfl
@[simp] theorem modKernel_cts (s : State) (k : Nat) (f : Kernel → Kernel) : (s.modKernel k f).cts = s.cts := by unfold State.modKernel; split <;> rfl
@[simp] theorem modKernel_seqs (s : State) (k : Nat) (f : Kernel → Kernel) : (s.modKernel k f).seqs = s.seqs := by unfold State.modKernel; split <;> rfl
@[simp] theorem modKernel_sgs (s : State) (k : Nat) (f : Kernel → Kernel) : (s.modKernel k f).sgs = s.sgs := by unfold State.modKernel; split <;> rfl
@[simp] theorem modKernel_accs (s : State) (k : Nat) (f : Kernel → Kernel) : (s.modKernel k f).accs = s.accs := by unfold State.modKernel; split <;> rfl
@[simp] theorem modKernel_mmas (s : State) (k : Nat) (f : Kernel → Kernel) : (s.modKernel k f).mmas = s.mmas := by unfold State.modKernel; split <;> rfl
@[simp] theorem modKernel_drains (s : State) (k : Nat) (f : Kernel → Kernel) : (s.modKernel k f).drains = s.drains := by unfold State.modKernel; split <;> rfl
@[simp] theorem modKernel_collq (s : State) (k : Nat) (f : Kernel → Kernel) : (s.modKernel k f).collq = s.collq := by unfold State.modKernel; split <;> rfl
@[simp] theorem modKernel_ranges (s : State) (k : Nat) (f : Kernel → Kernel) : (s.modKernel k f).ranges = s.ranges := by unfold State.modKernel; split <;> rfl
@[simp] theorem modKernel_copies (s : State) (k : Nat) (f : Kernel → Kernel) : (s.modKernel k f).copies = s.copies := by unfold State.modKernel; split <;> rfl
@[simp] theorem modKernel_tiers (s : State) (k : Nat) (f : Kernel → Kernel) : (s.modKernel k f).tiers = s.tiers := by unfold State.modKernel; split <;> rfl
@[simp] theorem modKernel_ratoms (s : State) (k : Nat) (f : Kernel → Kernel) : (s.modKernel k f).ratoms = s.ratoms := by unfold State.modKernel; split <;> rfl
@[simp] theorem modKernel_ratomFails (s : State) (k : Nat) (f : Kernel → Kernel) : (s.modKernel k f).ratomFails = s.ratomFails := by unfold State.modKernel; split <;> rfl
@[simp] theorem modKernel_arrivals (s : State) (k : Nat) (f : Kernel → Kernel) : (s.modKernel k f).arrivals = s.arrivals := by unfold State.modKernel; split <;> rfl
@[simp] theorem modKernel_hmsgs (s : State) (k : Nat) (f : Kernel → Kernel) : (s.modKernel k f).hmsgs = s.hmsgs := by unfold State.modKernel; split <;> rfl
@[simp] theorem modKernel_pend (s : State) (k : Nat) (f : Kernel → Kernel) : (s.modKernel k f).pend = s.pend := by unfold State.modKernel; split <;> rfl
@[simp] theorem modKernel_pubs (s : State) (k : Nat) (f : Kernel → Kernel) : (s.modKernel k f).pubs = s.pubs := by unfold State.modKernel; split <;> rfl
@[simp] theorem modKernel_fronts (s : State) (k : Nat) (f : Kernel → Kernel) : (s.modKernel k f).fronts = s.fronts := by unfold State.modKernel; split <;> rfl
@[simp] theorem modKernel_icinvs (s : State) (k : Nat) (f : Kernel → Kernel) : (s.modKernel k f).icinvs = s.icinvs := by unfold State.modKernel; split <;> rfl
@[simp] theorem modKernel_icache (s : State) (k : Nat) (f : Kernel → Kernel) : (s.modKernel k f).icache = s.icache := by unfold State.modKernel; split <;> rfl
@[simp] theorem modKernel_lastuses (s : State) (k : Nat) (f : Kernel → Kernel) : (s.modKernel k f).lastuses = s.lastuses := by unfold State.modKernel; split <;> rfl
@[simp] theorem modKernel_marks (s : State) (k : Nat) (f : Kernel → Kernel) : (s.modKernel k f).marks = s.marks := by unfold State.modKernel; split <;> rfl
@[simp] theorem modKernel_part (s : State) (k : Nat) (f : Kernel → Kernel) : (s.modKernel k f).part = s.part := by unfold State.modKernel; split <;> rfl
@[simp] theorem modKernel_gens (s : State) (k : Nat) (f : Kernel → Kernel) : (s.modKernel k f).gens = s.gens := by unfold State.modKernel; split <;> rfl
@[simp] theorem modKernel_reqs (s : State) (k : Nat) (f : Kernel → Kernel) : (s.modKernel k f).reqs = s.reqs := by unfold State.modKernel; split <;> rfl
@[simp] theorem modKernel_ckpts (s : State) (k : Nat) (f : Kernel → Kernel) : (s.modKernel k f).ckpts = s.ckpts := by unfold State.modKernel; split <;> rfl
@[simp] theorem modKernel_tiles (s : State) (k : Nat) (f : Kernel → Kernel) : (s.modKernel k f).tiles = s.tiles := by unfold State.modKernel; split <;> rfl
@[simp] theorem modKernel_rounds (s : State) (k : Nat) (f : Kernel → Kernel) : (s.modKernel k f).rounds = s.rounds := by unfold State.modKernel; split <;> rfl
@[simp] theorem modKernel_l1 (s : State) (k : Nat) (f : Kernel → Kernel) : (s.modKernel k f).l1 = s.l1 := by unfold State.modKernel; split <;> rfl
@[simp] theorem modKernel_lines (s : State) (k : Nat) (f : Kernel → Kernel) : (s.modKernel k f).lines = s.lines := by unfold State.modKernel; split <;> rfl
@[simp] theorem modKernel_pts (s : State) (k : Nat) (f : Kernel → Kernel) : (s.modKernel k f).pts = s.pts := by unfold State.modKernel; split <;> rfl
@[simp] theorem modKernel_ptsAt (s : State) (k : Nat) (f : Kernel → Kernel) : (s.modKernel k f).ptsAt = s.ptsAt := by unfold State.modKernel; split <;> rfl
@[simp] theorem modKernel_floors (s : State) (k : Nat) (f : Kernel → Kernel) : (s.modKernel k f).floors = s.floors := by unfold State.modKernel; split <;> rfl
@[simp] theorem modKernel_lastTake (s : State) (k : Nat) (f : Kernel → Kernel) : (s.modKernel k f).lastTake = s.lastTake := by unfold State.modKernel; split <;> rfl
@[simp] theorem modKernel_misses (s : State) (k : Nat) (f : Kernel → Kernel) : (s.modKernel k f).misses = s.misses := by unfold State.modKernel; split <;> rfl
@[simp] theorem modKernel_dirty (s : State) (k : Nat) (f : Kernel → Kernel) : (s.modKernel k f).dirty = s.dirty := by unfold State.modKernel; split <;> rfl
@[simp] theorem modKernel_tlbs (s : State) (k : Nat) (f : Kernel → Kernel) : (s.modKernel k f).tlbs = s.tlbs := by unfold State.modKernel; split <;> rfl
@[simp] theorem modKernel_pages (s : State) (k : Nat) (f : Kernel → Kernel) : (s.modKernel k f).pages = s.pages := by unfold State.modKernel; split <;> rfl
@[simp] theorem modKernel_inval (s : State) (k : Nat) (f : Kernel → Kernel) : (s.modKernel k f).inval = s.inval := by unfold State.modKernel; split <;> rfl
@[simp] theorem modKernel_dir (s : State) (k : Nat) (f : Kernel → Kernel) : (s.modKernel k f).dir = s.dir := by unfold State.modKernel; split <;> rfl
@[simp] theorem modKernel_homes (s : State) (k : Nat) (f : Kernel → Kernel) : (s.modKernel k f).homes = s.homes := by unfold State.modKernel; split <;> rfl
@[simp] theorem modKernel_reps (s : State) (k : Nat) (f : Kernel → Kernel) : (s.modKernel k f).reps = s.reps := by unfold State.modKernel; split <;> rfl
@[simp] theorem modKernel_inWrites (s : State) (k : Nat) (f : Kernel → Kernel) : (s.modKernel k f).inWrites = s.inWrites := by unfold State.modKernel; split <;> rfl
@[simp] theorem modKernel_hostReply (s : State) (k : Nat) (f : Kernel → Kernel) : (s.modKernel k f).hostReply = s.hostReply := by unfold State.modKernel; split <;> rfl
@[simp] theorem modKernel_upset (s : State) (k : Nat) (f : Kernel → Kernel) : (s.modKernel k f).upset = s.upset := by unfold State.modKernel; split <;> rfl

/-! ### `modWg` -/

theorem modWg_eq (s : State) (w : Nat) (f : Workgroup → Workgroup) : s.modWg w f = match s.wg? w with | none => s | some x => { s with wgs := tabSet s.wgs w (f x) } := rfl

@[simp] theorem modWg_turns (s : State) (w : Nat) (f : Workgroup → Workgroup) : (s.modWg w f).turns = s.turns := by unfold State.modWg; split <;> rfl
@[simp] theorem modWg_focus (s : State) (w : Nat) (f : Workgroup → Workgroup) : (s.modWg w f).focus = s.focus := by unfold State.modWg; split <;> rfl
@[simp] theorem modWg_fresh (s : State) (w : Nat) (f : Workgroup → Workgroup) : (s.modWg w f).fresh = s.fresh := by unfold State.modWg; split <;> rfl
@[simp] theorem modWg_nextId (s : State) (w : Nat) (f : Workgroup → Workgroup) : (s.modWg w f).nextId = s.nextId := by unfold State.modWg; split <;> rfl
@[simp] theorem modWg_stallOn (s : State) (w : Nat) (f : Workgroup → Workgroup) : (s.modWg w f).stallOn = s.stallOn := by unfold State.modWg; split <;> rfl
@[simp] theorem modWg_dtime (s : State) (w : Nat) (f : Workgroup → Workgroup) : (s.modWg w f).dtime = s.dtime := by unfold State.modWg; split <;> rfl
@[simp] theorem modWg_clk (s : State) (w : Nat) (f : Workgroup → Workgroup) : (s.modWg w f).clk = s.clk := by unfold State.modWg; split <;> rfl
@[simp] theorem modWg_mem (s : State) (w : Nat) (f : Workgroup → Workgroup) : (s.modWg w f).mem = s.mem := by unfold State.modWg; split <;> rfl
@[simp] theorem modWg_keys (s : State) (w : Nat) (f : Workgroup → Workgroup) : (s.modWg w f).keys = s.keys := by unfold State.modWg; split <;> rfl
@[simp] theorem modWg_dropped (s : State) (w : Nat) (f : Workgroup → Workgroup) : (s.modWg w f).dropped = s.dropped := by unfold State.modWg; split <;> rfl
@[simp] theorem modWg_mgmt (s : State) (w : Nat) (f : Workgroup → Workgroup) : (s.modWg w f).mgmt = s.mgmt := by unfold State.modWg; split <;> rfl
@[simp] theorem modWg_fab (s : State) (w : Nat) (f : Workgroup → Workgroup) : (s.modWg w f).fab = s.fab := by unfold State.modWg; split <;> rfl
@[simp] theorem modWg_mb (s : State) (w : Nat) (f : Workgroup → Workgroup) : (s.modWg w f).mb = s.mb := by unfold State.modWg; split <;> rfl
@[simp] theorem modWg_ctxs (s : State) (w : Nat) (f : Workgroup → Workgroup) : (s.modWg w f).ctxs = s.ctxs := by unfold State.modWg; split <;> rfl
@[simp] theorem modWg_queues (s : State) (w : Nat) (f : Workgroup → Workgroup) : (s.modWg w f).queues = s.queues := by unfold State.modWg; split <;> rfl
@[simp] theorem modWg_kernels (s : State) (w : Nat) (f : Workgroup → Workgroup) : (s.modWg w f).kernels = s.kernels := by unfold State.modWg; split <;> rfl
@[simp] theorem modWg_groups (s : State) (w : Nat) (f : Workgroup → Workgroup) : (s.modWg w f).groups = s.groups := by unfold State.modWg; split <;> rfl
@[simp] theorem modWg_cts (s : State) (w : Nat) (f : Workgroup → Workgroup) : (s.modWg w f).cts = s.cts := by unfold State.modWg; split <;> rfl
@[simp] theorem modWg_seqs (s : State) (w : Nat) (f : Workgroup → Workgroup) : (s.modWg w f).seqs = s.seqs := by unfold State.modWg; split <;> rfl
@[simp] theorem modWg_sgs (s : State) (w : Nat) (f : Workgroup → Workgroup) : (s.modWg w f).sgs = s.sgs := by unfold State.modWg; split <;> rfl
@[simp] theorem modWg_accs (s : State) (w : Nat) (f : Workgroup → Workgroup) : (s.modWg w f).accs = s.accs := by unfold State.modWg; split <;> rfl
@[simp] theorem modWg_mmas (s : State) (w : Nat) (f : Workgroup → Workgroup) : (s.modWg w f).mmas = s.mmas := by unfold State.modWg; split <;> rfl
@[simp] theorem modWg_drains (s : State) (w : Nat) (f : Workgroup → Workgroup) : (s.modWg w f).drains = s.drains := by unfold State.modWg; split <;> rfl
@[simp] theorem modWg_collq (s : State) (w : Nat) (f : Workgroup → Workgroup) : (s.modWg w f).collq = s.collq := by unfold State.modWg; split <;> rfl
@[simp] theorem modWg_ranges (s : State) (w : Nat) (f : Workgroup → Workgroup) : (s.modWg w f).ranges = s.ranges := by unfold State.modWg; split <;> rfl
@[simp] theorem modWg_copies (s : State) (w : Nat) (f : Workgroup → Workgroup) : (s.modWg w f).copies = s.copies := by unfold State.modWg; split <;> rfl
@[simp] theorem modWg_tiers (s : State) (w : Nat) (f : Workgroup → Workgroup) : (s.modWg w f).tiers = s.tiers := by unfold State.modWg; split <;> rfl
@[simp] theorem modWg_ratoms (s : State) (w : Nat) (f : Workgroup → Workgroup) : (s.modWg w f).ratoms = s.ratoms := by unfold State.modWg; split <;> rfl
@[simp] theorem modWg_ratomFails (s : State) (w : Nat) (f : Workgroup → Workgroup) : (s.modWg w f).ratomFails = s.ratomFails := by unfold State.modWg; split <;> rfl
@[simp] theorem modWg_arrivals (s : State) (w : Nat) (f : Workgroup → Workgroup) : (s.modWg w f).arrivals = s.arrivals := by unfold State.modWg; split <;> rfl
@[simp] theorem modWg_hmsgs (s : State) (w : Nat) (f : Workgroup → Workgroup) : (s.modWg w f).hmsgs = s.hmsgs := by unfold State.modWg; split <;> rfl
@[simp] theorem modWg_pend (s : State) (w : Nat) (f : Workgroup → Workgroup) : (s.modWg w f).pend = s.pend := by unfold State.modWg; split <;> rfl
@[simp] theorem modWg_pubs (s : State) (w : Nat) (f : Workgroup → Workgroup) : (s.modWg w f).pubs = s.pubs := by unfold State.modWg; split <;> rfl
@[simp] theorem modWg_fronts (s : State) (w : Nat) (f : Workgroup → Workgroup) : (s.modWg w f).fronts = s.fronts := by unfold State.modWg; split <;> rfl
@[simp] theorem modWg_icinvs (s : State) (w : Nat) (f : Workgroup → Workgroup) : (s.modWg w f).icinvs = s.icinvs := by unfold State.modWg; split <;> rfl
@[simp] theorem modWg_icache (s : State) (w : Nat) (f : Workgroup → Workgroup) : (s.modWg w f).icache = s.icache := by unfold State.modWg; split <;> rfl
@[simp] theorem modWg_lastuses (s : State) (w : Nat) (f : Workgroup → Workgroup) : (s.modWg w f).lastuses = s.lastuses := by unfold State.modWg; split <;> rfl
@[simp] theorem modWg_marks (s : State) (w : Nat) (f : Workgroup → Workgroup) : (s.modWg w f).marks = s.marks := by unfold State.modWg; split <;> rfl
@[simp] theorem modWg_part (s : State) (w : Nat) (f : Workgroup → Workgroup) : (s.modWg w f).part = s.part := by unfold State.modWg; split <;> rfl
@[simp] theorem modWg_gens (s : State) (w : Nat) (f : Workgroup → Workgroup) : (s.modWg w f).gens = s.gens := by unfold State.modWg; split <;> rfl
@[simp] theorem modWg_reqs (s : State) (w : Nat) (f : Workgroup → Workgroup) : (s.modWg w f).reqs = s.reqs := by unfold State.modWg; split <;> rfl
@[simp] theorem modWg_ckpts (s : State) (w : Nat) (f : Workgroup → Workgroup) : (s.modWg w f).ckpts = s.ckpts := by unfold State.modWg; split <;> rfl
@[simp] theorem modWg_tiles (s : State) (w : Nat) (f : Workgroup → Workgroup) : (s.modWg w f).tiles = s.tiles := by unfold State.modWg; split <;> rfl
@[simp] theorem modWg_rounds (s : State) (w : Nat) (f : Workgroup → Workgroup) : (s.modWg w f).rounds = s.rounds := by unfold State.modWg; split <;> rfl
@[simp] theorem modWg_l1 (s : State) (w : Nat) (f : Workgroup → Workgroup) : (s.modWg w f).l1 = s.l1 := by unfold State.modWg; split <;> rfl
@[simp] theorem modWg_lines (s : State) (w : Nat) (f : Workgroup → Workgroup) : (s.modWg w f).lines = s.lines := by unfold State.modWg; split <;> rfl
@[simp] theorem modWg_pts (s : State) (w : Nat) (f : Workgroup → Workgroup) : (s.modWg w f).pts = s.pts := by unfold State.modWg; split <;> rfl
@[simp] theorem modWg_ptsAt (s : State) (w : Nat) (f : Workgroup → Workgroup) : (s.modWg w f).ptsAt = s.ptsAt := by unfold State.modWg; split <;> rfl
@[simp] theorem modWg_floors (s : State) (w : Nat) (f : Workgroup → Workgroup) : (s.modWg w f).floors = s.floors := by unfold State.modWg; split <;> rfl
@[simp] theorem modWg_lastTake (s : State) (w : Nat) (f : Workgroup → Workgroup) : (s.modWg w f).lastTake = s.lastTake := by unfold State.modWg; split <;> rfl
@[simp] theorem modWg_misses (s : State) (w : Nat) (f : Workgroup → Workgroup) : (s.modWg w f).misses = s.misses := by unfold State.modWg; split <;> rfl
@[simp] theorem modWg_dirty (s : State) (w : Nat) (f : Workgroup → Workgroup) : (s.modWg w f).dirty = s.dirty := by unfold State.modWg; split <;> rfl
@[simp] theorem modWg_tlbs (s : State) (w : Nat) (f : Workgroup → Workgroup) : (s.modWg w f).tlbs = s.tlbs := by unfold State.modWg; split <;> rfl
@[simp] theorem modWg_pages (s : State) (w : Nat) (f : Workgroup → Workgroup) : (s.modWg w f).pages = s.pages := by unfold State.modWg; split <;> rfl
@[simp] theorem modWg_inval (s : State) (w : Nat) (f : Workgroup → Workgroup) : (s.modWg w f).inval = s.inval := by unfold State.modWg; split <;> rfl
@[simp] theorem modWg_dir (s : State) (w : Nat) (f : Workgroup → Workgroup) : (s.modWg w f).dir = s.dir := by unfold State.modWg; split <;> rfl
@[simp] theorem modWg_homes (s : State) (w : Nat) (f : Workgroup → Workgroup) : (s.modWg w f).homes = s.homes := by unfold State.modWg; split <;> rfl
@[simp] theorem modWg_reps (s : State) (w : Nat) (f : Workgroup → Workgroup) : (s.modWg w f).reps = s.reps := by unfold State.modWg; split <;> rfl
@[simp] theorem modWg_inWrites (s : State) (w : Nat) (f : Workgroup → Workgroup) : (s.modWg w f).inWrites = s.inWrites := by unfold State.modWg; split <;> rfl
@[simp] theorem modWg_hostReply (s : State) (w : Nat) (f : Workgroup → Workgroup) : (s.modWg w f).hostReply = s.hostReply := by unfold State.modWg; split <;> rfl
@[simp] theorem modWg_upset (s : State) (w : Nat) (f : Workgroup → Workgroup) : (s.modWg w f).upset = s.upset := by unfold State.modWg; split <;> rfl

/-! ### `modGroup` -/

theorem modGroup_eq (s : State) (g : Nat) (f : Group → Group) : s.modGroup g f = match s.group? g with | none => s | some x => { s with groups := tabSet s.groups g (f x) } := rfl

@[simp] theorem modGroup_turns (s : State) (g : Nat) (f : Group → Group) : (s.modGroup g f).turns = s.turns := by unfold State.modGroup; split <;> rfl
@[simp] theorem modGroup_focus (s : State) (g : Nat) (f : Group → Group) : (s.modGroup g f).focus = s.focus := by unfold State.modGroup; split <;> rfl
@[simp] theorem modGroup_fresh (s : State) (g : Nat) (f : Group → Group) : (s.modGroup g f).fresh = s.fresh := by unfold State.modGroup; split <;> rfl
@[simp] theorem modGroup_nextId (s : State) (g : Nat) (f : Group → Group) : (s.modGroup g f).nextId = s.nextId := by unfold State.modGroup; split <;> rfl
@[simp] theorem modGroup_stallOn (s : State) (g : Nat) (f : Group → Group) : (s.modGroup g f).stallOn = s.stallOn := by unfold State.modGroup; split <;> rfl
@[simp] theorem modGroup_dtime (s : State) (g : Nat) (f : Group → Group) : (s.modGroup g f).dtime = s.dtime := by unfold State.modGroup; split <;> rfl
@[simp] theorem modGroup_clk (s : State) (g : Nat) (f : Group → Group) : (s.modGroup g f).clk = s.clk := by unfold State.modGroup; split <;> rfl
@[simp] theorem modGroup_mem (s : State) (g : Nat) (f : Group → Group) : (s.modGroup g f).mem = s.mem := by unfold State.modGroup; split <;> rfl
@[simp] theorem modGroup_keys (s : State) (g : Nat) (f : Group → Group) : (s.modGroup g f).keys = s.keys := by unfold State.modGroup; split <;> rfl
@[simp] theorem modGroup_dropped (s : State) (g : Nat) (f : Group → Group) : (s.modGroup g f).dropped = s.dropped := by unfold State.modGroup; split <;> rfl
@[simp] theorem modGroup_mgmt (s : State) (g : Nat) (f : Group → Group) : (s.modGroup g f).mgmt = s.mgmt := by unfold State.modGroup; split <;> rfl
@[simp] theorem modGroup_fab (s : State) (g : Nat) (f : Group → Group) : (s.modGroup g f).fab = s.fab := by unfold State.modGroup; split <;> rfl
@[simp] theorem modGroup_mb (s : State) (g : Nat) (f : Group → Group) : (s.modGroup g f).mb = s.mb := by unfold State.modGroup; split <;> rfl
@[simp] theorem modGroup_ctxs (s : State) (g : Nat) (f : Group → Group) : (s.modGroup g f).ctxs = s.ctxs := by unfold State.modGroup; split <;> rfl
@[simp] theorem modGroup_queues (s : State) (g : Nat) (f : Group → Group) : (s.modGroup g f).queues = s.queues := by unfold State.modGroup; split <;> rfl
@[simp] theorem modGroup_kernels (s : State) (g : Nat) (f : Group → Group) : (s.modGroup g f).kernels = s.kernels := by unfold State.modGroup; split <;> rfl
@[simp] theorem modGroup_wgs (s : State) (g : Nat) (f : Group → Group) : (s.modGroup g f).wgs = s.wgs := by unfold State.modGroup; split <;> rfl
@[simp] theorem modGroup_cts (s : State) (g : Nat) (f : Group → Group) : (s.modGroup g f).cts = s.cts := by unfold State.modGroup; split <;> rfl
@[simp] theorem modGroup_seqs (s : State) (g : Nat) (f : Group → Group) : (s.modGroup g f).seqs = s.seqs := by unfold State.modGroup; split <;> rfl
@[simp] theorem modGroup_sgs (s : State) (g : Nat) (f : Group → Group) : (s.modGroup g f).sgs = s.sgs := by unfold State.modGroup; split <;> rfl
@[simp] theorem modGroup_accs (s : State) (g : Nat) (f : Group → Group) : (s.modGroup g f).accs = s.accs := by unfold State.modGroup; split <;> rfl
@[simp] theorem modGroup_mmas (s : State) (g : Nat) (f : Group → Group) : (s.modGroup g f).mmas = s.mmas := by unfold State.modGroup; split <;> rfl
@[simp] theorem modGroup_drains (s : State) (g : Nat) (f : Group → Group) : (s.modGroup g f).drains = s.drains := by unfold State.modGroup; split <;> rfl
@[simp] theorem modGroup_collq (s : State) (g : Nat) (f : Group → Group) : (s.modGroup g f).collq = s.collq := by unfold State.modGroup; split <;> rfl
@[simp] theorem modGroup_ranges (s : State) (g : Nat) (f : Group → Group) : (s.modGroup g f).ranges = s.ranges := by unfold State.modGroup; split <;> rfl
@[simp] theorem modGroup_copies (s : State) (g : Nat) (f : Group → Group) : (s.modGroup g f).copies = s.copies := by unfold State.modGroup; split <;> rfl
@[simp] theorem modGroup_tiers (s : State) (g : Nat) (f : Group → Group) : (s.modGroup g f).tiers = s.tiers := by unfold State.modGroup; split <;> rfl
@[simp] theorem modGroup_ratoms (s : State) (g : Nat) (f : Group → Group) : (s.modGroup g f).ratoms = s.ratoms := by unfold State.modGroup; split <;> rfl
@[simp] theorem modGroup_ratomFails (s : State) (g : Nat) (f : Group → Group) : (s.modGroup g f).ratomFails = s.ratomFails := by unfold State.modGroup; split <;> rfl
@[simp] theorem modGroup_arrivals (s : State) (g : Nat) (f : Group → Group) : (s.modGroup g f).arrivals = s.arrivals := by unfold State.modGroup; split <;> rfl
@[simp] theorem modGroup_hmsgs (s : State) (g : Nat) (f : Group → Group) : (s.modGroup g f).hmsgs = s.hmsgs := by unfold State.modGroup; split <;> rfl
@[simp] theorem modGroup_pend (s : State) (g : Nat) (f : Group → Group) : (s.modGroup g f).pend = s.pend := by unfold State.modGroup; split <;> rfl
@[simp] theorem modGroup_pubs (s : State) (g : Nat) (f : Group → Group) : (s.modGroup g f).pubs = s.pubs := by unfold State.modGroup; split <;> rfl
@[simp] theorem modGroup_fronts (s : State) (g : Nat) (f : Group → Group) : (s.modGroup g f).fronts = s.fronts := by unfold State.modGroup; split <;> rfl
@[simp] theorem modGroup_icinvs (s : State) (g : Nat) (f : Group → Group) : (s.modGroup g f).icinvs = s.icinvs := by unfold State.modGroup; split <;> rfl
@[simp] theorem modGroup_icache (s : State) (g : Nat) (f : Group → Group) : (s.modGroup g f).icache = s.icache := by unfold State.modGroup; split <;> rfl
@[simp] theorem modGroup_lastuses (s : State) (g : Nat) (f : Group → Group) : (s.modGroup g f).lastuses = s.lastuses := by unfold State.modGroup; split <;> rfl
@[simp] theorem modGroup_marks (s : State) (g : Nat) (f : Group → Group) : (s.modGroup g f).marks = s.marks := by unfold State.modGroup; split <;> rfl
@[simp] theorem modGroup_part (s : State) (g : Nat) (f : Group → Group) : (s.modGroup g f).part = s.part := by unfold State.modGroup; split <;> rfl
@[simp] theorem modGroup_gens (s : State) (g : Nat) (f : Group → Group) : (s.modGroup g f).gens = s.gens := by unfold State.modGroup; split <;> rfl
@[simp] theorem modGroup_reqs (s : State) (g : Nat) (f : Group → Group) : (s.modGroup g f).reqs = s.reqs := by unfold State.modGroup; split <;> rfl
@[simp] theorem modGroup_ckpts (s : State) (g : Nat) (f : Group → Group) : (s.modGroup g f).ckpts = s.ckpts := by unfold State.modGroup; split <;> rfl
@[simp] theorem modGroup_tiles (s : State) (g : Nat) (f : Group → Group) : (s.modGroup g f).tiles = s.tiles := by unfold State.modGroup; split <;> rfl
@[simp] theorem modGroup_rounds (s : State) (g : Nat) (f : Group → Group) : (s.modGroup g f).rounds = s.rounds := by unfold State.modGroup; split <;> rfl
@[simp] theorem modGroup_l1 (s : State) (g : Nat) (f : Group → Group) : (s.modGroup g f).l1 = s.l1 := by unfold State.modGroup; split <;> rfl
@[simp] theorem modGroup_lines (s : State) (g : Nat) (f : Group → Group) : (s.modGroup g f).lines = s.lines := by unfold State.modGroup; split <;> rfl
@[simp] theorem modGroup_pts (s : State) (g : Nat) (f : Group → Group) : (s.modGroup g f).pts = s.pts := by unfold State.modGroup; split <;> rfl
@[simp] theorem modGroup_ptsAt (s : State) (g : Nat) (f : Group → Group) : (s.modGroup g f).ptsAt = s.ptsAt := by unfold State.modGroup; split <;> rfl
@[simp] theorem modGroup_floors (s : State) (g : Nat) (f : Group → Group) : (s.modGroup g f).floors = s.floors := by unfold State.modGroup; split <;> rfl
@[simp] theorem modGroup_lastTake (s : State) (g : Nat) (f : Group → Group) : (s.modGroup g f).lastTake = s.lastTake := by unfold State.modGroup; split <;> rfl
@[simp] theorem modGroup_misses (s : State) (g : Nat) (f : Group → Group) : (s.modGroup g f).misses = s.misses := by unfold State.modGroup; split <;> rfl
@[simp] theorem modGroup_dirty (s : State) (g : Nat) (f : Group → Group) : (s.modGroup g f).dirty = s.dirty := by unfold State.modGroup; split <;> rfl
@[simp] theorem modGroup_tlbs (s : State) (g : Nat) (f : Group → Group) : (s.modGroup g f).tlbs = s.tlbs := by unfold State.modGroup; split <;> rfl
@[simp] theorem modGroup_pages (s : State) (g : Nat) (f : Group → Group) : (s.modGroup g f).pages = s.pages := by unfold State.modGroup; split <;> rfl
@[simp] theorem modGroup_inval (s : State) (g : Nat) (f : Group → Group) : (s.modGroup g f).inval = s.inval := by unfold State.modGroup; split <;> rfl
@[simp] theorem modGroup_dir (s : State) (g : Nat) (f : Group → Group) : (s.modGroup g f).dir = s.dir := by unfold State.modGroup; split <;> rfl
@[simp] theorem modGroup_homes (s : State) (g : Nat) (f : Group → Group) : (s.modGroup g f).homes = s.homes := by unfold State.modGroup; split <;> rfl
@[simp] theorem modGroup_reps (s : State) (g : Nat) (f : Group → Group) : (s.modGroup g f).reps = s.reps := by unfold State.modGroup; split <;> rfl
@[simp] theorem modGroup_inWrites (s : State) (g : Nat) (f : Group → Group) : (s.modGroup g f).inWrites = s.inWrites := by unfold State.modGroup; split <;> rfl
@[simp] theorem modGroup_hostReply (s : State) (g : Nat) (f : Group → Group) : (s.modGroup g f).hostReply = s.hostReply := by unfold State.modGroup; split <;> rfl
@[simp] theorem modGroup_upset (s : State) (g : Nat) (f : Group → Group) : (s.modGroup g f).upset = s.upset := by unfold State.modGroup; split <;> rfl

/-! ### `modCt` -/

theorem modCt_eq (s : State) (w : Nat) (f : CThread → CThread) : s.modCt w f = match s.ct? w with | none => s | some x => { s with cts := tabSet s.cts w (f x) } := rfl

@[simp] theorem modCt_turns (s : State) (w : Nat) (f : CThread → CThread) : (s.modCt w f).turns = s.turns := by unfold State.modCt; split <;> rfl
@[simp] theorem modCt_focus (s : State) (w : Nat) (f : CThread → CThread) : (s.modCt w f).focus = s.focus := by unfold State.modCt; split <;> rfl
@[simp] theorem modCt_fresh (s : State) (w : Nat) (f : CThread → CThread) : (s.modCt w f).fresh = s.fresh := by unfold State.modCt; split <;> rfl
@[simp] theorem modCt_nextId (s : State) (w : Nat) (f : CThread → CThread) : (s.modCt w f).nextId = s.nextId := by unfold State.modCt; split <;> rfl
@[simp] theorem modCt_stallOn (s : State) (w : Nat) (f : CThread → CThread) : (s.modCt w f).stallOn = s.stallOn := by unfold State.modCt; split <;> rfl
@[simp] theorem modCt_dtime (s : State) (w : Nat) (f : CThread → CThread) : (s.modCt w f).dtime = s.dtime := by unfold State.modCt; split <;> rfl
@[simp] theorem modCt_clk (s : State) (w : Nat) (f : CThread → CThread) : (s.modCt w f).clk = s.clk := by unfold State.modCt; split <;> rfl
@[simp] theorem modCt_mem (s : State) (w : Nat) (f : CThread → CThread) : (s.modCt w f).mem = s.mem := by unfold State.modCt; split <;> rfl
@[simp] theorem modCt_keys (s : State) (w : Nat) (f : CThread → CThread) : (s.modCt w f).keys = s.keys := by unfold State.modCt; split <;> rfl
@[simp] theorem modCt_dropped (s : State) (w : Nat) (f : CThread → CThread) : (s.modCt w f).dropped = s.dropped := by unfold State.modCt; split <;> rfl
@[simp] theorem modCt_mgmt (s : State) (w : Nat) (f : CThread → CThread) : (s.modCt w f).mgmt = s.mgmt := by unfold State.modCt; split <;> rfl
@[simp] theorem modCt_fab (s : State) (w : Nat) (f : CThread → CThread) : (s.modCt w f).fab = s.fab := by unfold State.modCt; split <;> rfl
@[simp] theorem modCt_mb (s : State) (w : Nat) (f : CThread → CThread) : (s.modCt w f).mb = s.mb := by unfold State.modCt; split <;> rfl
@[simp] theorem modCt_ctxs (s : State) (w : Nat) (f : CThread → CThread) : (s.modCt w f).ctxs = s.ctxs := by unfold State.modCt; split <;> rfl
@[simp] theorem modCt_queues (s : State) (w : Nat) (f : CThread → CThread) : (s.modCt w f).queues = s.queues := by unfold State.modCt; split <;> rfl
@[simp] theorem modCt_kernels (s : State) (w : Nat) (f : CThread → CThread) : (s.modCt w f).kernels = s.kernels := by unfold State.modCt; split <;> rfl
@[simp] theorem modCt_wgs (s : State) (w : Nat) (f : CThread → CThread) : (s.modCt w f).wgs = s.wgs := by unfold State.modCt; split <;> rfl
@[simp] theorem modCt_groups (s : State) (w : Nat) (f : CThread → CThread) : (s.modCt w f).groups = s.groups := by unfold State.modCt; split <;> rfl
@[simp] theorem modCt_seqs (s : State) (w : Nat) (f : CThread → CThread) : (s.modCt w f).seqs = s.seqs := by unfold State.modCt; split <;> rfl
@[simp] theorem modCt_sgs (s : State) (w : Nat) (f : CThread → CThread) : (s.modCt w f).sgs = s.sgs := by unfold State.modCt; split <;> rfl
@[simp] theorem modCt_accs (s : State) (w : Nat) (f : CThread → CThread) : (s.modCt w f).accs = s.accs := by unfold State.modCt; split <;> rfl
@[simp] theorem modCt_mmas (s : State) (w : Nat) (f : CThread → CThread) : (s.modCt w f).mmas = s.mmas := by unfold State.modCt; split <;> rfl
@[simp] theorem modCt_drains (s : State) (w : Nat) (f : CThread → CThread) : (s.modCt w f).drains = s.drains := by unfold State.modCt; split <;> rfl
@[simp] theorem modCt_collq (s : State) (w : Nat) (f : CThread → CThread) : (s.modCt w f).collq = s.collq := by unfold State.modCt; split <;> rfl
@[simp] theorem modCt_ranges (s : State) (w : Nat) (f : CThread → CThread) : (s.modCt w f).ranges = s.ranges := by unfold State.modCt; split <;> rfl
@[simp] theorem modCt_copies (s : State) (w : Nat) (f : CThread → CThread) : (s.modCt w f).copies = s.copies := by unfold State.modCt; split <;> rfl
@[simp] theorem modCt_tiers (s : State) (w : Nat) (f : CThread → CThread) : (s.modCt w f).tiers = s.tiers := by unfold State.modCt; split <;> rfl
@[simp] theorem modCt_ratoms (s : State) (w : Nat) (f : CThread → CThread) : (s.modCt w f).ratoms = s.ratoms := by unfold State.modCt; split <;> rfl
@[simp] theorem modCt_ratomFails (s : State) (w : Nat) (f : CThread → CThread) : (s.modCt w f).ratomFails = s.ratomFails := by unfold State.modCt; split <;> rfl
@[simp] theorem modCt_arrivals (s : State) (w : Nat) (f : CThread → CThread) : (s.modCt w f).arrivals = s.arrivals := by unfold State.modCt; split <;> rfl
@[simp] theorem modCt_hmsgs (s : State) (w : Nat) (f : CThread → CThread) : (s.modCt w f).hmsgs = s.hmsgs := by unfold State.modCt; split <;> rfl
@[simp] theorem modCt_pend (s : State) (w : Nat) (f : CThread → CThread) : (s.modCt w f).pend = s.pend := by unfold State.modCt; split <;> rfl
@[simp] theorem modCt_pubs (s : State) (w : Nat) (f : CThread → CThread) : (s.modCt w f).pubs = s.pubs := by unfold State.modCt; split <;> rfl
@[simp] theorem modCt_fronts (s : State) (w : Nat) (f : CThread → CThread) : (s.modCt w f).fronts = s.fronts := by unfold State.modCt; split <;> rfl
@[simp] theorem modCt_icinvs (s : State) (w : Nat) (f : CThread → CThread) : (s.modCt w f).icinvs = s.icinvs := by unfold State.modCt; split <;> rfl
@[simp] theorem modCt_icache (s : State) (w : Nat) (f : CThread → CThread) : (s.modCt w f).icache = s.icache := by unfold State.modCt; split <;> rfl
@[simp] theorem modCt_lastuses (s : State) (w : Nat) (f : CThread → CThread) : (s.modCt w f).lastuses = s.lastuses := by unfold State.modCt; split <;> rfl
@[simp] theorem modCt_marks (s : State) (w : Nat) (f : CThread → CThread) : (s.modCt w f).marks = s.marks := by unfold State.modCt; split <;> rfl
@[simp] theorem modCt_part (s : State) (w : Nat) (f : CThread → CThread) : (s.modCt w f).part = s.part := by unfold State.modCt; split <;> rfl
@[simp] theorem modCt_gens (s : State) (w : Nat) (f : CThread → CThread) : (s.modCt w f).gens = s.gens := by unfold State.modCt; split <;> rfl
@[simp] theorem modCt_reqs (s : State) (w : Nat) (f : CThread → CThread) : (s.modCt w f).reqs = s.reqs := by unfold State.modCt; split <;> rfl
@[simp] theorem modCt_ckpts (s : State) (w : Nat) (f : CThread → CThread) : (s.modCt w f).ckpts = s.ckpts := by unfold State.modCt; split <;> rfl
@[simp] theorem modCt_tiles (s : State) (w : Nat) (f : CThread → CThread) : (s.modCt w f).tiles = s.tiles := by unfold State.modCt; split <;> rfl
@[simp] theorem modCt_rounds (s : State) (w : Nat) (f : CThread → CThread) : (s.modCt w f).rounds = s.rounds := by unfold State.modCt; split <;> rfl
@[simp] theorem modCt_l1 (s : State) (w : Nat) (f : CThread → CThread) : (s.modCt w f).l1 = s.l1 := by unfold State.modCt; split <;> rfl
@[simp] theorem modCt_lines (s : State) (w : Nat) (f : CThread → CThread) : (s.modCt w f).lines = s.lines := by unfold State.modCt; split <;> rfl
@[simp] theorem modCt_pts (s : State) (w : Nat) (f : CThread → CThread) : (s.modCt w f).pts = s.pts := by unfold State.modCt; split <;> rfl
@[simp] theorem modCt_ptsAt (s : State) (w : Nat) (f : CThread → CThread) : (s.modCt w f).ptsAt = s.ptsAt := by unfold State.modCt; split <;> rfl
@[simp] theorem modCt_floors (s : State) (w : Nat) (f : CThread → CThread) : (s.modCt w f).floors = s.floors := by unfold State.modCt; split <;> rfl
@[simp] theorem modCt_lastTake (s : State) (w : Nat) (f : CThread → CThread) : (s.modCt w f).lastTake = s.lastTake := by unfold State.modCt; split <;> rfl
@[simp] theorem modCt_misses (s : State) (w : Nat) (f : CThread → CThread) : (s.modCt w f).misses = s.misses := by unfold State.modCt; split <;> rfl
@[simp] theorem modCt_dirty (s : State) (w : Nat) (f : CThread → CThread) : (s.modCt w f).dirty = s.dirty := by unfold State.modCt; split <;> rfl
@[simp] theorem modCt_tlbs (s : State) (w : Nat) (f : CThread → CThread) : (s.modCt w f).tlbs = s.tlbs := by unfold State.modCt; split <;> rfl
@[simp] theorem modCt_pages (s : State) (w : Nat) (f : CThread → CThread) : (s.modCt w f).pages = s.pages := by unfold State.modCt; split <;> rfl
@[simp] theorem modCt_inval (s : State) (w : Nat) (f : CThread → CThread) : (s.modCt w f).inval = s.inval := by unfold State.modCt; split <;> rfl
@[simp] theorem modCt_dir (s : State) (w : Nat) (f : CThread → CThread) : (s.modCt w f).dir = s.dir := by unfold State.modCt; split <;> rfl
@[simp] theorem modCt_homes (s : State) (w : Nat) (f : CThread → CThread) : (s.modCt w f).homes = s.homes := by unfold State.modCt; split <;> rfl
@[simp] theorem modCt_reps (s : State) (w : Nat) (f : CThread → CThread) : (s.modCt w f).reps = s.reps := by unfold State.modCt; split <;> rfl
@[simp] theorem modCt_inWrites (s : State) (w : Nat) (f : CThread → CThread) : (s.modCt w f).inWrites = s.inWrites := by unfold State.modCt; split <;> rfl
@[simp] theorem modCt_hostReply (s : State) (w : Nat) (f : CThread → CThread) : (s.modCt w f).hostReply = s.hostReply := by unfold State.modCt; split <;> rfl
@[simp] theorem modCt_upset (s : State) (w : Nat) (f : CThread → CThread) : (s.modCt w f).upset = s.upset := by unfold State.modCt; split <;> rfl

/-! ### `modUnit`: the strand of an agent -/

@[simp] theorem modUnit_turns (s : State) (ag : Agent) (f : Strand → Strand) : (s.modUnit ag f).turns = s.turns := by cases ag <;> simp only [State.modUnit, modGroup_turns, modCt_turns]
@[simp] theorem modUnit_focus (s : State) (ag : Agent) (f : Strand → Strand) : (s.modUnit ag f).focus = s.focus := by cases ag <;> simp only [State.modUnit, modGroup_focus, modCt_focus]
@[simp] theorem modUnit_fresh (s : State) (ag : Agent) (f : Strand → Strand) : (s.modUnit ag f).fresh = s.fresh := by cases ag <;> simp only [State.modUnit, modGroup_fresh, modCt_fresh]
@[simp] theorem modUnit_nextId (s : State) (ag : Agent) (f : Strand → Strand) : (s.modUnit ag f).nextId = s.nextId := by cases ag <;> simp only [State.modUnit, modGroup_nextId, modCt_nextId]
@[simp] theorem modUnit_stallOn (s : State) (ag : Agent) (f : Strand → Strand) : (s.modUnit ag f).stallOn = s.stallOn := by cases ag <;> simp only [State.modUnit, modGroup_stallOn, modCt_stallOn]
@[simp] theorem modUnit_dtime (s : State) (ag : Agent) (f : Strand → Strand) : (s.modUnit ag f).dtime = s.dtime := by cases ag <;> simp only [State.modUnit, modGroup_dtime, modCt_dtime]
@[simp] theorem modUnit_clk (s : State) (ag : Agent) (f : Strand → Strand) : (s.modUnit ag f).clk = s.clk := by cases ag <;> simp only [State.modUnit, modGroup_clk, modCt_clk]
@[simp] theorem modUnit_mem (s : State) (ag : Agent) (f : Strand → Strand) : (s.modUnit ag f).mem = s.mem := by cases ag <;> simp only [State.modUnit, modGroup_mem, modCt_mem]
@[simp] theorem modUnit_keys (s : State) (ag : Agent) (f : Strand → Strand) : (s.modUnit ag f).keys = s.keys := by cases ag <;> simp only [State.modUnit, modGroup_keys, modCt_keys]
@[simp] theorem modUnit_dropped (s : State) (ag : Agent) (f : Strand → Strand) : (s.modUnit ag f).dropped = s.dropped := by cases ag <;> simp only [State.modUnit, modGroup_dropped, modCt_dropped]
@[simp] theorem modUnit_mgmt (s : State) (ag : Agent) (f : Strand → Strand) : (s.modUnit ag f).mgmt = s.mgmt := by cases ag <;> simp only [State.modUnit, modGroup_mgmt, modCt_mgmt]
@[simp] theorem modUnit_fab (s : State) (ag : Agent) (f : Strand → Strand) : (s.modUnit ag f).fab = s.fab := by cases ag <;> simp only [State.modUnit, modGroup_fab, modCt_fab]
@[simp] theorem modUnit_mb (s : State) (ag : Agent) (f : Strand → Strand) : (s.modUnit ag f).mb = s.mb := by cases ag <;> simp only [State.modUnit, modGroup_mb, modCt_mb]
@[simp] theorem modUnit_ctxs (s : State) (ag : Agent) (f : Strand → Strand) : (s.modUnit ag f).ctxs = s.ctxs := by cases ag <;> simp only [State.modUnit, modGroup_ctxs, modCt_ctxs]
@[simp] theorem modUnit_queues (s : State) (ag : Agent) (f : Strand → Strand) : (s.modUnit ag f).queues = s.queues := by cases ag <;> simp only [State.modUnit, modGroup_queues, modCt_queues]
@[simp] theorem modUnit_kernels (s : State) (ag : Agent) (f : Strand → Strand) : (s.modUnit ag f).kernels = s.kernels := by cases ag <;> simp only [State.modUnit, modGroup_kernels, modCt_kernels]
@[simp] theorem modUnit_wgs (s : State) (ag : Agent) (f : Strand → Strand) : (s.modUnit ag f).wgs = s.wgs := by cases ag <;> simp only [State.modUnit, modGroup_wgs, modCt_wgs]
@[simp] theorem modUnit_seqs (s : State) (ag : Agent) (f : Strand → Strand) : (s.modUnit ag f).seqs = s.seqs := by cases ag <;> simp only [State.modUnit, modGroup_seqs, modCt_seqs]
@[simp] theorem modUnit_sgs (s : State) (ag : Agent) (f : Strand → Strand) : (s.modUnit ag f).sgs = s.sgs := by cases ag <;> simp only [State.modUnit, modGroup_sgs, modCt_sgs]
@[simp] theorem modUnit_accs (s : State) (ag : Agent) (f : Strand → Strand) : (s.modUnit ag f).accs = s.accs := by cases ag <;> simp only [State.modUnit, modGroup_accs, modCt_accs]
@[simp] theorem modUnit_mmas (s : State) (ag : Agent) (f : Strand → Strand) : (s.modUnit ag f).mmas = s.mmas := by cases ag <;> simp only [State.modUnit, modGroup_mmas, modCt_mmas]
@[simp] theorem modUnit_drains (s : State) (ag : Agent) (f : Strand → Strand) : (s.modUnit ag f).drains = s.drains := by cases ag <;> simp only [State.modUnit, modGroup_drains, modCt_drains]
@[simp] theorem modUnit_collq (s : State) (ag : Agent) (f : Strand → Strand) : (s.modUnit ag f).collq = s.collq := by cases ag <;> simp only [State.modUnit, modGroup_collq, modCt_collq]
@[simp] theorem modUnit_ranges (s : State) (ag : Agent) (f : Strand → Strand) : (s.modUnit ag f).ranges = s.ranges := by cases ag <;> simp only [State.modUnit, modGroup_ranges, modCt_ranges]
@[simp] theorem modUnit_copies (s : State) (ag : Agent) (f : Strand → Strand) : (s.modUnit ag f).copies = s.copies := by cases ag <;> simp only [State.modUnit, modGroup_copies, modCt_copies]
@[simp] theorem modUnit_tiers (s : State) (ag : Agent) (f : Strand → Strand) : (s.modUnit ag f).tiers = s.tiers := by cases ag <;> simp only [State.modUnit, modGroup_tiers, modCt_tiers]
@[simp] theorem modUnit_ratoms (s : State) (ag : Agent) (f : Strand → Strand) : (s.modUnit ag f).ratoms = s.ratoms := by cases ag <;> simp only [State.modUnit, modGroup_ratoms, modCt_ratoms]
@[simp] theorem modUnit_ratomFails (s : State) (ag : Agent) (f : Strand → Strand) : (s.modUnit ag f).ratomFails = s.ratomFails := by cases ag <;> simp only [State.modUnit, modGroup_ratomFails, modCt_ratomFails]
@[simp] theorem modUnit_arrivals (s : State) (ag : Agent) (f : Strand → Strand) : (s.modUnit ag f).arrivals = s.arrivals := by cases ag <;> simp only [State.modUnit, modGroup_arrivals, modCt_arrivals]
@[simp] theorem modUnit_hmsgs (s : State) (ag : Agent) (f : Strand → Strand) : (s.modUnit ag f).hmsgs = s.hmsgs := by cases ag <;> simp only [State.modUnit, modGroup_hmsgs, modCt_hmsgs]
@[simp] theorem modUnit_pend (s : State) (ag : Agent) (f : Strand → Strand) : (s.modUnit ag f).pend = s.pend := by cases ag <;> simp only [State.modUnit, modGroup_pend, modCt_pend]
@[simp] theorem modUnit_pubs (s : State) (ag : Agent) (f : Strand → Strand) : (s.modUnit ag f).pubs = s.pubs := by cases ag <;> simp only [State.modUnit, modGroup_pubs, modCt_pubs]
@[simp] theorem modUnit_fronts (s : State) (ag : Agent) (f : Strand → Strand) : (s.modUnit ag f).fronts = s.fronts := by cases ag <;> simp only [State.modUnit, modGroup_fronts, modCt_fronts]
@[simp] theorem modUnit_icinvs (s : State) (ag : Agent) (f : Strand → Strand) : (s.modUnit ag f).icinvs = s.icinvs := by cases ag <;> simp only [State.modUnit, modGroup_icinvs, modCt_icinvs]
@[simp] theorem modUnit_icache (s : State) (ag : Agent) (f : Strand → Strand) : (s.modUnit ag f).icache = s.icache := by cases ag <;> simp only [State.modUnit, modGroup_icache, modCt_icache]
@[simp] theorem modUnit_lastuses (s : State) (ag : Agent) (f : Strand → Strand) : (s.modUnit ag f).lastuses = s.lastuses := by cases ag <;> simp only [State.modUnit, modGroup_lastuses, modCt_lastuses]
@[simp] theorem modUnit_marks (s : State) (ag : Agent) (f : Strand → Strand) : (s.modUnit ag f).marks = s.marks := by cases ag <;> simp only [State.modUnit, modGroup_marks, modCt_marks]
@[simp] theorem modUnit_part (s : State) (ag : Agent) (f : Strand → Strand) : (s.modUnit ag f).part = s.part := by cases ag <;> simp only [State.modUnit, modGroup_part, modCt_part]
@[simp] theorem modUnit_gens (s : State) (ag : Agent) (f : Strand → Strand) : (s.modUnit ag f).gens = s.gens := by cases ag <;> simp only [State.modUnit, modGroup_gens, modCt_gens]
@[simp] theorem modUnit_reqs (s : State) (ag : Agent) (f : Strand → Strand) : (s.modUnit ag f).reqs = s.reqs := by cases ag <;> simp only [State.modUnit, modGroup_reqs, modCt_reqs]
@[simp] theorem modUnit_ckpts (s : State) (ag : Agent) (f : Strand → Strand) : (s.modUnit ag f).ckpts = s.ckpts := by cases ag <;> simp only [State.modUnit, modGroup_ckpts, modCt_ckpts]
@[simp] theorem modUnit_tiles (s : State) (ag : Agent) (f : Strand → Strand) : (s.modUnit ag f).tiles = s.tiles := by cases ag <;> simp only [State.modUnit, modGroup_tiles, modCt_tiles]
@[simp] theorem modUnit_rounds (s : State) (ag : Agent) (f : Strand → Strand) : (s.modUnit ag f).rounds = s.rounds := by cases ag <;> simp only [State.modUnit, modGroup_rounds, modCt_rounds]
@[simp] theorem modUnit_l1 (s : State) (ag : Agent) (f : Strand → Strand) : (s.modUnit ag f).l1 = s.l1 := by cases ag <;> simp only [State.modUnit, modGroup_l1, modCt_l1]
@[simp] theorem modUnit_lines (s : State) (ag : Agent) (f : Strand → Strand) : (s.modUnit ag f).lines = s.lines := by cases ag <;> simp only [State.modUnit, modGroup_lines, modCt_lines]
@[simp] theorem modUnit_pts (s : State) (ag : Agent) (f : Strand → Strand) : (s.modUnit ag f).pts = s.pts := by cases ag <;> simp only [State.modUnit, modGroup_pts, modCt_pts]
@[simp] theorem modUnit_ptsAt (s : State) (ag : Agent) (f : Strand → Strand) : (s.modUnit ag f).ptsAt = s.ptsAt := by cases ag <;> simp only [State.modUnit, modGroup_ptsAt, modCt_ptsAt]
@[simp] theorem modUnit_floors (s : State) (ag : Agent) (f : Strand → Strand) : (s.modUnit ag f).floors = s.floors := by cases ag <;> simp only [State.modUnit, modGroup_floors, modCt_floors]
@[simp] theorem modUnit_lastTake (s : State) (ag : Agent) (f : Strand → Strand) : (s.modUnit ag f).lastTake = s.lastTake := by cases ag <;> simp only [State.modUnit, modGroup_lastTake, modCt_lastTake]
@[simp] theorem modUnit_misses (s : State) (ag : Agent) (f : Strand → Strand) : (s.modUnit ag f).misses = s.misses := by cases ag <;> simp only [State.modUnit, modGroup_misses, modCt_misses]
@[simp] theorem modUnit_dirty (s : State) (ag : Agent) (f : Strand → Strand) : (s.modUnit ag f).dirty = s.dirty := by cases ag <;> simp only [State.modUnit, modGroup_dirty, modCt_dirty]
@[simp] theorem modUnit_tlbs (s : State) (ag : Agent) (f : Strand → Strand) : (s.modUnit ag f).tlbs = s.tlbs := by cases ag <;> simp only [State.modUnit, modGroup_tlbs, modCt_tlbs]
@[simp] theorem modUnit_pages (s : State) (ag : Agent) (f : Strand → Strand) : (s.modUnit ag f).pages = s.pages := by cases ag <;> simp only [State.modUnit, modGroup_pages, modCt_pages]
@[simp] theorem modUnit_inval (s : State) (ag : Agent) (f : Strand → Strand) : (s.modUnit ag f).inval = s.inval := by cases ag <;> simp only [State.modUnit, modGroup_inval, modCt_inval]
@[simp] theorem modUnit_dir (s : State) (ag : Agent) (f : Strand → Strand) : (s.modUnit ag f).dir = s.dir := by cases ag <;> simp only [State.modUnit, modGroup_dir, modCt_dir]
@[simp] theorem modUnit_homes (s : State) (ag : Agent) (f : Strand → Strand) : (s.modUnit ag f).homes = s.homes := by cases ag <;> simp only [State.modUnit, modGroup_homes, modCt_homes]
@[simp] theorem modUnit_reps (s : State) (ag : Agent) (f : Strand → Strand) : (s.modUnit ag f).reps = s.reps := by cases ag <;> simp only [State.modUnit, modGroup_reps, modCt_reps]
@[simp] theorem modUnit_inWrites (s : State) (ag : Agent) (f : Strand → Strand) : (s.modUnit ag f).inWrites = s.inWrites := by cases ag <;> simp only [State.modUnit, modGroup_inWrites, modCt_inWrites]
@[simp] theorem modUnit_hostReply (s : State) (ag : Agent) (f : Strand → Strand) : (s.modUnit ag f).hostReply = s.hostReply := by cases ag <;> simp only [State.modUnit, modGroup_hostReply, modCt_hostReply]
@[simp] theorem modUnit_upset (s : State) (ag : Agent) (f : Strand → Strand) : (s.modUnit ag f).upset = s.upset := by cases ag <;> simp only [State.modUnit, modGroup_upset, modCt_upset]

/-! ### `setPts` -/

@[simp] theorem setPts_turns (s : State) (u : Nat) (t : W64) : (s.setPts u t).turns = s.turns := rfl
@[simp] theorem setPts_focus (s : State) (u : Nat) (t : W64) : (s.setPts u t).focus = s.focus := rfl
@[simp] theorem setPts_fresh (s : State) (u : Nat) (t : W64) : (s.setPts u t).fresh = s.fresh := rfl
@[simp] theorem setPts_nextId (s : State) (u : Nat) (t : W64) : (s.setPts u t).nextId = s.nextId := rfl
@[simp] theorem setPts_stallOn (s : State) (u : Nat) (t : W64) : (s.setPts u t).stallOn = s.stallOn := rfl
@[simp] theorem setPts_dtime (s : State) (u : Nat) (t : W64) : (s.setPts u t).dtime = s.dtime := rfl
@[simp] theorem setPts_clk (s : State) (u : Nat) (t : W64) : (s.setPts u t).clk = s.clk := rfl
@[simp] theorem setPts_mem (s : State) (u : Nat) (t : W64) : (s.setPts u t).mem = s.mem := rfl
@[simp] theorem setPts_keys (s : State) (u : Nat) (t : W64) : (s.setPts u t).keys = s.keys := rfl
@[simp] theorem setPts_dropped (s : State) (u : Nat) (t : W64) : (s.setPts u t).dropped = s.dropped := rfl
@[simp] theorem setPts_mgmt (s : State) (u : Nat) (t : W64) : (s.setPts u t).mgmt = s.mgmt := rfl
@[simp] theorem setPts_fab (s : State) (u : Nat) (t : W64) : (s.setPts u t).fab = s.fab := rfl
@[simp] theorem setPts_mb (s : State) (u : Nat) (t : W64) : (s.setPts u t).mb = s.mb := rfl
@[simp] theorem setPts_ctxs (s : State) (u : Nat) (t : W64) : (s.setPts u t).ctxs = s.ctxs := rfl
@[simp] theorem setPts_queues (s : State) (u : Nat) (t : W64) : (s.setPts u t).queues = s.queues := rfl
@[simp] theorem setPts_lastTake (s : State) (u : Nat) (t : W64) : (s.setPts u t).lastTake = s.lastTake := rfl
@[simp] theorem setPts_kernels (s : State) (u : Nat) (t : W64) : (s.setPts u t).kernels = s.kernels := rfl
@[simp] theorem setPts_wgs (s : State) (u : Nat) (t : W64) : (s.setPts u t).wgs = s.wgs := rfl
@[simp] theorem setPts_groups (s : State) (u : Nat) (t : W64) : (s.setPts u t).groups = s.groups := rfl
@[simp] theorem setPts_cts (s : State) (u : Nat) (t : W64) : (s.setPts u t).cts = s.cts := rfl
@[simp] theorem setPts_seqs (s : State) (u : Nat) (t : W64) : (s.setPts u t).seqs = s.seqs := rfl
@[simp] theorem setPts_sgs (s : State) (u : Nat) (t : W64) : (s.setPts u t).sgs = s.sgs := rfl
@[simp] theorem setPts_accs (s : State) (u : Nat) (t : W64) : (s.setPts u t).accs = s.accs := rfl
@[simp] theorem setPts_mmas (s : State) (u : Nat) (t : W64) : (s.setPts u t).mmas = s.mmas := rfl
@[simp] theorem setPts_drains (s : State) (u : Nat) (t : W64) : (s.setPts u t).drains = s.drains := rfl
@[simp] theorem setPts_collq (s : State) (u : Nat) (t : W64) : (s.setPts u t).collq = s.collq := rfl
@[simp] theorem setPts_ranges (s : State) (u : Nat) (t : W64) : (s.setPts u t).ranges = s.ranges := rfl
@[simp] theorem setPts_copies (s : State) (u : Nat) (t : W64) : (s.setPts u t).copies = s.copies := rfl
@[simp] theorem setPts_tiers (s : State) (u : Nat) (t : W64) : (s.setPts u t).tiers = s.tiers := rfl
@[simp] theorem setPts_ratoms (s : State) (u : Nat) (t : W64) : (s.setPts u t).ratoms = s.ratoms := rfl
@[simp] theorem setPts_ratomFails (s : State) (u : Nat) (t : W64) : (s.setPts u t).ratomFails = s.ratomFails := rfl
@[simp] theorem setPts_arrivals (s : State) (u : Nat) (t : W64) : (s.setPts u t).arrivals = s.arrivals := rfl
@[simp] theorem setPts_hmsgs (s : State) (u : Nat) (t : W64) : (s.setPts u t).hmsgs = s.hmsgs := rfl
@[simp] theorem setPts_pend (s : State) (u : Nat) (t : W64) : (s.setPts u t).pend = s.pend := rfl
@[simp] theorem setPts_pubs (s : State) (u : Nat) (t : W64) : (s.setPts u t).pubs = s.pubs := rfl
@[simp] theorem setPts_fronts (s : State) (u : Nat) (t : W64) : (s.setPts u t).fronts = s.fronts := rfl
@[simp] theorem setPts_icinvs (s : State) (u : Nat) (t : W64) : (s.setPts u t).icinvs = s.icinvs := rfl
@[simp] theorem setPts_icache (s : State) (u : Nat) (t : W64) : (s.setPts u t).icache = s.icache := rfl
@[simp] theorem setPts_lastuses (s : State) (u : Nat) (t : W64) : (s.setPts u t).lastuses = s.lastuses := rfl
@[simp] theorem setPts_marks (s : State) (u : Nat) (t : W64) : (s.setPts u t).marks = s.marks := rfl
@[simp] theorem setPts_part (s : State) (u : Nat) (t : W64) : (s.setPts u t).part = s.part := rfl
@[simp] theorem setPts_gens (s : State) (u : Nat) (t : W64) : (s.setPts u t).gens = s.gens := rfl
@[simp] theorem setPts_reqs (s : State) (u : Nat) (t : W64) : (s.setPts u t).reqs = s.reqs := rfl
@[simp] theorem setPts_ckpts (s : State) (u : Nat) (t : W64) : (s.setPts u t).ckpts = s.ckpts := rfl
@[simp] theorem setPts_tiles (s : State) (u : Nat) (t : W64) : (s.setPts u t).tiles = s.tiles := rfl
@[simp] theorem setPts_rounds (s : State) (u : Nat) (t : W64) : (s.setPts u t).rounds = s.rounds := rfl
@[simp] theorem setPts_l1 (s : State) (u : Nat) (t : W64) : (s.setPts u t).l1 = s.l1 := rfl
@[simp] theorem setPts_lines (s : State) (u : Nat) (t : W64) : (s.setPts u t).lines = s.lines := rfl
@[simp] theorem setPts_pts (s : State) (u : Nat) (t : W64) : (s.setPts u t).pts = tabSet s.pts u t := rfl
@[simp] theorem setPts_ptsAt (s : State) (u : Nat) (t : W64) : (s.setPts u t).ptsAt = tabSet s.ptsAt u (umax64 (tabGet s.ptsAt 0 u) s.span) := rfl
@[simp] theorem setPts_floors (s : State) (u : Nat) (t : W64) : (s.setPts u t).floors = s.floors := rfl
@[simp] theorem setPts_misses (s : State) (u : Nat) (t : W64) : (s.setPts u t).misses = s.misses := rfl
@[simp] theorem setPts_dirty (s : State) (u : Nat) (t : W64) : (s.setPts u t).dirty = s.dirty := rfl
@[simp] theorem setPts_tlbs (s : State) (u : Nat) (t : W64) : (s.setPts u t).tlbs = s.tlbs := rfl
@[simp] theorem setPts_pages (s : State) (u : Nat) (t : W64) : (s.setPts u t).pages = s.pages := rfl
@[simp] theorem setPts_inval (s : State) (u : Nat) (t : W64) : (s.setPts u t).inval = s.inval := rfl
@[simp] theorem setPts_dir (s : State) (u : Nat) (t : W64) : (s.setPts u t).dir = s.dir := rfl
@[simp] theorem setPts_homes (s : State) (u : Nat) (t : W64) : (s.setPts u t).homes = s.homes := rfl
@[simp] theorem setPts_reps (s : State) (u : Nat) (t : W64) : (s.setPts u t).reps = s.reps := rfl
@[simp] theorem setPts_inWrites (s : State) (u : Nat) (t : W64) : (s.setPts u t).inWrites = s.inWrites := rfl
@[simp] theorem setPts_hostReply (s : State) (u : Nat) (t : W64) : (s.setPts u t).hostReply = s.hostReply := rfl
@[simp] theorem setPts_upset (s : State) (u : Nat) (t : W64) : (s.setPts u t).upset = s.upset := rfl

/-! ### `issued` -/

@[simp] theorem issued_turns (s : State) (e : Env) : (s.issued e).turns = s.turns := by unfold State.issued; dsimp only; split <;> simp
@[simp] theorem issued_focus (s : State) (e : Env) : (s.issued e).focus = s.focus := by unfold State.issued; dsimp only; split <;> simp
@[simp] theorem issued_fresh (s : State) (e : Env) : (s.issued e).fresh = s.fresh := by unfold State.issued; dsimp only; split <;> simp
@[simp] theorem issued_nextId (s : State) (e : Env) : (s.issued e).nextId = s.nextId := by unfold State.issued; dsimp only; split <;> simp
@[simp] theorem issued_stallOn (s : State) (e : Env) : (s.issued e).stallOn = s.stallOn := by unfold State.issued; dsimp only; split <;> simp
@[simp] theorem issued_dtime (s : State) (e : Env) : (s.issued e).dtime = s.dtime := by unfold State.issued; dsimp only; split <;> simp
@[simp] theorem issued_mem (s : State) (e : Env) : (s.issued e).mem = s.mem := by unfold State.issued; dsimp only; split <;> simp
@[simp] theorem issued_keys (s : State) (e : Env) : (s.issued e).keys = s.keys := by unfold State.issued; dsimp only; split <;> simp
@[simp] theorem issued_dropped (s : State) (e : Env) : (s.issued e).dropped = s.dropped := by unfold State.issued; dsimp only; split <;> simp
@[simp] theorem issued_mgmt (s : State) (e : Env) : (s.issued e).mgmt = s.mgmt := by unfold State.issued; dsimp only; split <;> simp
@[simp] theorem issued_fab (s : State) (e : Env) : (s.issued e).fab = s.fab := by unfold State.issued; dsimp only; split <;> simp
@[simp] theorem issued_mb (s : State) (e : Env) : (s.issued e).mb = s.mb := by unfold State.issued; dsimp only; split <;> simp
@[simp] theorem issued_queues (s : State) (e : Env) : (s.issued e).queues = s.queues := by unfold State.issued; dsimp only; split <;> simp
@[simp] theorem issued_kernels (s : State) (e : Env) : (s.issued e).kernels = s.kernels := by unfold State.issued; dsimp only; split <;> simp
@[simp] theorem issued_wgs (s : State) (e : Env) : (s.issued e).wgs = s.wgs := by unfold State.issued; dsimp only; split <;> simp
@[simp] theorem issued_seqs (s : State) (e : Env) : (s.issued e).seqs = s.seqs := by unfold State.issued; dsimp only; split <;> simp
@[simp] theorem issued_sgs (s : State) (e : Env) : (s.issued e).sgs = s.sgs := by unfold State.issued; dsimp only; split <;> simp
@[simp] theorem issued_accs (s : State) (e : Env) : (s.issued e).accs = s.accs := by unfold State.issued; dsimp only; split <;> simp
@[simp] theorem issued_mmas (s : State) (e : Env) : (s.issued e).mmas = s.mmas := by unfold State.issued; dsimp only; split <;> simp
@[simp] theorem issued_drains (s : State) (e : Env) : (s.issued e).drains = s.drains := by unfold State.issued; dsimp only; split <;> simp
@[simp] theorem issued_collq (s : State) (e : Env) : (s.issued e).collq = s.collq := by unfold State.issued; dsimp only; split <;> simp
@[simp] theorem issued_ranges (s : State) (e : Env) : (s.issued e).ranges = s.ranges := by unfold State.issued; dsimp only; split <;> simp
@[simp] theorem issued_copies (s : State) (e : Env) : (s.issued e).copies = s.copies := by unfold State.issued; dsimp only; split <;> simp
@[simp] theorem issued_tiers (s : State) (e : Env) : (s.issued e).tiers = s.tiers := by unfold State.issued; dsimp only; split <;> simp
@[simp] theorem issued_ratoms (s : State) (e : Env) : (s.issued e).ratoms = s.ratoms := by unfold State.issued; dsimp only; split <;> simp
@[simp] theorem issued_ratomFails (s : State) (e : Env) : (s.issued e).ratomFails = s.ratomFails := by unfold State.issued; dsimp only; split <;> simp
@[simp] theorem issued_arrivals (s : State) (e : Env) : (s.issued e).arrivals = s.arrivals := by unfold State.issued; dsimp only; split <;> simp
@[simp] theorem issued_hmsgs (s : State) (e : Env) : (s.issued e).hmsgs = s.hmsgs := by unfold State.issued; dsimp only; split <;> simp
@[simp] theorem issued_pend (s : State) (e : Env) : (s.issued e).pend = s.pend := by unfold State.issued; dsimp only; split <;> simp
@[simp] theorem issued_pubs (s : State) (e : Env) : (s.issued e).pubs = s.pubs := by unfold State.issued; dsimp only; split <;> simp
@[simp] theorem issued_fronts (s : State) (e : Env) : (s.issued e).fronts = s.fronts := by unfold State.issued; dsimp only; split <;> simp
@[simp] theorem issued_icinvs (s : State) (e : Env) : (s.issued e).icinvs = s.icinvs := by unfold State.issued; dsimp only; split <;> simp
@[simp] theorem issued_icache (s : State) (e : Env) : (s.issued e).icache = s.icache := by unfold State.issued; dsimp only; split <;> simp
@[simp] theorem issued_lastuses (s : State) (e : Env) : (s.issued e).lastuses = s.lastuses := by unfold State.issued; dsimp only; split <;> simp
@[simp] theorem issued_marks (s : State) (e : Env) : (s.issued e).marks = s.marks := by unfold State.issued; dsimp only; split <;> simp
@[simp] theorem issued_part (s : State) (e : Env) : (s.issued e).part = s.part := by unfold State.issued; dsimp only; split <;> simp
@[simp] theorem issued_gens (s : State) (e : Env) : (s.issued e).gens = s.gens := by unfold State.issued; dsimp only; split <;> simp
@[simp] theorem issued_reqs (s : State) (e : Env) : (s.issued e).reqs = s.reqs := by unfold State.issued; dsimp only; split <;> simp
@[simp] theorem issued_ckpts (s : State) (e : Env) : (s.issued e).ckpts = s.ckpts := by unfold State.issued; dsimp only; split <;> simp
@[simp] theorem issued_tiles (s : State) (e : Env) : (s.issued e).tiles = s.tiles := by unfold State.issued; dsimp only; split <;> simp
@[simp] theorem issued_rounds (s : State) (e : Env) : (s.issued e).rounds = s.rounds := by unfold State.issued; dsimp only; split <;> simp
@[simp] theorem issued_l1 (s : State) (e : Env) : (s.issued e).l1 = s.l1 := by unfold State.issued; dsimp only; split <;> simp
@[simp] theorem issued_lines (s : State) (e : Env) : (s.issued e).lines = s.lines := by unfold State.issued; dsimp only; split <;> simp
@[simp] theorem issued_pts (s : State) (e : Env) : (s.issued e).pts = s.pts := by unfold State.issued; dsimp only; split <;> simp
@[simp] theorem issued_ptsAt (s : State) (e : Env) : (s.issued e).ptsAt = s.ptsAt := by unfold State.issued; dsimp only; split <;> simp
@[simp] theorem issued_floors (s : State) (e : Env) : (s.issued e).floors = s.floors := by unfold State.issued; dsimp only; split <;> simp
@[simp] theorem issued_lastTake (s : State) (e : Env) : (s.issued e).lastTake = s.lastTake := by unfold State.issued; dsimp only; split <;> simp
@[simp] theorem issued_misses (s : State) (e : Env) : (s.issued e).misses = s.misses := by unfold State.issued; dsimp only; split <;> simp
@[simp] theorem issued_dirty (s : State) (e : Env) : (s.issued e).dirty = s.dirty := by unfold State.issued; dsimp only; split <;> simp
@[simp] theorem issued_tlbs (s : State) (e : Env) : (s.issued e).tlbs = s.tlbs := by unfold State.issued; dsimp only; split <;> simp
@[simp] theorem issued_pages (s : State) (e : Env) : (s.issued e).pages = s.pages := by unfold State.issued; dsimp only; split <;> simp
@[simp] theorem issued_inval (s : State) (e : Env) : (s.issued e).inval = s.inval := by unfold State.issued; dsimp only; split <;> simp
@[simp] theorem issued_dir (s : State) (e : Env) : (s.issued e).dir = s.dir := by unfold State.issued; dsimp only; split <;> simp
@[simp] theorem issued_homes (s : State) (e : Env) : (s.issued e).homes = s.homes := by unfold State.issued; dsimp only; split <;> simp
@[simp] theorem issued_reps (s : State) (e : Env) : (s.issued e).reps = s.reps := by unfold State.issued; dsimp only; split <;> simp
@[simp] theorem issued_inWrites (s : State) (e : Env) : (s.issued e).inWrites = s.inWrites := by unfold State.issued; dsimp only; split <;> simp
@[simp] theorem issued_hostReply (s : State) (e : Env) : (s.issued e).hostReply = s.hostReply := by unfold State.issued; dsimp only; split <;> simp
@[simp] theorem issued_upset (s : State) (e : Env) : (s.issued e).upset = s.upset := by unfold State.issued; dsimp only; split <;> simp
@[simp] theorem issued_clk (s : State) (e : Env) : (s.issued e).clk = s.clk + 1 := by unfold State.issued; dsimp only; split <;> simp

end Sys2Proof.Machine
end

