-- ==== Sys2Proof/Laws/Memory.lean ====
section
/-!
SUPPORT. Tables and memory: reading after writing, and the canonical form of memory.
-/
namespace Sys2Proof.Machine
set_option Elab.async false

/-! ### Tables -/

theorem tabFind?_set {α : Type} (t : Tab α) (k : Nat) (v : α) : tabFind? (tabSet t k v) k = some v := by
  induction t with
  | nil => simp [tabSet, tabFind?]
  | cons x t ih =>
    obtain ⟨j, w⟩ := x
    simp only [tabSet]
    split
    · simp [tabFind?]
    · split
      · simp [tabFind?]
      · rename_i h1 h2
        simp only [tabFind?]
        rw [if_neg (by omega)]
        exact ih

theorem tabFind?_set_ne {α : Type} (t : Tab α) (k j : Nat) (v : α) (h : j ≠ k) : tabFind? (tabSet t k v) j = tabFind? t j := by
  induction t with
  | nil => simp only [tabSet, tabFind?, if_neg (Ne.symm h)]
  | cons x t ih =>
    obtain ⟨i, w⟩ := x
    simp only [tabSet]
    split
    · simp only [tabFind?, if_neg (Ne.symm h)]
    · split
      · subst_vars
        simp only [tabFind?, if_neg (Ne.symm h)]
      · simp only [tabFind?, ih]

/-- Reading a table at the key just set. -/
@[simp] theorem tabGet_set {α : Type} (t : Tab α) (d : α) (k : Nat) (v : α) : tabGet (tabSet t k v) d k = v := by
  simp only [tabGet, tabFind?_set, Option.getD_some]

/-- Reading a table at another key. -/
theorem tabGet_set_ne {α : Type} (t : Tab α) (d : α) (k j : Nat) (v : α) (h : j ≠ k) : tabGet (tabSet t k v) d j = tabGet t d j := by
  simp only [tabGet, tabFind?_set_ne t k j v h]

@[simp] theorem ctx_modCtx (s : State) (c : Nat) (f : Context → Context) : (s.modCtx c f).ctx c = f (s.ctx c) := tabGet_set ..
theorem ctx_modCtx_ne (s : State) (c d : Nat) (f : Context → Context) (h : d ≠ c) : (s.modCtx c f).ctx d = s.ctx d := tabGet_set_ne _ _ _ _ _ h
@[simp] theorem queue_modQueue (s : State) (q : Nat) (f : Queue → Queue) : (s.modQueue q f).queue q = f (s.queue q) := tabGet_set ..
theorem queue_modQueue_ne (s : State) (q r : Nat) (f : Queue → Queue) (h : r ≠ q) : (s.modQueue q f).queue r = s.queue r :=
  tabGet_set_ne _ _ _ _ _ h
@[simp] theorem seg_modSeg (s : State) (g : Nat) (f : Segment → Segment) : (s.modSeg g f).seg g = f (s.seg g) := tabGet_set ..
theorem seg_modSeg_ne (s : State) (g h : Nat) (f : Segment → Segment) (n : h ≠ g) : (s.modSeg g f).seg h = s.seg h := tabGet_set_ne _ _ _ _ _ n
@[simp] theorem tile_modTile (s : State) (d i : Nat) (f : TileEntry → TileEntry) : (s.modTile d i f).tile d i = f (s.tile d i) := tabGet_set ..
@[simp] theorem acc_modAcc (s : State) (c i : Nat) (f : AccTile → AccTile) : (s.modAcc c i f).acc c i = f (s.acc c i) := tabGet_set ..
@[simp] theorem sg_setSg (s : State) (c h : Nat) (d : SgDesc) : (s.setSg c h d).sg? c h = some d := tabFind?_set ..

/-- A change of a kernel that is there. -/
theorem kernel_modKernel {s : State} {k : Nat} {x : Kernel} (h : s.kernel? k = some x) (f : Kernel → Kernel) :
    (s.modKernel k f).kernel? k = some (f x) := by
  unfold State.modKernel
  rw [h]
  exact tabFind?_set ..

theorem kernel_modKernel_ne (s : State) (k j : Nat) (f : Kernel → Kernel) (n : j ≠ k) : (s.modKernel k f).kernel? j = s.kernel? j := by
  unfold State.modKernel
  split
  · rfl
  · exact tabFind?_set_ne _ _ _ _ n

/-- A change of a workgroup that is there. -/
theorem wg_modWg {s : State} {k : Nat} {x : Workgroup} (h : s.wg? k = some x) (f : Workgroup → Workgroup) :
    (s.modWg k f).wg? k = some (f x) := by
  unfold State.modWg
  rw [h]
  exact tabFind?_set ..

theorem wg_modWg_ne (s : State) (k j : Nat) (f : Workgroup → Workgroup) (n : j ≠ k) : (s.modWg k f).wg? j = s.wg? j := by
  unfold State.modWg
  split
  · rfl
  · exact tabFind?_set_ne _ _ _ _ n

/-- A change of a group that is there. -/
theorem group_modGroup {s : State} {k : Nat} {x : Group} (h : s.group? k = some x) (f : Group → Group) :
    (s.modGroup k f).group? k = some (f x) := by
  unfold State.modGroup
  rw [h]
  exact tabFind?_set ..

theorem group_modGroup_ne (s : State) (k j : Nat) (f : Group → Group) (n : j ≠ k) : (s.modGroup k f).group? j = s.group? j := by
  unfold State.modGroup
  split
  · rfl
  · exact tabFind?_set_ne _ _ _ _ n

/-- A change of a control thread that is there. -/
theorem ct_modCt {s : State} {k : Nat} {x : CThread} (h : s.ct? k = some x) (f : CThread → CThread) : (s.modCt k f).ct? k = some (f x) := by
  unfold State.modCt
  rw [h]
  exact tabFind?_set ..

theorem ct_modCt_ne (s : State) (k j : Nat) (f : CThread → CThread) (n : j ≠ k) : (s.modCt k f).ct? j = s.ct? j := by
  unfold State.modCt
  split
  · rfl
  · exact tabFind?_set_ne _ _ _ _ n

/-- An entry of a list that is there, changed. -/
theorem getElem?_modAt {α : Type} (l : List α) (k : Nat) (f : α → α) : (modAt l k f)[k]? = l[k]?.map f := by
  induction l generalizing k with
  | nil => rfl
  | cons a t ih =>
    cases k with
    | zero => rfl
    | succ k => simpa only [modAt, List.getElem?_cons_succ] using ih k

theorem getElem?_modAt_ne {α : Type} (l : List α) (k j : Nat) (f : α → α) (h : j ≠ k) : (modAt l k f)[j]? = l[j]? := by
  induction l generalizing k j with
  | nil => rfl
  | cons a t ih =>
    cases k with
    | zero =>
      cases j with
      | zero => exact absurd rfl h
      | succ j => rfl
    | succ k =>
      cases j with
      | zero => rfl
      | succ j => simpa only [modAt, List.getElem?_cons_succ] using ih k j (by omega)

/-- A change of an agent's strand. -/
theorem unit_modUnit {s : State} {ag : Agent} {u : Strand} (h : s.unit? ag = some u) (f : Strand → Strand) :
    (s.modUnit ag f).unit? ag = some (f u) := by
  cases ag with
  | strand g k =>
    simp only [State.unit?, Option.bind_eq_some_iff] at h
    obtain ⟨x, hx, hu⟩ := h
    simp only [State.unit?, State.modUnit, group_modGroup hx, Option.bind_some, getElem?_modAt, hu, Option.map_some]
  | ctl w =>
    simp only [State.unit?, Option.map_eq_some_iff] at h
    obtain ⟨x, hx, hu⟩ := h
    simp only [State.unit?, State.modUnit, ct_modCt hx, Option.map_some, hu]

/-! ### Memory -/

/-- A byte at another address is as before. -/
theorem memGet_memSet_ne (m : List Host.Cell) (a b : Nat) (v : Byte) (h : b ≠ a) : memGet (memSet m a v) b = memGet m b := by
  induction m with
  | nil => unfold memSet; split <;> simp only [memGet, if_neg (Ne.symm h)]
  | cons c t ih =>
    obtain ⟨j, w⟩ := c
    simp only [memSet]
    split
    · split <;> simp only [memGet, if_neg (Ne.symm h)]
    · split
      · subst_vars
        split <;> simp only [memGet, if_neg (Ne.symm h)]
      · simp only [memGet, ih]

theorem memWfFrom_cons (lo : Option Nat) (a : Nat) (v : Byte) (t : List Host.Cell) :
    memWfFrom lo ((a, v) :: t) = true ↔ (∀ b, lo = some b → b < a) ∧ v ≠ 0 ∧ memWfFrom (some a) t = true := by
  cases lo <;> simp [memWfFrom, and_assoc]

theorem memGet_below {t : List Host.Cell} {b a : Nat} (h : memWfFrom (some b) t = true) (hb : a ≤ b) : memGet t a = 0 := by
  induction t generalizing b with
  | nil => rfl
  | cons c t ih =>
    obtain ⟨j, w⟩ := c
    obtain ⟨h1, -, h3⟩ := (memWfFrom_cons ..).mp h
    have := h1 _ rfl
    simp only [memGet]
    rw [if_neg (by omega)]
    exact ih h3 (by omega)

theorem memGet_memSet_from {m : List Host.Cell} {lo : Option Nat} (h : memWfFrom lo m = true) (a : Nat) (v : Byte) :
    memGet (memSet m a v) a = v := by
  induction m generalizing lo with
  | nil =>
    unfold memSet
    split
    · subst_vars; rfl
    · simp [memGet]
  | cons c t ih =>
    obtain ⟨j, w⟩ := c
    have ht := ((memWfFrom_cons ..).mp h).2.2
    simp only [memSet]
    split
    · rename_i hlt
      split
      · subst_vars
        simp only [memGet]
        rw [if_neg (by omega)]
        exact memGet_below ht (by omega)
      · simp [memGet]
    · split
      · subst_vars
        split
        · subst_vars
          exact memGet_below ht (Nat.le_refl _)
        · simp [memGet]
      · rename_i h1 h2
        simp only [memGet]
        rw [if_neg (by omega)]
        exact ih ht

/-- Reading the byte just written. -/
theorem memGet_memSet {m : List Host.Cell} (h : Memory.wf m = true) (a : Nat) (v : Byte) : memGet (memSet m a v) a = v :=
  memGet_memSet_from h a v

theorem memWfFrom_memSet {m : List Host.Cell} {lo : Option Nat} (h : memWfFrom lo m = true) (a : Nat) (v : Byte)
    (hl : ∀ b, lo = some b → b < a) : memWfFrom lo (memSet m a v) = true := by
  induction m generalizing lo with
  | nil =>
    unfold memSet
    split
    · rfl
    · exact (memWfFrom_cons ..).mpr ⟨hl, ‹_›, rfl⟩
  | cons c t ih =>
    obtain ⟨j, w⟩ := c
    obtain ⟨h1, h2, h3⟩ := (memWfFrom_cons ..).mp h
    simp only [memSet]
    split
    · split
      · exact h
      · exact (memWfFrom_cons ..).mpr ⟨hl, ‹_›, (memWfFrom_cons ..).mpr ⟨by intro b hb; cases hb; assumption, h2, h3⟩⟩
    · split
      · subst_vars
        split
        · -- the entry goes, and the rest lies above it
          cases t with
          | nil => rfl
          | cons d t =>
            obtain ⟨i, x⟩ := d
            obtain ⟨g1, g2, g3⟩ := (memWfFrom_cons ..).mp h3
            have := g1 _ rfl
            exact (memWfFrom_cons ..).mpr ⟨fun b hb => by have := hl b hb; omega, g2, g3⟩
        · exact (memWfFrom_cons ..).mpr ⟨hl, ‹_›, h3⟩
      · exact (memWfFrom_cons ..).mpr ⟨h1, h2, ih h3 (by intro b hb; cases hb; omega)⟩

/-- Setting a byte keeps the canonical form. -/
theorem wf_memSet {m : List Host.Cell} (h : Memory.wf m = true) (a : Nat) (v : Byte) : Memory.wf (memSet m a v) = true :=
  memWfFrom_memSet h a v (by intro b hb; cases hb)

/-- Writing bytes keeps the canonical form. -/
theorem wf_memWrite {m : List Host.Cell} (h : Memory.wf m = true) (a : Nat) (bs : List Byte) : Memory.wf (memWrite m a bs) = true := by
  induction bs generalizing m a with
  | nil => exact h
  | cons b t ih => exact ih (wf_memSet h a b) (a + 1)

theorem memWfFrom_filter {m : List Host.Cell} {lo hi : Option Nat} (h : memWfFrom lo m = true) (p : Host.Cell → Bool)
    (hl : ∀ b, hi = some b → ∃ c, lo = some c ∧ b ≤ c) : memWfFrom hi (m.filter p) = true := by
  induction m generalizing lo hi with
  | nil => rfl
  | cons c t ih =>
    obtain ⟨j, w⟩ := c
    obtain ⟨h1, h2, h3⟩ := (memWfFrom_cons ..).mp h
    have hj : ∀ b, hi = some b → b < j := by
      intro b hb
      obtain ⟨c, hc, hle⟩ := hl b hb
      have := h1 c hc
      omega
    rw [List.filter_cons]
    split
    · exact (memWfFrom_cons ..).mpr ⟨hj, h2, ih h3 fun b hb => ⟨b, hb, Nat.le_refl _⟩⟩
    · exact ih h3 fun b hb => ⟨j, rfl, Nat.le_of_lt (hj b hb)⟩

/-- Dropping cells keeps the canonical form. -/
theorem wf_filter {m : List Host.Cell} (h : Memory.wf m = true) (p : Host.Cell → Bool) : Memory.wf (m.filter p) = true :=
  memWfFrom_filter h p (by intro b hb; cases hb)

/-- A byte outside those written is as before. -/
theorem memGet_memWrite_ne (m : List Host.Cell) (a b : Nat) (bs : List Byte) (h : b < a ∨ a + bs.length ≤ b) :
    memGet (memWrite m a bs) b = memGet m b := by
  induction bs generalizing m a with
  | nil => rfl
  | cons x t ih =>
    simp only [List.length_cons] at h
    simp only [memWrite]
    rw [ih (memSet m a x) (a + 1) (by omega)]
    exact memGet_memSet_ne m a b x (by omega)

theorem memRead_congr {m n : List Host.Cell} (k a : Nat) (h : ∀ b, a ≤ b → b < a + k → memGet m b = memGet n b) :
    memRead m a k = memRead n a k := by
  induction k generalizing a with
  | zero => rfl
  | succ k ih =>
    simp only [memRead]
    rw [h a (by omega) (by omega), ih (a + 1) fun b h1 h2 => h b (by omega) (by omega)]

/-- Reading the bytes just written. -/
theorem memRead_memWrite {m : List Host.Cell} (h : Memory.wf m = true) (a : Nat) (bs : List Byte) :
    memRead (memWrite m a bs) a bs.length = bs := by
  induction bs generalizing m a with
  | nil => rfl
  | cons x t ih =>
    simp only [memWrite, List.length_cons, memRead]
    rw [ih (wf_memSet h a x), memGet_memWrite_ne _ _ _ _ (Or.inl (Nat.lt_succ_self a)), memGet_memSet h]

/-- A read that meets none of the bytes written is as before. -/
theorem memRead_memWrite_ne (m : List Host.Cell) (a b n : Nat) (bs : List Byte) (h : b + n ≤ a ∨ a + bs.length ≤ b) :
    memRead (memWrite m a bs) b n = memRead m b n :=
  memRead_congr n b fun c h1 h2 => memGet_memWrite_ne m a c bs (by omega)

/-- Writing zero where nothing is listed changes nothing. -/
theorem memSet_unlisted (m : List Host.Cell) (a : Nat) (h : ∀ c ∈ m, c.1 ≠ a) : memSet m a 0 = m := by
  induction m with
  | nil => rfl
  | cons c t ih =>
    obtain ⟨j, w⟩ := c
    have hj : j ≠ a := h (j, w) (List.mem_cons_self ..)
    have ht := ih fun x hx => h x (List.mem_cons_of_mem _ hx)
    simp only [memSet]
    split
    · rfl
    · rw [if_neg (Ne.symm hj), ht]

/-- Writing zeros where nothing is listed changes nothing. -/
theorem memWrite_unlisted (m : List Host.Cell) (n : Nat) :
    ∀ a, (∀ c ∈ m, c.1 < a ∨ a + n ≤ c.1) → memWrite m a (List.replicate n 0) = m := by
  induction n with
  | zero => intros; rfl
  | succ n ih =>
    intro a h
    have h0 : memSet m a 0 = m := memSet_unlisted m a fun c hc => by have := h c hc; omega
    simp only [List.replicate_succ, memWrite, h0]
    exact ih (a + 1) fun c hc => by have := h c hc; omega

/-- The canonical form in terms of its cells. -/
theorem memWfFrom_iff (lo : Option Nat) (m : List Host.Cell) :
    memWfFrom lo m = true ↔ m.Pairwise (fun c d => c.1 < d.1) ∧ (∀ c ∈ m, c.2 ≠ 0) ∧ ∀ b, lo = some b → ∀ c ∈ m, b < c.1 := by
  induction m generalizing lo with
  | nil => simp [memWfFrom]
  | cons c t ih =>
    obtain ⟨j, w⟩ := c
    rw [memWfFrom_cons, ih, List.pairwise_cons]
    constructor
    · rintro ⟨h1, h2, h3, h4, h5⟩
      refine ⟨⟨fun d hd => h5 j rfl d hd, h3⟩, ?_, ?_⟩
      · intro d hd
        rcases List.mem_cons.mp hd with rfl | hd
        · exact h2
        · exact h4 d hd
      · intro b hb d hd
        rcases List.mem_cons.mp hd with rfl | hd
        · exact h1 b hb
        · exact Nat.lt_trans (h1 b hb) (h5 j rfl d hd)
    · rintro ⟨⟨h1, h2⟩, h3, h4⟩
      exact ⟨fun b hb => h4 b hb _ (List.mem_cons_self ..), h3 _ (List.mem_cons_self ..), h2,
        fun d hd => h3 d (List.mem_cons_of_mem _ hd), fun b hb d hd => by cases hb; exact h1 d hd⟩

/-- Moving bytes keeps the canonical form. -/
theorem wf_memMove {m : List Host.Cell} (h : Memory.wf m = true) (a b n : Nat) : Memory.wf (memMove m a b n) = true := by
  obtain ⟨hp, hz, -⟩ := (memWfFrom_iff none m).mp h
  refine (memWfFrom_iff none _).mpr ⟨?_, ?_, by intro b hb; cases hb⟩
  · unfold memMove
    refine List.pairwise_append.mpr ⟨List.pairwise_append.mpr ⟨hp.filter _, ?_, ?_⟩, hp.filter _, ?_⟩
    · rw [List.pairwise_map]
      exact (hp.filter _).imp_of_mem fun {c d} hc hd hcd => by
        simp only [List.mem_filter, Bool.and_eq_true, decide_eq_true_eq] at hc hd
        show c.1 - a + b < d.1 - a + b
        omega
    · intro c hc d hd
      simp only [List.mem_filter, decide_eq_true_eq, List.mem_map, Bool.and_eq_true] at hc hd
      obtain ⟨e, he, rfl⟩ := hd
      show c.1 < e.1 - a + b
      omega
    · intro c hc d hd
      simp only [List.mem_append, List.mem_filter, decide_eq_true_eq, List.mem_map, Bool.and_eq_true] at hc hd
      rcases hc with hc | ⟨e, he, rfl⟩
      · omega
      · show e.1 - a + b < d.1
        omega
  · intro c hc
    simp only [memMove, List.mem_append, List.mem_filter, List.mem_map] at hc
    rcases hc with (hc | ⟨e, he, rfl⟩) | hc
    · exact hz c hc.1
    · exact hz e he.1
    · exact hz c hc.1

/-- Memory after reset is in canonical form. -/
theorem reset_memory_wf : Memory.wf State.reset.mem = true := rfl

end Sys2Proof.Machine
end

