-- ==== Sys2Proof/Laws/PerInstr.lean ====
section
/-!
SUPPORT. Statements made for each instruction: the opcode that the checks of an issue know a word by is the one of its encoding.
-/
namespace Sys2Proof.Laws.OneOpcode
open Sys2Proof.Machine
set_option Elab.async false

/-- The form under which the issue checks a word (R310, R331) has the opcode of the word's encoding (R312). -/
def Statement (i : Instr) : Prop := ∀ f g, formOf? i = some f → i.fields? = some g → f.opc = g.opc

theorem nop (a0 : Guard) : Statement (.nop a0) := fun _ _ h k => by cases h <;> cases k <;> rfl
theorem mov (a0 : Guard) (a1 : Dst) (a2 : Src) (a3 : Bool) : Statement (.mov a0 a1 a2 a3) := fun _ _ h k => by cases h <;> cases k <;> rfl
theorem iadd (a0 : Guard) (a1 : Dst) (a2 : Src) (a3 : Src) (a4 : SatMode) : Statement (.iadd a0 a1 a2 a3 a4) := fun _ _ h k => by cases h <;> cases k <;> rfl
theorem isub (a0 : Guard) (a1 : Dst) (a2 : Src) (a3 : Src) (a4 : SatMode) : Statement (.isub a0 a1 a2 a3 a4) := fun _ _ h k => by cases h <;> cases k <;> rfl
theorem imul (a0 : Guard) (a1 : Dst) (a2 : Src) (a3 : Src) : Statement (.imul a0 a1 a2 a3) := fun _ _ h k => by cases h <;> cases k <;> rfl
theorem imulh (a0 : Guard) (a1 : Dst) (a2 : Src) (a3 : Src) (a4 : Bool) : Statement (.imulh a0 a1 a2 a3 a4) := fun _ _ h k => by cases h <;> cases k <;> rfl
theorem imad (a0 : Guard) (a1 : Dst) (a2 : Src) (a3 : Src) (a4 : Src) : Statement (.imad a0 a1 a2 a3 a4) := fun _ _ h k => by cases h <;> cases k <;> rfl
theorem idiv (a0 : Guard) (a1 : Dst) (a2 : Src) (a3 : Src) (a4 : Bool) (a5 : Bool) : Statement (.idiv a0 a1 a2 a3 a4 a5) := fun _ _ h k => by cases h <;> cases k <;> rfl
theorem irem (a0 : Guard) (a1 : Dst) (a2 : Src) (a3 : Src) (a4 : Bool) (a5 : Bool) : Statement (.irem a0 a1 a2 a3 a4 a5) := fun _ _ h k => by cases h <;> cases k <;> rfl
theorem imin (a0 : Guard) (a1 : Dst) (a2 : Src) (a3 : Src) (a4 : Bool) : Statement (.imin a0 a1 a2 a3 a4) := fun _ _ h k => by cases h <;> cases k <;> rfl
theorem imax (a0 : Guard) (a1 : Dst) (a2 : Src) (a3 : Src) (a4 : Bool) : Statement (.imax a0 a1 a2 a3 a4) := fun _ _ h k => by cases h <;> cases k <;> rfl
theorem iabs (a0 : Guard) (a1 : Dst) (a2 : Src) (a3 : Bool) : Statement (.iabs a0 a1 a2 a3) := fun _ _ h k => by cases h <;> cases k <;> rfl
theorem ineg (a0 : Guard) (a1 : Dst) (a2 : Src) (a3 : Bool) : Statement (.ineg a0 a1 a2 a3) := fun _ _ h k => by cases h <;> cases k <;> rfl
theorem iand (a0 : Guard) (a1 : Dst) (a2 : Src) (a3 : Src) : Statement (.iand a0 a1 a2 a3) := fun _ _ h k => by cases h <;> cases k <;> rfl
theorem ior (a0 : Guard) (a1 : Dst) (a2 : Src) (a3 : Src) : Statement (.ior a0 a1 a2 a3) := fun _ _ h k => by cases h <;> cases k <;> rfl
theorem ixor (a0 : Guard) (a1 : Dst) (a2 : Src) (a3 : Src) : Statement (.ixor a0 a1 a2 a3) := fun _ _ h k => by cases h <;> cases k <;> rfl
theorem inot (a0 : Guard) (a1 : Dst) (a2 : Src) : Statement (.inot a0 a1 a2) := fun _ _ h k => by cases h <;> cases k <;> rfl
theorem iandn (a0 : Guard) (a1 : Dst) (a2 : Src) (a3 : Src) : Statement (.iandn a0 a1 a2 a3) := fun _ _ h k => by cases h <;> cases k <;> rfl
theorem shl (a0 : Guard) (a1 : Dst) (a2 : Src) (a3 : Src) : Statement (.shl a0 a1 a2 a3) := fun _ _ h k => by cases h <;> cases k <;> rfl
theorem shr (a0 : Guard) (a1 : Dst) (a2 : Src) (a3 : Src) : Statement (.shr a0 a1 a2 a3) := fun _ _ h k => by cases h <;> cases k <;> rfl
theorem sar (a0 : Guard) (a1 : Dst) (a2 : Src) (a3 : Src) : Statement (.sar a0 a1 a2 a3) := fun _ _ h k => by cases h <;> cases k <;> rfl
theorem rotl (a0 : Guard) (a1 : Dst) (a2 : Src) (a3 : Src) : Statement (.rotl a0 a1 a2 a3) := fun _ _ h k => by cases h <;> cases k <;> rfl
theorem bfe (a0 : Guard) (a1 : Dst) (a2 : Src) (a3 : Src) (a4 : Bool) : Statement (.bfe a0 a1 a2 a3 a4) := fun _ _ h k => by cases h <;> cases k <;> rfl
theorem bfi (a0 : Guard) (a1 : Dst) (a2 : Src) (a3 : Src) (a4 : Src) : Statement (.bfi a0 a1 a2 a3 a4) := fun _ _ h k => by cases h <;> cases k <;> rfl
theorem popc (a0 : Guard) (a1 : Dst) (a2 : Src) : Statement (.popc a0 a1 a2) := fun _ _ h k => by cases h <;> cases k <;> rfl
theorem clz (a0 : Guard) (a1 : Dst) (a2 : Src) : Statement (.clz a0 a1 a2) := fun _ _ h k => by cases h <;> cases k <;> rfl
theorem ctz (a0 : Guard) (a1 : Dst) (a2 : Src) : Statement (.ctz a0 a1 a2) := fun _ _ h k => by cases h <;> cases k <;> rfl
theorem brev (a0 : Guard) (a1 : Dst) (a2 : Src) : Statement (.brev a0 a1 a2) := fun _ _ h k => by cases h <;> cases k <;> rfl
theorem icmp (a0 : Guard) (a1 : PDst) (a2 : Src) (a3 : Src) (a4 : Bool) (a5 : Bool) (a6 : ICond) : Statement (.icmp a0 a1 a2 a3 a4 a5 a6) := fun _ _ h k => by cases h <;> cases k <;> rfl
theorem sel (a0 : Guard) (a1 : Dst) (a2 : Src) (a3 : Src) (a4 : Nat) (a5 : Bool) : Statement (.sel a0 a1 a2 a3 a4 a5) := fun _ _ h k => by cases h <;> cases k <;> rfl
theorem iadd64 (a0 : Guard) (a1 : Dst) (a2 : Src) (a3 : Src) (a4 : Bool) : Statement (.iadd64 a0 a1 a2 a3 a4) := fun _ _ h k => by cases h <;> cases k <;> rfl
theorem imad64 (a0 : Guard) (a1 : Dst) (a2 : Src) (a3 : Src) (a4 : Src) (a5 : Bool) : Statement (.imad64 a0 a1 a2 a3 a4 a5) := fun _ _ h k => by cases h <;> cases k <;> rfl
theorem shf64 (a0 : Guard) (a1 : Dst) (a2 : Src) (a3 : Src) (a4 : ShfMode) : Statement (.shf64 a0 a1 a2 a3 a4) := fun _ _ h k => by cases h <;> cases k <;> rfl
theorem lea (a0 : Guard) (a1 : Dst) (a2 : Src) (a3 : Src) (a4 : Bool) (a5 : Nat) : Statement (.lea a0 a1 a2 a3 a4 a5) := fun _ _ h k => by cases h <;> cases k <;> rfl
theorem ext (a0 : Guard) (a1 : Dst) (a2 : Src) (a3 : Bool) (a4 : Bool) (a5 : ExtWidth) : Statement (.ext a0 a1 a2 a3 a4 a5) := fun _ _ h k => by cases h <;> cases k <;> rfl
theorem bmrg (a0 : Guard) (a1 : Dst) (a2 : Src) (a3 : Src) (a4 : Src) (a5 : Bool) : Statement (.bmrg a0 a1 a2 a3 a4 a5) := fun _ _ h k => by cases h <;> cases k <;> rfl
theorem dot4 (a0 : Guard) (a1 : Dst) (a2 : Src) (a3 : Src) (a4 : Src) (a5 : Bool) (a6 : Bool) : Statement (.dot4 a0 a1 a2 a3 a4 a5 a6) := fun _ _ h k => by cases h <;> cases k <;> rfl
theorem iaddc (a0 : Guard) (a1 : Dst) (a2 : Src) (a3 : Src) (a4 : Nat) : Statement (.iaddc a0 a1 a2 a3 a4) := fun _ _ h k => by cases h <;> cases k <;> rfl
theorem isubb (a0 : Guard) (a1 : Dst) (a2 : Src) (a3 : Src) (a4 : Nat) : Statement (.isubb a0 a1 a2 a3 a4) := fun _ _ h k => by cases h <;> cases k <;> rfl
theorem lop3 (a0 : Guard) (a1 : Dst) (a2 : Src) (a3 : Src) (a4 : Src) (a5 : Nat) : Statement (.lop3 a0 a1 a2 a3 a4 a5) := fun _ _ h k => by cases h <;> cases k <;> rfl
theorem fadd (a0 : Guard) (a1 : Dst) (a2 : Src) (a3 : Src) (a4 : Bool) (a5 : Rm) : Statement (.fadd a0 a1 a2 a3 a4 a5) := fun _ _ h k => by cases h <;> cases k <;> rfl
theorem fsub (a0 : Guard) (a1 : Dst) (a2 : Src) (a3 : Src) (a4 : Bool) (a5 : Rm) : Statement (.fsub a0 a1 a2 a3 a4 a5) := fun _ _ h k => by cases h <;> cases k <;> rfl
theorem fmul (a0 : Guard) (a1 : Dst) (a2 : Src) (a3 : Src) (a4 : Bool) (a5 : Rm) : Statement (.fmul a0 a1 a2 a3 a4 a5) := fun _ _ h k => by cases h <;> cases k <;> rfl
theorem ffma (a0 : Guard) (a1 : Dst) (a2 : Src) (a3 : Src) (a4 : Src) (a5 : Bool) (a6 : Rm) : Statement (.ffma a0 a1 a2 a3 a4 a5 a6) := fun _ _ h k => by cases h <;> cases k <;> rfl
theorem fmin (a0 : Guard) (a1 : Dst) (a2 : Src) (a3 : Src) : Statement (.fmin a0 a1 a2 a3) := fun _ _ h k => by cases h <;> cases k <;> rfl
theorem fmax (a0 : Guard) (a1 : Dst) (a2 : Src) (a3 : Src) : Statement (.fmax a0 a1 a2 a3) := fun _ _ h k => by cases h <;> cases k <;> rfl
theorem fcmp (a0 : Guard) (a1 : PDst) (a2 : Src) (a3 : Src) (a4 : FCond) : Statement (.fcmp a0 a1 a2 a3 a4) := fun _ _ h k => by cases h <;> cases k <;> rfl
theorem fclass (a0 : Guard) (a1 : PDst) (a2 : Src) (a3 : Src) (a4 : Bool) : Statement (.fclass a0 a1 a2 a3 a4) := fun _ _ h k => by cases h <;> cases k <;> rfl
theorem frcp (a0 : Guard) (a1 : Dst) (a2 : Src) (a3 : Bool) (a4 : Rm) : Statement (.frcp a0 a1 a2 a3 a4) := fun _ _ h k => by cases h <;> cases k <;> rfl
theorem frsq (a0 : Guard) (a1 : Dst) (a2 : Src) : Statement (.frsq a0 a1 a2) := fun _ _ h k => by cases h <;> cases k <;> rfl
theorem fsqrt (a0 : Guard) (a1 : Dst) (a2 : Src) (a3 : Rm) : Statement (.fsqrt a0 a1 a2 a3) := fun _ _ h k => by cases h <;> cases k <;> rfl
theorem fsinpi (a0 : Guard) (a1 : Dst) (a2 : Src) : Statement (.fsinpi a0 a1 a2) := fun _ _ h k => by cases h <;> cases k <;> rfl
theorem fcospi (a0 : Guard) (a1 : Dst) (a2 : Src) : Statement (.fcospi a0 a1 a2) := fun _ _ h k => by cases h <;> cases k <;> rfl
theorem fexp2 (a0 : Guard) (a1 : Dst) (a2 : Src) : Statement (.fexp2 a0 a1 a2) := fun _ _ h k => by cases h <;> cases k <;> rfl
theorem flog2 (a0 : Guard) (a1 : Dst) (a2 : Src) : Statement (.flog2 a0 a1 a2) := fun _ _ h k => by cases h <;> cases k <;> rfl
theorem ftanh (a0 : Guard) (a1 : Dst) (a2 : Src) : Statement (.ftanh a0 a1 a2) := fun _ _ h k => by cases h <;> cases k <;> rfl
theorem frnd (a0 : Guard) (a1 : Dst) (a2 : Src) (a3 : Rm) : Statement (.frnd a0 a1 a2 a3) := fun _ _ h k => by cases h <;> cases k <;> rfl
theorem dadd (a0 : Guard) (a1 : Dst) (a2 : Src) (a3 : Src) (a4 : Bool) (a5 : Bool) (a6 : Rm) : Statement (.dadd a0 a1 a2 a3 a4 a5 a6) := fun _ _ h k => by cases h <;> cases k <;> rfl
theorem dmul (a0 : Guard) (a1 : Dst) (a2 : Src) (a3 : Src) (a4 : Bool) (a5 : Rm) : Statement (.dmul a0 a1 a2 a3 a4 a5) := fun _ _ h k => by cases h <;> cases k <;> rfl
theorem dfma (a0 : Guard) (a1 : Dst) (a2 : Src) (a3 : Src) (a4 : Src) (a5 : Bool) (a6 : Rm) : Statement (.dfma a0 a1 a2 a3 a4 a5 a6) := fun _ _ h k => by cases h <;> cases k <;> rfl
theorem dmin (a0 : Guard) (a1 : Dst) (a2 : Src) (a3 : Src) : Statement (.dmin a0 a1 a2 a3) := fun _ _ h k => by cases h <;> cases k <;> rfl
theorem dmax (a0 : Guard) (a1 : Dst) (a2 : Src) (a3 : Src) : Statement (.dmax a0 a1 a2 a3) := fun _ _ h k => by cases h <;> cases k <;> rfl
theorem dcmp (a0 : Guard) (a1 : PDst) (a2 : Src) (a3 : Src) (a4 : FCond) : Statement (.dcmp a0 a1 a2 a3 a4) := fun _ _ h k => by cases h <;> cases k <;> rfl
theorem drcp (a0 : Guard) (a1 : Dst) (a2 : Src) (a3 : Bool) (a4 : Rm) : Statement (.drcp a0 a1 a2 a3 a4) := fun _ _ h k => by cases h <;> cases k <;> rfl
theorem dsqrt (a0 : Guard) (a1 : Dst) (a2 : Src) (a3 : Rm) : Statement (.dsqrt a0 a1 a2 a3) := fun _ _ h k => by cases h <;> cases k <;> rfl
theorem hadd2 (a0 : Guard) (a1 : Dst) (a2 : Src) (a3 : Src) (a4 : Bool) (a5 : Bool) (a6 : Rm) : Statement (.hadd2 a0 a1 a2 a3 a4 a5 a6) := fun _ _ h k => by cases h <;> cases k <;> rfl
theorem hmul2 (a0 : Guard) (a1 : Dst) (a2 : Src) (a3 : Src) (a4 : Bool) (a5 : Bool) (a6 : Rm) : Statement (.hmul2 a0 a1 a2 a3 a4 a5 a6) := fun _ _ h k => by cases h <;> cases k <;> rfl
theorem hfma2 (a0 : Guard) (a1 : Dst) (a2 : Src) (a3 : Src) (a4 : Src) (a5 : Bool) (a6 : Bool) (a7 : Rm) : Statement (.hfma2 a0 a1 a2 a3 a4 a5 a6 a7) := fun _ _ h k => by cases h <;> cases k <;> rfl
theorem hmax2 (a0 : Guard) (a1 : Dst) (a2 : Src) (a3 : Src) (a4 : Bool) : Statement (.hmax2 a0 a1 a2 a3 a4) := fun _ _ h k => by cases h <;> cases k <;> rfl
theorem hmin2 (a0 : Guard) (a1 : Dst) (a2 : Src) (a3 : Src) (a4 : Bool) : Statement (.hmin2 a0 a1 a2 a3 a4) := fun _ _ h k => by cases h <;> cases k <;> rfl
theorem hcmp2 (a0 : Guard) (a1 : Nat) (a2 : Src) (a3 : Src) (a4 : Bool) (a5 : FCond) : Statement (.hcmp2 a0 a1 a2 a3 a4 a5) := fun _ _ h k => by cases h <;> cases k <;> rfl
theorem cvtf (a0 : Guard) (a1 : Dst) (a2 : Src) (a3 : Option Nat) (a4 : CvtFSrc) (a5 : Bool) (a6 : Rm) : Statement (.cvtf a0 a1 a2 a3 a4 a5 a6) := fun _ _ h k => by cases h <;> cases k <;> rfl
theorem cvti (a0 : Guard) (a1 : Dst) (a2 : Src) (a3 : Option Nat) (a4 : CvtIDst) (a5 : Bool) (a6 : Bool) (a7 : Rm) : Statement (.cvti a0 a1 a2 a3 a4 a5 a6 a7) := fun _ _ h k => by cases h <;> cases k <;> rfl
theorem cvtd (a0 : Guard) (a1 : Dst) (a2 : Src) (a3 : CvtDSrc) (a4 : Rm) : Statement (.cvtd a0 a1 a2 a3 a4) := fun _ _ h k => by cases h <;> cases k <;> rfl
theorem pk16 (a0 : Guard) (a1 : Dst) (a2 : Src) (a3 : Src) (a4 : Option Nat) (a5 : Bool) (a6 : Bool) (a7 : Rm) : Statement (.pk16 a0 a1 a2 a3 a4 a5 a6 a7) := fun _ _ h k => by cases h <;> cases k <;> rfl
theorem unpk16 (a0 : Guard) (a1 : Dst) (a2 : Src) (a3 : UnpkSel) (a4 : Bool) : Statement (.unpk16 a0 a1 a2 a3 a4) := fun _ _ h k => by cases h <;> cases k <;> rfl
theorem cvt8 (a0 : Guard) (a1 : Dst) (a2 : Src) (a3 : Src) (a4 : Option Nat) (a5 : F8To) (a6 : Bool) (a7 : Bool) (a8 : Rm) : Statement (.cvt8 a0 a1 a2 a3 a4 a5 a6 a7 a8) := fun _ _ h k => by cases h <;> cases k <;> rfl
theorem unpk8 (a0 : Guard) (a1 : Dst) (a2 : Src) (a3 : UnpkSel) (a4 : F8From) : Statement (.unpk8 a0 a1 a2 a3 a4) := fun _ _ h k => by cases h <;> cases k <;> rfl
theorem cvt4 (a0 : Guard) (a1 : Dst) (a2 : Src) (a3 : Src) (a4 : Option Nat) (a5 : Bool) (a6 : Bool) (a7 : Rm) : Statement (.cvt4 a0 a1 a2 a3 a4 a5 a6 a7) := fun _ _ h k => by cases h <;> cases k <;> rfl
theorem unpk4 (a0 : Guard) (a1 : Dst) (a2 : Src) (a3 : UnpkSel) : Statement (.unpk4 a0 a1 a2 a3) := fun _ _ h k => by cases h <;> cases k <;> rfl
theorem mxsc (a0 : Guard) (a1 : Nat) (a2 : Nat) (a3 : Nat) (a4 : Option Nat) (a5 : MxFmt) (a6 : Bool) (a7 : Bool) (a8 : Rm) : Statement (.mxsc a0 a1 a2 a3 a4 a5 a6 a7 a8) := fun _ _ h k => by cases h <;> cases k <;> rfl
theorem rnd (a0 : Guard) (a1 : Dst) : Statement (.rnd a0 a1) := fun _ _ h k => by cases h <;> cases k <;> rfl
theorem rseed (a0 : Guard) (a1 : Src) : Statement (.rseed a0 a1) := fun _ _ h k => by cases h <;> cases k <;> rfl
theorem satq (a0 : Guard) (a1 : Dst) (a2 : Bool) (a3 : Nat) : Statement (.satq a0 a1 a2 a3) := fun _ _ h k => by cases h <;> cases k <;> rfl
theorem fdot2 (a0 : Guard) (a1 : Dst) (a2 : Src) (a3 : Src) (a4 : Src) (a5 : Bool) (a6 : Bool) (a7 : Rm) : Statement (.fdot2 a0 a1 a2 a3 a4 a5 a6 a7) := fun _ _ h k => by cases h <;> cases k <;> rfl
theorem shfl (a0 : Guard) (a1 : Dst) (a2 : Src) (a3 : Src) (a4 : Bool) (a5 : Nat) (a6 : ShflMode) : Statement (.shfl a0 a1 a2 a3 a4 a5 a6) := fun _ _ h k => by cases h <;> cases k <;> rfl
theorem bfly (a0 : Guard) (a1 : Nat) (a2 : Nat) (a3 : Src) : Statement (.bfly a0 a1 a2 a3) := fun _ _ h k => by cases h <;> cases k <;> rfl
theorem bcast (a0 : Guard) (a1 : Dst) (a2 : Src) (a3 : Src) (a4 : Bool) : Statement (.bcast a0 a1 a2 a3 a4) := fun _ _ h k => by cases h <;> cases k <;> rfl
theorem vote (a0 : Guard) (a1 : PDst) (a2 : Nat) (a3 : VoteMode) : Statement (.vote a0 a1 a2 a3) := fun _ _ h k => by cases h <;> cases k <;> rfl
theorem ballot (a0 : Guard) (a1 : Dst) (a2 : Nat) (a3 : Bool) : Statement (.ballot a0 a1 a2 a3) := fun _ _ h k => by cases h <;> cases k <;> rfl
theorem redux (a0 : Guard) (a1 : Dst) (a2 : Src) (a3 : ReduxOp) : Statement (.redux a0 a1 a2 a3) := fun _ _ h k => by cases h <;> cases k <;> rfl
theorem fredux (a0 : Guard) (a1 : Dst) (a2 : Src) (a3 : FReduxOp) : Statement (.fredux a0 a1 a2 a3) := fun _ _ h k => by cases h <;> cases k <;> rfl
theorem scan (a0 : Guard) (a1 : Dst) (a2 : Src) (a3 : Bool) (a4 : Bool) : Statement (.scan a0 a1 a2 a3 a4) := fun _ _ h k => by cases h <;> cases k <;> rfl
theorem matchv (a0 : Guard) (a1 : Dst) (a2 : Src) (a3 : Bool) (a4 : Bool) : Statement (.matchv a0 a1 a2 a3 a4) := fun _ _ h k => by cases h <;> cases k <;> rfl
theorem pand (a0 : Guard) (a1 : PDst) (a2 : Nat) (a3 : Nat) (a4 : Bool) (a5 : Bool) : Statement (.pand a0 a1 a2 a3 a4 a5) := fun _ _ h k => by cases h <;> cases k <;> rfl
theorem por (a0 : Guard) (a1 : PDst) (a2 : Nat) (a3 : Nat) (a4 : Bool) (a5 : Bool) : Statement (.por a0 a1 a2 a3 a4 a5) := fun _ _ h k => by cases h <;> cases k <;> rfl
theorem pxor (a0 : Guard) (a1 : PDst) (a2 : Nat) (a3 : Nat) (a4 : Bool) (a5 : Bool) : Statement (.pxor a0 a1 a2 a3 a4 a5) := fun _ _ h k => by cases h <;> cases k <;> rfl
theorem pnot (a0 : Guard) (a1 : PDst) (a2 : Nat) : Statement (.pnot a0 a1 a2) := fun _ _ h k => by cases h <;> cases k <;> rfl
theorem pmov (a0 : Guard) (a1 : PDst) (a2 : Nat) : Statement (.pmov a0 a1 a2) := fun _ _ h k => by cases h <;> cases k <;> rfl
theorem pmovGet (a0 : Guard) (a1 : Dst) (a2 : Nat) : Statement (.pmovGet a0 a1 a2) := fun _ _ h k => by cases h <;> cases k <;> rfl
theorem pmovSet (a0 : Guard) (a1 : Nat) (a2 : Src) : Statement (.pmovSet a0 a1 a2) := fun _ _ h k => by cases h <;> cases k <;> rfl
theorem pcnt (a0 : Guard) (a1 : Dst) (a2 : Nat) : Statement (.pcnt a0 a1 a2) := fun _ _ h k => by cases h <;> cases k <;> rfl
theorem elect (a0 : Guard) (a1 : PDst) : Statement (.elect a0 a1) := fun _ _ h k => by cases h <;> cases k <;> rfl
theorem bra (a0 : Guard) (a1 : Src) (a2 : Src) (a3 : BraCond) : Statement (.bra a0 a1 a2 a3) := fun _ _ h k => by cases h <;> cases k <;> rfl
theorem brx (a0 : Guard) (a1 : Src) (a2 : Src) : Statement (.brx a0 a1 a2) := fun _ _ h k => by cases h <;> cases k <;> rfl
theorem call (a0 : Guard) (a1 : Nat) (a2 : Src) (a3 : Bool) : Statement (.call a0 a1 a2 a3) := fun _ _ h k => by cases h <;> cases k <;> rfl
theorem ret (a0 : Guard) (a1 : Src) : Statement (.ret a0 a1) := fun _ _ h k => by cases h <;> cases k <;> rfl
theorem enrol (a0 : Nat) : Statement (.enrol a0) := fun _ _ h k => by cases h <;> cases k <;> rfl
theorem rejoin (a0 : Nat) : Statement (.rejoin a0) := fun _ _ h k => by cases h <;> cases k <;> rfl
theorem exit (a0 : Guard) : Statement (.exit a0) := fun _ _ h k => by cases h <;> cases k <;> rfl
theorem yield (a0 : Guard) : Statement (.yield a0) := fun _ _ h k => by cases h <;> cases k <;> rfl
theorem trap (a0 : Guard) (a1 : Nat) : Statement (.trap a0 a1) := fun _ _ h k => by cases h <;> cases k <;> rfl
theorem brk (a0 : Guard) (a1 : Nat) : Statement (.brk a0 a1) := fun _ _ h k => by cases h <;> cases k <;> rfl
theorem rte (a0 : Guard) : Statement (.rte a0) := fun _ _ h k => by cases h <;> cases k <;> rfl
theorem rteRetry (a0 : Guard) : Statement (.rteRetry a0) := fun _ _ h k => by cases h <;> cases k <;> rfl
theorem signal (a0 : Guard) (a1 : Src) (a2 : Src) : Statement (.signal a0 a1 a2) := fun _ _ h k => by cases h <;> cases k <;> rfl
theorem signalMbox (a0 : Guard) (a1 : Src) (a2 : Src) : Statement (.signalMbox a0 a1 a2) := fun _ _ h k => by cases h <;> cases k <;> rfl
theorem rswitch (a0 : Guard) (a1 : Nat) (a2 : Src) : Statement (.rswitch a0 a1 a2) := fun _ _ h k => by cases h <;> cases k <;> rfl
theorem reggrow (a0 : Guard) (a1 : Nat) (a2 : Src) : Statement (.reggrow a0 a1 a2) := fun _ _ h k => by cases h <;> cases k <;> rfl
theorem regshrink (a0 : Guard) (a1 : Src) : Statement (.regshrink a0 a1) := fun _ _ h k => by cases h <;> cases k <;> rfl
theorem growGrant (a0 : Nat) : Statement (.growGrant a0) := fun _ _ h k => by cases h <;> cases k <;> rfl
theorem sleep (a0 : Guard) (a1 : Src) : Statement (.sleep a0 a1) := fun _ _ h k => by cases h <;> cases k <;> rfl
theorem sleepExpire (a0 : Agent) : Statement (.sleepExpire a0) := fun _ _ h k => by cases h <;> cases k <;> rfl
theorem barinit (a0 : Guard) (a1 : Nat) (a2 : Src) : Statement (.barinit a0 a1 a2) := fun _ _ h k => by cases h <;> cases k <;> rfl
theorem bararr (a0 : Guard) (a1 : Nat) (a2 : Src) : Statement (.bararr a0 a1 a2) := fun _ _ h k => by cases h <;> cases k <;> rfl
theorem barwait (a0 : Guard) (a1 : Option Nat) (a2 : Nat) (a3 : Src) : Statement (.barwait a0 a1 a2 a3) := fun _ _ h k => by cases h <;> cases k <;> rfl
theorem barinval (a0 : Guard) (a1 : Nat) : Statement (.barinval a0 a1) := fun _ _ h k => by cases h <;> cases k <;> rfl
theorem barrarr (a0 : Guard) (a1 : Src) (a2 : Src) : Statement (.barrarr a0 a1 a2) := fun _ _ h k => by cases h <;> cases k <;> rfl
theorem remoteArrival (a0 : Nat) : Statement (.remoteArrival a0) := fun _ _ h k => by cases h <;> cases k <;> rfl
theorem barq (a0 : Guard) (a1 : Dst) (a2 : Nat) (a3 : BarqSel) : Statement (.barq a0 a1 a2 a3) := fun _ _ h k => by cases h <;> cases k <;> rfl
theorem hbarInit (a0 : Guard) (a1 : Src) (a2 : Src) (a3 : HScope) : Statement (.hbarInit a0 a1 a2 a3) := fun _ _ h k => by cases h <;> cases k <;> rfl
theorem hbarArr (a0 : Guard) (a1 : Src) (a2 : HScope) : Statement (.hbarArr a0 a1 a2) := fun _ _ h k => by cases h <;> cases k <;> rfl
theorem hbarWait (a0 : Guard) (a1 : Option Nat) (a2 : Src) (a3 : Src) (a4 : HScope) : Statement (.hbarWait a0 a1 a2 a3 a4) := fun _ _ h k => by cases h <;> cases k <;> rfl
theorem hbarQ (a0 : Guard) (a1 : Nat) (a2 : Src) (a3 : Bool) (a4 : HScope) : Statement (.hbarQ a0 a1 a2 a3 a4) := fun _ _ h k => by cases h <;> cases k <;> rfl
theorem hbarMessage (a0 : Nat) : Statement (.hbarMessage a0) := fun _ _ h k => by cases h <;> cases k <;> rfl
theorem hbarReply (a0 : Nat) : Statement (.hbarReply a0) := fun _ _ h k => by cases h <;> cases k <;> rfl
theorem ld (a0 : Guard) (a1 : Dst) (a2 : Src) (a3 : Src) (a4 : Bool) (a5 : MemSize) : Statement (.ld a0 a1 a2 a3 a4 a5) := fun _ _ h k => by cases h <;> cases k <;> rfl
theorem st (a0 : Guard) (a1 : Src) (a2 : Src) (a3 : Src) (a4 : MemSize) : Statement (.st a0 a1 a2 a3 a4) := fun _ _ h k => by cases h <;> cases k <;> rfl
theorem ldt (a0 : Guard) (a1 : Nat) (a2 : Src) (a3 : Nat) (a4 : Bool) : Statement (.ldt a0 a1 a2 a3 a4) := fun _ _ h k => by cases h <;> cases k <;> rfl
theorem stt (a0 : Guard) (a1 : Src) (a2 : Nat) (a3 : Src) : Statement (.stt a0 a1 a2 a3) := fun _ _ h k => by cases h <;> cases k <;> rfl
theorem ldfr (a0 : Guard) (a1 : Nat) (a2 : Src) (a3 : Src) (a4 : Bool) (a5 : FragEl) : Statement (.ldfr a0 a1 a2 a3 a4 a5) := fun _ _ h k => by cases h <;> cases k <;> rfl
theorem stfr (a0 : Guard) (a1 : Src) (a2 : Src) (a3 : Nat) (a4 : Bool) (a5 : FragEl) : Statement (.stfr a0 a1 a2 a3 a4 a5) := fun _ _ h k => by cases h <;> cases k <;> rfl
theorem atom (a0 : Guard) (a1 : Nat) (a2 : Src) (a3 : Src) (a4 : Scope) (a5 : Bool) (a6 : AtomOp) : Statement (.atom a0 a1 a2 a3 a4 a5 a6) := fun _ _ h k => by cases h <;> cases k <;> rfl
theorem cas (a0 : Guard) (a1 : Nat) (a2 : Src) (a3 : Src) (a4 : Src) (a5 : Scope) (a6 : Bool) : Statement (.cas a0 a1 a2 a3 a4 a5 a6) := fun _ _ h k => by cases h <;> cases k <;> rfl
theorem ratom (a0 : Guard) (a1 : Nat) (a2 : Src) (a3 : Src) (a4 : Bool) (a5 : AtomOp) : Statement (.ratom a0 a1 a2 a3 a4 a5) := fun _ _ h k => by cases h <;> cases k <;> rfl
theorem fence (a0 : Guard) (a1 : Scope) : Statement (.fence a0 a1) := fun _ _ h k => by cases h <;> cases k <;> rfl
theorem fenceTc (a0 : Guard) : Statement (.fenceTc a0) := fun _ _ h k => by cases h <;> cases k <;> rfl
theorem publish (a0 : Guard) (a1 : Src) : Statement (.publish a0 a1) := fun _ _ h k => by cases h <;> cases k <;> rfl
theorem mon (a0 : Guard) (a1 : Src) : Statement (.mon a0 a1) := fun _ _ h k => by cases h <;> cases k <;> rfl
theorem mwait (a0 : Guard) (a1 : Option Nat) (a2 : Src) : Statement (.mwait a0 a1 a2) := fun _ _ h k => by cases h <;> cases k <;> rfl
theorem mwaitTimeout (a0 : Agent) : Statement (.mwaitTimeout a0) := fun _ _ h k => by cases h <;> cases k <;> rfl
theorem tierpf (a0 : Guard) (a1 : Nat) (a2 : Src) (a3 : Src) (a4 : Src) : Statement (.tierpf a0 a1 a2 a3 a4) := fun _ _ h k => by cases h <;> cases k <;> rfl
theorem tierev (a0 : Guard) (a1 : Nat) (a2 : Src) (a3 : Src) (a4 : Src) : Statement (.tierev a0 a1 a2 a3 a4) := fun _ _ h k => by cases h <;> cases k <;> rfl
theorem lastuse (a0 : Guard) (a1 : Src) (a2 : Src) : Statement (.lastuse a0 a1 a2) := fun _ _ h k => by cases h <;> cases k <;> rfl
theorem lastuseArm (a0 : Nat) : Statement (.lastuseArm a0) := fun _ _ h k => by cases h <;> cases k <;> rfl
theorem mma (a0 : Nat) (a1 : Src) (a2 : Src) (a3 : Src) (a4 : Bool) : Statement (.mma a0 a1 a2 a3 a4) := fun _ _ h k => by cases h <;> cases k <;> rfl
theorem mmaEnd (a0 : Nat) : Statement (.mmaEnd a0) := fun _ _ h k => by cases h <;> cases k <;> rfl
theorem residueMismatchMma (a0 : Nat) : Statement (.residueMismatchMma a0) := fun _ _ h k => by cases h <;> cases k <;> rfl
theorem accdrain (a0 : Nat) (a1 : Src) (a2 : Src) : Statement (.accdrain a0 a1 a2) := fun _ _ h k => by cases h <;> cases k <;> rfl
theorem accst (a0 : Nat) (a1 : Src) (a2 : Src) : Statement (.accst a0 a1 a2) := fun _ _ h k => by cases h <;> cases k <;> rfl
theorem acctx (a0 : Nat) (a1 : Src) : Statement (.acctx a0 a1) := fun _ _ h k => by cases h <;> cases k <;> rfl
theorem acctxLand (a0 : Nat) : Statement (.acctxLand a0) := fun _ _ h k => by cases h <;> cases k <;> rfl
theorem accwait (a0 : Nat) (a1 : Src) (a2 : Bool) : Statement (.accwait a0 a1 a2) := fun _ _ h k => by cases h <;> cases k <;> rfl
theorem accfree (a0 : Nat) (a1 : Src) : Statement (.accfree a0 a1) := fun _ _ h k => by cases h <;> cases k <;> rfl
theorem drainSettle (a0 : Nat) : Statement (.drainSettle a0) := fun _ _ h k => by cases h <;> cases k <;> rfl
theorem cbarArr (a0 : Nat) : Statement (.cbarArr a0) := fun _ _ h k => by cases h <;> cases k <;> rfl
theorem cbarWait (a0 : Option Nat) (a1 : Nat) (a2 : Src) : Statement (.cbarWait a0 a1 a2) := fun _ _ h k => by cases h <;> cases k <;> rfl
theorem cbarInit (a0 : Nat) (a1 : Src) : Statement (.cbarInit a0 a1) := fun _ _ h k => by cases h <;> cases k <;> rfl
theorem cbarInval (a0 : Nat) : Statement (.cbarInval a0) := fun _ _ h k => by cases h <;> cases k <;> rfl
theorem cbarQ (a0 : Nat) (a1 : Nat) (a2 : Bool) : Statement (.cbarQ a0 a1 a2) := fun _ _ h k => by cases h <;> cases k <;> rfl
theorem copy (a0 : Guard) (a1 : Nat) (a2 : Nat) (a3 : Nat) (a4 : Nat) : Statement (.copy a0 a1 a2 a3 a4) := fun _ _ h k => by cases h <;> cases k <;> rfl
theorem copymc (a0 : Guard) (a1 : Nat) (a2 : Nat) (a3 : Nat) (a4 : Nat) (a5 : Nat) : Statement (.copymc a0 a1 a2 a3 a4 a5) := fun _ _ h k => by cases h <;> cases k <;> rfl
theorem copyw (a0 : Guard) (a1 : Nat) (a2 : Nat) (a3 : Nat) (a4 : Nat) : Statement (.copyw a0 a1 a2 a3 a4) := fun _ _ h k => by cases h <;> cases k <;> rfl
theorem copyComplete (a0 : Nat) (a1 : Option Cause) : Statement (.copyComplete a0 a1) := fun _ _ h k => by cases h <;> cases k <;> rfl
theorem engineArrival (a0 : Nat) : Statement (.engineArrival a0) := fun _ _ h k => by cases h <;> cases k <;> rfl
theorem rangeRetire (a0 : Nat) : Statement (.rangeRetire a0) := fun _ _ h k => by cases h <;> cases k <;> rfl
theorem tierMoveDone (a0 : Nat) (a1 : Option Cause) : Statement (.tierMoveDone a0 a1) := fun _ _ h k => by cases h <;> cases k <;> rfl
theorem tready (a0 : Guard) (a1 : Nat) : Statement (.tready a0 a1) := fun _ _ h k => by cases h <;> cases k <;> rfl
theorem fork (a0 : Guard) (a1 : Nat) (a2 : Src) (a3 : Src) (a4 : Src) : Statement (.fork a0 a1 a2 a3 a4) := fun _ _ h k => by cases h <;> cases k <;> rfl
theorem siblingsPlaced (a0 : Nat) (a1 : Nat) (a2 : List Place) : Statement (.siblingsPlaced a0 a1 a2) := fun _ _ h k => by cases h <;> cases k <;> rfl
theorem forkwaitExpire (a0 : Nat) (a1 : Nat) : Statement (.forkwaitExpire a0 a1) := fun _ _ h k => by cases h <;> cases k <;> rfl
theorem reward (a0 : Guard) (a1 : Src) (a2 : Src) : Statement (.reward a0 a1 a2) := fun _ _ h k => by cases h <;> cases k <;> rfl
theorem slack (a0 : Guard) (a1 : Nat) (a2 : Src) (a3 : Nat) : Statement (.slack a0 a1 a2 a3) := fun _ _ h k => by cases h <;> cases k <;> rfl
theorem sgcancel (a0 : Guard) (a1 : Src) (a2 : Src) : Statement (.sgcancel a0 a1 a2) := fun _ _ h k => by cases h <;> cases k <;> rfl
theorem sgq (a0 : Guard) (a1 : Nat) (a2 : Src) (a3 : Src) : Statement (.sgq a0 a1 a2 a3) := fun _ _ h k => by cases h <;> cases k <;> rfl
theorem sgTimeout (a0 : Nat) (a1 : Nat) : Statement (.sgTimeout a0 a1) := fun _ _ h k => by cases h <;> cases k <;> rfl
theorem sgResult (a0 : Nat) (a1 : Nat) : Statement (.sgResult a0 a1) := fun _ _ h k => by cases h <;> cases k <;> rfl
theorem sgDrained (a0 : Nat) (a1 : Nat) : Statement (.sgDrained a0 a1) := fun _ _ h k => by cases h <;> cases k <;> rfl
theorem tapepush (a0 : Guard) (a1 : Nat) (a2 : Src) (a3 : Src) (a4 : Bool) : Statement (.tapepush a0 a1 a2 a3 a4) := fun _ _ h k => by cases h <;> cases k <;> rfl
theorem launch (a0 : Guard) (a1 : Nat) (a2 : Src) (a3 : Src) : Statement (.launch a0 a1 a2 a3) := fun _ _ h k => by cases h <;> cases k <;> rfl
theorem rcomb (a0 : Guard) (a1 : Nat) (a2 : Nat) (a3 : Src) : Statement (.rcomb a0 a1 a2 a3) := fun _ _ h k => by cases h <;> cases k <;> rfl
theorem rcombRoundEnd (a0 : Nat) (a1 : Nat) : Statement (.rcombRoundEnd a0 a1) := fun _ _ h k => by cases h <;> cases k <;> rfl
theorem rcombTimeout (a0 : Nat) (a1 : Nat) : Statement (.rcombTimeout a0 a1) := fun _ _ h k => by cases h <;> cases k <;> rfl
theorem sysrd (a0 : Guard) (a1 : Dst) (a2 : Nat) : Statement (.sysrd a0 a1 a2) := fun _ _ h k => by cases h <;> cases k <;> rfl
theorem syswr (a0 : Guard) (a1 : Src) (a2 : Nat) : Statement (.syswr a0 a1 a2) := fun _ _ h k => by cases h <;> cases k <;> rfl
theorem dbgmark (a0 : Guard) (a1 : Src) : Statement (.dbgmark a0 a1) := fun _ _ h k => by cases h <;> cases k <;> rfl
theorem perfc (a0 : Guard) (a1 : Dst) (a2 : Nat) : Statement (.perfc a0 a1 a2) := fun _ _ h k => by cases h <;> cases k <;> rfl
theorem icinv (a0 : Guard) (a1 : Src) (a2 : Src) : Statement (.icinv a0 a1 a2) := fun _ _ h k => by cases h <;> cases k <;> rfl
theorem icinvInvalidate (a0 : Nat) : Statement (.icinvInvalidate a0) := fun _ _ h k => by cases h <;> cases k <;> rfl
theorem ckptmark (a0 : Guard) (a1 : Src) (a2 : Src) (a3 : Src) : Statement (.ckptmark a0 a1 a2 a3) := fun _ _ h k => by cases h <;> cases k <;> rfl
theorem checkpointCopyDone (a0 : Nat) (a1 : Nat) : Statement (.checkpointCopyDone a0 a1) := fun _ _ h k => by cases h <;> cases k <;> rfl
theorem checkpointCopyFail (a0 : Nat) (a1 : Nat) (a2 : Cause) : Statement (.checkpointCopyFail a0 a1 a2) := fun _ _ h k => by cases h <;> cases k <;> rfl
theorem clauseFetch (a0 : Agent) : Statement (.clauseFetch a0) := fun _ _ h k => by cases h <;> cases k <;> rfl
theorem swashYield (a0 : Nat) (a1 : Nat) : Statement (.swashYield a0 a1) := fun _ _ h k => by cases h <;> cases k <;> rfl
theorem trapEntry (a0 : Agent) : Statement (.trapEntry a0) := fun _ _ h k => by cases h <;> cases k <;> rfl
theorem longLatencyResult (a0 : Nat) : Statement (.longLatencyResult a0) := fun _ _ h k => by cases h <;> cases k <;> rfl
theorem storePerform (a0 : Agent) : Statement (.storePerform a0) := fun _ _ h k => by cases h <;> cases k <;> rfl
theorem missFill (a0 : Nat) (a1 : List SoftError) : Statement (.missFill a0 a1) := fun _ _ h k => by cases h <;> cases k <;> rfl
theorem ptsTick (a0 : Nat) : Statement (.ptsTick a0) := fun _ _ h k => by cases h <;> cases k <;> rfl
theorem invalidation (a0 : Nat) (a1 : Nat) : Statement (.invalidation a0 a1) := fun _ _ h k => by cases h <;> cases k <;> rfl
theorem upgradeRequest (a0 : Nat) (a1 : Nat) : Statement (.upgradeRequest a0 a1) := fun _ _ h k => by cases h <;> cases k <;> rfl
theorem homeWrite (a0 : Nat) : Statement (.homeWrite a0) := fun _ _ h k => by cases h <;> cases k <;> rfl
theorem mirrorAck (a0 : Nat) : Statement (.mirrorAck a0) := fun _ _ h k => by cases h <;> cases k <;> rfl
theorem publishSwap (a0 : Nat) : Statement (.publishSwap a0) := fun _ _ h k => by cases h <;> cases k <;> rfl
theorem publishSwapRequest (a0 : Nat) (a1 : Nat) (a2 : Nat) (a3 : Nat) : Statement (.publishSwapRequest a0 a1 a2 a3) := fun _ _ h k => by cases h <;> cases k <;> rfl
theorem engineWriteAccept (a0 : Nat) (a1 : Nat) (a2 : Nat) (a3 : List Byte) : Statement (.engineWriteAccept a0 a1 a2 a3) := fun _ _ h k => by cases h <;> cases k <;> rfl
theorem ratomApply (a0 : Nat) : Statement (.ratomApply a0) := fun _ _ h k => by cases h <;> cases k <;> rfl
theorem ratomComplete (a0 : Nat) : Statement (.ratomComplete a0) := fun _ _ h k => by cases h <;> cases k <;> rfl
theorem replicaUpdate (a0 : Agent) : Statement (.replicaUpdate a0) := fun _ _ h k => by cases h <;> cases k <;> rfl
theorem replicaApply (a0 : Nat) (a1 : Nat) : Statement (.replicaApply a0 a1) := fun _ _ h k => by cases h <;> cases k <;> rfl
theorem hostCoreAccess (a0 : HostCore) (a1 : HostAccess) : Statement (.hostCoreAccess a0 a1) := fun _ _ h k => by cases h <;> cases k <;> rfl
theorem build (a0 : Nat) : Statement (.build a0) := fun _ _ h k => by cases h <;> cases k <;> rfl
theorem commit (a0 : Nat) : Statement (.commit a0) := fun _ _ h k => by cases h <;> cases k <;> rfl
theorem preempt (a0 : Nat) : Statement (.preempt a0) := fun _ _ h k => by cases h <;> cases k <;> rfl
theorem destroy (a0 : Nat) : Statement (.destroy a0) := fun _ _ h k => by cases h <;> cases k <;> rfl
theorem clear (a0 : Nat) : Statement (.clear a0) := fun _ _ h k => by cases h <;> cases k <;> rfl
theorem contextDispatch (a0 : Nat) : Statement (.contextDispatch a0) := fun _ _ h k => by cases h <;> cases k <;> rfl
theorem schedulerPreempt (a0 : Nat) : Statement (.schedulerPreempt a0) := fun _ _ h k => by cases h <;> cases k <;> rfl
theorem saveDone (a0 : Nat) (a1 : Option Cause) : Statement (.saveDone a0 a1) := fun _ _ h k => by cases h <;> cases k <;> rfl
theorem restoreDone (a0 : Nat) (a1 : Option Cause) : Statement (.restoreDone a0 a1) := fun _ _ h k => by cases h <;> cases k <;> rfl
theorem contextDrainDone (a0 : Nat) : Statement (.contextDrainDone a0) := fun _ _ h k => by cases h <;> cases k <;> rfl
theorem phaseWrite (a0 : Nat) (a1 : W64) : Statement (.phaseWrite a0 a1) := fun _ _ h k => by cases h <;> cases k <;> rfl
theorem budgetWrite (a0 : Nat) (a1 : W64) : Statement (.budgetWrite a0 a1) := fun _ _ h k => by cases h <;> cases k <;> rfl
theorem ctxstatWrite (a0 : Nat) (a1 : W64) : Statement (.ctxstatWrite a0 a1) := fun _ _ h k => by cases h <;> cases k <;> rfl
theorem ckptstatWrite (a0 : Nat) (a1 : W64) : Statement (.ckptstatWrite a0 a1) := fun _ _ h k => by cases h <;> cases k <;> rfl
theorem registerWrite (a0 : Nat) (a1 : W64) : Statement (.registerWrite a0 a1) := fun _ _ h k => by cases h <;> cases k <;> rfl
theorem enable (a0 : Nat) : Statement (.enable a0) := fun _ _ h k => by cases h <;> cases k <;> rfl
theorem disable (a0 : Nat) : Statement (.disable a0) := fun _ _ h k => by cases h <;> cases k <;> rfl
theorem resume (a0 : Nat) : Statement (.resume a0) := fun _ _ h k => by cases h <;> cases k <;> rfl
theorem skip (a0 : Nat) : Statement (.skip a0) := fun _ _ h k => by cases h <;> cases k <;> rfl
theorem tapeclr (a0 : Nat) : Statement (.tapeclr a0) := fun _ _ h k => by cases h <;> cases k <;> rfl
theorem qtailWrite (a0 : Nat) (a1 : W64) : Statement (.qtailWrite a0 a1) := fun _ _ h k => by cases h <;> cases k <;> rfl
theorem qcheadWrite (a0 : Nat) (a1 : W64) : Statement (.qcheadWrite a0 a1) := fun _ _ h k => by cases h <;> cases k <;> rfl
theorem qwakeWrite (a0 : Nat) (a1 : W64) : Statement (.qwakeWrite a0 a1) := fun _ _ h k => by cases h <;> cases k <;> rfl
theorem qstatWrite (a0 : Nat) (a1 : W64) : Statement (.qstatWrite a0 a1) := fun _ _ h k => by cases h <;> cases k <;> rfl
theorem holdRelease (a0 : Nat) : Statement (.holdRelease a0) := fun _ _ h k => by cases h <;> cases k <;> rfl
theorem launchRecord (a0 : Nat) : Statement (.launchRecord a0) := fun _ _ h k => by cases h <;> cases k <;> rfl
theorem reverse (a0 : Nat) : Statement (.reverse a0) := fun _ _ h k => by cases h <;> cases k <;> rfl
theorem reverseNextKernel (a0 : Nat) : Statement (.reverseNextKernel a0) := fun _ _ h k => by cases h <;> cases k <;> rfl
theorem mark (a0 : Nat) : Statement (.mark a0) := fun _ _ h k => by cases h <;> cases k <;> rfl
theorem wait (a0 : Nat) : Statement (.wait a0) := fun _ _ h k => by cases h <;> cases k <;> rfl
theorem waitTimeout (a0 : Nat) : Statement (.waitTimeout a0) := fun _ _ h k => by cases h <;> cases k <;> rfl
theorem signalRecord (a0 : Nat) : Statement (.signalRecord a0) := fun _ _ h k => by cases h <;> cases k <;> rfl
theorem phaseRecord (a0 : Nat) : Statement (.phaseRecord a0) := fun _ _ h k => by cases h <;> cases k <;> rfl
theorem nopRecord (a0 : Nat) : Statement (.nopRecord a0) := fun _ _ h k => by cases h <;> cases k <;> rfl
theorem kernelAdmit (a0 : Nat) : Statement (.kernelAdmit a0) := fun _ _ h k => by cases h <;> cases k <;> rfl
theorem kernelLeased (a0 : Nat) : Statement (.kernelLeased a0) := fun _ _ h k => by cases h <;> cases k <;> rfl
theorem workgroupPlaced (a0 : Nat) (a1 : Place) : Statement (.workgroupPlaced a0 a1) := fun _ _ h k => by cases h <;> cases k <;> rfl
theorem groupLoaded (a0 : Nat) : Statement (.groupLoaded a0) := fun _ _ h k => by cases h <;> cases k <;> rfl
theorem kernelQuiet (a0 : Nat) : Statement (.kernelQuiet a0) := fun _ _ h k => by cases h <;> cases k <;> rfl
theorem leaseRenewal (a0 : Nat) : Statement (.leaseRenewal a0) := fun _ _ h k => by cases h <;> cases k <;> rfl
theorem unmap (a0 : Nat) (a1 : Nat) : Statement (.unmap a0 a1) := fun _ _ h k => by cases h <;> cases k <;> rfl
theorem protect (a0 : Nat) (a1 : Nat) : Statement (.protect a0 a1) := fun _ _ h k => by cases h <;> cases k <;> rfl
theorem zero (a0 : Nat) (a1 : Nat) : Statement (.zero a0 a1) := fun _ _ h k => by cases h <;> cases k <;> rfl
theorem translationLeaseExpire (a0 : Nat) (a1 : Nat) : Statement (.translationLeaseExpire a0 a1) := fun _ _ h k => by cases h <;> cases k <;> rfl
theorem resolved (a0 : Nat) (a1 : Nat) : Statement (.resolved a0 a1) := fun _ _ h k => by cases h <;> cases k <;> rfl
theorem refused (a0 : Nat) (a1 : Nat) : Statement (.refused a0 a1) := fun _ _ h k => by cases h <;> cases k <;> rfl
theorem xfheadWrite (a0 : Nat) (a1 : W64) : Statement (.xfheadWrite a0 a1) := fun _ _ h k => by cases h <;> cases k <;> rfl
theorem pageMoveDone (a0 : Nat) (a1 : Nat) (a2 : Nat) : Statement (.pageMoveDone a0 a1 a2) := fun _ _ h k => by cases h <;> cases k <;> rfl
theorem off (a0 : Nat) : Statement (.off a0) := fun _ _ h k => by cases h <;> cases k <;> rfl
theorem on (a0 : Nat) : Statement (.on a0) := fun _ _ h k => by cases h <;> cases k <;> rfl
theorem tidecmdWrite (a0 : W64) : Statement (.tidecmdWrite a0) := fun _ _ h k => by cases h <;> cases k <;> rfl
theorem idleTimeout (a0 : Nat) : Statement (.idleTimeout a0) := fun _ _ h k => by cases h <;> cases k <;> rfl
theorem retentionTimeout (a0 : Nat) : Statement (.retentionTimeout a0) := fun _ _ h k => by cases h <;> cases k <;> rfl
theorem segmentWakeDone (a0 : Nat) : Statement (.segmentWakeDone a0) := fun _ _ h k => by cases h <;> cases k <;> rfl
theorem rowSpareSwitch (a0 : Nat) : Statement (.rowSpareSwitch a0) := fun _ _ h k => by cases h <;> cases k <;> rfl
theorem retrain (a0 : Nat) : Statement (.retrain a0) := fun _ _ h k => by cases h <;> cases k <;> rfl
theorem linkDisable (a0 : Nat) : Statement (.linkDisable a0) := fun _ _ h k => by cases h <;> cases k <;> rfl
theorem linkEnable (a0 : Nat) : Statement (.linkEnable a0) := fun _ _ h k => by cases h <;> cases k <;> rfl
theorem trainingResult (a0 : Nat) (a1 : TrainResult) : Statement (.trainingResult a0 a1) := fun _ _ h k => by cases h <;> cases k <;> rfl
theorem trainingRetry (a0 : Nat) : Statement (.trainingRetry a0) := fun _ _ h k => by cases h <;> cases k <;> rfl
theorem laneFail (a0 : Nat) (a1 : Nat) : Statement (.laneFail a0 a1) := fun _ _ h k => by cases h <;> cases k <;> rfl
theorem silence (a0 : Nat) : Statement (.silence a0) := fun _ _ h k => by cases h <;> cases k <;> rfl
theorem flitReceive (a0 : Nat) (a1 : List Byte) : Statement (.flitReceive a0 a1) := fun _ _ h k => by cases h <;> cases k <;> rfl
theorem replayRequest (a0 : Nat) (a1 : Nat) : Statement (.replayRequest a0 a1) := fun _ _ h k => by cases h <;> cases k <;> rfl
theorem creditReturn (a0 : Nat) (a1 : Nat) (a2 : Nat) : Statement (.creditReturn a0 a1 a2) := fun _ _ h k => by cases h <;> cases k <;> rfl
theorem routeSwitch (a0 : Nat) (a1 : Nat) : Statement (.routeSwitch a0 a1) := fun _ _ h k => by cases h <;> cases k <;> rfl
theorem noRouteTimeout (a0 : Nat) : Statement (.noRouteTimeout a0) := fun _ _ h k => by cases h <;> cases k <;> rfl
theorem peerFailureReport (a0 : Nat) : Statement (.peerFailureReport a0) := fun _ _ h k => by cases h <;> cases k <;> rfl
theorem lossDeclaration (a0 : Nat) : Statement (.lossDeclaration a0) := fun _ _ h k => by cases h <;> cases k <;> rfl
theorem directoryRebuildDone (a0 : Nat) : Statement (.directoryRebuildDone a0) := fun _ _ h k => by cases h <;> cases k <;> rfl
theorem tileArm (a0 : Nat) (a1 : Nat) (a2 : W64) : Statement (.tileArm a0 a1 a2) := fun _ _ h k => by cases h <;> cases k <;> rfl
theorem tileDisarm (a0 : Nat) (a1 : Nat) (a2 : W64) : Statement (.tileDisarm a0 a1 a2) := fun _ _ h k => by cases h <;> cases k <;> rfl
theorem tileEntryWrite (a0 : Nat) (a1 : Nat) (a2 : Bool) (a3 : W64) : Statement (.tileEntryWrite a0 a1 a2 a3) := fun _ _ h k => by cases h <;> cases k <;> rfl
theorem collectiveContribution (a0 : Nat) (a1 : Nat) (a2 : Contribution) : Statement (.collectiveContribution a0 a1 a2) := fun _ _ h k => by cases h <;> cases k <;> rfl
theorem collectiveResult (a0 : Nat) (a1 : Nat) : Statement (.collectiveResult a0 a1) := fun _ _ h k => by cases h <;> cases k <;> rfl
theorem collectiveTimeout (a0 : Nat) (a1 : Nat) : Statement (.collectiveTimeout a0 a1) := fun _ _ h k => by cases h <;> cases k <;> rfl
theorem coolantOutOfEnvelope (a0 : Nat) (a1 : Nat) : Statement (.coolantOutOfEnvelope a0 a1) := fun _ _ h k => by cases h <;> cases k <;> rfl
theorem temperatureRise : Statement (.temperatureRise) := fun _ _ h k => by cases h <;> cases k <;> rfl
theorem clockChange (a0 : Nat) : Statement (.clockChange a0) := fun _ _ h k => by cases h <;> cases k <;> rfl
theorem budgetCurChange (a0 : Nat) (a1 : W16) : Statement (.budgetCurChange a0 a1) := fun _ _ h k => by cases h <;> cases k <;> rfl
theorem powerOn : Statement (.powerOn) := fun _ _ h k => by cases h <;> cases k <;> rfl
theorem resetInput : Statement (.resetInput) := fun _ _ h k => by cases h <;> cases k <;> rfl
theorem load : Statement (.load) := fun _ _ h k => by cases h <;> cases k <;> rfl
theorem reset (a0 : W64) : Statement (.reset a0) := fun _ _ h k => by cases h <;> cases k <;> rfl
theorem authCheckDone (a0 : Bool) (a1 : Nat) : Statement (.authCheckDone a0 a1) := fun _ _ h k => by cases h <;> cases k <;> rfl
theorem firmwareTrainingDone (a0 : TrainingOutcome) : Statement (.firmwareTrainingDone a0) := fun _ _ h k => by cases h <;> cases k <;> rfl
theorem mstatWrite (a0 : W64) : Statement (.mstatWrite a0) := fun _ _ h k => by cases h <;> cases k <;> rfl
theorem moheadWrite (a0 : W64) : Statement (.moheadWrite a0) := fun _ _ h k => by cases h <;> cases k <;> rfl
theorem zeroDone (a0 : Nat) (a1 : Nat) : Statement (.zeroDone a0 a1) := fun _ _ h k => by cases h <;> cases k <;> rfl
theorem replicaDiscard (a0 : Nat) (a1 : Nat) : Statement (.replicaDiscard a0 a1) := fun _ _ h k => by cases h <;> cases k <;> rfl
theorem conditionCleared : Statement (.conditionCleared) := fun _ _ h k => by cases h <;> cases k <;> rfl
theorem eviction (a0 : Nat) (a1 : Nat) : Statement (.eviction a0 a1) := fun _ _ h k => by cases h <;> cases k <;> rfl
theorem publishAck (a0 : Nat) : Statement (.publishAck a0) := fun _ _ h k => by cases h <;> cases k <;> rfl
theorem icinvAck (a0 : Nat) (a1 : Nat) : Statement (.icinvAck a0 a1) := fun _ _ h k => by cases h <;> cases k <;> rfl

end Sys2Proof.Laws.OneOpcode
end

