-- ==== Sys2Proof/Laws/Steps.lean ====
section
/-!
SUPPORT. What each shared operation can do: if it answers a next state, which.
-/
namespace Sys2Proof.Machine
set_option Elab.async false

/-! ### Words -/

/-- All that the issue of a word can do: the checks of its fields, its waits, its traps, or its body (R120, R126, R207, R323, R327). -/
theorem word_next {s t : State} {i : Instr} {body : Env → State → Out} (h : s.word i body = .next t) :
    ∃ ag f e, s.focus = some ag ∧ formOf? i = some f ∧ (s.landReady ag).env? ag f.gd f.readsClk = some e ∧
      (t = (s.landReady ag).tick ∨ (∃ c, (f.cause e.ctl e.cl e.lane0.cwi <|> (if badField i e then some .illegalEncoding else none)) = some c ∧
          t = (s.landReady ag).raisePath e c) ∨
       f.cause e.ctl e.cl e.lane0.cwi = none ∧ badField i e = false ∧
        (t = (s.landReady ag).tick ∨ t = (s.landReady ag).stallTick 5 ∨
         (e.act != 0 && (f.beyond e || badIndex i)) = true ∧ t = (s.landReady ag).raiseAct e .illegalEncoding ∨
         (f.writesG && e.act != 0 && !e.coversU) = true ∧ t = (s.landReady ag).finish e (e.divergent i) ∨
         body e (s.landReady ag) = .next t)) := by
  unfold State.word at h
  split at h
  · rename_i ag f hf hi
    refine ⟨ag, f, ?_⟩
    dsimp only at h
    split at h
    · cases h
    · rename_i e he
      refine ⟨e, hf, hi, he, ?_⟩
      split at h
      · cases h
        exact .inl rfl
      refine .inr ?_
      split at h
      · rename_i c hc
        cases h
        exact .inl ⟨c, hc, rfl⟩
      · rename_i hc
        have hb : f.cause e.ctl e.cl e.lane0.cwi = none ∧ badField i e = false := by
          cases hf : f.cause e.ctl e.cl e.lane0.cwi <;> cases hb : badField i e <;> simp_all
        refine .inr ⟨hb.1, hb.2, ?_⟩
        split at h
        · cases h
          exact .inl rfl
        · split at h
          · cases h
            exact .inr (.inl rfl)
          · split at h
            · cases h
              exact .inr (.inr (.inl ⟨‹_›, rfl⟩))
            · split at h
              · cases h
                exact .inr (.inr (.inr (.inl ⟨‹_›, rfl⟩)))
              · exact .inr (.inr (.inr (.inr h)))
  · cases h

/-- A lane-wise word whose body runs has the outcomes of its lanes. -/
theorem lanewise_next {s t : State} {i : Instr} {f : Env → Nat → LaneOut} (h : s.lanewise i f = .next t) :
    ∃ (e : Env) (u : State), t = u.tick ∨ t = u.stallTick 5 ∨ (∃ c, t = u.raisePath e c) ∨ t = u.raiseAct e .illegalEncoding ∨
      t = u.finish e (e.divergent i) ∨ t = u.finish e ((lanesOf e.act).map (f e)) := by
  obtain ⟨ag, g, e, -, -, -, h⟩ := word_next h
  refine ⟨e, s.landReady ag, ?_⟩
  rcases h with rfl | ⟨c, -, rfl⟩ | ⟨-, -, rfl | rfl | ⟨-, rfl⟩ | ⟨-, rfl⟩ | h⟩
  · exact .inl rfl
  · exact .inr (.inr (.inl ⟨c, rfl⟩))
  · exact .inl rfl
  · exact .inr (.inl rfl)
  · exact .inr (.inr (.inr (.inl rfl)))
  · exact .inr (.inr (.inr (.inr (.inl rfl))))
  · cases h
    exact .inr (.inr (.inr (.inr (.inr rfl))))

/-- A word that follows its agent's stores stalls, or does its work (R191). -/
theorem afterStores_next {s t : State} {e : Env} {k : State → Out} (h : s.afterStores e k = .next t) :
    t = (s.drain e.ag).tick ∨ k (s.drain e.ag) = .next t := by
  unfold State.afterStores at h
  dsimp only at h
  split at h
  · cases h
    exact .inl rfl
  · split at h
    · cases h
      exact .inl rfl
    · split at h
      · exact .inr h
      · cases h
        exact .inl rfl

/-- A strand-uniform word: no lane carries it out, it stalls, or its work is done once (R119, R160). -/
theorem strandWord_next {s t : State} {e : Env} {mb : BitVec 8 × List LaneOut} {work : State → State × List LaneOut}
    (h : s.strandWord e mb work = .next t) :
    mb.1 = 0 ∧ t = s.finish e mb.2 ∨
      mb.1 ≠ 0 ∧ (t = (s.drain e.ag).tick ∨ t = (work (s.drain e.ag)).1.finish e (mb.2 ++ (work (s.drain e.ag)).2)) := by
  unfold State.strandWord at h
  split at h
  · cases h
    exact .inl ⟨‹_›, rfl⟩
  · refine .inr ⟨‹_›, ?_⟩
    rcases afterStores_next h with rfl | h
    · exact .inl rfl
    · cases h
      exact .inr rfl

/-! ### Device steps -/

/-- A context command acts on one of 256 contexts, and is refused before Ready (R33, R508); on no other does it change anything. -/
theorem ctxCommand_next {s t : State} {cx : Nat} {f : State → State} (h : ctxCommand cx f s = .next t) :
    cx < 256 ∧ (s.isReady = true ∧ t = f s ∨ s.isReady = false ∧ t = s.modCtx cx Context.reject) ∨ 256 ≤ cx ∧ t = s := by
  unfold ctxCommand at h
  split at h
  · cases h
    cases hr : s.isReady
    · exact .inl ⟨‹_›, .inr ⟨rfl, by simp⟩⟩
    · exact .inl ⟨‹_›, .inl ⟨rfl, by simp⟩⟩
  · cases h
    exact .inr ⟨by omega, rfl⟩

/-- A write of a context register acts on one of 256 contexts. -/
theorem ctxStep_next {s t : State} {cx : Nat} {f : State → State} (h : ctxStep cx f s = .next t) :
    cx < 256 ∧ t = f s ∨ 256 ≤ cx ∧ t = s := by
  unfold ctxStep at h
  split at h <;> cases h
  · exact .inl ⟨‹_›, rfl⟩
  · exact .inr ⟨by omega, rfl⟩

/-- A translation command acts on one of 256 contexts. -/
theorem xStep_next {s t : State} {cx : Nat} {f : State → State} (h : xStep cx f s = .next t) : cx < 256 ∧ t = f s ∨ 256 ≤ cx ∧ t = s := by
  unfold xStep at h
  split at h <;> cases h
  · exact .inl ⟨‹_›, rfl⟩
  · exact .inr ⟨by omega, rfl⟩

/-- A queue step acts on one of 1024 queues. -/
theorem queueStep_next {s t : State} {q : Nat} {f : State → State} (h : queueStep q f s = .next t) :
    q < 1024 ∧ t = f s ∨ 1024 ≤ q ∧ t = s := by
  unfold queueStep at h
  split at h <;> cases h
  · exact .inl ⟨‹_›, rfl⟩
  · exact .inr ⟨by omega, rfl⟩

/-- A tile-table step acts on an entry that exists. -/
theorem tileStep_next {s t : State} {d i : Nat} {f : State → State} (h : tileStep d i f s = .next t) :
    (d < 8 ∧ i < 4096) ∧ t = f s ∨ ¬(d < 8 ∧ i < 4096) ∧ t = s := by
  unfold tileStep at h
  split at h <;> cases h
  · exact .inl ⟨‹_›, rfl⟩
  · exact .inr ⟨‹_›, rfl⟩

/-- A port step changes one of 12 ports, and only where its condition holds. -/
theorem portStep_next {s t : State} {port : Nat} {ok : Port → Bool} {f : Port → Port} (h : portStep port s ok f = .next t) :
    (port < 12 ∧ ok (s.fab.port port) = true) ∧ t = s.modPort port f ∨ ¬(port < 12 ∧ ok (s.fab.port port) = true) ∧ t = s := by
  unfold portStep at h
  split at h <;> cases h
  · exact .inl ⟨‹_›, rfl⟩
  · exact .inr ⟨‹_›, rfl⟩

/-- A record in Dispatching has its action where it is good and of the type; an unreadable or wrong one stalls the queue (R73, R84). A
step of another type, or of a queue in another state, changes nothing. -/
theorem dispatchRec_next {s t : State} {q typ : Nat} {act : List Byte → State} (h : s.dispatchRec q typ act = .next t) :
    t = s ∨ (s.queue q).st = .dispatching ∧
      ((s.queue q).disp = none ∧ t = s.takeError q .fault 0 ∨
       (∃ rec c, (s.queue q).disp = some rec ∧ recError rec = some c ∧ t = s.takeError q c (recType rec)) ∨
       ∃ rec, (s.queue q).disp = some rec ∧ recError rec = none ∧ recType rec = typ ∧ t = act rec) := by
  unfold State.dispatchRec at h
  split at h
  · rename_i hd
    split at h
    · cases h
      exact .inr ⟨by simpa using hd, .inl ⟨‹_›, rfl⟩⟩
    · rename_i rec hr
      split at h
      · cases h
        exact .inr ⟨by simpa using hd, .inr (.inl ⟨rec, _, hr, ‹_›, rfl⟩)⟩
      · split at h <;> cases h
        · exact .inr ⟨by simpa using hd, .inr (.inr ⟨rec, hr, ‹_›, ‹_›, rfl⟩)⟩
        · exact .inl rfl
  · cases h
    exact .inl rfl

/-- The scheduler chooses only when it may, and the record it has read is in Dispatching (R80, R84). -/
theorem choose_next {s t : State} {q : Nat} (h : s.choose q = .next t) :
    t = s ∨ s.takeDue = true ∧ s.chosen q false = true ∧
      t = (s.modQueue q fun x => { x with st := .dispatching, disp := match s.head q with | .record rec => some rec | _ => none }).requestAt
        2059 0 (s.queue q).cx ((s.queue q).slotAt (s.queue q).qhead.toNat) := by
  unfold State.choose at h
  split at h
  · rename_i hc
    cases h
    simp only [Bool.and_eq_true] at hc
    exact .inr ⟨hc.1, hc.2, rfl⟩
  · cases h
    exact .inl rfl

/-! ### Memory through the shared operations -/

theorem markDirty_mem (s : State) (a : Nat) : (s.markDirty a).mem = s.mem := by
  unfold State.markDirty
  split
  · show (if _ then s else _).mem = s.mem
    split <;> rfl
  · rfl

theorem setKeys_mem (s : State) (cx a n : Nat) : (s.setKeys cx a n).mem = s.mem := by
  unfold State.setKeys
  split <;> rfl

theorem raisePts_mem (s : State) (u : Nat) (t : W64) : (s.raisePts u t).mem = s.mem := rfl

/-- A fold of steps that each leave memory as it is does so. -/
theorem foldl_mem {α : Type} {f : State → α → State} (hf : ∀ s a, (f s a).mem = s.mem) (l : List α) (s : State) :
    (l.foldl f s).mem = s.mem := by
  induction l generalizing s with
  | nil => rfl
  | cons a t ih => exact (ih _).trans (hf s a)

/-- Monitors change nothing in memory. -/
theorem fireMonitors_mem (s : State) (a n : Nat) : (s.fireMonitors a n).mem = s.mem :=
  foldl_mem (fun s u => raisePts_mem s u _) (s.awaiting a n) s

/-- A write's logical time changes nothing in memory. -/
theorem homeWrites_mem (s : State) (a n : Nat) : (s.homeWrites a n).mem = s.mem := rfl

/-- Classification changes nothing in memory. -/
theorem classify_mem (s : State) (cx va u : Nat) (l : Leaf) : (s.classify cx va u l).mem = s.mem := by
  unfold State.classify
  dsimp only
  split
  · rfl
  · split <;> rfl

/-- Bytes that become the content of memory are the one thing that changes in it. -/
theorem poke_mem (s : State) (cx a : Nat) (bs : List Byte) : (s.poke cx a bs).mem = memWrite s.mem a bs := by
  unfold State.poke
  split
  · rename_i h
    rw [List.isEmpty_iff.mp h]
    rfl
  · rw [fireMonitors_mem, setKeys_mem, setMem_mem, markDirty_mem]

/-- Writing bytes keeps the canonical form. -/
theorem wf_poke {s : State} (h : Memory.wf s.mem = true) (cx a : Nat) (bs : List Byte) : Memory.wf (s.poke cx a bs).mem = true := by
  rw [poke_mem]
  exact wf_memWrite h a bs

/-- The device's write is the one thing that changes in memory. -/
theorem devPoke_mem (s : State) (cx a : Nat) (bs : List Byte) : (s.devPoke cx a bs).mem = memWrite s.mem a bs := by
  rw [State.devPoke, poke_mem, homeWrites_mem]

/-- A write of the device goes where its page lies, or is not made. -/
theorem devWrite_some {s t : State} {cx va : Nat} {bs : List Byte} (h : s.devWrite cx va bs = some t) :
    ∃ l, s.walk cx va = .ok l ∧ pteWr l.pte = true ∧
      t = (s.classify cx va devUnit l).devPoke cx (s.physBy cx va l.pte l.psize false) bs := by
  unfold State.devWrite at h
  split at h
  · split at h
    · exact ⟨_, ‹_›, ‹_›, (Option.some.inj h).symm⟩
    · cases h
  · cases h

/-- A write of the device keeps the canonical form. -/
theorem wf_devPut {s : State} (h : Memory.wf s.mem = true) (cx va : Nat) (bs : List Byte) : Memory.wf (s.devPut cx va bs).mem = true := by
  unfold State.devPut
  cases hw : s.devWrite cx va bs with
  | none => exact h
  | some t =>
    obtain ⟨l, -, -, rfl⟩ := devWrite_some hw
    show Memory.wf (State.devPoke _ _ _ _).mem = true
    rw [devPoke_mem, classify_mem]
    exact wf_memWrite h _ bs

/-- A fold of steps that each keep the canonical form keeps it. -/
theorem wf_foldl {α : Type} {f : State → α → State} (hf : ∀ s a, Memory.wf s.mem = true → Memory.wf (f s a).mem = true)
    (l : List α) {s : State} (h : Memory.wf s.mem = true) : Memory.wf (l.foldl f s).mem = true := by
  induction l generalizing s with
  | nil => exact h
  | cons a t ih => exact ih (hf s a h)

/-- What goes into the images of saved contexts keeps the canonical form. -/
theorem wf_imageSync {s : State} (old : State) (h : Memory.wf s.mem = true) : Memory.wf (s.imageSync old).mem = true := by
  refine wf_foldl (fun s a h => ?_) _ h
  dsimp only
  split
  · exact wf_foldl (fun s a h => wf_devPut h _ _ _) _ h
  · exact h

/-- Restoring a workgroup's runs keeps the canonical form. -/
theorem wf_restoreRuns {cx n : Nat} {sec : Nat → Nat → Nat → Nat} {w : Workgroup} (l : List Nat) {s t : State}
    (h : Memory.wf s.mem = true) (hr : s.restoreRuns cx sec w n l = .ok t) : Memory.wf t.mem = true := by
  induction l generalizing s with
  | nil => cases hr; exact h
  | cons r l ih =>
    simp only [State.restoreRuns] at hr
    split at hr
    · cases hr
    · exact ih (wf_memWrite h _ _) hr

/-- Memory changes in no bookkeeping of the device: segments, TLBs, pages, keys, times and misses. -/
theorem wakeSeg_mem (s : State) (g : Nat) : (s.wakeSeg g).mem = s.mem := by
  unfold State.wakeSeg
  repeat' split
  all_goals rfl

theorem wakeFor_mem (s : State) (cx a : Nat) : (s.wakeFor cx a).mem = s.mem := by
  unfold State.wakeFor
  split
  · rfl
  · dsimp only
    split
    · rfl
    · split <;> rfl

theorem storeTime_mem (s : State) (c a : Nat) (b : Bool) : (s.storeTime c a b).mem = s.mem := by
  unfold State.storeTime
  split <;> rfl

theorem noteMiss_mem (s : State) (c cx va a : Nat) (due : W64) : (s.noteMiss c cx va a due).mem = s.mem := by
  unfold State.noteMiss
  split <;> rfl

/-- A changed next state comes from a next state. -/
theorem mapNext_next {f : State → State} {o : Out} {t : State} (h : mapNext f o = .next t) : ∃ u, o = .next u ∧ t = f u := by
  cases o with
  | next u => exact ⟨u, rfl, (Host.Outcome.next.inj h).symm⟩
  | fault r => cases h
  | refused r => cases h

/-- Turns and the device's own doings follow each step. -/
theorem step_next {s t : State} (h : step s = .next t) : ∃ u, s.nextTurn = .next u ∧ t = State.afterStep s u := mapNext_next h

end Sys2Proof.Machine
end

