-- ==== Sys2Proof/Tests/Slice0.lean ====
section
/-!
SUPPORT. Tests of the model, and witnesses that the hypotheses of the statements can be met.
-/
namespace Sys2Proof.Tests
open Sys2Proof Sys2Proof.Machine
set_option Elab.async false

/-! ### Words written out from the layouts of the manual -/

/-- A word by its fields (R312), always guarded: OPC, DST, SRCA, SRCB, SRCC, MOD. A source field is 0x000 + n for register n or
special n, 0x100 + n for g n, 0x200 + n for a latch, 0x300 + k for constant k, 0x320 + j for literal j (R315). -/
def word (opc dst a b c mod : Nat) : Nat := opc * 2^56 + dst * 2^48 + 127 * 2^40 + a * 2^29 + b * 2^19 + c * 2^9 + mod

/-- The same word with NWB set (R316). -/
def nwb (w : Nat) : Nat := w + 2^47

/-- The same word under guard p (R313), negated or not. -/
def guarded (p neg w : Nat) : Nat := w - 127 * 2^40 + p * 2^40 + neg * 2^39

/-- Each word decodes to the instruction beside it, which is well formed and encodes to the word. -/
def reads (rows : List (Nat × Instr)) : Bool :=
  rows.all fun r => decide (decodeTableWord 64 r.1 = some r.2) && r.2.wf && decide ((encode r.2).map BitVec.toNat = some r.1)

/-- R344: opcodes 0x00 to 0x15. -/
theorem test_integer_words_decode : reads [
    (guarded 5 1 (word 0x00 0 0 0 0 0), .nop (.ifClear 5)),
    (word 0x01 0x0A 0x102 0 0 0x001, .mov .always (.reg 10) (.g 2) true),
    (nwb (word 0x02 0 0x002 0x320 0 0x001), .iadd .always .lat0 (.reg 2) (.lit 0) .ssat),
    (word 0x03 0x3F 0x0FB 0x204 0 0x102, .isub .always (.g 63) (.spec 251) (.lat 0 true) .usat),
    (word 0x04 0xEF 0x001 0x002 0 0, .imul .always (.reg 239) (.reg 1) (.reg 2)),
    (word 0x05 1 0x002 0x003 0 1, .imulh .always (.reg 1) (.reg 2) (.reg 3) true),
    (word 0x06 1 0x002 0x003 0x004 0, .imad .always (.reg 1) (.reg 2) (.reg 3) (.reg 4)),
    (word 0x07 2 0x004 0x006 0 2, .idiv .always (.reg 2) (.reg 4) (.reg 6) true false),
    (word 0x08 2 0x004 0x006 0 1, .irem .always (.reg 2) (.reg 4) (.reg 6) false true),
    (word 0x09 2 0x004 0x006 0 1, .imin .always (.reg 2) (.reg 4) (.reg 6) true),
    (word 0x0A 2 0x004 0x31F 0 0, .imax .always (.reg 2) (.reg 4) (.const 31) false),
    (word 0x0B 2 0x004 0 0 1, .iabs .always (.reg 2) (.reg 4) true),
    (word 0x0C 2 0x004 0 0 0, .ineg .always (.reg 2) (.reg 4) false),
    (word 0x0D 2 0x004 0x327 0 0, .iand .always (.reg 2) (.reg 4) (.lit 7)),
    (word 0x0E 2 0x004 0x006 0 0, .ior .always (.reg 2) (.reg 4) (.reg 6)),
    (word 0x0F 2 0x004 0x006 0 0, .ixor .always (.reg 2) (.reg 4) (.reg 6)),
    (word 0x10 2 0x004 0 0 0, .inot .always (.reg 2) (.reg 4)),
    (word 0x11 2 0x004 0x006 0 0, .iandn .always (.reg 2) (.reg 4) (.reg 6)),
    (0x12057F4018100000, .shl .always (.reg 5) (.lat 0 false) (.const 2)),   -- the manual's own word
    (word 0x13 2 0x004 0x006 0 0, .shr .always (.reg 2) (.reg 4) (.reg 6)),
    (word 0x14 2 0x004 0x006 0 0, .sar .always (.reg 2) (.reg 4) (.reg 6)),
    (word 0x15 2 0x004 0x006 0 0, .rotl .always (.reg 2) (.reg 4) (.reg 6))] = true := by decide +kernel

/-- R344: opcodes 0x16 to 0x27. -/
theorem test_field_and_wide_words_decode : reads [
    (word 0x16 2 0x004 0x006 0 1, .bfe .always (.reg 2) (.reg 4) (.reg 6) true),
    (word 0x17 2 0x004 0x006 0x008 0, .bfi .always (.reg 2) (.reg 4) (.reg 6) (.reg 8)),
    (word 0x18 2 0x004 0 0 0, .popc .always (.reg 2) (.reg 4)),
    (word 0x19 2 0x004 0 0 0, .clz .always (.reg 2) (.reg 4)),
    (word 0x1A 2 0x004 0 0 0, .ctz .always (.reg 2) (.reg 4)),
    (word 0x1B 2 0x004 0 0 0, .brev .always (.reg 2) (.reg 4)),
    (word 0x1C 95 0x004 0x006 0 0x1D, .icmp .always (.pred 95) (.reg 4) (.reg 6) true true .ge),
    (nwb (word 0x1C 0 0x004 0x006 0 0x02), .icmp .always .lat0 (.reg 4) (.reg 6) false false .lt),
    (word 0x1D 2 0x004 0x006 0x05F 1, .sel .always (.reg 2) (.reg 4) (.reg 6) 95 true),
    (word 0x1E 2 0x004 0x006 0 1, .iadd64 .always (.reg 2) (.reg 4) (.reg 6) true),
    (word 0x1F 2 0x004 0x006 0x108 1, .imad64 .always (.reg 2) (.reg 4) (.reg 6) (.g 8) true),
    (word 0x20 2 0x004 0x006 0 3, .shf64 .always (.reg 2) (.reg 4) (.reg 6) .rot),
    (word 0x21 2 0x004 0x006 0 0x0F, .lea .always (.reg 2) (.reg 4) (.reg 6) true 7),
    (word 0x22 2 0x004 0 0 0x0E, .ext .always (.reg 2) (.reg 4) true true .w32),
    (word 0x23 2 0x004 0x006 0x008 1, .bmrg .always (.reg 2) (.reg 4) (.reg 6) (.reg 8) true),
    (word 0x24 2 0x004 0x006 0x008 2, .dot4 .always (.reg 2) (.reg 4) (.reg 6) (.reg 8) true false),
    (word 0x25 2 0x004 0x006 0x003 0, .iaddc .always (.reg 2) (.reg 4) (.reg 6) 3),
    (word 0x26 2 0x004 0x006 0x003 0, .isubb .always (.reg 2) (.reg 4) (.reg 6) 3),
    (word 0x27 2 0x004 0x006 0x008 0x196, .lop3 .always (.g 2) (.reg 4) (.reg 6) (.reg 8) 0x96)] = true := by decide +kernel

/-- R349: opcodes 0x30 to 0x4E and 0x59 to 0x5C. -/
theorem test_float_words_decode : reads [
    (word 0x30 1 0x002 0x003 0 0x0A, .fadd .always (.reg 1) (.reg 2) (.reg 3) true .rd),
    (word 0x31 1 0x002 0x003 0 0x01, .fsub .always (.reg 1) (.reg 2) (.reg 3) false .rz),
    (word 0x32 1 0x002 0x003 0 0x03, .fmul .always (.reg 1) (.reg 2) (.reg 3) false .ru),
    (word 0x33 1 0x002 0x003 0x319 0x08, .ffma .always (.reg 1) (.reg 2) (.reg 3) (.const 25) true .rn),
    (word 0x34 1 0x002 0x003 0 0, .fmin .always (.reg 1) (.reg 2) (.reg 3)),
    (word 0x35 1 0x002 0x003 0 0, .fmax .always (.reg 1) (.reg 2) (.reg 3)),
    (word 0x36 7 0x002 0x003 0 7, .fcmp .always (.pred 7) (.reg 2) (.reg 3) .ord),
    (word 0x37 7 0x002 0x003 0 0x20, .fclass .always (.pred 7) (.reg 2) (.reg 3) true),
    (word 0x38 1 0x002 0 0 0x09, .frcp .always (.reg 1) (.reg 2) true .rz),
    (word 0x39 1 0x002 0 0 0, .frsq .always (.reg 1) (.reg 2)),
    (word 0x3A 1 0x002 0 0 2, .fsqrt .always (.reg 1) (.reg 2) .rd),
    (word 0x3B 1 0x002 0 0 0, .fsinpi .always (.reg 1) (.reg 2)),
    (word 0x3C 1 0x002 0 0 0, .fcospi .always (.reg 1) (.reg 2)),
    (word 0x3D 1 0x002 0 0 0, .fexp2 .always (.reg 1) (.reg 2)),
    (word 0x3E 1 0x002 0 0 0, .flog2 .always (.reg 1) (.reg 2)),
    (word 0x3F 1 0x002 0 0 0, .ftanh .always (.reg 1) (.reg 2)),
    (word 0x40 1 0x002 0 0 1, .frnd .always (.reg 1) (.reg 2) .rz),
    (word 0x41 2 0x004 0x006 0 0x28, .dadd .always (.reg 2) (.reg 4) (.reg 6) true true .rn),
    (word 0x42 2 0x004 0x006 0 0, .dmul .always (.reg 2) (.reg 4) (.reg 6) false .rn),
    (word 0x43 2 0x004 0x006 0x008 0, .dfma .always (.reg 2) (.reg 4) (.reg 6) (.reg 8) false .rn),
    (word 0x44 2 0x004 0x006 0 0, .dmin .always (.reg 2) (.reg 4) (.reg 6)),
    (word 0x45 2 0x004 0x006 0 0, .dmax .always (.reg 2) (.reg 4) (.reg 6)),
    (word 0x46 2 0x004 0x006 0 6, .dcmp .always (.pred 2) (.reg 4) (.reg 6) .un),
    (word 0x47 2 0x004 0 0 0, .drcp .always (.reg 2) (.reg 4) false .rn),
    (word 0x48 2 0x004 0 0 3, .dsqrt .always (.reg 2) (.reg 4) .ru),
    (word 0x49 1 0x002 0x003 0 0x20, .hadd2 .always (.reg 1) (.reg 2) (.reg 3) true false .rn),
    (word 0x4A 1 0x002 0x003 0 0x08, .hmul2 .always (.reg 1) (.reg 2) (.reg 3) false true .rn),
    (word 0x4B 1 0x002 0x003 0x004 0, .hfma2 .always (.reg 1) (.reg 2) (.reg 3) (.reg 4) false false .rn),
    (word 0x4C 1 0x002 0x003 0 0x20, .hmax2 .always (.reg 1) (.reg 2) (.reg 3) true),
    (word 0x4D 1 0x002 0x003 0 0, .hmin2 .always (.reg 1) (.reg 2) (.reg 3) false),
    (word 0x4E 94 0x002 0x003 0 0x25, .hcmp2 .always 94 (.reg 2) (.reg 3) true .ge),
    (word 0x59 1 0 0 0 0x100, .rnd .always (.g 1)),
    (word 0x5A 0 0x002 0 0 0, .rseed .always (.reg 2)),
    (word 0x5B 1 0 0 0 0x1F, .satq .always (.reg 1) true 15),
    (word 0x5C 1 0x002 0x003 0x004 0x20, .fdot2 .always (.reg 1) (.reg 2) (.reg 3) (.reg 4) true false .rn)] = true := by decide +kernel

/-- R355, R357: opcodes 0x4F to 0x58. -/
theorem test_conversion_words_decode : reads [
    (word 0x4F 1 0x002 0 0x00F 0xDC, .cvtf .always (.reg 1) (.reg 2) (some 15) .bf16 true .rs),
    (word 0x50 2 0x002 0 0 0xE1, .cvti .always (.reg 2) (.reg 2) none .u64 true false .rz),
    (word 0x51 2 0x002 0 0 0x44, .cvtd .always (.reg 2) (.reg 2) .u32 .rs),
    (word 0x52 1 0x002 0x003 0x001 0x30, .pk16 .always (.reg 1) (.reg 2) (.reg 3) (some 1) true false .rn),
    (word 0x53 1 0x002 0x301 0 0x21, .unpk16 .always (.reg 1) (.reg 2) ⟨.const 1, .rz⟩ true),
    (word 0x54 1 0x002 0x004 0 0x48, .cvt8 .always (.reg 1) (.reg 2) (.reg 4) none .e5m2 false true .rn),
    (word 0x55 1 0x002 0x003 0 0xC0, .unpk8 .always (.reg 1) (.reg 2) ⟨.reg 3, .rn⟩ .e8m0),
    (word 0x56 1 0x002 0x004 0 0x03, .cvt4 .always (.reg 1) (.reg 2) (.reg 4) none false false .ru),
    (word 0x57 1 0x002 0x003 0 4, .unpk4 .always (.reg 1) (.reg 2) ⟨.reg 3, .rs⟩),
    (0x58087F0281E00418, .mxsc .always 8 20 60 (some 2) .e4m3 false true .rn)] = true := by decide +kernel   -- the manual's own word

/-- R367: opcodes 0x70 to 0x7F. -/
theorem test_cross_lane_words_decode : reads [
    (word 0x70 2 0x004 0x006 0 0x3B, .shfl .always (.reg 2) (.reg 4) (.reg 6) true 6 .xor),
    (word 0x71 0 0x001 0x304 0 0, .bfly .always 0 1 (.const 4)),
    (word 0x72 1 0x002 0x003 0 0, .bcast .always (.reg 1) (.reg 2) (.reg 3) false),
    (word 0x73 95 0x05E 0 0 2, .vote .always (.pred 95) 94 .uni),
    (word 0x74 2 0x003 0 0 2, .ballot .always (.reg 2) 3 true),
    (word 0x75 1 0x002 0 0 7, .redux .always (.reg 1) (.reg 2) .xor),
    (word 0x76 1 0x002 0 0 1, .fredux .always (.reg 1) (.reg 2) .max),
    (word 0x77 1 0x002 0 0 2, .scan .always (.reg 1) (.reg 2) true false),
    (word 0x78 2 0x004 0 0 1, .matchv .always (.reg 2) (.reg 4) false true),
    (word 0x79 1 0x002 0x003 0 1, .pand .always (.pred 1) 2 3 false true),
    (word 0x7A 1 0x002 0x003 0 2, .por .always (.pred 1) 2 3 true false),
    (word 0x7B 1 0x002 0x003 0 0, .pxor .always (.pred 1) 2 3 false false),
    (word 0x7C 1 0x002 0 0 0, .pnot .always (.pred 1) 2),
    (word 0x7D 1 0x002 0 0 0, .pmov .always (.pred 1) 2),
    (word 0x7D 1 0x040 0 0 1, .pmovGet .always (.reg 1) 64),
    (word 0x7D 64 0x002 0 0 2, .pmovSet .always 64 (.reg 2)),
    (word 0x7E 1 0x002 0 0 0, .pcnt .always (.reg 1) 2),
    (word 0x7F 1 0 0 0 0, .elect .always (.pred 1)),
    (nwb (word 0x73 0 0x05E 0 0 1), .vote .always .lat0 94 .any),
    (nwb (word 0x7C 0 0x002 0 0 0), .pnot .always .lat0 2),
    (word 0x71 0 0x001 0x313 0 0, .bfly .always 0 1 (.const 19))] = true := by decide +kernel

/-- R376, R388, R394: opcodes 0x90 to 0xA6. -/
theorem test_flow_words_decode : reads [
    (word 0x90 0 0x320 0x002 0 4, .bra .always (.lit 0) (.reg 2) .nneg),
    (word 0x91 0 0x002 0x003 0 0, .brx .always (.reg 2) (.reg 3)),
    (word 0x92 1 0x002 0 0 1, .call .always 1 (.reg 2) true),
    (word 0x93 0 0x002 0 0 0, .ret .always (.reg 2)),
    (word 0x94 7 0 0 0 0, .enrol 7),
    (word 0x95 0 0x007 0 0 0, .rejoin 7),
    (word 0x96 0 0 0 0 0, .exit .always),
    (word 0x97 0 0 0 0 0, .yield .always),
    (word 0x98 0 0x3FF 0 0 0, .trap .always 0x3FF),
    (word 0x99 0 0x301 0 0 0, .brk .always 0x301),
    (word 0x9A 0 0 0 0 0, .rte .always),
    (word 0x9A 0 0 0 0 1, .rteRetry .always),
    (word 0x9B 0 0x102 0x003 0 0, .signal .always (.g 2) (.reg 3)),
    (word 0x9B 0 0x102 0x003 0 1, .signalMbox .always (.g 2) (.reg 3)),
    (word 0x9C 1 0x102 0 0 0, .rswitch .always 1 (.g 2)),
    (word 0x9D 1 0x320 0 0 0, .reggrow .always 1 (.lit 0)),
    (word 0x9E 0 0x308 0 0 0, .regshrink .always (.const 8)),
    (word 0x9F 0 0x102 0 0 0, .sleep .always (.g 2)),
    (word 0xA0 0 0x00F 0x102 0 0, .barinit .always 15 (.g 2)),
    (word 0xA1 0 0x001 0x301 0 0, .bararr .always 1 (.const 1)),
    (0xA2037F0058080001, .barwait .always (some 3) 2 (.const 1)),   -- the manual's own word
    (word 0xA3 0 0x001 0 0 0, .barinval .always 1),
    (word 0xA4 0 0x102 0x301 0 0, .barrarr .always (.g 2) (.const 1)),
    (word 0xA5 2 0x001 0 0 0x102, .barq .always (.g 2) 1 .handle),
    (word 0xA6 0 0x301 0x102 0 0x03, .hbarInit .always (.const 1) (.g 2) .die),
    (word 0xA6 0 0x301 0 0 0x0C, .hbarArr .always (.const 1) .pkg),
    (word 0xA6 3 0x301 0x102 0 0x35, .hbarWait .always (some 3) (.const 1) (.g 2) .pod),
    (word 0xA6 2 0x301 0 0 0x5B, .hbarQ .always 2 (.const 1) true .die)] = true := by decide +kernel

/-- R401: opcodes 0xB0 to 0xBF. -/
theorem test_memory_words_decode : reads [
    (0xB00A7F0098800003, .ld .always (.reg 10) (.reg 4) (.const 16) false .b64),   -- the manual's own word
    (word 0xB0 2 0x004 0x300 0 0x109, .ld .always (.g 2) (.reg 4) (.const 0) true .b8),
    (word 0xB1 0 0x004 0x300 0x006 4, .st .always (.reg 4) (.const 0) (.reg 6) .b128),
    (word 0xB2 2 0x320 0x004 0 8, .ldt .always 2 (.lit 0) 4 true),
    (word 0xB3 0 0x320 0x004 0x006 0, .stt .always (.lit 0) 4 (.reg 6)),
    (word 0xB4 16 0x102 0x104 0 6, .ldfr .always 16 (.g 2) (.g 4) true .e4),
    (word 0xB5 0 0x102 0x104 0x018 1, .stfr .always (.g 2) (.g 4) 24 false .e8),
    (word 0xB6 6 0x004 0x006 0 0xB9, .atom .always 6 (.reg 4) (.reg 6) .pod true .fadd),
    (word 0xB7 6 0x004 0x006 0x008 0x60, .cas .always 6 (.reg 4) (.reg 6) (.reg 8) .die false),
    (word 0xB8 6 0x004 0x006 0 0x18, .ratom .always 6 (.reg 4) (.reg 6) true .xchg),
    (word 0xB9 0 0 0 0 5, .fence .always .pod),
    (word 0xB9 0 0 0 0 8, .fenceTc .always),
    (word 0xBA 0 0x320 0 0 0, .publish .always (.lit 0)),
    (word 0xBB 0 0x102 0 0 0, .mon .always (.g 2)),
    (word 0xBC 3 0x102 0 0 1, .mwait .always (some 3) (.g 2)),
    (word 0xBD 15 0x102 0x104 0x301 0, .tierpf .always 15 (.g 2) (.g 4) (.const 1)),
    (word 0xBE 0 0x102 0x104 0x301 0, .tierev .always 0 (.g 2) (.g 4) (.const 1)),
    (word 0xBF 0 0x102 0x320 0 0, .lastuse .always (.g 2) (.lit 0))] = true := by decide +kernel

/-- R427, R441, R442, R450, R454: opcodes 0xD0 to 0xF5. -/
theorem test_engine_and_system_words_decode : reads [
    (0xD0027F0140580001, .mma 2 (.reg 10) (.reg 11) (.reg 0) true),   -- the manual's own word
    (0xD1007F0040600000, .accdrain 2 (.reg 12) (.reg 0)),             -- the manual's own word
    (word 0xD2 0 0x002 0x00C 0x00D 0, .accst 2 (.reg 12) (.reg 13)),
    (word 0xD3 0 0x002 0x00C 0 0, .acctx 2 (.reg 12)),
    (word 0xD4 0 0x002 0x00C 0 1, .accwait 2 (.reg 12) true),
    (word 0xD5 0 0x007 0x00C 0 0, .accfree 7 (.reg 12)),
    (word 0xD6 0 0x001 0 0 0x00, .cbarArr 1),
    (word 0xD6 3 0x001 0x002 0 0x09, .cbarWait (some 3) 1 (.reg 2)),
    (word 0xD6 0 0x001 0x002 0 0x02, .cbarInit 1 (.reg 2)),
    (word 0xD6 0 0x00F 0 0 0x03, .cbarInval 15),
    (word 0xD6 3 0x001 0 0 0x14, .cbarQ 3 1 true),
    (word 0xE0 1 0x10A 0x114 0x10C 0, .copy .always 1 10 20 12),
    (word 0xE1 4 0x10A 0x114 0x10C 3, .copymc .always 4 10 20 12 3),
    (word 0xE2 0 0x10A 0x114 0x10C 0, .copyw .always 0 10 20 12),
    (word 0xE3 0 0x10A 0 0 0, .tready .always 10),
    (word 0xE4 3 0x100 0x308 0x320 0, .fork .always 3 (.g 0) (.const 8) (.lit 0)),
    (word 0xE5 0 0x100 0x002 0 0, .reward .always (.g 0) (.reg 2)),
    (word 0xE6 4 0x102 0x106 0 0, .slack .always 4 (.g 2) 6),
    (word 0xE7 0 0x100 0x002 0 0, .sgcancel .always (.g 0) (.reg 2)),
    (word 0xE8 4 0x100 0x302 0 0, .sgq .always 4 (.g 0) (.const 2)),
    (word 0xE9 3 0x102 0x104 0 1, .tapepush .always 3 (.g 2) (.g 4) true),
    (word 0xEA 3 0x102 0x104 0 0, .launch .always 3 (.g 2) (.g 4)),
    (word 0xEB 4 0x006 0x102 0 0, .rcomb .always 4 6 (.g 2)),
    (word 0xF0 2 0 0 0 0x110, .sysrd .always (.g 2) 0x10),
    (word 0xF1 0 0x002 0 0 0x10, .syswr .always (.reg 2) 0x10),
    (word 0xF2 0 0x002 0 0 0, .dbgmark .always (.reg 2)),
    (word 0xF3 2 0 0 0 7, .perfc .always (.reg 2) 7),
    (word 0xF4 0 0x102 0x320 0 0, .icinv .always (.g 2) (.lit 0)),
    (word 0xF5 0 0x102 0x301 0x104 0, .ckptmark .always (.g 2) (.const 1) (.g 4))] = true := by decide +kernel

/-- R25, R309, R312 to R316, R322, R330, R344, R349: an unassigned opcode, a reserved bit, an index past its file, a guard that is none,
a condition, a mode and a scope that are none. -/
theorem test_reserved_words_are_refused :
    ([word 0x28 0 0 0 0 0, word 0x00 0 0 0 0 1, word 0x00 1 0 0 0 0, word 0x02 240 0 0 0 0, word 0x02 64 0 0 0 0x100,
      word 0x02 1 0x140 0 0 0, word 0x02 1 0x328 0 0 0, word 0x02 1 0x208 0 0 0, word 0x02 1 0x0FF 0 0 0, word 0x1C 96 0 0 0 0,
      word 0x1C 1 0 0 0 6, word 0x30 1 0 0 0 4, word 0xB9 0 0 0 0 6, word 0xA6 0 0x301 0 0 0x0A, word 0x22 2 4 0 0 2,
      guarded 96 0 (word 0x00 0 0 0 0 0), guarded 127 1 (word 0x00 0 0 0 0 0), nwb (word 0x02 1 0 0 0 0), nwb (word 0x25 0 0 0 0 0),
      word 0x4E 3 0 0 0 0, word 0xD0 8 0 0 0 0, word 0xFF 0 0 0 0 0] : List Nat).all
      (fun w => decide (decodeTableWord 64 w = none)) = true := by decide +kernel

/-! ### Ill-formed terms, one for each check -/

/-- R312 to R316, R325, R342, R349, R357, R366, R367, R401, R427, R442, R450: a term that breaks each check of `Instr.wf` is refused. -/
theorem test_ill_formed_terms_are_refused :
    ([.nop (.ifSet 96), .nop (.ifClear 96), .mov .always (.reg 240) (.reg 0) false, .mov .always (.g 64) (.reg 0) false,
      .mov .always (.reg 0) (.reg 240) false, .mov .always (.reg 0) (.spec 239) false, .mov .always (.reg 0) (.spec 255) false,
      .mov .always (.reg 0) (.g 64) false, .mov .always (.reg 0) (.lat 4 false) false, .mov .always (.reg 0) (.const 32) false,
      .mov .always (.reg 0) (.lit 8) false, .icmp .always (.pred 96) (.reg 0) (.reg 0) false false .eq,
      .sel .always (.reg 0) (.reg 0) (.reg 0) 96 false, .lea .always (.reg 0) (.reg 0) (.reg 0) false 8,
      .ext .always (.reg 0) (.reg 0) false false .w32, .iaddc .always .lat0 (.reg 0) (.reg 0) 0,
      .lop3 .always (.reg 0) (.reg 0) (.reg 0) (.reg 0) 256, .fadd .always (.reg 0) (.reg 0) (.reg 0) false .rs,
      .hcmp2 .always 3 (.reg 0) (.reg 0) false .eq, .mxsc .always 8 0 8 none .e4m3 false false .rn,
      .cvtf .always (.reg 0) (.reg 0) (some 16) .f64 false .rn, .satq .always (.reg 0) false 16,
      .bfly .always 1 1 (.const 1), .bfly .always 0 1 (.const 3), .bfly .always 0 1 (.reg 2), .pmovGet .always (.reg 0) 65,
      .pmovSet .always 65 (.reg 0), .enrol 8, .rejoin 8, .bra .always (.reg 0) (.reg 0) .always, .barinit .always 16 (.reg 0),
      .barwait .always (some 96) 0 (.reg 0), .ld .always (.reg 0) (.reg 0) (.reg 0) true .b32, .ldfr .always 4 (.g 0) (.g 0) false .e16,
      .stfr .always (.g 0) (.g 0) 8 true .e4, .mma 8 (.reg 0) (.reg 0) (.reg 0) false, .copy .always 16 0 0 0, .copy .always 0 64 0 0,
      .copymc .always 0 0 0 0 4, .fork .always 0 (.g 0) (.reg 2) (.lit 0), .fork .always 0 (.g 0) (.const 2) (.const 0),
      .sgq .always 0 (.g 0) (.reg 0), .slack .always 0 (.g 0) 64, .perfc .always (.reg 0) 16] : List Instr).all
      (fun i => !i.wf) = true := by decide +kernel

/-! ### Results that the manual works out -/

/-- Vector register `n` holds these values at lanes 0, 1, … before the word. -/
def setReg (n : Nat) (vs : List W32) (s : State) : State :=
  s.modGroup 0 fun g => { g with win := vs.zipIdx.foldl (fun t x => tabSet t (8 * n + x.2) x.1) g.win }

/-- Lanes `m` are those of the path. -/
def setPath (m : BitVec 8) (s : State) : State := s.modUnit (.strand 0 0) fun u => { u with cur := m }

/-- Registers `n` at lane `l` after one step that runs the word, from reset with `f` done to it. -/
def regAfter (w : Nat) (f : State → State) (n l : Nat) : Option W32 :=
  match step (f (State.reset.placeWord (BitVec.ofNat 64 w))) with
  | .next t => (t.group? 0).map fun g => tabGet g.win 0 (8 * n + l)
  | _ => none

/-- The example of R348. -/
theorem test_byte_merge : regAfter (word 0x23 4 1 2 3 0)
    (setReg 1 [0x44332211] ∘ setReg 2 [0x88776655] ∘ setReg 3 [0x206F0F00]) 4 0 = some 0x00FF1111 := by decide +kernel

/-- The table of R346. -/
theorem test_division : regAfter (word 0x07 4 1 2 0 0) (setReg 1 [0xFFFFFFF9] ∘ setReg 2 [2]) 4 0 = some 0xFFFFFFFD ∧
    regAfter (word 0x08 4 1 2 0 0) (setReg 1 [0xFFFFFFF9] ∘ setReg 2 [0]) 4 0 = some 0xFFFFFFF9 ∧
    regAfter (word 0x07 4 1 2 0 0) (setReg 1 [0x80000000] ∘ setReg 2 [0xFFFFFFFF]) 4 0 = some 0x80000000 := by decide +kernel

/-- R348: t = 0x96 is a ^ b ^ c, t = 0xE8 the majority. -/
theorem test_truth_tables :
    regAfter (word 0x27 4 1 2 3 0x96) (setReg 1 [0xF0] ∘ setReg 2 [0xCC] ∘ setReg 3 [0xAA]) 4 0 = some 0x96 ∧
    regAfter (word 0x27 4 1 2 3 0xE8) (setReg 1 [0xF0] ∘ setReg 2 [0xCC] ∘ setReg 3 [0xAA]) 4 0 = some 0xE8 := by decide +kernel

/-- R354: `frnd.rz` of -0.5 is -0. -/
theorem test_round_to_integer : regAfter (word 0x40 4 1 0 0 1) (setReg 1 [0xBF000000]) 4 0 = some 0x80000000 := by decide +kernel

/-- R350: 1 + 2^-24 rounds to even in rn, up in ru. -/
theorem test_addition_rounds : regAfter (word 0x30 4 1 2 0 0) (setReg 1 [0x3F800000] ∘ setReg 2 [0x33800000]) 4 0 = some 0x3F800000 ∧
    regAfter (word 0x30 4 1 2 0 3) (setReg 1 [0x3F800000] ∘ setReg 2 [0x33800000]) 4 0 = some 0x3F800001 := by decide +kernel

/-- The example after R359: 1000, 3 and -0.25 as a block of E4M3. -/
theorem test_block_scaling :
    let f := setReg 20 [0x447A0000] ∘ setReg 21 [0x40400000] ∘ setReg 22 [0xBE800000] ∘ setReg 60 [0x11223344]
    regAfter 0x58087F0281E00418 f 8 0 = some 0x00A03C7E ∧ regAfter 0x58087F0281E00418 f 60 0 = some 0x11223380 := by decide +kernel

/-- The table of R371: lane 6 is not active. -/
theorem test_butterfly :
    let f := setReg 0 [0, 1, 2, 3, 4, 5, 6, 7] ∘ setReg 1 [8, 9, 10, 11, 12, 13, 14, 15] ∘ setPath 0xBF
    (List.range 8).map (regAfter (word 0x71 0 1 0x304 0 0) f 0) = [0, 1, 2, 3, 8, 9, 6, 11].map some ∧
    (List.range 8).map (regAfter (word 0x71 0 1 0x304 0 0) f 1) = [4, 5, 6, 7, 12, 13, 14, 15].map some := by decide +kernel

/-- The example after R375: a sum by the tree, lane 5 supplying -0. -/
theorem test_tree_sum :
    let f := setReg 4 [0x4B800000, 0x3F800000, 0x3F800000, 0x3F800000, 0x3F800000, 0x3F800000, 0x3F800000, 0x3F800000] ∘ setPath 0xDF
    regAfter 0x76097F0080000000 f 9 0 = some 0x4B800003 ∧ regAfter 0x76097F0080000000 f 9 5 = some 0 := by decide +kernel

/-- The example of R296: the seed of thread 0 and the first step. -/
theorem test_generator_seed :
    (match step (setReg 1 [0x12345678] (State.reset.placeWord (BitVec.ofNat 64 (word 0x5A 0 1 0 0 0)))) with
      | .next t => (t.unit? (.strand 0 0)).map fun u => (u.lane 0).gen
      | _ => none) = some 0x8C032FC1 := by decide +kernel

/-! ### Small states -/

/-- A page-table entry (R220): valid; a leaf is readable, writable and executable, in PSTATE HBM (2), DUAL or not. -/
def entry (leaf dual : Bool) (frame : Nat) : Nat :=
  2^63 + (if leaf then 2^62 + 2^61 + 2^60 + 2^59 + 2 * 2^52 else 0) + (if dual then 2^58 else 0) + frame

/-- Context 0 has pages of 1 GiB: control address 0 at physical 0, control address 2^30 a DUAL page, the own HBM node a DUAL page; the
kernel leases them. -/
def paged (s : State) : State :=
  let s := s.modCtx 0 fun c => { c with xrootc := 0x10000, xroott := 0x20000 }
  let s := s.modKernel 0 fun k => { k with ranges := [⟨0, 2^31, true, true, 0⟩, ⟨2^63, 2^30, true, true, 0⟩] }
  [(0x10000, entry false false 0x11000), (0x11000, entry true false 0), (0x11008, entry true true (2^31)),
    (0x20000, entry false false 0x21000), (0x21000, entry true true 0)].foldl (fun s p => s.setMem p.1 (leBytes 8 p.2)) s

/-- g registers from `n` on hold these values. -/
def setG (n : Nat) (vs : List W32) (s : State) : State :=
  s.modGroup 0 fun g => { g with gregs := vs.zipIdx.foldl (fun t x => tabSet t (n + x.2) x.1) g.gregs }

/-- c register `n` holds this value. -/
def setC (n : Nat) (v : W64) (s : State) : State := s.modCt 0 fun c => { c with cregs := tabSet c.cregs n v }

/-- The state in which `i` stands as the next instruction, `f` being done to it. -/
def placed (i : Instr) (f : State → State) : State := f (State.reset.placeWord ((encode i).getD 0))

/-- Word `i` issues there, and the condition holds. -/
def issues (i : Instr) (c : Env → State → Bool := fun _ _ => true) (f : State → State := id) : Bool :=
  ((placed i f).issueOf? i).any fun x => c x.1 x.2

/-- Word `i` issues there with nothing of its agent left to perform, and the condition holds. -/
def clears (i : Instr) (c : Env → State → Bool := fun _ _ => true) (f : State → State := id) : Bool :=
  ((placed i f).clearOf? i).any fun x => c x.1 x.2

/-- Some lane is active and the active lanes agree (R119). -/
def agrees (e : Env) (vals : Nat → List W64) : Bool := e.act != 0 && (lanesOf e.act).all fun l => decide (vals l = vals e.low)

/-! ### Witnesses: words of the arithmetic units -/

theorem witness_IntegerSumWords : ([.iadd .always (.reg 1) (.reg 2) (.reg 3) .wrap, .iadd .always .lat0 (.reg 2) (.lit 0) .ssat,
    .iadd .always (.g 1) (.g 2) (.const 31) .usat, .isub .always (.reg 1) (.reg 2) (.reg 3) .wrap,
    .isub .always (.reg 1) (.reg 2) (.spec 247) .ssat, .isub .always (.reg 1) (.reg 2) (.reg 3) .usat,
    .imin .always (.reg 1) (.reg 2) (.reg 3) true, .imax .always (.reg 1) (.reg 2) (.reg 3) false,
    .iabs .always (.reg 1) (.reg 2) true, .ineg .always (.reg 239) (.reg 2) false] : List Instr).all (fun i => issues i) = true := by
  decide +kernel

theorem witness_LogicAndShiftWords : ([.nop (.ifClear 5), .mov .always (.reg 1) (.reg 2) false, .mov .always (.reg 2) (.lit 6) true,
    .iand .always (.reg 1) (.reg 2) (.reg 3), .ior .always (.reg 1) (.reg 2) (.reg 3), .ixor .always (.reg 1) (.reg 2) (.reg 3),
    .iandn .always (.reg 1) (.reg 2) (.reg 3), .inot .always (.reg 1) (.reg 2), .shl .always (.reg 1) (.reg 2) (.reg 3),
    .shr .always (.reg 1) (.reg 2) (.reg 3), .sar .always (.reg 1) (.reg 2) (.reg 3), .rotl .always (.reg 1) (.reg 2) (.reg 3),
    .bfe .always (.reg 1) (.reg 2) (.reg 3) true, .bfe .always (.reg 1) (.reg 2) (.reg 3) false,
    .bfi .always (.reg 1) (.reg 2) (.reg 3) (.reg 4), .popc .always (.reg 1) (.reg 2), .clz .always (.reg 1) (.reg 2),
    .ctz .always (.reg 1) (.reg 2), .brev .always (.reg 1) (.reg 2)] : List Instr).all (fun i => issues i) = true := by decide +kernel

theorem witness_DivisionAndWideWords : ([.idiv .always (.reg 1) (.reg 2) (.reg 3) false true, .idiv .always (.reg 2) (.reg 4) (.reg 6) true false,
    .irem .always (.reg 1) (.reg 2) (.reg 3) false false, .irem .always (.reg 2) (.reg 4) (.reg 6) true true,
    .sel .always (.reg 2) (.reg 4) (.reg 6) 95 true, .iadd64 .always (.reg 2) (.reg 4) (.reg 6) true,
    .iadd64 .always (.reg 2) (.reg 4) (.reg 6) false, .shf64 .always (.reg 2) (.reg 4) (.reg 6) .left,
    .shf64 .always (.reg 2) (.reg 4) (.reg 6) .lr, .shf64 .always (.reg 2) (.reg 4) (.reg 6) .ar,
    .shf64 .always (.reg 2) (.reg 4) (.reg 6) .rot, .lea .always (.reg 2) (.reg 4) (.reg 6) false 7,
    .ext .always (.reg 2) (.reg 4) true true .w8, .ext .always (.reg 2) (.reg 4) false false .w8,
    .ext .always (.reg 2) (.reg 4) false true .w16, .ext .always (.reg 2) (.reg 4) true false .w16,
    .ext .always (.reg 2) (.reg 4) true false .w32, .ext .always (.reg 2) (.reg 4) true true .w32] : List Instr).all
    (fun i => issues i) = true := by decide +kernel

theorem witness_CompareCarryAndTableWords : ([.icmp .always (.pred 95) (.reg 1) (.reg 2) false true .le, .icmp .always .lat0 (.reg 2) (.reg 4) true false .gt,
    .iaddc .always (.reg 1) (.reg 2) (.reg 3) 0, .isubb .always (.reg 1) (.reg 2) (.reg 3) 95,
    .lop3 .always (.reg 1) (.reg 2) (.reg 3) (.reg 4) 255, .bmrg .always (.reg 1) (.reg 2) (.reg 3) (.reg 4) true] : List Instr).all
    (fun i => issues i) = true := by decide +kernel

theorem witness_IntegerMultiplications : ([.imul .always (.reg 1) (.reg 2) (.reg 3), .imulh .always (.reg 1) (.reg 2) (.reg 3) true,
    .imulh .always (.reg 1) (.reg 2) (.reg 3) false, .imad .always (.reg 1) (.reg 2) (.reg 3) (.reg 4),
    .imad64 .always (.reg 2) (.reg 4) (.reg 6) (.reg 8) false, .imad64 .always (.reg 2) (.reg 4) (.reg 6) (.reg 8) true,
    .dot4 .always (.reg 1) (.reg 2) (.reg 3) (.reg 4) true true] : List Instr).all
    (fun i => issues i fun e t => t.upsetLanes e == 0) = true := by decide +kernel

theorem witness_SingleWords : ([.fadd .always (.reg 1) (.reg 2) (.reg 3) true .rd, .fsub .always (.reg 1) (.reg 2) (.reg 3) false .ru,
    .fmul .always (.reg 1) (.reg 2) (.reg 3) false .rn, .ffma .always (.reg 1) (.reg 2) (.reg 3) (.reg 4) true .rz,
    .fmin .always (.reg 1) (.reg 2) (.reg 3), .fmax .always (.reg 1) (.reg 2) (.reg 3), .fcmp .always (.pred 0) (.reg 2) (.reg 3) .un,
    .fclass .always (.pred 0) (.reg 2) (.reg 3) false, .fclass .always .lat0 (.reg 2) (.reg 3) true, .frcp .always (.reg 1) (.reg 2) false .rn,
    .fsqrt .always (.reg 1) (.reg 2) .rn, .frnd .always (.reg 1) (.reg 2) .rz, .fdot2 .always (.reg 1) (.reg 2) (.reg 3) (.reg 4) true false .rn,
    .frsq .always (.reg 1) (.reg 2), .fsinpi .always (.reg 1) (.reg 2), .fcospi .always (.reg 1) (.reg 2), .fexp2 .always (.reg 1) (.reg 2),
    .flog2 .always (.reg 1) (.reg 2), .ftanh .always (.reg 1) (.reg 2)] : List Instr).all
    (fun i => issues i fun e t => t.upsetLanes e == 0) = true := by decide +kernel

theorem witness_DoubleAndHalfWords : ([.dadd .always (.reg 2) (.reg 4) (.reg 6) false false .rn, .dadd .always (.reg 2) (.reg 4) (.reg 6) true true .rd,
    .dmul .always (.reg 2) (.reg 4) (.reg 6) false .rn, .dfma .always (.reg 2) (.reg 4) (.reg 6) (.reg 8) false .rn,
    .dmin .always (.reg 2) (.reg 4) (.reg 6), .dmax .always (.reg 2) (.reg 4) (.reg 6), .dcmp .always (.pred 1) (.reg 4) (.reg 6) .ord,
    .drcp .always (.reg 2) (.reg 4) true .rz, .dsqrt .always (.reg 2) (.reg 4) .ru, .hadd2 .always (.reg 1) (.reg 2) (.reg 3) true false .rn,
    .hmul2 .always (.reg 1) (.reg 2) (.reg 3) false true .rn, .hfma2 .always (.reg 1) (.reg 2) (.reg 3) (.reg 4) false false .rn,
    .hmin2 .always (.reg 1) (.reg 2) (.reg 3) true, .hmax2 .always (.reg 1) (.reg 2) (.reg 3) false,
    .hcmp2 .always 94 (.reg 2) (.reg 3) true .ne] : List Instr).all
    (fun i => issues i fun e t => t.upsetLanes e == 0) = true := by decide +kernel

theorem witness_ConversionWords : ([.cvtf .always (.reg 1) (.reg 2) none .f64 true .rs, .cvtf .always (.reg 1) (.reg 2) (some 15) .bf16 true .rn,
    .cvti .always (.reg 1) (.reg 2) (some 0) .u32 false false .rz, .cvti .always (.reg 2) (.reg 4) none .i64 true false .rd,
    .cvtd .always (.reg 2) (.reg 4) .f32 .rn, .pk16 .always (.reg 1) (.reg 2) (.reg 3) (some 3) true false .rn,
    .unpk16 .always (.reg 1) (.reg 2) ⟨.reg 3, .rn⟩ false, .cvt8 .always (.reg 1) (.reg 2) (.reg 4) (some 1) .e5m2 false true .rn,
    .unpk8 .always (.reg 1) (.reg 2) ⟨.reg 3, .rn⟩ .e8m0, .cvt4 .always (.reg 1) (.reg 2) (.reg 4) (some 1) false false .rn,
    .unpk4 .always (.reg 1) (.reg 2) ⟨.reg 3, .rn⟩, .mxsc .always 8 20 60 (some 2) .e2m1 true true .rn] : List Instr).all
    (fun i => issues i fun e t => (List.range 16).all fun k => (List.range 34).all fun n => !t.crosses e k n) = true := by decide +kernel

theorem witness_GeneratorWords : (issues (.rnd .always (.reg 1)) && issues (.rnd .always .lat0) && issues (.rseed .always (.reg 1))
    (fun e _ => e.act != 0) (setPath 0x7F)) = true := by decide +kernel

theorem witness_SaturationCounters : (issues (.cvtf .always (.reg 1) (.reg 2) (some 15) .f64 false .rn) (fun e t => nth (t.ctx e.cx).satthr 15 0 == 0) &&
    issues (.satq .always (.reg 1) false 15) && issues (.satq .always (.reg 1) true 0) fun e _ => e.act != 0) = true := by decide +kernel

/-- Lanes 2 and 5 hold a double beyond FP32, the others 0; counter 3 stands at 1 below its threshold of 2. -/
def overflowing (s : State) : State := (setReg 3 [0, 0, 0x7FE00000, 0, 0, 0x7FE00000, 0, 0] s).modCtx 0 fun c =>
  { c with satthr := [0, 0, 0, 2], satcnt := tabSet c.satcnt 3 1 }

theorem witness_SaturationCrosses : issues (.cvtf .always (.reg 1) (.reg 2) (some 3) .f64 false .rn) (fun e t =>
      let rs := (lanesOf e.act).map fun l => convLane .rn (toFmt .f32 .rn false) (.reg 1) .i32 single e l [cvtfVal .f64 e (.reg 2) l]
      t.crosses e 3 (countOf rs) && (rs.filter fun r => r.2 != 0).map (fun r => r.1.lane) == [2, 5]) overflowing = true ∧
    (let o : LaneOut := { LaneOut.ok 2 [] 7 with cause := some (.saturation, 0, 0), late := true }
     o.cause = some (.saturation, 0, 0) ∧ o.late = true) := by
  refine ⟨?_, rfl, rfl⟩; decide +kernel

/-! ### Witnesses: lanes, predicates, control flow -/

theorem witness_CrossLaneWordsOfNarrowGroups : (([.shfl .always (.reg 2) (.reg 4) (.reg 6) true 3 .xor, .vote .always (.pred 1) 2 .uni,
    .ballot .always (.reg 2) 3 true, .matchv .always (.reg 2) (.reg 4) false true, .redux .always (.reg 1) (.reg 2) .xor,
    .fredux .always (.reg 1) (.reg 2) .min, .scan .always (.reg 1) (.reg 2) true true, .pcnt .always (.reg 1) 95,
    .elect .always (.pred 0)] : List Instr).all (fun i => issues i fun e _ => e.grp.width == 8) &&
    ([.const 1, .const 2, .const 4] : List Src).all (fun m => issues (.bfly .always 0 1 m) fun e _ =>
      e.grp.width == 8 && decide (e.n .i32 m 0 ∈ [1, 2, 4]) && (List.range 8).all fun l => e.n .i32 m l == e.n .i32 m 0) &&
    issues (.bcast .always (.reg 1) (.reg 2) (.reg 3) false) fun e _ => e.grp.width == 8 && agrees e fun l => [e.src .i32 (.reg 3) l]) = true := by
  decide +kernel

/-- The group has 16 threads. -/
def wide16 (s : State) : State := s.modGroup 0 fun g =>
  { g with width := 16, strands := g.strands ++ [Strand.init 1 0xFF (List.replicate 8 placedLane)] }

theorem witness_CrossLaneWordsOfWideGroups : ([.shfl .always (.reg 2) (.reg 4) (.reg 6) false 0 .up, .vote .always (.pred 1) 2 .any,
    .ballot .always (.reg 2) 3 false, .redux .always (.reg 1) (.reg 2) .add, .fredux .always (.reg 1) (.reg 2) .sum,
    .scan .always (.reg 1) (.reg 2) false false, .matchv .always (.reg 2) (.reg 4) false false, .pcnt .always (.reg 1) 1,
    .elect .always (.pred 0)] : List Instr).all (fun i => issues i (fun e _ => decide (8 < e.grp.width) && e.grp.gather.isNone) wide16) = true := by
  decide +kernel

theorem witness_PredicateWords : ([.pand .always (.pred 0) 1 2 true false, .por .always (.pred 0) 1 2 false true, .pxor .always (.pred 95) 94 93 true true, .pnot .always (.pred 1) 2,
    .pmov .always (.pred 1) 2, .pmovGet .always (.reg 1) 64, .pmovSet .always 64 (.reg 1), .pmovSet .always 0 (.reg 1)] : List Instr).all
    (fun i => issues i) = true := by decide +kernel

theorem witness_Transfers :
    (issues (.bra (.ifClear 1) (.const 8) (.reg 1) .nz) (fun e _ => (List.range 8).all fun l => (e.w (.const 8) l).toNat % 8 == 0) &&
    issues (.bra .always (.const 8) (.reg 1) .always) (fun e _ => (List.range 8).all fun l => (e.w (.const 8) l).toNat % 8 == 0) &&
    issues (.brx .always (.reg 1) (.reg 2)) (fun e _ => (List.range 8).all fun l => (e.w (.reg 1) l + 8 * e.w (.reg 2) l).toNat % 8 == 0) &&
    issues (.call .always 1 (.reg 2) true) (fun e _ => (List.range 8).all fun l => (e.w (.reg 2) l).toNat % 8 == 0) &&
    issues (.ret .always (.reg 2)) fun e _ => (List.range 8).all fun l => (e.w (.reg 2) l).toNat % 8 == 0) = true := by decide +kernel

/-- Rejoin mask 0 holds lanes `m`. -/
def setJ (m : BitVec 8) (s : State) : State := s.modUnit (.strand 0 0) fun u => { u with jmask := modAt u.jmask 0 fun _ => m }

/-- Lane 0 sleeps with no time left. -/
def asleep (s : State) : State := s.modUnit (.strand 0 0) fun u =>
  { u with cur := 0xFE, lanes := modAt u.lanes 0 fun l => l.hold (.sleep 0) (0x1010, true) }

theorem witness_RejoinExitYieldAndTrap :
    (issues (.enrol 7) && issues (.rejoin 0) (fun e _ => e.path &&& nth e.u.jmask 0 0 == 0) &&
    issues (.rejoin 0) (fun e _ => e.path &&& nth e.u.jmask 0 0 == e.path && e.path != 0) (setJ 0xFF) &&
    clears (.exit .always) (fun e _ => e.act == e.path && e.act != 0 && !e.ctl) (setPath 0x0F) &&
    issues (.yield .always) (fun e _ => e.act != 0) && issues (.trap .always 7) && issues (.brk .always 7) &&
    issues (.sleep .always (.const 4)) (fun e _ => agrees e fun l => [e.src .i32 (.const 4) l]) &&
    (((placed (.nop .always) asleep).mayIssue (.strand 0 0)).any fun x => x.1.lanes.any fun l => l.wait == some (.sleep 0))) = true := by
  decide +kernel

/-- Every lane is in its handler. -/
def handling (s : State) : State := s.modUnit (.strand 0 0) fun u => { u with lanes := u.lanes.map fun l => { l with inHandler := true } }

theorem witness_Returns : ([.rte .always, .rteRetry .always] : List Instr).all (fun i => issues i (fun e _ =>
    e.act == e.path && e.act != 0 && !e.ctl && (List.range 8).all fun l => (e.u.lane l).inHandler) handling) = true := by decide +kernel

theorem witness_Signals :
    (clears (.signal .always (.const 15) (.reg 1)) (fun e t => (agrees e fun l => [e.src .i32 (.const 15) l]) &&
      decide ((e.w (.const 15) e.low).toNat < 1024) && (t.queue 15).cx == e.cx) &&
    clears (.signalMbox .always (.const 0) (.reg 1)) fun e _ => agrees e fun l => [e.src .i32 (.const 0) l]) = true := by decide +kernel

/-! ### Witnesses: barriers -/

/-- Barrier 3 of the workgroup is initialised for `n` arrivals. -/
def setBar (n : Nat) (s : State) : State := s.modBar (.wg 0 3) fun b => b.start n

theorem witness_WorkgroupBarrierWords :
    (clears (.barinit .always 3 (.const 1)) (fun e t => (agrees e fun l => [e.src .i32 (.const 1) l]) && (t.bar (.wg e.wid 3)).waiters == 0 &&
      (t.bar (.wg e.wid 3)).pend == 0 && decide (1 ≤ (e.w (.const 1) e.low).toNat)) &&
    clears (.barinit .always 15 (.g 0)) (fun e _ => (agrees e fun l => [e.src .i32 (.g 0) l]) && (e.w (.g 0) e.low).toNat == 65535) (setG 0 [65535]) &&
    clears (.bararr .always 3 (.g 0)) (fun e _ => (agrees e fun l => [e.src .i32 (.g 0) l]) && e.coversU && (e.w (.g 0) e.low).toNat == 65535)
      (setG 0 [65535] ∘ setBar 1) &&
    clears (.barwait .always (some 3) 3 (.const 0)) (fun e t => e.act != 0 && e.coversU && (t.bar (.wg e.wid 3)).valid == false) &&
    clears (.barwait .always (some 3) 3 (.const 1)) (fun e t => e.act != 0 && e.coversU && (t.bar (.wg e.wid 3)).valid &&
      (t.bar (.wg e.wid 3)).phase != (e.w (.const 1) e.low).getLsbD 0) (setBar 2) &&
    clears (.barwait .always none 3 (.const 0)) (fun e t => e.act != 0 && e.coversU && (t.bar (.wg e.wid 3)).valid &&
      (t.bar (.wg e.wid 3)).phase == (e.w (.const 0) e.low).getLsbD 0) (setBar 2) &&
    clears (.barinval .always 3) (fun e _ => e.act != 0) &&
    clears (.barrarr .always (.const 3) (.const 1)) (fun e t => (agrees e fun l => [e.src .i32 (.const 3) l, e.src .i32 (.const 1) l]) && e.coversU &&
      (t.remoteWg e (e.w (.const 3) e.low).toNat).isSome) &&
    clears (.barq .always (.reg 2) 3 .state) (fun e _ => e.act != 0 && e.coversU) &&
    clears (.barq .always (.reg 2) 3 .handle) fun e _ => e.act != 0) = true := by decide +kernel

theorem witness_WideBarrierWords : ([.die, .pkg, .pod] : List HScope).all (fun sc =>
    clears (.hbarInit .always (.const 3) (.const 1) sc) (fun e _ => (agrees e fun l => [e.src .i32 (.const 3) l, e.src .i32 (.const 1) l]) &&
      decide ((e.w (.const 3) e.low).toNat < scopeCount sc)) &&
    clears (.hbarArr .always (.const 3) sc) (fun e _ => (agrees e fun l => [e.src .i32 (.const 3) l]) && e.coversU) &&
    clears (.hbarWait .always (some 1) (.const 3) (.const 0) sc) (fun e _ => (agrees e fun l => [e.src .i32 (.const 3) l]) && e.coversU) &&
    clears (.hbarQ .always 2 (.const 3) true sc) fun e _ => (agrees e fun l => [e.src .i32 (.const 3) l]) && e.coversU) = true := by decide +kernel

/-- Arrival 7 is on its way to barrier 3, for a strand or for an engine operation. -/
def arriving (engine : Bool) : State := { placed (.nop .always) (setBar 2) with arrivals := [⟨7, none, .wg 0 3, 1, none, engine⟩] }

/-- Message 7 of operation `op` to barrier 0 of the package scope, answered or not. -/
def messaging (op : Nat) (r : Option (Option Cause × Bool × W64)) : State :=
  ({ placed (.nop .always) id with hmsgs := [⟨7, .strand 0 0, 0xFF, 0, 0, .pkg 0 0, op, if op = 2 then 0 else 1, none, 0, false, false, r⟩] } : State).modBar
    (.pkg 0 0) fun b => b.start 2

/-- A message as `messaging` gives it, with a predicate for its answer. -/
def answered (op : Nat) (pd : Option Nat) (r : Option (Option Cause × Bool × W64)) : State :=
  { messaging op r with hmsgs := (messaging op r).hmsgs.map fun m => { m with pd := pd } }

theorem witness_ArrivalsAndMessages :
    ((arriving false).arrivals.find? fun a => a.id == 7 && !a.engine).isSome ∧
    ((arriving true).arrivals.find? fun a => a.id == 7 && a.engine).isSome ∧
    (∀ op ∈ [0, 1, 2], (((messaging op none).hmsgs.find? fun m => m.id == 7 && !m.waiting && m.reply.isNone).any fun m => m.op == op &&
      (messaging op none).holdsBar m.bar) = true) ∧
    ((messaging 0 none).bar (.pkg 0 0)).busy = false ∧
    (((messaging 2 none).bar (.pkg 0 0)).valid = true ∧ ((messaging 2 none).bar (.pkg 0 0)).phase = false) ∧
    (((messaging 0 (some (none, false, 0))).hmsgs.find? fun m => m.id == 7).any fun m => m.reply == some (none, false, 0) && m.op == 0) = true ∧
    (∀ b ∈ [true, false], ((answered 2 (some 3) (some (none, b, 0))).hmsgs.find? fun m => m.id == 7).any (fun m =>
      m.reply == some (none, b, 0) && m.op == 2 && m.pd == some 3) = true) ∧
    ((answered 2 none (some (some .barBusy, false, 0))).hmsgs.find? fun m => m.id == 7).any (fun m => m.reply == some (some .barBusy, false, 0) && m.op == 2) = true ∧
    ((answered 3 none (some (none, false, 9))).hmsgs.find? fun m => m.id == 7).any (fun m => m.reply == some (none, false, 9) && m.op == 3) = true := by
  decide +kernel

/-! ### Witnesses: memory words -/

/-- A shape record of rank 1: base, FORMAT, extent, stride (R406). -/
def shapeBytes (base fmt ext stride : Nat) : List Byte :=
  leBytes 8 base ++ leBytes 8 (0x100 + fmt) ++ leBytes 32 ext ++ leBytes 8 stride ++ List.replicate 72 0

/-- A buffer record (R199). -/
def bufBytes (view len : Nat) : List Byte := leBytes 8 view ++ leBytes 8 len ++ List.replicate 111 0 ++ [1]

/-- Handle `h` names this record, as kept for the kernel on the quad (R406). -/
def setHandle (h : Nat) (bs : List Byte) (s : State) : State := s.modKernel 0 fun k => { k with handles := tabSet k.handles h bs }

/-- The workgroup has a W window and an A window of 4 KiB each. -/
def windows (s : State) : State := s.modKernel 0 fun k => { k with wsz := 1, asz := 1 }

/-- Address of byte `o` of the issuing core's window. -/
def winAddr (o : Nat) : Nat := 3 * 2^62 + o

/-- The plan of a load or store by each active lane. -/
def lanePlans (e : Env) (f : Nat → List Plan) : List (Nat × List Plan) := (lanesOf e.act).map fun l => (l, f l)

/-- The two halves of an address. -/
def halves (a : Nat) : List W32 := [BitVec.ofNat 32 a, BitVec.ofNat 32 (a / 2^32)]

theorem witness_LoadWords :
    (([0x1000, winAddr 0x10000, 2^63 + 64 * 2^20] : List Nat).all (fun a =>
      clears (.ld .always (.reg 2) (.g 2) (.const 0) false .b32) (fun e t =>
        (t.spots? e e.tlbs Need.load .load (lanePlans e fun l => [⟨(e.d (.g 2) l + (e.w (.const 0) l).signExtend 64).toNat, 4, 4⟩])).isSome)
        ((fun s => if a / 2^62 = 2 then s.setKeys 0 (tensorPhys 0 (a % 2^48)) 64 else s) ∘ paged ∘ windows ∘ setG 2 (halves a))) &&
    issues (.ldt .always 2 (.const 5) 1 false) (fun e t => (agrees e fun l => [e.src .i32 (.const 5) l]) &&
      (t.shape? e (.const 5)).any fun (r, t1) => r.rank == 1 && !e.regsBeyond [(1, r.rank), (2, 1)] && !t1.regsWait e [(1, r.rank), (2, 1)] &&
        (t1.clear? e).any fun t2 => (t2.spots? e [walkerOf e.core] Need.load .load
          (((lanesOf e.act).filter fun l => !r.clipped (e.coords 1 r.rank l)).map fun l => (l, [⟨r.addr (e.coords 1 r.rank l), r.size, r.size⟩]))).isSome)
      (paged ∘ setHandle 5 (shapeBytes 0x1000 2 4 4)) &&
    clears (.ldfr .always 8 (.g 2) (.g 4) false .e16) (fun e t => (agrees e fun l => [e.src .i64 (.g 2) l, e.src .i32 (.g 4) l]) &&
      (e.d (.g 2) e.low).toNat % 16 == 0 && (t.spots? e e.tlbs Need.load .load
        (lanePlans e fun l => fragPlans false (fragBits .e16) (e.d (.g 2) e.low).toNat (e.w (.g 4) e.low).toNat (8 * e.k + l))).isSome)
      (paged ∘ setG 2 [0x1000, 0, 64])) = true := by decide +kernel

theorem witness_StoreWords :
    (([0x1000, winAddr 0x11000] : List Nat).all (fun a => issues (.st .always (.g 2) (.const 0) (.reg 4) .b64) (fun e t =>
        (t.spots? e e.tlbs Need.store .store (lanePlans e fun l => [⟨(e.d (.g 2) l + (e.w (.const 0) l).signExtend 64).toNat, 8, 8⟩])).any
          fun (good, u) => (u.storable? e (writesOf good fun l => [e.storeBytes (.reg 4) 8 l])).isSome)
        (paged ∘ windows ∘ setG 2 (halves a))) &&
    issues (.stt .always (.const 5) 1 (.reg 2)) (fun e t => (agrees e fun l => [e.src .i32 (.const 5) l]) &&
      (t.shape? e (.const 5)).any fun (r, t1) => e.sttOk (.reg 2) r.size && !e.regsBeyond [(1, 1), (2, 1)] && !t1.regsWait e [(1, 1), (2, 1)] &&
        (t1.spots? e [walkerOf e.core] Need.store .store
          (((lanesOf e.act).filter fun l => !r.clipped (e.coords 1 r.rank l)).map fun l => (l, [⟨r.addr (e.coords 1 r.rank l), r.size, r.size⟩]))).any
            fun (good, u) => (u.storable? e (writesOf good fun l => [e.storeBytes (.reg 2) r.size l])).isSome)
      (paged ∘ setHandle 5 (shapeBytes 0x1000 2 4 4)) &&
    issues (.stfr .always (.g 2) (.g 4) 8 true .e8) (fun e t => (agrees e fun l => [e.src .i64 (.g 2) l, e.src .i32 (.g 4) l]) &&
      (t.spots? e e.tlbs Need.store .store
        (lanePlans e fun l => fragPlans true (fragBits .e8) (e.d (.g 2) e.low).toNat (e.w (.g 4) e.low).toNat (8 * e.k + l))).any
          fun (good, u) => (u.storable? e (writesOf good fun l => fragBytes true (fragBits .e8)
            ((List.range 8).foldl (fun n r => n + (e.vreg (8 + r) l).toNat * 2^(32 * r)) 0))).isSome)
      (paged ∘ setG 2 [0x1000, 0, 64])) = true := by decide +kernel

theorem witness_AtomicWords :
    (clears (.atom .always 6 (.g 2) (.const 1) .die false .max) (fun e t =>
        (t.spots? e e.tlbs Need.rmw .max (lanePlans e fun l => [⟨(e.d (.g 2) l).toNat, 4, 4⟩])).isSome) (paged ∘ setG 2 [0x1000, 0]) &&
    clears (.cas .always 6 (.g 2) (.reg 8) (.reg 10) .pod true) (fun e t =>
        (t.spots? e e.tlbs Need.rmw .other (lanePlans e fun l => [⟨(e.d (.g 2) l).toNat, 8, 8⟩])).isSome) (paged ∘ setG 2 [0x1000, 0]) &&
    issues (.ratom .always 6 (.g 2) (.reg 8) true .add) (fun e t =>
        (lanesOf e.act).all fun l => (t.ratomCheck e (e.d (.g 2) l).toNat 8).isNone) (paged ∘ setG 2 (halves (2^63 + 64 * 2^20)))) = true := by
  decide +kernel

/-- The monitor of the strand. -/
def setMon (m : Monitor) (s : State) : State := s.modUnit (.strand 0 0) fun u => { u with mon := m }

theorem witness_OrderingWords :
    (issues (.fence .always .pod) (fun e t => e.act != 0 && (t.asyncScopes e.ag).isEmpty && (lanesOf e.act).all fun l =>
        (t.failOf e.ag (scopeCode .pod) l).isNone) &&
    clears (.fenceTc .always) (fun e t => e.act != 0 && (t.asyncScopes e.ag).isEmpty && t.homes.isEmpty && (lanesOf e.act).all fun l =>
        (t.failOf e.ag 5 l).isNone) &&
    clears (.publish .always (.const 5)) (fun e t => e.u.stall.isNone && (agrees e fun l => [e.src .i32 (.const 5) l]) && e.coversU &&
        !t.recordHeld e ((e.w (.const 5) e.low).toNat % 4096) &&
        match t.record e.kid e.cx e.core ((e.w (.const 5) e.low).toNat % 4096) bufOf with
        | (.ok b, u) => (u.publishCheck e b).isNone && (match spaceOf u.fab b.view with | some .ctl => true | _ => false) &&
            (u.engineWrites e.cx b.view b.len).isEmpty && !u.ckptOn e.cx b.view
        | _ => false) (paged ∘ setHandle 5 (bufBytes (2^30) 4096)) &&
    clears (.mon .always (.g 2)) (fun e t => (agrees e fun l => [e.src .i64 (.g 2) l]) &&
        (match t.spotOf e e.tlbs Need.load .load e.low ⟨(e.d (.g 2) e.low).toNat, 1, 1⟩ with
          | (.ok x, u) => !u.mustWait e 1 Need.load x.loc
          | _ => false))
        (paged ∘ setG 2 [0x1001, 0]) &&
    clears (.mwait .always (some 1) (.const 8)) (fun e t => (agrees e fun l => [e.src .i32 (.const 8) l]) &&
        (t.unit? e.ag).any fun v => v.mon.st == .fired) (setMon ⟨.fired, 0, none, 7⟩) &&
    clears (.mwait .always none (.const 8)) (fun e t => (agrees e fun l => [e.src .i32 (.const 8) l]) &&
        (t.unit? e.ag).any fun v => v.mon.st == .armed) (setMon ⟨.armed, 0, none, 0⟩) &&
    ([true, false].all fun ev =>
      let i : Instr := if ev then .tierev .always 3 (.g 2) (.g 4) (.const 1) else .tierpf .always 3 (.g 2) (.g 4) (.const 1)
      let hbm := halves (2^63 + 0x100000)
      let cap := halves (2^63 + 0x100000000000)
      clears i (fun e t => e.grp.copyRole && (t.bar (.wg e.wid 3)).pend == 0 &&
          (agrees e fun l => [e.src .i64 (.g 2) l, e.src .i64 (.g 4) l, e.src .i32 (.const 1) l]) &&
          (t.tierCheck e (!ev) (e.d (.g 2) e.low).toNat (e.d (.g 4) e.low).toNat ((e.w (.const 1) e.low).toNat * 4096)).isNone)
        ((fun s => s.modKernel 0 fun k => { k with ranges := ⟨2^63 + 0x100000000000, 2^30, true, true, 0⟩ :: k.ranges }) ∘
          (fun s => (s.setMem 0x20100 (leBytes 8 (entry false false 0x22000))).setMem 0x22000 (leBytes 8 (entry true false 0x100000000000))) ∘ paged ∘
          setHandle 5 (bufBytes (if ev then 2^63 + 0x100000000000 else 2^63 + 0x100000) 4096) ∘
          setG 2 (if ev then cap else hbm) ∘ setG 4 (if ev then hbm else cap))) &&
    issues (.lastuse .always (.g 2) (.g 4)) (fun e t => (agrees e fun l => [e.src .i64 (.g 2) l, e.src .i32 (.g 4) l]) &&
        (t.lastuseCheck e (e.d (.g 2) e.low).toNat (e.w (.g 4) e.low).toNat).isNone)
        (paged ∘ setHandle 5 (bufBytes (2^63) 4096) ∘ setG 2 (halves (2^63) ++ [64]))) = true := by decide +kernel

/-! ### Witnesses: the matrix unit -/

/-- Group 0 has 32 threads. -/
def wide32 (s : State) : State := s.modGroup 0 fun g =>
  { g with width := 32, strands := g.strands ++ (List.range 3).map fun k => Strand.init (k + 1) 0xFF (List.replicate 8 placedLane) }

/-- acc 2 of the control thread is bound to tile 0 of core 0. -/
def boundTile (s : State) : State := s.modAcc 0 0 fun _ => ⟨.bound, 0, 0, 2, []⟩

/-- Entry 5 of die 0's tile table is Armed for context 0, its source a tile to come (SKIND 0) or marked ready (SKIND 1). -/
def armedTile (skind : Bool) (s : State) : State := s.modTile 0 5 fun t => { t with st := .armed, skind := skind, rcnt := 1, rstride := 1 }

theorem witness_MatrixWords :
    (issues (.mma 2 (.reg 10) (.reg 11) (.reg 0) false) (fun e t =>
      (t.mmaCheck e (e.d (.reg 10) 0).toNat (e.d (.reg 11) 0).toNat (e.d (.reg 0) 0).toNat).isNone && decide (t.mmaWaiting e.wid 0 < 4) &&
      t.tileOf e.wid 0 2 == some 0 && (t.acc 0 0).st != .draining) (wide32 ∘ boundTile ∘ setC 10 0 ∘ setC 11 8) &&
    ([true, false].all fun new => issues (.mma 2 (.reg 10) (.reg 11) (.reg 0) new) (fun e t =>
      (t.mmaCheck e (e.d (.reg 10) 0).toNat (e.d (.reg 11) 0).toNat (e.d (.reg 0) 0).toNat).isNone && decide (t.mmaWaiting e.wid 0 < 4) &&
      (t.tileOf e.wid 0 2).isNone && (t.spareTile 0).isSome) (wide32 ∘ setC 11 8)) &&
    issues (.accdrain 2 (.reg 12) (.reg 0)) (fun e t => (convWord (e.d (.reg 0) 0).toNat).isSome && (e.d (.reg 12) 0).toNat % 8 == 0 &&
      (t.regUseCheck e 0 [e.regUse 32 32]).isNone && (t.groupOn e.wid 0 0).isSome && !t.rangeHit 0 (4 * 32 * 32) (4 * 64 * 32) && !t.rangesFull 0)
      (wide32 ∘ setC 12 32) &&
    issues (.accst 2 (.reg 12) (.reg 0)) (fun e t => (convWord (e.d (.reg 0) 0).toNat).isSome &&
      (let v := (e.d (.reg 12) 0).toNat
       v % 2^20 % 16 == 0 && bits v 51 32 == 128 && e.wg.runOn 0 == some 0 && e.kern.area (v % 2^20) 4096 == some (.awin, 4096) &&
       !t.rangeHit 0 4096 8192 && !t.rangesFull 0)) (windows ∘ setC 12 (128 * 2^32 + 0x11000)) &&
    issues (.accwait 0 (.reg 0) false) (fun _ t => t.drains.isEmpty) && issues (.accwait 2 (.reg 12) true) (fun _ t => t.drains.isEmpty) &&
    issues (.accfree 7 (.reg 12))) = true := by decide +kernel

theorem witness_TileDrainWord :
    issues (.acctx 2 (.reg 12)) (fun e t => (t.tile 0 5).cx == e.cx && (t.tile 0 5).st == .armed && !(t.tile 0 5).skind &&
      (e.d (.reg 12) 0).toNat == 5 && t.inView e (t.ownVa (t.tile 0 5).roff) (t.tile 0 5).len && !(t.tile 0 5).lost t.fab.lostmap.toNat &&
      !t.tileFull 0 (t.tile 0 5) && t.drains.isEmpty) (armedTile false ∘ paged ∘ setHandle 5 (bufBytes (2^63) 4096) ∘ setC 12 5) = true := by
  decide +kernel

/-- The control thread's state with mma 7 of tile 0 outstanding. -/
def summing : State := ({ (placed (.accwait 0 (.reg 0) false) (wide32 ∘ boundTile)) with mmas := [⟨7, 0, 0, 0, 0, 8, 0, 0x1008, 0x1000, false⟩] } : State)

/-- Its state with drain 7 outstanding. -/
def draining (kind : DrainKind) (settled : Bool) : State :=
  { (placed (.accwait 0 (.reg 0) false) (wide32 ∘ boundTile ∘ windows ∘ armedTile false)) with
    drains := [⟨7, 0, 0, some 0, 2, kind, 0, settled, [], some 8, []⟩], ranges := [⟨8, 0, 4096, 8192, 7, false, false⟩] }

theorem witness_MatrixUnitSteps :
    (summing.nextMma 0).isSome ∧
    (∃ a b, summing.operandOf 0 0 0 = some a ∧ summing.operandOf 0 0 0 = some b ∧ summing.operandHeld 7 0 (some a) 0 8 = false ∧
      summing.operandHeld 7 0 (some b) 8 8 = false) ∧
    (let s := summing.modCtx 0 fun c => { c with res := true }
     (s.nextMma 0).isSome = true ∧ (s.ctx (s.cxOfWg 0)).res = true ∧ (s.ct? 0).isSome = true) ∧
    (let s := draining (.regs 0 32) false
     (s.drains.find? fun d => d.id == 7 && !d.settled && d.tile == some 0 && d.after.isEmpty).isSome = true ∧ s.unitRuns 0 = true) ∧
    (let s := draining (.regs 0 32) true
     (s.ranges.find? fun r => r.id == 8 && !r.saved).isSome = true ∧ (s.copies.find? fun c => c.id == 7) = none ∧
      (s.drains.find? fun d => d.id == 7 && d.settled).isSome = true) ∧
    (let s := draining (.entry 5) true
     ((s.drains.find? fun d => d.id == 7 && d.settled).any fun d => d.kind == .entry 5) = true ∧ (s.tile 0 5).st = .armed ∧
      (s.tile 0 5).skind = false ∧ ({ s with drains := s.drains.filter fun x => x.id != 7 } : State).tileFull 0 (s.tile 0 5) = false) := by
  refine ⟨?_, ⟨_, _, rfl, rfl, ?_, ?_⟩, ?_, ?_, ?_, ?_⟩ <;> decide +kernel

theorem witness_ControlBarrierWords :
    (clears (.cbarArr 3) &&
    clears (.cbarWait (some 4) 3 (.reg 0)) (fun e t => e.act != 0 && e.coversU && (t.bar (.wg e.wid 3)).valid && !(t.bar (.wg e.wid 3)).phase)
      (setBar 2) &&
    clears (.cbarWait none 3 (.reg 0)) (fun e t => e.act != 0 && e.coversU && !(t.bar (.wg e.wid 3)).valid) &&
    clears (.cbarInit 3 (.reg 10)) (fun e t => (e.d (.reg 10) 0).toNat == 65535 && (t.bar (.wg e.wid 3)).waiters == 0 &&
      (t.bar (.wg e.wid 3)).pend == 0) (setC 10 65535) &&
    clears (.cbarInval 15) && clears (.cbarQ 4 3 true)) = true := by decide +kernel

/-! ### Witnesses: copies, tiles, the tape, launches -/

/-- g10 names a shape of one element of control space, g20 is a coordinate, g12 a buffer, g14 a shape in the A window. -/
def copying (s : State) : State := (paged ∘ windows ∘ setHandle 5 (shapeBytes 0x1000 2 4 4) ∘ setHandle 6 (bufBytes (2^30) 4096) ∘
  setHandle 7 (shapeBytes (winAddr 0x11000) 2 4 4) ∘ setG 10 [5, 0, 6, 0, 7]) s

theorem witness_CopyWords :
    (issues (.copy .always 3 10 20 12) (fun e t => (t.copySource? e 10 20 12).any fun (r, xs, u) =>
      match u.engineRec e (e.greg 12).toNat bufOf with
      | (.ok bf, v) => (sources r xs).all (fun a => (v.sourceCheck e a r.size).isEmpty) &&
          (match spaceOf v.fab bf.view with | some .ctl => true | _ => false) && v.oneSpace .ctl bf.view (r.size * r.count) &&
          e.kern.leases true bf.view (r.size * r.count) &&
          decide (r.size * r.count ≤ bf.len) && (e.greg 13).toNat == 0 && !v.engineFull e [.wg e.wid 3]
      | _ => false) copying &&
    issues (.copyw .always 3 10 20 14) (fun e t => (t.copySource? e 10 20 14).any fun (r, xs, u) =>
      match u.engineRec e (e.greg 14).toNat shapeOf with
      | (.ok dr, v) => dr.rank == r.rank && dr.size == r.size && (match spaceOf v.fab dr.base with | some (.window 0 0 _) => true | _ => false) &&
          (match windowDest e.wg e.kern 0 r dr with
            | .ok (some rg) => !v.rangeHit rg.1 rg.2.1 rg.2.2 && !v.rangesFull rg.1
            | _ => false) && (sources r xs).all (fun a => (v.sourceCheck e a r.size).isEmpty && (v.sourceStore e a r.size).isNone) &&
          !v.engineFull e [.wg e.wid 3]
      | _ => false) copying &&
    issues (.copymc .always 0 10 20 14 0) (fun e t => (t.copySource? e 10 20 14).any fun (r, xs, u) =>
      match u.engineRec e (e.greg 14).toNat shapeOf with
      | (.ok dr, v) => dr.rank == r.rank && dr.size == r.size && (match spaceOf v.fab dr.base with | some (.window 0 0 _) => true | _ => false) &&
          (match v.receiver e r dr (e.greg 0).toNat with
            | .ok (c, w, b, some rg) => c == 0 && !v.rangeHit rg.1 rg.2.1 rg.2.2 && !v.rangesFull rg.1 && !v.engineFull e [.wg w b]
            | _ => false) && (sources r xs).all (fun a => (v.sourceCheck e a r.size).isEmpty && (v.sourceStore e a r.size).isNone)
      | _ => false) (copying ∘ setG 0 [3])) = true := by decide +kernel

/-- One range that can be recorded stands apart: the `copymc` of the witness above has one receiver. -/
theorem rangesApart_one (s : State) (x : Nat × Nat × Nat) (h : s.rangesFull x.1 = false) : s.rangesApart [x] := by
  intro i y hy
  match i with
  | 0 =>
    simp only [List.getElem?_cons_zero, Option.some.injEq] at hy
    subst hy
    simpa [State.rangesFull] using h
  | n + 1 => simp at hy

/-- Two ranges of one core that touch stand apart. -/
theorem witness_rangesApart : State.reset.rangesApart [(0, 0x10000, 0x10040), (0, 0x10040, 0x10080)] := by
  intro i x h
  match i with
  | 0 => simp only [List.getElem?_cons_zero, Option.some.injEq] at h; subst h; simp; decide
  | 1 => simp only [List.getElem?_cons_succ, List.getElem?_cons_zero, Option.some.injEq] at h; subst h; simp; decide
  | n + 2 => simp at h

theorem witness_TileTapeAndLaunchWords :
    (clears (.tready .always 10) (fun e t => e.act != 0 && (e.greg 10).toNat == 5 && (t.tile (e.core / 256) 5).cx == e.cx &&
      (t.tile (e.core / 256) 5).st == .armed && (t.tile (e.core / 256) 5).skind &&
      (let y := t.tile (e.core / 256) 5
       t.inView e (t.ownVa y.roff) y.len && !y.lost t.fab.lostmap.toNat && !t.tileFull (e.core / 256) y && t.tileSourceReady y))
      (armedTile true ∘ setG 10 [5] ∘ paged ∘ setHandle 5 (bufBytes (2^63) 4096)) &&
    clears (.tapepush .always 1 (.g 2) (.g 4) true) (fun e t => (agrees e fun l => [e.src .i64 (.g 2) l, e.src .i64 (.g 4) l]) &&
      (tapeCheck (e.d (.g 2) e.low).toNat (e.d (.g 4) e.low).toNat).isNone && !(t.queue e.kern.queue).pushRefused &&
      (t.pushTape e.kern.queue (e.d (.g 2) e.low).toNat (e.d (.g 4) e.low).toNat true).isSome)
      (paged ∘ (fun s => s.modQueue 0 fun q => { q with st := .idle, qtape := 0x400000 }) ∘ setG 2 [0x3000, 0, 0x4000, 0]) &&
    clears (.launch .always 1 (.g 2) (.const 0)) (fun e t => (agrees e fun l => [e.src .i64 (.g 2) l, e.src .i32 (.const 0) l]) &&
      (t.launchCheck e (e.d (.g 2) e.low).toNat 0).isNone && (t.launchInto e.cx (e.d (.g 2) e.low).toNat 0).any fun x => x.1)
      (paged ∘ (fun s => s.modQueue 0 fun q => { q with st := .idle, qring := 0x5000, rlog2 := 3 }) ∘ setG 2 [0x3000, 0])) = true := by
  decide +kernel

/-- Copy 7 into a buffer is outstanding, and tier move 8 of 4 KiB from the own capacity node. -/
def moving : State :=
  let s := (fun s : State => ((s.setMem 0x20100 (leBytes 8 (entry false false 0x22000))).setMem 0x22000 (leBytes 8 (entry true false 0x100000000000)))) (placed (.nop .always) (paged ∘ setBar 2))
  { s.setKeys 0 (tensorPhys 0 0x100000000000) 64 with
    copies := [⟨7, .strand 0 0, 0, 0, ⟨0x1000, 0, 0, 1, 4, [4], [4], [1]⟩, [0], .buffer ⟨2^30, 4096⟩ 0, some (.wg 0 3), [], 0, none⟩]
    tiers := [⟨8, .strand 0 0, 0, 2^63 + 0x100000000000, 2^63, 64, .wg 0 3, [], 0⟩] }

theorem witness_EngineOperations :
    ((moving.copies.find? fun c => c.id == 7).any fun c => moving.engineHas c && (match c.dst with | .buffer _ _ => true | _ => false) &&
      (c.lines.all fun x => moving.sourceReady c x) && moving.copyReady c ⟨2^30, 4096⟩ 0 &&
      (match moving.fetchAll c c.lines with
        | (none, c', u) => (match u.copyShadow c' ⟨2^30, 4096⟩ 0 with | (none, _) => c'.bar.isSome | _ => false)
        | _ => false)) = true ∧
    ((moving.tiers.find? fun t => t.id == 8).any fun t =>
      moving.tierReady t &&
      (match moving.tierLines t t.moved.length (t.len / 64 + 1) with | (none, _) => true | _ => false)) = true := by
  constructor <;> decide +kernel

/-! ### Witnesses: group-wide words, sample groups, system words -/

/-- A valid clause header of one word stands at the kernel's code, which is 4 KiB long (R308). -/
def coded (s : State) : State :=
  (s.modKernel 0 fun k => { k with codelen := 4096 }).setMem 0x1000 (leBytes 8 0xA0000E0000000000)

theorem witness_GroupWideWords :
    (([(.rswitch .always 1 (.g 2), fun e l => [e.d (.g 2) l]), (.reggrow .always 1 (.const 16), fun e l => [e.src .i32 (.const 16) l]),
       (.regshrink .always (.const 1), fun e l => [e.src .i32 (.const 1) l]),
       (.fork .always 1 (.g 2) (.const 2) (.lit 0), fun e l => [e.src .i32 (.g 2) l, e.src .i32 (.const 2) l, e.src .i32 (.lit 0) l]),
       (.reward .always (.g 2) (.const 25), fun e l => [e.src .i32 (.g 2) l, e.src .f32 (.const 25) l]),
       (.slack .always 4 (.g 2) 6, fun e l => [e.src .i32 (.g 2) l]), (.rcomb .always 4 8 (.g 2), fun e l => [e.d (.g 2) l])] :
        List (Instr × (Env → Nat → List W64))).all fun (i, vals) => issues i (fun e t => agrees e (vals e) && e.coversU && e.grp.gw.isNone &&
          e.grp.strands.length == 1 && (t.clear? e).isSome && countOk (e.w (.const 16) e.low).toNat && countOk (e.w (.const 1) e.low).toNat &&
          (e.w (.const 2) e.low).toNat == 2 && t.namesClause e.kern (e.w (.lit 0) e.low).toNat &&
          decide (8 + 32 / min e.grp.width 32 ≤ e.grp.regs)) (paged ∘ coded)) = true := by decide +kernel

/-- A live descriptor in a state, for two siblings. -/
def descriptor (st : SgState) : SgDesc :=
  ⟨1, 0, 2, false, false, false, false, st, 0, 1, 5, 5, 0, 0, 0, 0, 0, 5, 0, 0, 0, 0, 0, 0, 0, 0, 0, 1, 5, [⟨7, 0, false, 0, 0, true⟩, ⟨8, 0, false, 0, 0, true⟩], none⟩

/-- Descriptor 3 of context 0 is in this state, its parent the group placed. -/
def forked (st : SgState) (s : State) : State := { s.setSg 0 3 (descriptor st) with nextId := 100 }

/-- A round of descriptor 3 with one position, its packet come or not. -/
def combining (come : Bool) : State := { placed (.nop .always) id with
  rounds := [⟨0, 3, 0, 1, 0, 5, 5, [0], if come then [⟨0, .strand 0 0, 0, 4, [], [], 0⟩] else []⟩] }

/-- Die 0 works, the context has a large save area, the kernel runs on die 0. -/
def roomy (s : State) : State :=
  { (s.modCtx 0 fun c => { c with savelen := 2^40 }).modKernel 0 fun k => { k with diemask := 1 } with mgmt := { s.mgmt with dieok := 1 } }

/-- Places for two siblings on cores 1 and 2 of the die. -/
def twoPlaces : List Place := [⟨0, 0, 1, 1, 1, [8]⟩, ⟨0, 0, 2, 2, 2, [16]⟩]

theorem witness_SampleGroupSteps :
    (let s := placed (.nop .always) fun s => s.modGroup 0 fun g => { g with st := .growing, regs := 8, want := 16 }
     ((s.group? 0).any fun x => x.st == .growing && s.growRoom 0 x.want) && (s.kernelOf 0).isSome && (s.ctx 0).st == .active) = true ∧
    (let s := placed (.nop .always) (roomy ∘ forked .forming)
     (s.sg? 0 3).any fun d => (s.group? d.parent).any fun g => (s.kernel? d.kernel).any fun k => (s.wg? g.wg).any fun pw =>
      d.st == .forming && twoPlaces.length == d.k && decide (d.fwait ≤ d.forkwait.toNat) && (s.ctx 0).st == .active && !(s.ctx 0).restoring &&
      (s.placeSiblings d.kernel k 3 g pw d.entry twoPlaces 0).isSome) = true ∧
    (let s := placed (.nop .always) (forked .forming)
     let s := s.setSg 0 3 { descriptor .forming with fwait := 6 }
     (s.sg? 0 3).any fun d => d.st == .forming && decide (d.forkwait.toNat ≤ d.fwait) && (s.forkRoom 3 d).isNone && (s.ctx 0).st == .active) = true ∧
    clears (.sgcancel .always (.const 3) (.const 1)) (fun e t => (agrees e fun l => [e.src .i32 (.const 3) l, e.src .i32 (.const 1) l]) &&
      !t.sgHeld e.cx (sgIndex (e.src .i32 (.const 3) e.low)) &&
      (t.sgSee e.cx (sgIndex (e.src .i32 (.const 3) e.low))).any fun d => decide (1 < d.k) && d.st == .running) (forked .running) = true ∧
    (clears (.sgq .always 4 (.const 3) (.const 0)) (fun e t => (agrees e fun l => [e.src .i32 (.const 3) l]) && (e.w (.const 0) 0).toNat == 0 &&
      !t.sgHeld e.cx (sgIndex (e.src .i32 (.const 3) e.low)) &&
      (t.sgSee e.cx (sgIndex (e.src .i32 (.const 3) e.low))).isSome) (forked .scored) = true ∧
     clears (.sgq .always 4 (.const 3) (.const 21)) (fun e t => (agrees e fun l => [e.src .i32 (.const 3) l]) && (e.w (.const 21) 0).toNat == 64 &&
      (t.sgSee e.cx (sgIndex (e.src .i32 (.const 3) e.low))).isSome) (forked .scored) = true) ∧
    (let s := placed (.nop .always) (forked .running)
     (s.sg? 0 3).any fun d => d.st == .running && d.timeout != 0 && decide (d.timeout.toNat ≤ d.elapsed.toNat) && (s.ctx 0).st == .active) = true ∧
    (((placed (.nop .always) (forked .gathering)).sg? 0 3).any fun d => d.st == .gathering) = true ∧
    (((placed (.nop .always) (forked .scored)).sg? 0 3).any fun d => d.st == .scored) = true ∧
    ((combining true).rounds.find? fun o => o.die == 0 && o.desc == 3 &&
      (List.range o.n).all fun p => o.packets.any fun q => q.pos == p).isSome = true ∧
    ((combining false).rounds.find? fun o => o.die == 0 && o.desc == 3 && o.expired
      && ((combining false).ctx o.cx).st == .active && ((List.range o.n).find? fun p => !(o.packets.any fun q => q.pos == p)).isSome).isSome = true := by
  refine ⟨?_, ?_, ?_, ?_, ?_, ?_, ?_, ?_, ?_, ?_⟩ <;> decide +kernel

/-- A list of one entry for `ckptmark` stands at 0x3000: handle 5, OFF 0x1000. -/
def listed (s : State) : State := ((s.setMem 0x3000 (leBytes 8 5)).setMem 0x3008 (leBytes 8 0x1000))

theorem witness_SystemWords :
    (([0, 9, 0x10, 0x17, 0x40, 0x4F] : List Nat).all (fun n => issues (.sysrd .always (.reg 2) n)) &&
    clears (.syswr .always (.const 3) 6) (fun e _ => e.act != 0) &&
    ([0x10, 0x14, 0x17] : List Nat).all (fun n => issues (.syswr .always (.reg 2) n) (fun e _ => (lanesOf e.act).all fun l =>
      (e.u.lane l).inHandler && (e.d (.reg 2) l).toNat % 8 == 0) handling) &&
    issues (.dbgmark .always (.const 1)) (fun e t => bitAt (nth t.mgmt.tracemask (e.cx / 64) 0).toNat (e.cx % 64) && e.act != 0)
      (fun s => { s with mgmt := { s.mgmt with tracemask := [1, 0, 0, 0] } }) &&
    issues (.perfc .always (.reg 2) 0) && issues (.perfc .always (.reg 2) 7) &&
    clears (.icinv .always (.g 2) (.g 4)) (fun e t => e.u.stall.isNone && (agrees e fun l => [e.src .i64 (.g 2) l, e.src .i32 (.g 4) l]) &&
      (t.icinvCheck e (e.d (.g 2) e.low).toNat (e.w (.g 4) e.low).toNat).isNone && e.w (.g 4) e.low != 0 && t.liveRanks == [t.fab.rank])
      (paged ∘ setG 2 [0x1000, 0, 64]) &&
    clears (.ckptmark .always (.g 2) (.const 1) (.const 9)) (fun e t =>
      (agrees e fun l => [e.src .i64 (.g 2) l, e.src .i32 (.const 1) l, e.src .i32 (.const 9) l]) &&
      match t.loadList e (e.d (.g 2) e.low).toNat 2 with
      | (.ok (ws, locs), u) => (locs.all fun x => !t.mustWait e 8 Need.load x) && (match u.ckptBufs e ws with
          | (.ok bs, v) => (v.ckptEntryCheck bs (e.d (.g 2) e.low).toNat).isNone
          | _ => false)
      | _ => false) (listed ∘ paged ∘ setHandle 5 (bufBytes (2^63) 64) ∘ setG 2 [0x3000, 0])) = true ∧
    (let s : State := { placed (.nop .always) id with icinvs := [⟨7, .strand 0 0, 0, 0x1000, 64, false, [0, 1]⟩] }
     (s.icinvs.find? fun x => x.id == 7).any fun x => !x.dropped && x.acks.contains 1 && s.fab.rank != 1) = true ∧
    (let s : State := { (placed (.nop .always) paged).setKeys 0 (tensorPhys 0 0) 128 with ckpts := [⟨0, 5, ⟨2^63, 64⟩, 2^63 + 0x4000, 0⟩] }
     (s.ckpts.find? fun c => c.cx == 0 && c.handle == 5).any fun c =>
      ([c.buf.view, c.dest].all fun va => s.rangeReady 0 va c.buf.len false) && (match s.ckptParts 0 c.buf.view c.dest c.buf.len 6 with | (none, _) => true | _ => false)) = true := by
  refine ⟨?_, ?_, ?_⟩ <;> decide +kernel

/-! ### Witnesses: contexts -/

/-- The package is Ready. -/
def up (s : State) : State := { s with mgmt := { s.mgmt with st := .ready, dieok := 1 } }

/-- Context 255 of a Ready package is in this state. -/
def inState (st : CState) : State := (up State.reset).modCtx 255 fun c => { c with st := st, savebase := 2^63, satcnt := [] }

theorem witness_ContextCommands :
    ([.free, .building, .ready, .active, .preempting, .saved, .faulted, .draining] : List CState).all (fun st =>
      (inState st).isReady && ((inState st).ctx 255).st == st && ((inState st).ctx 255).commitOk (inState st).fab.rank &&
      !((inState st).ctx 255).restoring) = true := by decide +kernel

theorem witness_ContextCommandsElsewhere : (inState .free).isReady = true ∧ ((inState .free).ctx 255).st ≠ .building ∧
    ((inState .saved).ctx 255).st ≠ .free ∧ ((inState .draining).ctx 255).st = .draining ∧
    (let s := (inState .building).modCtx 255 fun c => { c with savebase := 2^63 + 1 }
     (s.ctx 255).st = .building ∧ (s.ctx 255).commitOk s.fab.rank = false) := by decide +kernel

/-- Context 0 is Ready and waits, its kernel Ready; fifteen or sixteen others hold slots. -/
def contending (n : Nat) : State :=
  let s := (up (placed (.nop .always) id)).modKernel 0 fun k => { k with st := .ready, queue := 1 }
  let s := (s.modCtx 0 fun c => { c with st := .ready, waitSince := some 0, ceil := 1 }).modQueue 1 fun q => { q with prio := 3 }
  (List.range n).foldl (fun s i => ({ s with kernels := tabSet s.kernels (i + 1) { placedKernel with cx := i + 1, st := .running } }).modCtx (i + 1)
    fun c => { c with st := .active }) s

/-- Context 0 is in this state, with pages and room for its save image in the own HBM node. -/
def leaving (st : CState) : State := (placed (.nop .always) paged).modCtx 0 fun c => { c with st := st, savebase := 2^63 }

theorem witness_ContextSteps :
    (let s := (up State.reset); s.mgmt.coolOut = false ∧ s.mgmt.hot = false) ∧
    (let s := ({ up State.reset with mgmt := { (up State.reset).mgmt with hot := true } } : State).modCtx 255 fun c => { c with ceil := 9, floor := 4, cur := 9 }
     s.mgmt.hot = true ∧ min (s.ctx 255).floor.toNat (s.ctx 255).ceil.toNat ≤ 4 ∧ 4 < (s.ctx 255).cur.toNat) ∧
    ((contending 15).firstWaiting = some 0 ∧ (contending 15).waitsForSlot 0 = true ∧ (contending 15).slotHolders.length < 16 ∧
      ((contending 15).ctx 0).st ≠ .saved) ∧
    (let s := ((up State.reset).modCtx 0 fun c => { c with st := .saved, ceil := 1, waitSince := some 0 })
     s.firstWaiting = some 0 ∧ s.waitsForSlot 0 = true ∧ s.slotHolders.length < 16 ∧ (s.ctx 0).st = .saved) ∧
    ((contending 16).firstWaiting = some 0 ∧ (contending 16).slotHolders.length = 16 ∧
      ((contending 16).ctxs.any fun (_, c) => c.st == .preempting && c.bySched) = false ∧
      ((contending 16).victim ((contending 16).rankOf 0)).isSome = true) ∧
    (let s := (leaving .preempting).modKernel 0 fun k => { k with st := .saved }
     (s.ctx 0).st = .preempting ∧ s.saveReady 0 = true) ∧
    (let s := (leaving .active).modCtx 0 fun c => { c with restoring := true }
     let s : State := { s with wgs := [] }
     (s.ctx 0).st = .active ∧ (s.ctx 0).restoring = true ∧
       (s.restoreWgs 0 (sectionIn (s.imageDir 0)) ((s.liveWgs 0).map Prod.fst)).toOption.isSome = true) ∧
    (let s := (leaving .draining).modKernel 0 fun k => { k with st := .done }
     (s.ctx 0).st = .draining ∧ s.engineBusy 0 = false ∧ s.kernelsOf 0 KState.busy = []) := by
  refine ⟨?_, ?_, ?_, ?_, ?_, ?_, ?_, ?_⟩ <;> decide +kernel

/-! ### Witness: the save image -/

/-- Context 0 of a Ready package is Preempting with nothing resident; its control page 0 lies at physical 0. -/
def imaged : State :=
  { ((up State.reset).setMem 0x10000 (leBytes 8 (entry false false 0x11000))).setMem 0x11000 (leBytes 8 (entry true false 0)) with
    ctxs := [(0, { Context.init with st := .preempting, xrootc := 0x10000 })] }

/-- The first line of the image's header (R56). -/
def firstLine : List Byte := leBytes 8 0x534B08C0 ++ leBytes 8 0 ++ leBytes 8 ((imaged.ctx 0).saveseq + 1).toNat ++ leBytes 8 imaged.dtime.toNat
    ++ leBytes 8 0 ++ List.replicate 24 0

/-- The state once the first line of the image is written. -/
def lined : State := imaged.poke 0 0 firstLine

theorem lined_mem : lined.mem.all (fun c => decide (c.1 < 64 ∨ 65536 ≤ c.1)) = true := by decide +kernel

theorem lined_rest : lined.groups = [] ∧ lined.cts = [] ∧ (lined.ctx 0).xrootc.toNat = 0x10000 ∧
    leNat (memRead lined.mem 0x10000 8) = entry false false 0x11000 ∧ leNat (memRead lined.mem 0x11000 8) = entry true false 0 := by
  decide +kernel

theorem lined_poke (a n : Nat) (h : 64 ≤ a) (k : a + n ≤ 65536) : lined.poke 0 a (List.replicate n 0) = lined := by
  have hm : memWrite lined.mem a (List.replicate n 0) = lined.mem := memWrite_unlisted _ _ _ fun c hc => by
    have := List.all_eq_true.mp lined_mem c hc
    have := of_decide_eq_true this
    omega
  have ht : isTensor a = false := by simp only [isTensor, Bool.and_eq_false_iff, decide_eq_false_iff_not]; omega
  obtain ⟨hg, hc, -⟩ := lined_rest
  generalize lined = s at *
  cases s
  simp only at hg hc hm
  subst hg hc
  simp only [State.poke, State.markDirty, State.setKeys, State.setMem, State.fireMonitors, State.awaiting, ht, hm, Bool.false_eq_true,
    if_false, List.map_nil, List.filterMap_nil, List.append_nil, List.foldl_nil, ite_self]

/-- A walk through tables of two levels whose entries are these. -/
theorem devPhys_low (s : State) (a : Nat) (h : a < 65536) (hr : (s.ctx 0).xrootc.toNat = 0x10000)
    (h0 : leNat (memRead s.mem 0x10000 8) = entry false false 0x11000) (h1 : leNat (memRead s.mem 0x11000 8) = entry true false 0) :
    s.devPhys 0 a true = .ok a := by
  have e0 : a % 2^48 / 2^(39 - 9 * 0) % 512 = 0 := by omega
  have e1 : a % 2^48 / 2^(39 - 9 * (0 + 1)) % 512 = 0 := by omega
  have et : a / 2^62 = 0 := by omega
  have f : pteFrame (entry false false 0x11000) = 0x11000 ∧ pteV (entry false false 0x11000) = true ∧
    pteLeaf (entry false false 0x11000) = false := by decide +kernel
  have g : pteFrame (entry true false 0) = 0 ∧ pteV (entry true false 0) = true ∧ pteLeaf (entry true false 0) = true ∧
    pteNr (entry true false 0) = false ∧ pteWr (entry true false 0) = true ∧ pteDual (entry true false 0) = false := by decide +kernel
  generalize entry true false 0 = e at *
  generalize entry false false 0x11000 = d at *
  have m0 : ∀ p, pteMalformed s.fab 0 a d false p = false := by
    intro p
    simp only [pteMalformed, f.1, Bool.false_eq_true, if_false, decide_eq_false_iff_not]; decide
  have m1 : ∀ p, pteMalformed s.fab 1 a e true p = false := by
    intro p
    simp only [pteMalformed, g.1, et, if_true, Nat.zero_mod]; rfl
  have hl : s.leaf 0 a = .ok ⟨0x11000, e, 2^30, 2^30⟩ := by
    have t : (0 : Nat) ≠ 2 := by decide
    simp only [State.leaf, et, hr, walkFrom, if_neg t, e0, e1, Nat.mul_zero, Nat.add_zero, h0, h1, f, g,
      show ((0 : Nat) == 3) = false from rfl, show ((0 + 1 : Nat) == 3) = false from rfl, Bool.false_or, Bool.false_and, Bool.false_eq_true,
      if_false, m0, Nat.zero_add, m1, Bool.not_true, if_true, levelSpan]
  have hb : s.physBy 0 a e (2^30) false = a := by
    unfold State.physBy
    rw [g.1, g.2.2.2.2.2, et, Bool.false_and]
    show (0 : Nat) + a % 2^30 + 0 = a
    omega
  unfold State.devPhys State.walk
  rw [hl]
  simp only [g.2.2.2.1, g.2.2.2.2.1, hb, if_true, Bool.false_eq_true, if_false]

theorem lined_put (n : Nat) : ∀ m a, 64 ≤ a → a % 64 = 0 → a + 64 * n = 65536 → n < m →
    (lined.savePut 0 a (List.replicate (64 * n) 0) m).isOk = true := by
  induction n with
  | zero =>
    intro m a _ _ _ hm
    cases m with
    | zero => omega
    | succ m => rfl
  | succ n ih =>
    intro m a h0 h1 h2 hm
    cases m with
    | zero => omega
    | succ m =>
      have he : (List.replicate (64 * (n + 1)) (0 : Byte)).isEmpty = false := rfl
      have hk : 64 - a % 64 = 64 := by omega
      have ht : (List.replicate (64 * (n + 1)) (0 : Byte)).take 64 = List.replicate 64 0 := by
        rw [List.take_replicate]; congr 1
      have hr : (List.replicate (64 * (n + 1)) (0 : Byte)).drop 64 = List.replicate (64 * n) 0 := by
        rw [List.drop_replicate]; rfl
      rw [State.savePut, he]
      simp only [hk, ht, hr, devPhys_low lined a (by omega) lined_rest.2.2.1 lined_rest.2.2.2.1 lined_rest.2.2.2.2, Bool.false_eq_true, if_false]
      rw [lined_poke a 64 (by omega) (by omega)]
      exact ih m (a + 64) (by omega) (by omega) (by omega) (by omega)

/-- The image of a context with nothing resident is its header. -/
theorem writeImage_header (s : State) (a b : List Byte) (c : Nat) (hg : (s.ctx 0).restoring = false) (hw : s.liveWgs 0 = []) (hc : s.coresOf 0 = [])
    (hb : (s.ctx 0).savebase.toNat = 0) (hh : s.imageHeader 0 = a ++ b) (hn : a.length + b.length = 64 * c) (ha : a.length = 64)
    (hi : s.devPhys 0 0 true = .ok 0) (hp : ((s.poke 0 0 a).savePut 0 64 b (c + 1)).isOk = true) : (s.writeImage 0).isOk = true := by
  have hl : (a ++ b).length / 64 + 2 = (c + 1) + 1 := by rw [List.length_append, hn]; omega
  have he : (a ++ b).isEmpty = false := by
    cases a with
    | nil => cases ha
    | cons _ _ => rfl
  have ht : (a ++ b).take 64 = a := by rw [← ha, List.take_left]
  have hr : (a ++ b).drop 64 = b := by rw [← ha, List.drop_left]
  simp only [State.writeImage, State.saveStores, hg, hw, hc, Bool.false_eq_true, if_false, List.flatMap_nil, List.append_nil, State.savePieces, hb, hh, Nat.add_zero, hl]
  rw [State.savePut, he]
  simp only [hi, Bool.false_eq_true, if_false, Nat.zero_mod, Nat.sub_zero, ht, hr, Nat.zero_add]
  cases h : (s.poke 0 0 a).savePut 0 64 b (c + 1) with
  | error e => rw [h] at hp; cases hp
  | ok t => rfl

/-- The header of a context without sections: its first line, then zeros. -/
theorem imageHeader_bare (s : State) (a : List Byte) (hs : s.sections 0 = []) (ha : a.length = 64)
    (h : leBytes 8 0x534B08C0 ++ leBytes 8 0 ++ leBytes 8 ((s.ctx 0).saveseq + 1).toNat ++ leBytes 8 s.dtime.toNat
      ++ leBytes 8 0 ++ List.replicate 24 0 = a) : s.imageHeader 0 = a ++ List.replicate (64 * 1023) 0 := by
  simp only [State.imageHeader, hs, List.flatMap_nil, List.append_nil, List.length_nil, h, ha]

/-- The image of that context is written. -/
theorem witness_SaveImage : (imaged.ctx 0).st = .preempting ∧ imaged.saveReady 0 = true ∧ (imaged.writeImage 0).isOk = true :=
  have hf : firstLine.length = 64 := by decide +kernel
  ⟨by decide +kernel, by decide +kernel,
    writeImage_header imaged firstLine (List.replicate (64 * 1023) 0) 1024 (by decide +kernel) (by decide +kernel) (by decide +kernel) (by decide +kernel)
      (imageHeader_bare imaged firstLine (by decide +kernel) hf rfl) (by rw [hf, List.length_replicate]) hf
      (devPhys_low imaged 0 (by decide) (by decide +kernel) (by decide +kernel) (by decide +kernel))
      (lined_put 1023 1025 64 (by decide) (by decide) (by decide) (by decide))⟩

/-! ### Witnesses: queues -/

/-- Queue 1023 of a Ready package, belonging to context 0, which is Active. -/
def queued (st : QState) : State := ((up (placed (.nop .always) paged)).modCtx 0 fun c => { c with ceil := 100, cur := 100 }).modQueue 1023 fun q =>
  { q with st := st, rlog2 := 3, clog2 := 3, qring := 0x5000, qcring := 0x8000, qtape := 0x400000 }

/-- A REVERSE with entry 0 of its group still to launch. -/
def stopped : Reverse := ⟨0, 0, [], [0], none, some 1, 0, 1, none, false, 0, 0⟩

theorem witness_QueueCommands :
    (let s := queued .disabled; s.isReady = true ∧ (s.queue 1023).st = .disabled ∧ 3 ≤ (s.queue 1023).rlog2 ∧ (s.queue 1023).rlog2 ≤ 16 ∧
      3 ≤ (s.queue 1023).clog2 ∧ (s.queue 1023).clog2 ≤ 12 ∧ baseOk (s.queue 1023).qring 256 = true ∧ baseOk (s.queue 1023).qcring 64 = true ∧
      baseOk (s.queue 1023).qtape (2^22) = true ∧ (s.ctx (s.queue 1023).cx).st ≠ .free) ∧
    (((queued .dispatching).queue 1023).st = .dispatching ∧ (queued .dispatching).isReady = true) ∧
    (let s := queued .stalled; s.isReady = true ∧ (s.queue 1023).st = .stalled ∧ (s.queue 1023).rev = none) ∧
    (((queued .idle).queue 1023).st ≠ .disabled ∧ ((queued .idle).queue 1023).st ≠ .draining ∧
      ((queued .idle).queue 1023).st ≠ .dispatching) ∧
    (let s := (queued .stalled).modQueue 1023 fun q => { q with stallRev := true, scause := .revabort, rev := some stopped }
     s.isReady = true ∧ (s.queue 1023).st = .stalled ∧ (s.queue 1023).stallRev = true ∧ (s.queue 1023).rev = some stopped ∧
      (s.queue 1023).scause = .revabort ∧
      ((s.modQueue 1023 fun x => { x with scause := .none, lastcmd := 3, stallRev := false }).revNext (s.queue 1023)
        { stopped with kernel := none, since := s.dtime }).2.2 = .kernel) ∧
    (((queued .disabled).modQueue 1023 fun q => { q with rlog2 := 17 }).queue 1023).rlog2 = 17 := by
  refine ⟨?_, ?_, ?_, ?_, ?_, ?_⟩ <;> decide +kernel

theorem witness_QueueCommandValues : (up State.reset).isReady = true ∧ (up State.reset).fab.rank < 64 ∧ ([0, 1, 2, 3, 4, 5, 6, 255] : List Nat).all
    (fun v => decide ((BitVec.ofNat 64 (0x700 + v)).toNat % 256 = v)) = true := by decide +kernel

/-- A record of TYPE `t` stands at the head of queue 1023, which is in this state: words 2, 3 and 4 follow. -/
def headed (st : QState) (t w2 w3 w4 : Nat) : State :=
  ((queued st).modQueue 1023 fun q => { q with qtail := 1, ready := some 0 }).setMem 0x5000 (leBytes 8 0 ++ leBytes 8 t ++ leBytes 8 w2 ++ leBytes 8 w3 ++ leBytes 8 w4)

/-- The head of queue 1023 is a record of TYPE `t`. -/
def headIs (s : State) (t : Nat) : Bool := match s.head 1023 with | .record rec => recType rec == t | _ => false

/-- That record is being taken: the state, and the record. -/
def taking (t w2 w3 w4 : Nat) : Option (State × List Byte) :=
  let s := headed .armed t w2 w3 w4
  match s.head 1023 with
  | .record rec => some (s.modQueue 1023 fun q => { q with st := .dispatching, disp := some rec }, rec)
  | _ => none

theorem witness_QueueRecords :
    (let s := headed .armed 7 0 0 0
     s.takeDue && s.chosen 1023 false && headIs s 7) = true ∧
    (([1, 2, 3, 4, 5, 6, 7] : List Nat).all fun t => (taking t 0x3000 9 0).any fun x => recError x.2 == none && recType x.2 == t &&
      (x.1.queue 1023).st == .dispatching && (x.1.queue 1023).disp == some x.2) = true ∧
    ((taking 3 7 0 0).any fun x => ((x.1.modQueue 1023 fun q => { q with depth := 65536 }).queue 1023).pushRefused) = true ∧
    (let s := headed .dispatching 3 7 0 0
     !(s.queue 1023).pushRefused && (s.devWrite 0 ((s.queue 1023).entryAt 0) (leBytes 8 2)).any fun t =>
      (t.devWrite 0 ((s.queue 1023).entryAt 0 + 0x18) (leBytes 8 7)).isSome) = true ∧
    (let s := headed .dispatching 5 0x3000 9 1
     (s.devRead 0 0x3000 8).isSome && (s.devWrite 0 0x3000 (leBytes 8 9)).isSome) = true ∧
    (let s := (queued .dispatching).modQueue 1023 fun q => { q with rev := some ⟨0, 0, [], [0], none, none, 0, 0, none, false, 0, 0⟩ }
     s.chosen 1023 true && ((s.queue 1023).rev.any fun r => r.todo == [0])) = true ∧
    (let s := headed .blocked 7 0 0 0
     (s.queue 1023).st == .blocked && (match s.head 1023 with | .record rec => (match s.holdOf 1023 rec with | .ok 0 => true | _ => false) | _ => false)) = true ∧
    (let s : State := { headed .blocked 4 0x3000 9 (5 * 2^32) with dtime := 5 }
     (s.queue 1023).st == .blocked && headIs s 4 && (s.queue 1023).ready == some 0 &&
      (match s.head 1023 with | .record rec => (match s.holdOf 1023 rec with | .ok h => h != 0 | _ => false) | _ => false)) = true ∧
    ((taking 4 0x3000 0 0).any fun x => match x.1.waitMet (x.1.queue 1023) x.2 with | .ok _ => true | _ => false) = true ∧
    ((taking 4 (2^40) 0 0).any fun x => recType x.2 == 4 && match x.1.waitMet (x.1.queue 1023) x.2 with | .error _ => true | _ => false) = true := by
  refine ⟨?_, ?_, ?_, ?_, ?_, ?_, ?_, ?_, ?_, ?_⟩ <;> decide +kernel

/-! ### Witnesses: kernels, clauses and traps -/

/-- The kernel is in this state, its context's ranges two pages. -/
def kernelIn (st : KState) (f : Kernel → Kernel := id) : State :=
  (up (placed (.nop .always) paged)).modKernel 0 fun k => f { k with st := st }

/-- A place for one workgroup of one strand beside the resident one. -/
def beside : Place := ⟨0, 0, 0, 1, 1, [1]⟩

theorem witness_KernelSteps :
    ([0, 1] : List Nat).all (fun n =>
      let s := kernelIn .queued fun k => { k with grid := (n, 1, 1), deps := [(1023, 0)] }
      let s := s.modQueue 1023 fun q => { q with qhead := 1 }
      (s.kernel? 0).any fun x => x.st == .queued && (s.ctx x.cx).st != .faulted && x.deps.all s.depMet &&
        x.grid.1 * x.grid.2.1 * x.grid.2.2 == n) = true ∧
    (let s := kernelIn .ranging fun k => { k with leased := [], ranges := [⟨0, 2^20, true, true, 0⟩], params := 0x3000, plen := 8 }
     (s.kernel? 0).any (fun x => x.st == .ranging && x.pcopy == 0 && (s.kernelLeaves x).any fun ls => s.leasable x (firstEach ls) &&
      !(s.ctx x.cx).faults.any (fun f => f.kernels.contains 0) &&
      (((firstEach ls).foldl (fun s l => s.leasePage x.cx l) s).devReadN x.cx x.params 1).isSome)) = true ∧
    (((kernelIn .running fun k => { k with leased := [0] }).kernel? 0).any fun x => x.leased != []) = true ∧
    (let s := kernelIn .ready fun k => { k with nextWg := 0, grid := (2, 1, 1) }
     let s : State := { s with mgmt := { s.mgmt with dieok := 1 }, nextId := 1 }
     let s := s.modCtx 0 fun c => { c with savelen := 2^40 }
     (s.kernel? 0).any fun x => s.placing x &&
      (let w := wgAt 0 x x.nextWg beside none
       (s.addWg x w beside (some (ctAt x 1 (x.xyz x.nextWg) (w.coreAt 0)))).any fun (wid, t) =>
        (t.addGroups x wid w x.specs 0 0 beside.strands).any fun u => u.waysFit w)) = true ∧
    (let s := (placed (.nop .always) id).modGroup 0 fun g => { g with st := .loading }
     (s.group? 0).any fun x => x.st == .loading && (s.ctx (s.cxOfWg x.wg)).st == .active) = true ∧
    (let s := kernelIn .draining
     (s.kernel? 0).any fun x => x.st == .draining && s.quiet 0 x &&
      (s.kernelAgents 0).all ((s.kernelAgents 0).foldl State.drain s).drained) = true := by
  refine ⟨?_, ?_, ?_, ?_, ?_, ?_⟩ <;> decide +kernel

/-- A clause of one `nop` and no literals at physical 0x1000: its header and its word. -/
def clauseAt (s : State) : State :=
  (s.setMem 0x1000 (leBytes 8 (10 * 2^60 + 7 * 2^41))).setMem 0x1008 (leBytes 8 ((encode (.nop .always)).getD 0).toNat)

/-- Every lane of strand 0 is parked with PRIV; the trap table at 0x30000 has a handler for it at 0x1000. -/
def parked : State :=
  ((placed (.nop .always) paged).setMem (0x30000 + 8 * Cause.code .priv) (leBytes 8 0x1000)).modCtx 0 (fun c => { c with trapbase := 0x30000 })
    |>.modUnit (.strand 0 0) fun u => u.mapLanes (fun _ => true) fun _ l => { l with parked := some .priv, tcause := BitVec.ofNat 8 (Cause.code .priv) }

theorem witness_IssueSteps :
    (let s := (placed (.nop .always) (clauseAt ∘ paged)).modUnit (.strand 0 0) fun u => u.mapLanes (fun _ => true) fun _ l =>
        { l with inClause := false, pc := 0x1000 }
     (s.mayIssue (.strand 0 0)).any fun (u, _, k) => lanesOf u.path == [0, 1, 2, 3, 4, 5, 6, 7] && !(u.lane 0).inClause && !s.fetchHeld k 0 (u.lane 0).pc &&
      (match s.fetchClause k 0 (u.lane 0).pc with | (.ok c, _) => c.words == [(encode (.nop .always)).getD 0] | _ => false)) = true ∧
    (let s := (placed (.nop .always) id).modUnit (.strand 0 0) fun u => { u with
        swash := 256, cur := 1, lanes := u.lanes.mapIdx fun k l => { l with inClause := false, pc := if k = 0 then 0x1000 else 0x1010 } }
     (s.mayIssue (.strand 0 0)).any fun (u, _, _) => lanesOf u.path == [0] && !(u.lane 0).inClause && decide (256 ≤ u.swash) &&
      u.yieldPath.cur != u.cur) = true ∧
    (parked.mayIssue (.strand 0 0)).any (fun (u, _, _) => u.parkedLanes != [] && parked.trapDue (.strand 0 0) u) = true := by
  refine ⟨?_, ?_, ?_⟩ <;> decide +kernel

/-! ### Witnesses: pages and segments -/

/-- Context 0 has a translation command in progress on control page 0. -/
def commanded (op : Nat) : State := (up (placed (.nop .always) paged)).modCtx 0 fun c => { c with xcmd := some ⟨op, 0, 0⟩ }

theorem witness_PageSteps :
    ([0, 2^63] : List Nat).all (fun page =>
      let s := up (placed (.nop .always) paged)
      s.isReady && (s.ctx 0).xcmd.isNone && s.pageOk page && match s.leaf 0 page with
        | .ok l => decide (s.pageState 0 page l < 3)
        | .error _ => false) = true ∧
    ((commanded 1).ctx 0).xcmd = some ⟨1, 0, 0⟩ ∧ ((commanded 2).ctx 0).xcmd = some ⟨2, 0, 0⟩ ∧
    (let s := commanded 3
     (s.ctx 0).xcmd == some ⟨3, 0, 0⟩ && match s.leaf 0 0 with | .ok l => s.segsActive (s.frameSegs 0 l) | .error _ => false) = true ∧
    (let s := (placed (.nop .always) paged).setPage ⟨0, 2^63, 0, some (1, 1), none, false, false, [], 0⟩
     match s.leaf 0 (2^63) with
     | .ok l => (s.page 0 (l.page (2^63))).moving == some (1, 1) && segDie (pteFrame l.pte / 2^30) == (maskDies 1).headD 0
     | .error _ => false) = true ∧
    (let s := (placed (.nop .always) paged).setPage ⟨0, 2^63, 0, some (1, 1), none, false, false, [], 0⟩
     let s := s.setMem 0x21000 (leBytes 8 (entry true false 0))
     match s.leaf 0 (2^63) with
     | .ok l => (s.page 0 (l.page (2^63))).moving == some (1, 1) && pteFrame l.pte != 2^33 &&
        s.frameFree (s.frames (2^63) l).2 l.psize (2^33) ((maskDies 1).headD 0) false &&
        s.segsActive (s.frameSegs (2^63) l ++ segsFrom (2^33) (s.frames (2^63) l).2)
     | .error _ => false) = true ∧
    (let s := (placed (.nop .always) paged).setPage ⟨0, 2^63, 0, none, none, false, true, [(3, 2^30)], 0⟩
     match s.leaf 0 (2^63) with
     | .ok l => (s.page 0 (l.page (2^63))).discard && (s.page 0 (l.page (2^63))).leases == 0 && (s.page 0 (l.page (2^63))).repl != [] &&
        decide ((s.leaseEnd 0 (2^63) l).toNat ≤ s.dtime.toNat)
     | .error _ => false) = true := by
  refine ⟨?_, ?_, ?_, ?_, ?_, ?_, ?_⟩ <;> decide +kernel

/-- A segment of a Ready package is in this state, with time gone by. -/
def aged (t : Tide) (waking : Bool) : State := ({ up State.reset with dtime := 2^40 } : State).modSeg 9 fun x => { x with tide := t, waking := waking }

theorem witness_SegmentSteps :
    (let s := aged .active false
     s.isReady = true ∧ s.wakers 9 = [] ∧ s.poolSeg 9 = false ∧ s.mirrorSeg 9 = false) ∧
    (let s := aged .active false
     (s.seg 9).waking = false ∧ s.kept 9 = false ∧ (s.seg 9).tide = .active ∧ s.segTimer 9 (fun p => p.idlet.toNat) ≠ 0 ∧
      (s.seg 9).last.toNat + 1000 * s.segTimer 9 (fun p => p.idlet.toNat) ≤ s.dtime.toNat) ∧
    (let s := aged .idle false
     (s.seg 9).waking = false ∧ s.kept 9 = false ∧ (s.seg 9).tide = .idle ∧ s.segTimer 9 (fun p => p.rett.toNat) ≠ 0 ∧
      (s.seg 9).last.toNat + 1000 * s.segTimer 9 (fun p => p.rett.toNat) ≤ s.dtime.toNat) ∧
    ((aged .off true).seg 9).waking = true ∧
    (let s : State := { State.reset with mgmt := { State.reset.mgmt with spares := [⟨7, 3, 4, 5⟩] } }
     (s.mgmt.spares.find? fun r => r.id == 7) = some ⟨7, 3, 4, 5⟩) := by
  refine ⟨?_, ?_, ?_, ?_, ?_⟩ <;> decide +kernel

/-! ### Witnesses: the memory service -/

/-- Strand 0 has one store of eight bytes queued at this address. -/
def storing (va at_ : Nat) (f : State → State := id) : State :=
  (f (placed (.nop .always) paged)).modUnit (.strand 0 0) fun u => { u with stores := [⟨0x1008, 0, true, [⟨0, va, at_, leBytes 8 77⟩], 0⟩] }

/-- The package of rank 0 is one of a pod of two. -/
def two (s : State) : State := { s with fab := { s.fab with podsize := 2 } }

theorem witness_StoreSteps :
    ([0x3000, 2^37] : List Nat).all (fun a =>
      let s := storing (if a = 2^37 then 2^31 else 0x3000) a fun s => s.setMem 0x11010 (leBytes 8 (entry true false (2^37)))
      (s.headStore (.strand 0 0)).any fun q => !s.storeInFlight (.strand 0 0) && !s.replicated (s.cxOf (.strand 0 0)) q.va && !s.rebuilding q.at_ &&
        !s.storeHeld (.strand 0 0) q && (decide (q.at_ < 2^43 ∧ homeRank q.at_ ≠ s.fab.rank) == (a == 2^37))) = true ∧
    (let s := storing 0x3000 0x3000 fun s => { s.setDir 1 0x3000 .shared with l1 := [⟨300, 0x3000, [], 0, 15, false, false⟩] }
     (s.headStore (.strand 0 0)).any fun q => !s.storeInFlight (.strand 0 0) && !s.replicated (s.cxOf (.strand 0 0)) q.va && !s.rebuilding q.at_ &&
      s.storeHeld (.strand 0 0) q && s.agentsIn 0 (lineOf 0x3000) true != []) = true ∧
    (let s := storing (2^63) (2^60) fun s => s.setPage ⟨0, 2^63, 0, none, none, false, false, [(3, 2^30)], 0⟩
     ((s.headStore (.strand 0 0)).any fun q => s.replicated (s.cxOf (.strand 0 0)) q.va && !s.storeInFlight (.strand 0 0) &&
      !s.storeBefore (.strand 0 0) q && s.segReady q.at_ &&
      s.mergeGood (s.cxOf (.strand 0 0)) q) && (s.kidOf (.strand 0 0)).isSome) = true ∧
    (let s : State := { State.reset with reps := [⟨7, some (.strand 0 0), 0, 2^60, leBytes 8 1, 9, [2, 3], 0, 0, 0, none⟩] }
     (s.reps.find? fun r => r.id == 7).any fun r => r.dies.contains 3 && s.segReady (s.replAddr 3 r.addr) && s.reps.all fun x => !(x.dies.contains 3) ||
      decide (r.t.toNat < x.t.toNat ∨ (x.t = r.t ∧ r.id ≤ x.id))) = true ∧
    (let s : State := { State.reset with homes := [⟨7, some (.strand 0 0), true, 0, 0, false, [⟨0, 0x3000, 0x3000, leBytes 8 1⟩], false, 0, none⟩,
      ⟨8, none, false, 0, 0, false, [⟨0, 0x3008, 0x3008, leBytes 8 1⟩], true, 0, none⟩] }
     (s.homes.find? fun h => h.id == 7 && !h.applied).any (fun h => !s.homeHeld h &&
      s.homes.all fun x => !(x.ag == h.ag && x.core == h.core) || decide (h.id ≤ x.id)) &&
      (s.homes.find? fun h => h.id == 8 && h.applied).any fun h => !s.homeHeld h) = true := by
  refine ⟨?_, ?_, ?_, ?_, ?_⟩ <;> decide +kernel

/-- A miss of core 0 on line 0x3000 is in flight, and its workgroup has L1 ways; the line is dirty elsewhere. -/
def missing : State :=
  { ((placed (.nop .always) id).modWg 0 fun w => { w with l1w := 2 }) with
    misses := [⟨7, 0, 0, 2^60, 2^60, 0, 0⟩], l1 := [⟨300, 0x4000, [], 0, 0, false, false⟩], dirty := [⟨2^60, [], none⟩]
    pend := [⟨9, .strand 0 0, 3, true, [.vreg 2 0 5]⟩], inWrites := [] }

theorem witness_MemoryServiceSteps :
    (missing.pend.find? fun p => p.id == 9 && p.ready) = some ⟨9, .strand 0 0, 3, true, [.vreg 2 0 5]⟩ ∧
    (missing.misses.find? fun m => m.id == 7) = some ⟨7, 0, 0, 2^60, 2^60, 0, 0⟩ ∧ missing.fillKept ⟨7, 0, 0, 2^60, 2^60, 0, 0⟩ = true ∧ missing.rebuilding (2^60) = false ∧
    missing.dieHolds 3 (lineOf 0x3000) = false ∧ missing.rebuilding 0x3000 = false ∧
    (missing.agentsIn 3 (lineOf 0x3000) true = [] ∧ (missing.ctlOwn 3 (lineOf 0x3000)).storers 3 (lineOf 0x3000) = []) ∧
    (let s := storing 0x3000 0x3000
     s.agentsIn 0 (lineOf 0x3000) true == [] && (s.ctlOwn 0 (lineOf 0x3000)).storers 0 (lineOf 0x3000) == [.strand 0 0] &&
      !(s.ctlOwn 0 (lineOf 0x3000)).storeInFlight (.strand 0 0) &&
      ((s.ctlOwn 0 (lineOf 0x3000)).headStore (.strand 0 0)).all (fun q => !(s.ctlOwn 0 (lineOf 0x3000)).storeBefore (.strand 0 0) q) && homeRank (lineOf 0x3000) == s.fab.rank) = true ∧
    (({ missing with clk := 127 } : State).clk.toNat % 64 = 63 ∧ tabGet ({ missing with clk := 127 } : State).ptsAt 0 devUnit ≤ ({ missing with clk := 127 } : State).span ∧
      (∀ x ∈ missing.l1, x.core = 0 → x.line ≠ lineOf (2^60)) ∧ (∃ x ∈ missing.dirty, x.line = lineOf (2^60)) ∧
      (∀ x ∈ missing.l1, x.line = lineOf (2^60) → x.dirty = false)) ∧
    (∃ x ∈ missing.l1, x.core = 300 ∧ x.line = lineOf 0x4010) ∧
    (let s := two (placed (.nop .always) paged)
     1 < s.fab.podsize ∧ 1 ≠ s.fab.rank ∧ bitAt s.fab.lostmap.toNat 1 = false ∧ s.inNode (inHbm 64) (s.ownVa 64) 8 = true ∧
      s.inWriteOk 0 (s.ownVa 64) 8 = true ∧ s.inWriteOk 9 (s.ownVa 64) 8 = false) := by
  refine ⟨?_, ?_, ?_, ?_, ?_, ?_, ?_, ?_, ?_, ?_⟩ <;> decide +kernel

/-- A remote atomic of lane 0 on rank `r`. -/
def ratomed (rank : Nat) (lost : Bool) (applied : Option (W64 ⊕ Cause)) : State :=
  let s := two (placed (.nop .always) id)
  { s with
    fab := { s.fab with lostmap := if lost then 2 else 0 }
    ratoms := [⟨7, .strand 0 0, 0, 0, 2^63 + rank * 2^48 + 64, false, .add, 1, 9, applied, 0⟩] }

theorem witness_WaitingMemoryWords :
    (let s := (placed (.nop .always) id).modUnit (.strand 0 0) fun u => { u with mon := ⟨.waiting, 0x3000, some 0, 0⟩ }
     (s.unit? (.strand 0 0)).any fun u => u.mon.st == .waiting && u.mon.left == some 0 && (s.ctx (s.cxOf (.strand 0 0))).st == .active) = true ∧
    (let s : State := { placed (.nop .always) id with lastuses := [⟨7, .strand 0 0, 0, [(2^60, 2^60 + 64)], [5], []⟩] }
     (s.lastuses.find? fun x => x.id == 7).any fun x => (x.after.all fun o => !s.writeOpen o && s.ratoms.all fun r => r.id != o) &&
      ((s.unit? x.ag).any fun u => u.stores == []) && s.homes == [] && s.reps == []) = true ∧
    (let s : State := { placed (.nop .always) id with pubs := [⟨7, .strand 0 0, 1, 0, 0, 5, ⟨2^63, 64⟩, [3], none, false⟩] }
     (s.pubs.find? fun p => p.id == 7 && p.remote.isNone).any fun p => (p.before.all fun w => !s.writeOpen w) && !s.ckptOn p.cx p.buf.view) = true ∧
    (let s : State := { placed (.nop .always) id with pubs := [⟨7, .strand 0 0, 1, 0, 0, 5, ⟨2^63 + 2^48, 64⟩, [], some 1, true⟩] }
     (s.pubs.find? fun p => p.id == 7 && p.remote.isSome).isSome) = true ∧
    (let s := two (placed (.nop .always) paged)
     spaceOf s.fab (2^63) = some (.own 0) ∧ 1 < s.fab.podsize ∧ 1 ≠ s.fab.rank ∧ bitAt s.fab.lostmap.toNat 1 = false ∧
      s.engineWrites 0 (2^63) 64 = [] ∧ s.ckptOn 0 (2^63) = false ∧ (s.ctx 0).st ≠ .free ∧ (s.ctx 0).st ≠ .building ∧
      (s.rangeLeaves 0 (2^63) 64).all (fun (a, r) => match r with
        | .ok l => pteDual l.pte && pteWr l.pte && s.pageHere 0 a l
        | .error _ => false) = true) ∧
    ([(0, false), (1, true), (1, false)] : List (Nat × Bool)).all (fun (r, lost) =>
      let s := ratomed r lost none
      (s.ratoms.find? fun r => r.id == 7).any fun x => x.applied == none && bits x.addr 61 48 == r && s.fab.rank == 0 &&
        bitAt s.fab.lostmap.toNat r == lost) = true ∧
    ((ratomed 1 false (some (.inl 5))).ratoms.find? fun r => r.id == 7).any (fun r => r.applied == some (.inl 5)) = true ∧
    (let s := ratomed 1 false (some (.inr .align))
     (s.ratoms.find? fun r => r.id == 7).any fun r => r.applied == some (.inr .align) && s.laneLive r.ag r.lane) = true ∧
    (((placedLane.hold (.mwait none) (0x1008, true)).wait = some (.mwait none)) ∧ (placedLane.hold (.mwait (some 95)) (0x1008, true)).wait = some (.mwait (some 95)) ∧
      placedLane.wait = none ∧ inactive ≠ 95) ∧
    nth ({ placedLane with owed := [none, none, none, some 7] } : Lane).owed 3 none = some 7 := by
  refine ⟨?_, ?_, ?_, ?_, ?_, ?_, ?_, ?_, ⟨?_, ?_, ?_, ?_⟩, ?_⟩ <;> decide +kernel

/-! ### Witnesses: hosts, ports, collectives, management -/

theorem witness_HostAccesses :
    (let s := up State.reset
     s.hostPhys none 0x3000 = some 0x3000 ∧ s.hostWaits none 0x3000 0x3000 = false ∧ s.agentsIn 8 0x3000 true = [] ∧ s.homes = [] ∧
     (∃ b, s.blockOf (blockBase + 0x40) = some (some b)) ∧ (blockBase + 0x40) % 8 = 0 ∧ blockBase ≤ blockBase + 0x40 ∧ blockBase + 0x40 < 2^48) := by
  refine ⟨by decide +kernel, by decide +kernel, by decide +kernel, by decide +kernel, ⟨_, rfl⟩, by decide +kernel, by decide +kernel, by decide +kernel⟩

/-- A good flit of kind 0, SEQ 0 and ACK 0. -/
def flit : List Byte := List.replicate 60 0 ++ leBytes 4 (crc32 (List.replicate 60 0))

/-- Port 3 is as `f` makes it; it reaches rank 1 of a pod of two. -/
def ported (f : Port → Port) : State :=
  let s := two State.reset
  ({ s with fab := { s.fab with ports := List.replicate 12 Port.init, table := [(1, [3])] } } : State).modPort 3 f

theorem witness_FabricSteps :
    ([.down, .training, .up, .degraded, .lost] : List LState).all (fun st =>
      ((ported fun p => { p with st := st, lanes := 0xFF }).fab.port 3).st == st && ((ported fun p => { p with st := st, lanes := 0xFF }).fab.port 3).lanes.getLsbD 5) = true ∧
    ([0, 1, 2] : List Nat).all (fun n => ([true, false] : List Bool).all fun w =>
      let p := (ported fun p => { p with st := .training, failures := n, retryWait := w }).fab.port 3
      p.st == .training && p.failures == n && p.retryWait == w) = true ∧
    (flit.length = 64 ∧ crc32 (flit.take 60) = leNat (flit.drop 60) ∧ flitSeq flit = 0 ∧ flitVc flit < 6 ∧ flitKind flit ≠ 2 ∧ flitKind flit ≠ 3) ∧
    (let s := ported fun p => { p with st := .up }
     (s.fab.port 3).expect = 0 ∧ s.fab.bestRoute 1 = some 3 ∧ tabFind? s.fab.route (8 * 1 + 2) ≠ some 3 ∧ s.peer 1 = true) ∧
    ((ported id).fab.bestRoute 1 = none ∧ (ported id).peer 1 = true) ∧
    (1 : Nat) ∈ ((two State.reset).modFab fun f => { f with rebuilding := [1] }).fab.rebuilding := by
  refine ⟨?_, ?_, ?_, ?_, ?_, ?_⟩ <;> decide +kernel

/-- Entry 5 of die 0's table, of a `sum` over ranks 0 and 1, is in this state. -/
def tiled (st : TState) (f : TileEntry → TileEntry := id) : State :=
  (two (placed (.nop .always) paged)).modTile 0 5 fun t => f { t with st := st, rcnt := 2, rstride := 1 }

/-- A contribution from position 1. -/
def fromOne (fmt : Nat) : Contribution := ⟨0, 1, 0, fmt, 2, List.replicate 1024 0, false, false⟩

theorem witness_CollectiveSteps :
    ([.empty, .armed, .fired, .complete, .error] : List TState).all (fun st => ((tiled st).tile 0 5).st == st) = true ∧
    (let s := tiled .fired
     s.contributionOk (s.tile 0 5) (fromOne 0) && (s.tile 0 5).agrees (fromOne 0) && (s.tile 0 5).position s.fab.rank == some 0 && ((s.tile 0 5).take 0 (fromOne 0)).isSome) = true ∧
    ((tiled .armed).contributionOk ((tiled .armed).tile 0 5) (fromOne 3) = true ∧
      (tiled .armed).contributionOk ((tiled .armed).tile 0 5) { fromOne 3 with cx := 9 } = false ∧ ((tiled .armed).tile 0 5).agrees (fromOne 3) = false ∧ ((tiled .armed).tile 0 5).agrees (fromOne 0) = true ∧ (tiled .armed).pendingStore 0 < 64) ∧
    (let s := tiled .fired fun t => { t with fmt := 2, result := some ⟨0, 0, 0, 2, 2, List.replicate 64 5, false, false⟩ }
     let t := s.tile 0 5
     s.rangeReady t.cx (s.ownVa t.roff) (1024 * tileElem t.fmt) true &&
      t.result.any (fun r => ((s.served 2048 (t.firedAt + (s.dueIn 1 - s.dtime))).shadowWrites [] true t.cx (s.ownVa t.roff) (tileBytes t.fmt r.data) ((tileBytes t.fmt r.data).length / 64 + 2)).1 == none) &&
      t.position s.fab.rank == some 0 && (s.ctx t.cx).st != .free && (s.ctx t.cx).st != .building && decide (t.op ≤ 3) && !t.bv) = true ∧
    (let s : State := { tiled .fired with dtime := 2^40 }
     (s.tile 0 5).result = none ∧ s.fab.collto ≠ 0 ∧ (s.tile 0 5).firedAt.toNat + s.fab.collto.toNat ≤ s.dtime.toNat) := by
  refine ⟨?_, ?_, ?_, ?_, ?_⟩ <;> decide +kernel

/-- The management core is in this state. -/
def managed (st : MState) (f : Mgmt → Mgmt := id) : State := { State.reset with mgmt := f { State.reset.mgmt with st := st, fwlen := 0x1000 } }

theorem witness_ManagementSteps :
    (let s := managed .ready fun m => { m with hot := true }
     1100 ≤ s.mgmt.mhz ∧ s.mgmt.hot = true ∧ s.atFloor = true ∧ s.atBoundary = true) ∧
    (let s := managed .ready fun m => { m with mhz := 1000 }
     s.mgmt.mhz < 1100 ∧ 1100 % 100 = 0) ∧
    (((0x52535445 * 2^32 : W64).toNat / 2^32 = 0x52535445) ∧ (1 : W64).toNat / 2^32 ≠ 0x52535445) ∧
    ((managed .reset).mgmt.wellFormed = true ∧ (managed .failed).mgmt.wellFormed = true ∧ (managed .ready).mgmt.st ≠ .reset ∧ (managed .ready).mgmt.st ≠ .failed) ∧
    (managed .authenticating).mgmt.st = .authenticating ∧
    (let s := (managed .ready).modCtx 255 fun c => { c with ceil := 9, floor := 4, cur := 9 }
     ((255, s.ctx 255) ∈ s.ctxs) ∧ min (s.ctx 255).floor.toNat (s.ctx 255).ceil.toNat < (s.ctx 255).cur.toNat) ∧
    ((managed .training).mgmt.st = .training ∧ (managed .training).mgmt.dieok = 0 ∧ (0x81 : Byte) ≠ 0) ∧
    (let s := managed .training fun m => { m with dieok := 0x81 }
     let r : TrainingOutcome := ⟨0x81, 0, 2, false, 2, [], 0⟩
     s.mgmt.st = .training ∧ r.dieok = s.mgmt.dieok ∧ r.rank < 64 ∧ r.podsize ≤ 64 ∧ r.rank < r.podsize ∧ r.dieok ≠ 0 ∧ mirrorOf r.rank r.podsize = some 1) := by
  refine ⟨?_, ?_, ?_, ?_, ?_, ?_, ?_, ?_⟩ <;> decide +kernel

/-! ### Witnesses: encodings and steps -/

theorem witness_Encodings :
    (([.fence .always .die, .hbarInit .always (.reg 1) (.reg 2) .pkg, .hbarArr .always (.reg 1) .pod, .hbarWait .always (some 5) (.reg 1) (.reg 2) .pod,
      .hbarQ .always 1 (.reg 2) true .die, .atom .always 2 (.g 2) (.reg 4) .die false .add, .cas .always 2 (.g 2) (.reg 4) (.reg 5) .pkg false] :
      List Instr).all fun i => i.isWord && i.wf && (encode i).isSome) = true ∧
    ((BitVec.ofNat 64 (0xA6 * 2^56 + 7)).toNat / 2^56 = 0xA6 ∧ 6 ≤ (BitVec.ofNat 64 (0xA6 * 2^56 + 7)).toNat % 8) ∧
    ((BitVec.ofNat 64 (0xB7 * 2^56 + 6 * 32)).toNat / 2^56 = 0xB7 ∧ 6 ≤ (BitVec.ofNat 64 (0xB7 * 2^56 + 6 * 32)).toNat / 32 % 8) ∧
    (BitVec.ofNat 64 (0xA6 * 2^56 + 2)).toNat % 8 < 3 ∧ unassigned 0xFF = true ∧ unassigned 0x01 = false ∧
    (match decode (BitVec.ofNat 64 (0x01 * 2^56 + 511)) with | .error c => c == .illegalEncoding | .ok _ => false) = true := by
  refine ⟨?_, ?_, ?_, ?_, ?_, ?_, ?_⟩ <;> decide +kernel

/-- The agent stands at the placed word, and it is its turn. -/
def readyFor (s : State) (ag : Agent) (i : Instr) : Bool :=
  s.slotFor ag 0 == [ag] && s.due.isEmpty && s.pressed == none && s.mayTurn (.issue ag) && (s.mayIssue ag).any fun (u, _, _) => (s.dueResidue ag).isNone && u.parkedLanes == [] && lanesOf u.path != [] &&
    (let l := u.lane ((lanesOf u.path).headD 0)
     l.inClause && u.clause.any fun cl => cl.hdr == l.hdr && (match decode (nth cl.words l.cwi 0) with | .ok j => decide (j = i) | .error _ => false))

theorem witness_Steps :
    (let s := { placed (.nop .always) id with turns := [.issue (.strand 0 0), .event .temperatureRise] }
     readyFor ({ s with turns := s.turns.tail } : State) (.strand 0 0) (.nop .always)) = true ∧
    ((placed (.mma 1 (.reg 10) (.reg 13) (.reg 0) true) id).turns = [] ∧
      readyFor (placed (.mma 1 (.reg 10) (.reg 13) (.reg 0) true) id) (.ctl 0) (.mma 1 (.reg 10) (.reg 13) (.reg 0) true) = true) ∧
    (Instr.isWord .temperatureRise = false ∧ (placed (.nop .always) id).reqOf .temperatureRise = none) ∧ (placed (.nop .always) id).mayTurn (.event .temperatureRise) = true ∧
    (missing.mayTurn (.event (.missFill 7 [])) && (missing.reqOf (.missFill 7 [])).any missing.servesNow) = true ∧
    (placed (.nop .always) id).mayElapse 1536 = true ∧ (placed (.nop .always) id).mayTurn (.elapse 1536) = true ∧
    (let s := ({ State.reset with fab := { State.reset.fab with rebuilding := [1] } } : State)
     s.inRebuild = true ∧ stallsInRebuild (.holdRelease 1) = true ∧ s.mayTurn (.event (.holdRelease 1)) = true) ∧
    (let s := placed (.nop .always) fun s => s.modGroup 0 fun g => { g with st := .growing, regs := 8, want := 16 }
     s.turns = [] ∧ s.due ≠ []) ∧
    (State.reset.turns = [] ∧ State.reset.focus = none ∧ State.reset.due = [] ∧ State.reset.pressed = none) ∧
    (match decode 0x0100000000000000 with | .ok i => i.isWord | .error _ => false) = true := by
  refine ⟨?_, ?_, ?_, ?_, ?_, ?_, ?_, ?_, ?_, ?_, ?_⟩ <;> decide +kernel

/-- A run of one turn from reset: memory is in canonical form before and after. -/
theorem witness_MemoryCanonical : Memory.wf State.reset.mem = true ∧ (match step State.reset with
    | .next t => Memory.wf t.mem && t.mem == State.reset.mem
    | _ => false) = true ∧
    (match step ({ State.reset with turns := [.event (.hostCoreAccess ⟨0, none⟩ (.store 0x3000 8 5))], mgmt := { State.reset.mgmt with st := .ready } } : State) with
    | .next t => Memory.wf t.mem && t.mem == [(0x3000, 5)]
    | _ => false) = true := by
  refine ⟨?_, ?_, ?_⟩ <;> decide +kernel

/-! ### Witnesses: frames, traps, checks -/

theorem witness_Finished :
    issues (.iadd .always (.reg 9) (.reg 2) (.const 1) .wrap) (fun e t => e.ag == .strand 0 0 && e.act &&& ~~~e.path == 0 &&
      ((t.group? 0).any fun x => (x.strands[0]?).any fun u => (lanesOf e.path).all fun l => decide (l < u.lanes.length)) &&
      (gResolve ((lanesOf e.act).map fun l => .reg l (.reg 9) .i32 (ofW (e.w (.reg 2) l + 1)))).all fun o => o.cause.isNone) = true ∧
    issues (.accfree 7 (.reg 12)) (fun e t => e.ag == .ctl 0 && (t.ct? 0).isSome) = true := by
  refine ⟨?_, ?_⟩ <;> decide +kernel

theorem witness_Stores :
    ((writesOf [(0, [⟨0, 0x3000, 4, .phys 0x3000 false none⟩])] fun _ => [leBytes 4 7]).any fun w => match w.1.loc with
      | .phys a _ _ => a == 0x3000 && w.2 == leBytes 4 7
      | _ => false) = true ∧
    issues (.st .always (.g 2) (.const 0) (.reg 4) .b32) (fun e t => e.ag == .strand 0 0 && ((t.group? 0).any fun x => (x.strands[0]?).isSome)) = true ∧
    (let s := storing 0x3000 0x3000
     Memory.wf s.mem && (s.kidOf (.strand 0 0)).isSome && (s.headStore (.strand 0 0)).any fun q => s.mergeGood (s.cxOf (.strand 0 0)) q &&
      q.parts == [⟨0, 0x3000, 0x3000, leBytes 8 77⟩] && !s.mirrored 0x3000) = true := by
  refine ⟨?_, ?_, ?_⟩ <;> decide +kernel

theorem witness_Traps :
    ((parked.group? 0).any fun x => (x.strands[0]?).any fun u => (parked.kidOf (.strand 0 0)).isSome && u.parkedLanes.length == 8 &&
      (u.parkedLanes.all fun p => !parked.endsKernel (parked.cxOf (.strand 0 0)) (u.lane p.1) p.2 && decide (Cause.code .priv ≤ p.2.code)) &&
      (u.parkedLanes.all fun p => !parked.trapHeld (parked.cxOf (.strand 0 0)) p.2 && !u.handlerOpens (u.lane p.1).batch) &&
      parked.handler (parked.cxOf (.strand 0 0)) .priv == some 0x1000) = true ∧
    (let s := (parked.setMem (0x30000 + 8 * Cause.code .align) (leBytes 8 0x2000)).modUnit (.strand 0 0) fun u =>
        u.mapLanes (fun k => k == 3) fun _ l => { l with parked := some .align }
     (s.unit? (.strand 0 0)).any fun u => u.enters == [.align] && (u.parkedLanes.all fun p => !s.endsKernel 0 (u.lane p.1) p.2 && !s.trapHeld 0 p.2) &&
      s.handler 0 .align == some 0x2000 && (u.lane 2).batch == (u.lane 3).batch && decide (Cause.code .align < Cause.code .priv)) = true ∧
    (let s := parked.modCtx 0 fun c => { c with trapbase := 0 }
     (s.unit? (.strand 0 0)).any fun u => (s.kidOf (.strand 0 0)).isSome && (u.parkedLanes.head?.any fun p => p == (0, .priv)) &&
      (s.ctx (s.cxOf (.strand 0 0))).trapbase == 0) = true ∧
    ([.dispatching, .running] : List KState).all (fun st => ((kernelIn st).kernel? 0).any fun k => k.st == st) = true := by
  refine ⟨?_, ?_, ?_, ?_⟩ <;> decide +kernel

/-- What the first checks of a word find where it is placed: it may be issued, its fields are right, it waits, it names a register beyond
the allotment, it writes a g register from part of the group. -/
def checks (i : Instr) (f : State → State) : Option (Bool × Bool × Bool × Bool × Bool) :=
  let s := placed i f
  s.focus.bind fun ag => (formOf? i).bind fun x => ((s.landReady ag).env? ag x.gd x.readsClk).map fun e =>
    let t := s.landReady ag
    (permitted e.ctl x.opc, x.ok e.ctl e.cl e.lane0.cwi, e.u.stall.isNone && (t.scoreboardWait e x || t.rangeWait e x), x.beyond e,
      x.writesG && !e.coversU)

theorem witness_Checks :
    ((checks (.mma 1 (.reg 10) (.reg 13) (.reg 0) true) fun s => { s with focus := some (.strand 0 0) }).any fun c => !c.1) = true ∧
    ((checks (.iadd .always (.reg 9) (.lat 3 false) (.const 1) .wrap) id).any fun c => c.1 && !c.2.1) = true ∧
    ((checks (.iadd .always (.reg 9) (.reg 2) (.const 1) .wrap) fun s => { s with pend := [⟨7, .strand 0 0, 7, false, [.vreg 2 0 5]⟩] }).any
      fun c => c.1 && c.2.1 && c.2.2.1) = true ∧
    ((checks (.iadd .always (.reg 9) (.reg 2) (.const 1) .wrap) fun s => s.modGroup 0 fun g => { g with regs := 8 }).any
      fun c => c.1 && c.2.1 && !c.2.2.1 && c.2.2.2.1) = true ∧
    ((checks (.iadd (.ifSet 3) (.g 9) (.reg 2) (.const 1) .wrap) id).any
      fun c => c.1 && c.2.1 && !c.2.2.1 && !c.2.2.2.1 && c.2.2.2.2) = true ∧
    ((checks (.sysrd .always (.reg 9) 0x30) id).any fun c => c.1 && c.2.1 && !c.2.2.1 && badIndex (.sysrd .always (.reg 9) 0x30)) = true ∧
    ((checks (.bra .always (.const 4) (.reg 1) .always) id).any fun c => c.1 && c.2.1) = true ∧
    issues (.iadd .always (.reg 9) (.reg 2) (.const 1) .wrap) (fun e _ => badField (.bra .always (.const 4) (.reg 1) .always) e) = true ∧
    ((0x3001 : Nat) % 4 ≠ 0 ∧ (0x3000 : Nat) % 4 = 0 ∧ spaceOf State.reset.fab (2^62) = none ∧ spaceOf State.reset.fab 0x3000 = some .ctl) ∧
    issues (.ld .always (.reg 2) (.g 2) (.const 0) false .b32) (fun e _ => !e.kern.leases false 0x3000 4) = true ∧
    issues (.barinit .always 3 (.const 0)) (fun e _ => (agrees e fun l => [e.src .i32 (.const 0) l]) && e.w (.const 0) e.low == 0) = true ∧
    clears (.barinit .always 3 (.const 5)) (fun e t => (agrees e fun l => [e.src .i32 (.const 5) l]) && decide (1 ≤ (e.w (.const 5) e.low).toNat) &&
      decide ((e.w (.const 5) e.low).toNat ≤ 65535) && (t.bar (.wg e.wid 3)).waiters != 0)
      (fun s => s.modBar (.wg 0 3) fun b => { b with valid := true, waiters := 1 }) = true ∧
    issues (.rte .always) (fun e _ => e.act != 0 && (lanesOf e.act).all fun l => !(e.u.lane l).inHandler) = true ∧
    (let s : State := ((placed (.nop .always) id).modUnit (.strand 0 0) fun u => { u with clause := u.clause.map fun c => { c with wait := 0xFF } })
     let s : State := { s with pend := [⟨7, .strand 0 0, 3, false, [.vreg 2 0 5]⟩] }
     (s.env? (.strand 0 0) .always false).any fun e => s.slotWait e) = true := by
  refine ⟨?_, ?_, ?_, ?_, ?_, ?_, ?_, ?_, ?_, ?_, ?_, ?_, ?_, ?_⟩ <;> decide +kernel

end Sys2Proof.Tests
end

/-!
SUPPORT. Accesses of host cores and of software to registers and control memory (R6, R20, R61, R185), and what one step comes to: the issue of
a word at its place, a device step, the passing of time (R8, R110, R307, R311).
-/
namespace Sys2Proof.Machine
set_option Elab.async false

/-! ### Bytes and tables -/

theorem length_leBytes (n v : Nat) : (leBytes n v).length = n := by
  induction n generalizing v with
  | zero => rfl
  | succ n ih => rw [leBytes, List.length_cons, ih]

theorem leNat_leBytes (n v : Nat) : leNat (leBytes n v) = v % 256 ^ n := by
  induction n generalizing v with
  | zero => rw [leBytes, leNat, Nat.pow_zero, Nat.mod_one]
  | succ n ih => rw [leBytes, leNat, ih, Nat.pow_succ', Nat.mod_mul, BitVec.toNat_ofNat]

/-- A whole double word that is written leaves nothing of the one before it. -/
theorem ofNat_mergeWord_whole (old : Nat) (v : W64) : BitVec.ofNat 64 (mergeWord old 0 8 v.toNat) = v := by
  apply BitVec.eq_of_toNat_eq
  have := v.isLt
  simp only [mergeWord, BitVec.toNat_ofNat]
  omega

theorem mem_of_tabFind? {α : Type} {t : Tab α} {k : Nat} {v : α} (h : tabFind? t k = some v) : (k, v) ∈ t := by
  induction t with
  | nil => cases h
  | cons x t ih =>
    obtain ⟨j, w⟩ := x
    rw [tabFind?] at h
    split at h
    next hj =>
      cases h
      rw [hj]
      exact List.mem_cons_self
    next => exact List.mem_cons_of_mem _ (ih h)

theorem mem_of_mem_tabSet {α : Type} {t : Tab α} {k : Nat} {v : α} {x : Nat × α} (h : x ∈ tabSet t k v) : x = (k, v) ∨ x ∈ t := by
  induction t with
  | nil => exact .inl (List.mem_singleton.mp h)
  | cons y t ih =>
    obtain ⟨j, w⟩ := y
    rw [tabSet] at h
    split at h
    · exact List.mem_cons.mp h
    · split at h
      · exact (List.mem_cons.mp h).imp_right (List.mem_cons_of_mem _)
      · rcases List.mem_cons.mp h with rfl | h
        · exact .inr List.mem_cons_self
        · exact (ih h).imp_right (List.mem_cons_of_mem _)

/-! ### Accesses of host cores -/

theorem blockOf_blockTime (s : State) (u a : Nat) : (s.blockTime u).blockOf a = s.blockOf a := rfl

/-- One of the 64 host cores makes an access of 1, 2, 4 or 8 bytes at a multiple of its size (R20). -/
structure HostAccessSized (h : Nat) (acc : HostAccess) : Prop where
  core : h < 64
  size : (hostPlace acc).2 = 1 ∨ (hostPlace acc).2 = 2 ∨ (hostPlace acc).2 = 4 ∨ (hostPlace acc).2 = 8
  aligned : (hostPlace acc).1 % (hostPlace acc).2 = 0

section HostAccess

variable {s : State} {h a p : Nat} {map : Option Nat} {b : Block} {acc : HostAccess}

/-- The first check of `execHostCoreAccess` lets such an access pass. -/
theorem HostAccessSized.not_refused (hok : HostAccessSized h acc) :
    ¬(64 ≤ h ∨ ¬((hostPlace acc).2 = 1 ∨ (hostPlace acc).2 = 2 ∨ (hostPlace acc).2 = 4 ∨ (hostPlace acc).2 = 8) ∨
      (hostPlace acc).1 % (hostPlace acc).2 ≠ 0) := by
  rintro (hcore | hsize | haligned)
  · exact Nat.not_le.mpr hok.core hcore
  · exact hsize hok.size
  · exact haligned hok.aligned

/-- All eight bytes of a register that are read at its address are its value. -/
theorem leNat_take_leBytes_whole (ha : a % 8 = 0) (x : Nat) : leNat (((leBytes 8 x).drop (a % 8)).take 8) = x % 2 ^ 64 := by
  rw [ha, List.drop_zero, List.take_of_length_le (Nat.le_of_eq (length_leBytes 8 x))]
  exact leNat_leBytes 8 x

/-- All eight bytes of a value that go into a register write it; monitors see the write (R421). -/
theorem blockPut_whole (ha : a % 8 = 0) (hb : s.blockOf a = some (some b)) (v : W64) (dev : Bool) :
    s.blockPut a 8 v.toNat dev = (s.regWrite b v dev).fireMonitors a 8 := by
  unfold State.blockPut
  rw [hb, ha]
  dsimp only
  rw [ofNat_mergeWord_whole]

/-- A host core that loads all eight bytes of a register has its value (R61). -/
theorem hostRegister_load_whole (ha : a % 8 = 0) :
    s.hostRegister h a 8 b (.load a 8) = (s.blockTime hostUnit).reply h false (s.regRead b % 2 ^ 64) := by
  rw [← leNat_take_leBytes_whole ha]
  rfl

/-- A host core that stores all eight bytes of a register writes it (R61), monotonic or not (R70). -/
theorem hostRegister_store_whole (ha : a % 8 = 0) (hb : s.blockOf a = some (some b)) (v : W64) :
    s.hostRegister h a 8 b (.store a 8 v) =
      (((s.blockTime hostUnit).regWrite b v false).fireMonitors a 8).reply h false (s.regRead b % 2 ^ 64) := by
  have hv : v.toNat % 2 ^ (8 * 8) = v.toNat := Nat.mod_eq_of_lt v.isLt
  have hput : s.hostRegister h a 8 b (.store a 8 v) =
      ((s.blockTime hostUnit).blockPut a 8 (v.toNat % 2 ^ (8 * 8)) false).reply h false
        (leNat (((leBytes 8 (s.regRead b)).drop (a % 8)).take 8)) := by
    unfold State.hostRegister
    cases b.monotonic <;> rfl
  rw [hput, hv, leNat_take_leBytes_whole ha, blockPut_whole ha ((blockOf_blockTime s hostUnit a).trans hb)]

/-- A sized and aligned access at a register block of this package is one to the register there (R61), once the host cores' stores have
reached their homes (R191). -/
theorem execHostCoreAccess_register (hok : HostAccessSized h acc) (hlo : blockBase ≤ (hostPlace acc).1) (hhi : (hostPlace acc).1 < 2 ^ 48)
    (hb : s.blockOf ((hostPlace acc).1 / 8 * 8) = some (some b)) (hw : ∀ w ∈ s.homes, w.core ≠ hostUnit) :
    execHostCoreAccess ⟨h, map⟩ acc s = .next (s.hostRegister h (hostPlace acc).1 (hostPlace acc).2 b acc) := by
  have hq : (s.homes.any fun w => w.core == hostUnit) = false := by simpa using hw
  unfold execHostCoreAccess
  rw [if_neg hok.not_refused, if_pos ⟨hlo, hhi⟩]
  simp only [hb, hq]
  rfl

/-- A sized and aligned access outside the register blocks that nothing holds is made at its physical address (R20, R185). -/
theorem execHostCoreAccess_memory (hok : HostAccessSized h acc) (ho : (hostPlace acc).1 < blockBase ∨ 2 ^ 48 ≤ (hostPlace acc).1)
    (hp : s.hostPhys map (hostPlace acc).1 = some p) (hw : s.hostWaits map (hostPlace acc).1 p = false)
    (hag : s.agentsIn 8 p (hostWrites acc) = []) :
    execHostCoreAccess ⟨h, map⟩ acc s =
      .next ((s.hostFills map (hostPlace acc).1).hostMemory h (hostPlace acc).1 p (hostPlace acc).2 map acc) := by
  unfold execHostCoreAccess
  rw [if_neg hok.not_refused, if_neg (by omega)]
  simp only [hp, hw, hag]
  rfl

/-- A sized and aligned access outside the register blocks that has no physical address is a bus error (R20, R228). -/
theorem execHostCoreAccess_busError (hok : HostAccessSized h acc) (ho : (hostPlace acc).1 < blockBase ∨ 2 ^ 48 ≤ (hostPlace acc).1)
    (hp : s.hostPhys map (hostPlace acc).1 = none) : execHostCoreAccess ⟨h, map⟩ acc s = .next (s.reply h true 0) := by
  unfold execHostCoreAccess
  rw [if_neg hok.not_refused, if_neg (by omega)]
  simp only [hp]

/-- An address outside control space has no physical address, nor has one whose walk finds no resident page (R20, R228). -/
theorem hostPhys_eq_none (h : 2 ^ 48 ≤ a ∨ (map = none ∧ 2 ^ 43 ≤ a) ∨ ∃ cx c, map = some cx ∧ s.walk cx a = .error c) :
    s.hostPhys map a = none := by
  unfold State.hostPhys
  rcases h with h | ⟨rfl, h⟩ | ⟨cx, c, rfl, h⟩
  · cases map with
    | none => exact if_neg (by omega)
    | some cx => exact if_pos h
  · exact if_neg (by omega)
  · simp only [h, ite_self]

end HostAccess

/-- Settles O46: an access at a register block is `hostRegister`, any other goes by `hostPhys`. -/
theorem hostAndRegisterAccessesComplete : Obligations.HostAndRegisterAccessesComplete := by
  unfold Obligations.HostAndRegisterAccessesComplete
  refine ⟨?memory, ?load, ?store, ?busError, ?software⟩
  case memory =>
    intro h map acc s p hh hn ha ho hp hw hag
    exact execHostCoreAccess_memory ⟨hh, hn, ha⟩ ho hp hw hag
  case load =>
    intro h map a s b hh ha hlo hhi hb hw
    have h8 : a / 8 * 8 = a := Nat.div_mul_cancel (Nat.dvd_of_mod_eq_zero ha)
    refine (execHostCoreAccess_register (acc := .load a 8) ⟨hh, by simp [hostPlace], ha⟩ hlo hhi (h8.symm ▸ hb) hw).trans ?_
    exact congrArg _ (hostRegister_load_whole ha)
  case store =>
    intro h map a v s b hh ha hlo hhi hb hw
    have h8 : a / 8 * 8 = a := Nat.div_mul_cancel (Nat.dvd_of_mod_eq_zero ha)
    refine ⟨_, execHostCoreAccess_register (acc := .store a 8 v) ⟨hh, by simp [hostPlace], ha⟩ hlo hhi (h8.symm ▸ hb) hw, ?_⟩
    exact hostRegister_store_whole ha hb v
  case busError =>
    intro h map n a s hh hn ha ho
    have hout : a < blockBase ∨ 2 ^ 48 ≤ a := by omega
    have hp : s.hostPhys map a = none := by
      refine hostPhys_eq_none ?_
      rcases ho with ho | ⟨hm, ho, -⟩ | ⟨-, hc⟩
      · exact .inl ho
      · exact .inr (.inl ⟨hm, ho⟩)
      · exact .inr (.inr hc)
    exact execHostCoreAccess_busError (acc := .load a n) ⟨hh, hn, ha⟩ hout hp
  case software =>
    intro addr v s b hb
    show execRegisterWrite addr v s = _
    rw [execRegisterWrite, hb]

/-! ### The issue of a word at its place -/

theorem lanesOf_zero : lanesOf 0 = [] := by decide

section Stands

variable {s : State} {ag : Agent} {u : Strand} {i : Instr}

/-- Who may issue and where it stands does not rest on the agent in focus. -/
theorem mayIssue_focus (s : State) (f : Option Agent) (ag : Agent) :
    ({ s with focus := f, stallOn := none } : State).mayIssue ag = s.mayIssue ag := rfl

theorem dueResidue_focus (s : State) (f : Option Agent) (ag : Agent) :
    ({ s with focus := f, stallOn := none } : State).dueResidue ag = s.dueResidue ag := rfl

theorem trapDue_focus (s : State) (f : Option Agent) (ag : Agent) (u : Strand) :
    ({ s with focus := f, stallOn := none } : State).trapDue ag u = s.trapDue ag u := rfl

/-- An agent that may issue has a strand. -/
theorem unit_of_mayIssue {w : Nat} {k : Kernel} (h : s.mayIssue ag = some (u, w, k)) : s.unit? ag = some u := by
  unfold State.mayIssue at h
  split at h
  next v wid hv hw =>
    split at h
    · cases h
    · obtain ⟨-, h⟩ := Option.ite_none_right_eq_some.mp h
      cases h
      exact hv
  next => cases h

theorem unit_of_standsAt (h : s.standsAt ag u i) : s.unit? ag = some u := by
  obtain ⟨w, k, -, -, -, hmay, -⟩ := h
  exact unit_of_mayIssue hmay

/-- The issue of an agent that stands at a word runs the word (R307, R311). -/
theorem issueStep_of_standsAt (h : s.standsAt ag u i) : s.issueStep ag = exec i { s with focus := some ag, stallOn := none } := by
  obtain ⟨w, k, k0, ks, cl, hmay, hres, htrap, hpath, hin, hcl, hhdr, hdec⟩ := h
  have hyield : u.mustYield (u.lane k0) = false := by simp [Strand.mustYield, hin]
  have hword : ∀ t : State, t.issueWord ag (nth cl.words (u.lane k0).cwi 0) = exec i t := by
    intro t
    rw [State.issueWord, hdec]
  unfold State.issueStep
  simp only [mayIssue_focus, hmay, dueResidue_focus, hres, trapDue_focus, htrap, hpath, hyield, hcl, hin, hhdr, hword]
  simp

/-- An agent that stands at a word has something to issue. -/
theorem ready_of_standsAt (h : s.standsAt ag u i) : s.ready ag = true := by
  obtain ⟨w, k, k0, ks, -, hmay, -, -, hpath, -⟩ := h
  have hne : u.path ≠ 0 := by
    intro h0
    rw [h0, lanesOf_zero] at hpath
    cases hpath
  simp only [State.ready, hmay, bne_iff_ne.mpr hne, Bool.or_true]

/-- The slot of an agent that stands at a word and issues alone: the word runs, and its clk ends (R110). -/
theorem issueSlot_of_standsAt (h : s.standsAt ag u i) (hslot : s.slotFor ag 0 = [ag]) :
    s.issueSlot ag 0 = mapNext (s.afterIssue ag u) (exec i { s with focus := some ag, stallOn := none }) := by
  rw [State.issueSlot, hslot]
  simp only [State.issueAll, issueStep_of_standsAt h, unit_of_standsAt h]
  cases exec i { s with focus := some ag, stallOn := none } <;> rfl

end Stands

/-! ### The next turn -/

/-- Where no turn is listed, nothing is due and no strand must go on, the agent in focus issues if it is ready and it is its turn. -/
theorem idleTurn_of_focus {s : State} {ag : Agent} (hd : s.due = []) (hp : s.pressed = none) (hf : s.focus = some ag)
    (hr : s.ready ag = true) (hslot : s.slotFor ag 0 ≠ []) : s.idleTurn = s.issueSlot ag 0 := by
  simp [State.idleTurn, hd, hp, hf, hr, hslot]

theorem step_of_no_turns {s : State} (h : s.turns = []) : step s = mapNext (State.afterStep s) s.idleTurn := by
  rw [step, State.nextTurn, h]

/-- The turn that is listed first comes, if it may; a race is two turns and has its own rule (R7). -/
theorem step_of_turn {s : State} {t : Turn} {ts : List Turn} (h : s.turns = t :: ts) (hm : ({ s with turns := ts } : State).mayTurn t = true)
    (hr : ∀ sw dev, t ≠ .race sw dev) :
    step s = mapNext (State.afterStep s) (({ s with turns := ts } : State).oneTurn t) := by
  rw [step, State.nextTurn, h]
  cases t with
  | race sw dev => exact absurd rfl (hr sw dev)
  | _ => simp only [State.turn, hm]; rfl

/-- A device step has no operands: only words have a form. -/
theorem formOf?_of_not_isWord {i : Instr} (h : i.isWord = false) : formOf? i = none := by
  cases i <;> cases h <;> rfl

/-- A device step that its channel serves now and no rebuild holds takes effect, and a clk passes. -/
theorem oneTurn_event_of_free {s : State} {i : Instr} (hform : formOf? i = none) (hfree : s.inRebuild = false ∨ stallsInRebuild i = false)
    (hserve : ∀ r, s.reqOf i = some r → s.servesNow r = true) : s.oneTurn (.event i) = mapNext State.tick (exec i s) := by
  have hstall : (s.inRebuild && stallsInRebuild i) = false := Bool.and_eq_false_iff.mpr hfree
  have hreq : ((s.reqOf i).any fun r => !s.servesNow r) = false := by
    cases hr : s.reqOf i with
    | none => rfl
    | some r => simp [hserve r hr]
  simp [State.oneTurn, hform, hstall, hreq]

/-- A device step that a rebuild holds stalls (R266). -/
theorem oneTurn_event_of_stall {s : State} {i : Instr} (hform : formOf? i = none) (hre : s.inRebuild = true)
    (hstall : stallsInRebuild i = true) : s.oneTurn (.event i) = .next s.tick := by
  simp [State.oneTurn, hform, hre, hstall]

/-- Where no turn is listed and nothing comes before it, the agent in focus issues the word at which it stands. -/
theorem step_of_focus {s : State} {ag : Agent} {u : Strand} {i : Instr} (ht : s.turns = []) (hf : s.focus = some ag) (hd : s.due = [])
    (hp : s.pressed = none) (hs : s.standsAt ag u i) (hslot : s.slotFor ag 0 = [ag]) :
    step s = mapNext (State.afterStep s) (mapNext (s.afterIssue ag u) (exec i { s with stallOn := none })) := by
  have hfocus : ({ s with focus := some ag, stallOn := none } : State) = { s with stallOn := none } := by rw [← hf]
  rw [step_of_no_turns ht, idleTurn_of_focus hd hp hf (ready_of_standsAt hs) (by simp [hslot]), issueSlot_of_standsAt hs hslot, hfocus]

/-! ### An agent that is alone at its pipe, or in its quad -/

section Alone

variable {s : State} {ag : Agent}

theorem ag_of_standing {x : Standing} (h : s.standing ag = some x) : x.ag = ag := by
  unfold State.standing at h
  split at h
  · cases h
    rfl
  · cases h

/-- An agent that stands to issue has a strand. -/
theorem unit_of_standing {x : Standing} (h : s.standing ag = some x) : ∃ u, s.unit? ag = some u := by
  unfold State.standing at h
  split at h
  next u a hu ha => exact ⟨u, hu⟩
  next => cases h

theorem ag_inSlot (s : State) (x : Standing) : (s.inSlot x).ag = x.ag := by
  unfold State.inSlot
  split
  · dsimp only
    split
    · split <;> rfl
    · rfl
  · rfl

/-- Where none but an agent stands in a list, no other does. -/
theorem filter_ne_of_alone {l : List Standing} (h : ∀ y ∈ l, y.ag = ag) : (l.filter fun y => y.ag != ag) = [] := by
  rw [List.filter_eq_nil_iff]
  intro y hy
  simp [h y hy]

/-- A strand of whose core no other is ready for its pipe leads a slot, and alone (R110). -/
theorem slotOf_of_alone (h : ∀ pipe, ∀ y ∈ s.readyFor (s.coreOf ag) pipe, y.ag = ag) : s.slotOf ag = [ag] := by
  unfold State.slotOf
  cases hx : s.standing ag with
  | none => rfl
  | some x => simp [filter_ne_of_alone (h x.word.pipe), insSlot, ag_inSlot, ag_of_standing hx]

/-- A control thread of whose quad no other is ready issues (R17). -/
theorem ctIssues_of_alone (h : ∀ y ∈ s.readyCts (quadOf (s.coreOf ag)), y.ag = ag) : s.ctIssues ag 0 = true := by
  unfold State.ctIssues
  cases hx : s.standing ag with
  | none => rfl
  | some x =>
    have hnil : ((s.readyCts (quadOf (s.coreOf ag))).filter fun y => y.ag != ag && !y.meek) = [] := by
      rw [List.filter_eq_nil_iff]
      intro y hy
      simp [h y hy]
    simp [hnil]

end Alone

/-! ### Nothing presses -/

/-- No strand must go on where none has been ready before and none has anything else than a word to do (R110). -/
theorem pressed_of_no_wait {s : State} (hs : ∀ x ∈ s.groups, ∀ u ∈ x.2.strands, u.since = none)
    (hc : ∀ ag u, s.unit? ag = some u → u.chore = none) : s.pressed = none := by
  have hlate : s.late = [] := by
    have haged : s.anyAged = false := by
      unfold State.anyAged
      rw [List.any_eq_false]
      intro x hx
      simp only [List.any_eq_true, not_exists, not_and]
      intro u hu
      simp [hs x hx u hu]
    rw [State.late, haged]
    rfl
  have hchore : ∀ ag : Agent, ((s.unit? ag).any fun u =>
      (u.chore.any fun t => decide (1536 ≤ (s.clk - t).toNat)) && s.hasChore ag) = false := by
    intro ag
    cases hu : s.unit? ag with
    | none => rfl
    | some u => simp [hc ag u hu]
  simp only [State.pressed, hlate, hchore]
  simp [leastOf]

/-! ### A placed word -/

section Placed

/-- A word that only a control thread issues is placed at one (R427). -/
def placedIsCtl (w : W64) : Bool := decide (0xD0 ≤ w.toNat / 2^56) && decide (w.toNat / 2^56 < 0xD7)

/-- The agent at which `State.placeWord` places a word. -/
def placedAgent (w : W64) : Agent := if placedIsCtl w then .ctl 0 else .strand 0 0

/-- The strand of that agent. -/
def placedUnit (w : W64) : Strand :=
  { (if placedIsCtl w then Strand.init 0 1 [placedLane] else Strand.init 0 0xFF (List.replicate 8 placedLane)) with
    clause := some (placedClause w) }

variable (s : State) (w : W64)

theorem turns_placeWord : (s.placeWord w).turns = [] := rfl

theorem focus_placeWord : (s.placeWord w).focus = some (placedAgent w) := rfl

theorem kernel_placeWord : (s.placeWord w).kernel? 0 = some placedKernel := tabFind?_set ..

theorem wg_placeWord : (s.placeWord w).wg? 0 = some (placedWg (placedIsCtl w)) := tabFind?_set ..

theorem wg_placeWord_ne {j : Nat} (h : j ≠ 0) : (s.placeWord w).wg? j = s.wg? j := tabFind?_set_ne _ _ _ _ h

theorem group_placeWord : (s.placeWord w).group? 0 = some (placedGroup w) := tabFind?_set ..

theorem ct_placeWord (h : placedIsCtl w = true) : (s.placeWord w).ct? 0 = some (placedCt w) := by
  have hcts : (s.placeWord w).cts = _ := if_pos h
  rw [State.ct?, hcts]
  exact tabFind?_set ..

theorem ctx_placeWord : (s.placeWord w).ctx 0 = { s.ctx 0 with st := .active, restoring := false } := tabGet_set ..

/-- The groups after a word has been placed: its own, and others elsewhere that do not grow and have waited for nothing. -/
theorem mem_groups_placeWord {x : Nat × Group} (h : x ∈ (s.placeWord w).groups) :
    x = (0, placedGroup w) ∨ x.2.core ≠ 0 ∧ x.2.st ≠ .growing ∧ ∀ u ∈ x.2.strands, u.since = none ∧ u.chore = none := by
  refine (mem_of_mem_tabSet h).imp_right fun h => ?_
  obtain ⟨⟨k, g⟩, hg, rfl⟩ := List.mem_map.mp h
  have hg := (List.mem_filter.mp hg).2
  simp only [Bool.and_eq_true, bne_iff_ne] at hg
  refine ⟨hg.1, hg.2, fun u hu => ?_⟩
  obtain ⟨v, -, rfl⟩ := List.mem_map.mp hu
  exact ⟨rfl, rfl⟩

/-- The control threads after a word has been placed have nothing else than words to do. -/
theorem mem_cts_placeWord {x : Nat × CThread} (h : x ∈ (s.placeWord w).cts) : x.2.unit.chore = none := by
  have hold : ∀ x ∈ s.cts.map fun (i, c) => (i, { c with unit := { c.unit with chore := none } }), x.2.unit.chore = none := by
    intro x hx
    obtain ⟨y, -, rfl⟩ := List.mem_map.mp hx
    rfl
  have hcts : (s.placeWord w).cts = if placedIsCtl w then _ else _ := rfl
  rw [hcts] at h
  split at h
  · rcases mem_of_mem_tabSet h with rfl | h
    · rfl
    · exact hold x (List.mem_filter.mp h).1
  · exact hold x h

/-- No strand has anything else than a word to do where one is placed. -/
theorem chore_unit_placeWord {ag : Agent} {u : Strand} (h : (s.placeWord w).unit? ag = some u) : u.chore = none := by
  cases ag with
  | strand g k =>
    obtain ⟨x, hx, hu⟩ := Option.bind_eq_some_iff.mp h
    have hu := List.mem_of_getElem? hu
    rcases mem_groups_placeWord s w (mem_of_tabFind? hx) with hx | ⟨-, -, hx⟩
    · cases hx
      rw [List.mem_singleton.mp hu]
      rfl
    · exact (hx u hu).2
  | ctl j =>
    obtain ⟨c, hc, rfl⟩ := Option.map_eq_some_iff.mp h
    exact mem_cts_placeWord s w (mem_of_tabFind? hc)

theorem pressed_placeWord : (s.placeWord w).pressed = none := by
  refine pressed_of_no_wait (fun x hx u hu => ?_) fun ag u => chore_unit_placeWord s w
  rcases mem_groups_placeWord s w hx with rfl | ⟨-, -, hx⟩
  · rw [List.mem_singleton.mp hu]
    rfl
  · exact (hx u hu).1

theorem filterMap_guard_eq_nil {α β : Type} {l : List α} {p : α → Bool} {f : α → β} (h : ∀ x ∈ l, p x = false) :
    (l.filterMap fun x => if p x then some (f x) else none) = [] := by
  rw [List.filterMap_eq_nil_iff]
  intro x hx
  rw [h x hx]
  rfl

/-- Nothing is due where a word is placed: what was has been taken away. -/
theorem due_placeWord : (s.placeWord w).due = [] := by
  have hsgs : ∀ x ∈ (s.placeWord w).sgs, (s.placeWord w).sgNext x.1 x.2 = none := by
    intro x hx
    obtain ⟨-, hx⟩ := List.mem_filter.mp hx
    obtain ⟨hdue, hforms⟩ := Bool.and_eq_true_iff.mp hx
    have hdue : (s.placeWord w).sgDue x.1 x.2 = false := (Bool.not_eq_true' _).mp hdue
    have hforms : (s.placeWord w).sgForms x.1 x.2 = false := (Bool.not_eq_true' _).mp hforms
    simp [State.sgNext, hdue, hforms]
  have hrounds : ∀ o ∈ (s.placeWord w).rounds, (s.placeWord w).roundDue o = false := fun o ho =>
    (Bool.not_eq_true' _).mp (List.mem_filter.mp ho).2
  have hgroups : ∀ x ∈ (s.placeWord w).groups, (s.placeWord w).growDue x.1 x.2 = false := by
    intro x hx
    rcases mem_groups_placeWord s w hx with rfl | ⟨-, hst, -⟩
    · rfl
    · simp [State.growDue, hst]
  have htiles : ∀ x ∈ (s.placeWord w).tiles, (s.placeWord w).tileDue x.2 = false := fun x hx =>
    (Bool.not_eq_true' _).mp (List.mem_filter.mp hx).2
  unfold State.due
  rw [filterMap_guard_eq_nil hrounds, filterMap_guard_eq_nil hgroups, filterMap_guard_eq_nil htiles,
    List.filterMap_eq_nil_iff.mpr hsgs]
  simp

/-- The agent of a placed word may issue. -/
theorem mayIssue_placeWord : (s.placeWord w).mayIssue (placedAgent w) = some (placedUnit w, 0, placedKernel) := by
  have hctx : (s.placeWord w).ctx placedKernel.cx = { s.ctx 0 with st := .active, restoring := false } := ctx_placeWord s w
  unfold placedAgent placedUnit
  cases hc : placedIsCtl w with
  | true =>
    simp [State.mayIssue, State.unit?, State.wgOf, ct_placeWord s w hc, wg_placeWord, placedWg, kernel_placeWord, hctx, placedCt]
  | false =>
    simp [State.mayIssue, State.unit?, State.wgOf, group_placeWord, placedGroup, wg_placeWord, placedWg, kernel_placeWord, hctx]

/-- The path of a placed word has all lanes of its strand. -/
theorem lanes_path_placedUnit :
    lanesOf (placedUnit w).path = 0 :: if placedIsCtl w then [] else [1, 2, 3, 4, 5, 6, 7] := by
  have hctl : lanesOf (Strand.init 0 1 [placedLane]).path = [0] := by decide
  have hstrand : lanesOf (Strand.init 0 0xFF (List.replicate 8 placedLane)).path = [0, 1, 2, 3, 4, 5, 6, 7] := by decide
  unfold placedUnit
  cases placedIsCtl w with
  | true => exact hctl
  | false => exact hstrand

theorem enters_placedUnit : (placedUnit w).enters = [] := by
  unfold placedUnit
  cases placedIsCtl w <;> rfl

theorem lane_zero_placedUnit : (placedUnit w).lane 0 = placedLane := by
  unfold placedUnit
  cases placedIsCtl w <;> rfl

theorem dueResidue_placeWord : (s.placeWord w).dueResidue (placedAgent w) = none := by
  unfold placedAgent
  cases hc : placedIsCtl w with
  | true => simp [State.dueResidue, ct_placeWord s w hc, placedCt]
  | false => rfl

/-- A placed word stands at the place of its agent's path (R311). -/
theorem standsAt_placeWord {i : Instr} (h : decode w = .ok i) : (s.placeWord w).standsAt (placedAgent w) (placedUnit w) i := by
  have hlane := lane_zero_placedUnit w
  refine ⟨0, placedKernel, 0, _, placedClause w, mayIssue_placeWord s w, dueResidue_placeWord s w, ?_,
    lanes_path_placedUnit w, ?_, rfl, ?_, ?_⟩
  · simp [State.trapDue, enters_placedUnit]
  · rw [hlane]
    rfl
  · rw [hlane]
    rfl
  · rw [hlane]
    exact h

/-- No other strand is on the core of a placed word. -/
theorem readyFor_placeWord (pipe : Nat) : ∀ y ∈ (s.placeWord w).readyFor 0 pipe, y.ag = .strand 0 0 := by
  intro y hy
  obtain ⟨ag, hag, hy⟩ := List.mem_filterMap.mp hy
  obtain ⟨hag, hcore⟩ := List.mem_filter.mp hag
  obtain ⟨x, hx, hy⟩ := Option.bind_eq_some_iff.mp hy
  obtain ⟨-, rfl⟩ : _ ∧ x = y := by simpa using hy
  rw [ag_of_standing hx]
  obtain ⟨u, hu⟩ := unit_of_standing hx
  obtain ⟨⟨g, z⟩, -, hk⟩ := List.mem_flatMap.mp hag
  obtain ⟨k, -, rfl⟩ := List.mem_map.mp hk
  obtain ⟨z, hz, hu⟩ := Option.bind_eq_some_iff.mp hu
  rcases mem_groups_placeWord s w (mem_of_tabFind? hz) with hg | ⟨hne, -⟩
  · cases hg
    have hlen : k < 1 := (List.getElem?_eq_some_iff.mp hu).1
    rw [Nat.lt_one_iff.mp hlen]
  · exact absurd (by simpa [State.coreOf, hz] using hcore) hne

/-- No other control thread is in the quad of a placed word. -/
theorem readyCts_placeWord (hc : placedIsCtl w = true) : ∀ y ∈ (s.placeWord w).readyCts 0, y.ag = .ctl 0 := by
  intro y hy
  obtain ⟨ag, hag, hy⟩ := List.mem_filterMap.mp hy
  obtain ⟨⟨j, c⟩, hj, rfl⟩ := List.mem_map.mp hag
  have hcts : (s.placeWord w).cts = _ := if_pos hc
  split at hy
  next hquad =>
    rw [ag_of_standing hy]
    by_cases h0 : j = 0
    · rw [h0]
    · exfalso
      rw [hcts] at hj
      rcases mem_of_mem_tabSet hj with hj | hj
      · cases hj
        exact h0 rfl
      · have hold := (List.mem_filter.mp hj).2
        have hcore : (s.placeWord w).coreOf (.ctl j) = s.coreOf (.ctl j) := by
          simp only [State.coreOf, wg_placeWord_ne s w h0]
        rw [hcore] at hquad
        exact bne_iff_ne.mp hold hquad
  next => cases hy

/-- A placed word issues alone (R17, R110). -/
theorem slotFor_placeWord : (s.placeWord w).slotFor (placedAgent w) 0 = [placedAgent w] := by
  unfold placedAgent
  cases hc : placedIsCtl w with
  | true =>
    have hcore : (s.placeWord w).coreOf (.ctl 0) = 0 := by
      simp [State.coreOf, wg_placeWord, placedWg, Workgroup.coreAt]
    show (if (s.placeWord w).ctIssues (.ctl 0) 0 then _ else _) = [Agent.ctl 0]
    exact if_pos (ctIssues_of_alone (by rw [hcore]; exact readyCts_placeWord s w hc))
  | false =>
    have hcore : (s.placeWord w).coreOf (.strand 0 0) = 0 := by
      simp [State.coreOf, group_placeWord, placedGroup]
    show (s.placeWord w).slotOf (.strand 0 0) = [.strand 0 0]
    exact slotOf_of_alone (by rw [hcore]; exact readyFor_placeWord s w)

end Placed

/-! ### The statement on steps -/

/-- Settles O54: each clause is a turn of `State.nextTurn`; a placed word is the clause on the agent in focus at a state that
`State.placeWord` has cleared of all that would come before it. -/
theorem stepsRunTheDecodedInstruction : Obligations.StepsRunTheDecodedInstruction := by
  unfold Obligations.StepsRunTheDecodedInstruction
  refine ⟨?issueStep, ?issueTurn, ?focus, ?placed, ?event, ?elapse, ?due, ?idle⟩
  case issueStep =>
    intro s ag u i
    exact issueStep_of_standsAt
  case issueTurn =>
    intro s ag ts u i ht t hm hs hslot
    rw [step_of_turn ht hm (by simp)]
    exact congrArg _ (issueSlot_of_standsAt hs hslot)
  case focus =>
    intro s ag u i ht hf hd hp hs hslot
    exact step_of_focus ht hf hd hp hs hslot
  case placed =>
    intro s w i hi
    have hs := standsAt_placeWord s w hi
    exact ⟨placedAgent w, placedUnit w, unit_of_standsAt hs, step_of_focus (turns_placeWord s w) (focus_placeWord s w)
      (due_placeWord s w) (pressed_placeWord s w) hs (slotFor_placeWord s w)⟩
  case event =>
    intro s i ts ht hi t hm hserve
    have hform := formOf?_of_not_isWord hi
    rw [step_of_turn ht hm (by simp)]
    refine ⟨fun hgo => ?_, fun hre hst => ?_⟩
    · rw [oneTurn_event_of_free hform hgo hserve]
    · rw [oneTurn_event_of_stall hform hre hst]
      rfl
  case elapse =>
    intro s clks ts ht hne t hm hmay
    rw [step_of_turn ht hm (by simp)]
    have hgo : (clks != 0 && t.mayElapse clks) = true := by simp [hne, hmay]
    exact congrArg _ (if_pos hgo)
  case due =>
    intro s d ds ht hd
    rw [step_of_no_turns ht, State.idleTurn, hd]
  case idle =>
    intro s ht hf hd hp
    rw [step_of_no_turns ht, State.idleTurn, hd, hp, hf]
    rfl

end Sys2Proof.Machine

/-!
SUPPORT. The management core (R15, R30 to R32, R39, R504 to R510): what a record of Marintis leaves as it was, how budgets fall, and what each of
its steps comes to.
-/
namespace Sys2Proof.Machine
set_option Elab.async false

/-! ### What a record of Marintis changes (R510) -/

/-- The management block, the fabric and the contexts: what no write to memory changes. -/
def State.blocks (s : State) : Mgmt × Fabric × Tab Context := (s.mgmt, s.fab, s.ctxs)

/-- What every step of a fold keeps, the fold keeps. -/
theorem foldl_keeps {α β : Type} (g : State → β) (f : State → α → State) (hf : ∀ s a, g (f s a) = g s) (l : List α) (s : State) :
    g (l.foldl f s) = g s :=
  List.foldlRecOn l f (motive := fun t => g t = g s) rfl fun t ht a _ => (hf t a).trans ht

theorem markDirty_blocks (s : State) (a : Nat) : (s.markDirty a).blocks = s.blocks := by
  unfold State.markDirty
  split
  · show (if _ then s else _).blocks = s.blocks
    split <;> rfl
  · rfl

theorem setKeys_blocks (s : State) (cx a n : Nat) : (s.setKeys cx a n).blocks = s.blocks := by
  unfold State.setKeys
  split <;> rfl

theorem fireMonitors_blocks (s : State) (a n : Nat) : (s.fireMonitors a n).blocks = s.blocks := by
  have hraise (t : W64) : ((s.awaiting a n).foldl (fun s u => s.raisePts u t) s).blocks = s.blocks :=
    foldl_keeps State.blocks (fun s u => s.raisePts u t) (fun _ _ => rfl) (s.awaiting a n) s
  exact hraise _

theorem poke_blocks (s : State) (cx a : Nat) (bs : List Byte) : (s.poke cx a bs).blocks = s.blocks := by
  unfold State.poke
  split
  · rfl
  · rw [fireMonitors_blocks, setKeys_blocks]
    exact markDirty_blocks s a

theorem devPoke_blocks (s : State) (cx a : Nat) (bs : List Byte) : (s.devPoke cx a bs).blocks = s.blocks := poke_blocks _ cx a bs

/-- A record moves the place in the ring and the count of lost ones, and nothing else of the three blocks. -/
theorem report_blocks (s : State) (kind : Nat) (data : List Byte) :
    ∃ seq lost, (s.report kind data).blocks = ({ s.mgmt with moseq := seq, lost := lost }, s.fab, s.ctxs) := by
  unfold State.report
  dsimp only
  split
  · exact ⟨s.mgmt.moseq, s.mgmt.lost, rfl⟩
  · split
    · exact ⟨s.mgmt.moseq, _, rfl⟩
    · exact ⟨_, _, (devPoke_blocks _ _ _ _).trans (devPoke_blocks _ _ _ _)⟩

theorem report_mgmt (s : State) (kind : Nat) (data : List Byte) :
    ∃ seq lost, (s.report kind data).mgmt = { s.mgmt with moseq := seq, lost := lost } := by
  obtain ⟨seq, lost, h⟩ := report_blocks s kind data
  exact ⟨seq, lost, congrArg Prod.fst h⟩

@[simp] theorem report_fab (s : State) (kind : Nat) (data : List Byte) : (s.report kind data).fab = s.fab := by
  obtain ⟨_, _, h⟩ := report_blocks s kind data
  exact congrArg (·.2.1) h

@[simp] theorem report_ctx (s : State) (kind : Nat) (data : List Byte) (cx : Nat) : (s.report kind data).ctx cx = s.ctx cx := by
  obtain ⟨_, _, h⟩ := report_blocks s kind data
  exact congrArg (fun b => tabGet b.2.2 Context.init cx) h

/-! ### Budgets (R30, R39) -/

/-- The value a budget is lowered towards: FLOOR, or CEIL where FLOOR is above it. -/
def Context.least (c : Context) : Nat := min c.floor.toNat c.ceil.toNat

/-- `d` is `c` with its budget as it was or lowered, not below the least one. -/
structure Context.LoweredTo (c d : Context) : Prop where
  floor : d.floor = c.floor
  ceil : d.ceil = c.ceil
  cur : d.cur.toNat ≤ c.cur.toNat
  least : c.least ≤ c.cur.toNat → c.least ≤ d.cur.toNat

namespace Context.LoweredTo

variable {c d e : Context}

theorem refl (c : Context) : c.LoweredTo c := ⟨rfl, rfl, Nat.le_refl _, id⟩

theorem least_eq (h : c.LoweredTo d) : d.least = c.least := by
  rw [Context.least, h.floor, h.ceil, Context.least]

theorem trans (h : c.LoweredTo d) (k : d.LoweredTo e) : c.LoweredTo e where
  floor := k.floor.trans h.floor
  ceil := k.ceil.trans h.ceil
  cur := Nat.le_trans k.cur h.cur
  least hc := by
    have hd : d.least ≤ e.cur.toNat := k.least (h.least_eq ▸ h.least hc)
    exact h.least_eq ▸ hd

end Context.LoweredTo

section Budgets

variable (s : State) (cx : Nat)

theorem cutBudget_of_le (h : (s.ctx cx).cur.toNat ≤ (s.ctx cx).least) : s.cutBudget cx = s := if_pos h

/-- The budget after a cut: from the least one to one below what it was. -/
theorem cutBudget_of_lt (h : (s.ctx cx).least < (s.ctx cx).cur.toNat) :
    ∃ v : W16, (s.ctx cx).least ≤ v.toNat ∧ v.toNat < (s.ctx cx).cur.toNat ∧
      s.cutBudget cx = s.free.2.modCtx cx fun c => { c with cur := v } := by
  have hrem : s.free.1.toNat % ((s.ctx cx).cur.toNat - (s.ctx cx).least) < (s.ctx cx).cur.toNat - (s.ctx cx).least :=
    Nat.mod_lt _ (Nat.sub_pos_of_lt h)
  have hcur : (s.ctx cx).cur.toNat < 2 ^ 16 := (s.ctx cx).cur.isLt
  refine ⟨BitVec.ofNat 16 ((s.ctx cx).least + s.free.1.toNat % ((s.ctx cx).cur.toNat - (s.ctx cx).least)), ?_, ?_, if_neg (Nat.not_le.mpr h)⟩
  · rw [BitVec.toNat_ofNat]
    omega
  · rw [BitVec.toNat_ofNat]
    omega

@[simp] theorem cutBudget_mgmt : (s.cutBudget cx).mgmt = s.mgmt := by
  unfold State.cutBudget
  dsimp only
  split <;> rfl

/-- A cut of one budget lowers it, and leaves the others. -/
theorem ctx_loweredTo_cutBudget (j : Nat) : (s.ctx j).LoweredTo ((s.cutBudget cx).ctx j) := by
  rcases Nat.lt_or_ge (s.ctx cx).least (s.ctx cx).cur.toNat with h | h
  · obtain ⟨v, hlo, hhi, heq⟩ := cutBudget_of_lt s cx h
    rw [heq]
    by_cases hj : j = cx
    · subst hj
      rw [ctx_modCtx]
      exact ⟨rfl, rfl, Nat.le_of_lt hhi, fun _ => hlo⟩
    · rw [ctx_modCtx_ne _ _ _ _ hj]
      exact .refl _
  · rw [cutBudget_of_le s cx h]
    exact .refl _

/-- A budget that is cut above its least one falls. -/
theorem cur_cutBudget_lt (h : (s.ctx cx).least < (s.ctx cx).cur.toNat) :
    ((s.cutBudget cx).ctx cx).cur.toNat < (s.ctx cx).cur.toNat := by
  obtain ⟨v, -, hhi, heq⟩ := cutBudget_of_lt s cx h
  rw [heq, ctx_modCtx]
  exact hhi

/-- Cuts of budgets, one after the other, lower them. -/
theorem ctx_loweredTo_cutBudgets (l : List Nat) (j : Nat) : (s.ctx j).LoweredTo ((l.foldl State.cutBudget s).ctx j) :=
  List.foldlRecOn l State.cutBudget (motive := fun t => (s.ctx j).LoweredTo (t.ctx j)) (.refl _)
    fun t ht i _ => ht.trans (ctx_loweredTo_cutBudget t i j)

/-- Each budget above its least one falls, when its context is among those cut. -/
theorem cur_cutBudgets_lt {l : List Nat} (hl : cx ∈ l) (h : (s.ctx cx).least < (s.ctx cx).cur.toNat) :
    ((l.foldl State.cutBudget s).ctx cx).cur.toNat < (s.ctx cx).cur.toNat := by
  induction l generalizing s with
  | nil => cases hl
  | cons i l ih =>
    have hfirst := ctx_loweredTo_cutBudget s i cx
    have hrest := ctx_loweredTo_cutBudgets (s.cutBudget i) l cx
    rcases List.mem_cons.mp hl with rfl | hl
    · exact Nat.lt_of_le_of_lt hrest.cur (cur_cutBudget_lt s cx h)
    · rcases Nat.lt_or_ge (s.ctx cx).least ((s.cutBudget i).ctx cx).cur.toNat with hlt | hge
      · exact Nat.lt_of_lt_of_le (ih (s.cutBudget i) hl (hfirst.least_eq ▸ hlt)) hfirst.cur
      · exact Nat.lt_of_le_of_lt hrest.cur (Nat.lt_of_le_of_lt hge h)

/-- COOLANT_OUT_OF_ENVELOPE has every budget cut, and marks the condition (R30). -/
theorem coolantOutOfEnvelope_next (temp flow : Nat) :
    ∃ t, exec (.coolantOutOfEnvelope temp flow) s = .next t ∧ t.mgmt.coolOut = true ∧
      ∀ j, (s.ctx j).LoweredTo (t.ctx j) ∧
        ((∃ c, (j, c) ∈ s.ctxs) → (s.ctx j).least < (s.ctx j).cur.toNat → (t.ctx j).cur.toNat < (s.ctx j).cur.toNat) := by
  let s' := s.modMgmt fun m => { m with coolOut := true }
  let cut := (s.ctxs.map Prod.fst).foldl State.cutBudget s'
  let data := leBytes 8 temp ++ leBytes 8 flow
  refine ⟨cut.report 4 data, rfl, ?_, fun j => ?_⟩
  · obtain ⟨_, _, hreport⟩ := report_mgmt cut 4 data
    have hcut : cut.mgmt = s'.mgmt := foldl_keeps State.mgmt State.cutBudget cutBudget_mgmt _ s'
    rw [hreport, hcut]
    rfl
  · rw [report_ctx]
    refine ⟨ctx_loweredTo_cutBudgets s' _ j, fun ⟨c, hc⟩ h => ?_⟩
    exact cur_cutBudgets_lt s' j (List.mem_map.mpr ⟨(j, c), hc, rfl⟩) h

/-- CONDITION_CLEARED has every budget at its CEIL (R39). -/
theorem conditionCleared_next :
    ∃ t, exec .conditionCleared s = .next t ∧ t.mgmt.coolOut = false ∧ t.mgmt.hot = false ∧ ∀ j c, (j, c) ∈ t.ctxs → c.cur = c.ceil := by
  refine ⟨_, rfl, rfl, rfl, fun j c hc => ?_⟩
  obtain ⟨x, -, hx⟩ := List.mem_map.mp hc
  cases hx
  rfl

end Budgets

/-! ### The clock (R31, R32) -/

section Clock

variable {s : State}

theorem clockChange_down (hmhz : 1100 ≤ s.mgmt.mhz) (hhot : s.mgmt.hot = true) (hfloor : s.atFloor = true) (hb : s.atBoundary = true) :
    exec (.clockChange (s.mgmt.mhz - 100)) s = .next { s with mgmt := { s.mgmt with mhz := s.mgmt.mhz - 100 } } := by
  have hstep : s.mgmt.mhz - 100 + 100 = s.mgmt.mhz := by omega
  have hleast : 1000 ≤ s.mgmt.mhz - 100 := by omega
  refine if_pos ?_
  simp only [hhot, hfloor, hb, hstep, hleast, beq_self_eq_true, decide_true, Bool.and_self, Bool.true_or]

theorem clockChange_up {m : Nat} (hlt : s.mgmt.mhz < m) (hmax : m ≤ 1900) (hmul : m % 100 = 0) (hb : s.atBoundary = true) :
    exec (.clockChange m) s = .next { s with mgmt := { s.mgmt with mhz := m } } := by
  refine if_pos ?_
  simp only [hlt, hmax, hmul, hb, beq_self_eq_true, decide_true, Bool.and_self, Bool.or_true]

end Clock

/-! ### Reset, load and the check of the image (R505 to R507) -/

section Load

variable {s : State}

theorem reset_of_key {v : W64} (h : v.toNat / 2 ^ 32 = 0x52535445) : exec (.reset v) s = .next s.packageReset :=
  congrArg Host.Outcome.next (if_pos h)

theorem reset_of_not_key {v : W64} (h : v.toNat / 2 ^ 32 ≠ 0x52535445) : exec (.reset v) s = .next (s.modMgmt Mgmt.refuse) :=
  congrArg Host.Outcome.next (if_neg h)

theorem loadable_iff (m : Mgmt) : m.loadable = true ↔ m.st = .reset ∨ m.st = .failed := by
  simp [Mgmt.loadable]

theorem load_of_loadable (h : s.mgmt.loadable = true) (hwf : s.mgmt.wellFormed = true) :
    exec .load s = .next (s.modMgmt fun m => { m with image := memRead s.mem m.fwbase.toNat m.fwlen.toNat, st := .authenticating }) := by
  show Host.Outcome.next s.loadImage = _
  rw [State.loadImage, if_pos h, if_pos hwf]
  rfl

theorem load_of_not_loadable (h : ¬ s.mgmt.loadable = true) : exec .load s = .next (s.modMgmt Mgmt.refuse) :=
  congrArg Host.Outcome.next (if_neg h)

/-- The outcome of the check decides between training and Failed (R507). -/
theorem authCheckDone_of_authenticating (h : s.mgmt.st = .authenticating) :
    exec (.authCheckDone s.mgmt.signed Config.fuseMin) s = .next (s.modMgmt fun m =>
      if s.mgmt.check = 0 then { m with st := .training } else { m with st := .failed, fail := BitVec.ofNat 8 s.mgmt.check, image := [] }) := by
  have hgo : ¬ (s.mgmt.st != .authenticating || s.mgmt.signed != s.mgmt.signed || Config.fuseMin != Config.fuseMin) = true := by
    simp [h]
  refine (if_neg hgo).trans ?_
  by_cases hc : s.mgmt.check = 0
  · simp only [hc, ne_eq, not_true_eq_false, if_false, if_true]
  · simp only [hc, ne_eq, not_false_eq_true, if_true, if_false]

/-- A check that fails has a code other than zero. -/
theorem ite_code_eq_zero {p : Prop} [Decidable p] {code rest : Nat} (hcode : code ≠ 0) : (if p then code else rest) = 0 ↔ ¬ p ∧ rest = 0 := by
  by_cases h : p
  · simp [h, hcode]
  · simp [h]

/-- An image passes when no check of the chain fails (R505, R506). -/
theorem check_eq_zero_iff (m : Mgmt) :
    let w := fun k => leNat ((m.image.drop (8 * k)).take 8)
    m.check = 0 ↔ m.wellFormed = true ∧ w 0 % 2 ^ 32 = 0x4D524E54 ∧ w 2 = m.fwlen.toNat ∧ m.signed = true ∧ Config.fuseMin ≤ w 1 := by
  intro w
  have hchain : m.check = 0 ↔ ¬ (!m.wellFormed) = true ∧ ¬ (w 0 % 2 ^ 32 ≠ 0x4D524E54 ∨ w 2 ≠ m.fwlen.toNat) ∧ ¬ (!m.signed) = true ∧
      ¬ w 1 < Config.fuseMin ∧ 0 = 0 := by
    unfold Mgmt.check
    rw [ite_code_eq_zero (by decide), ite_code_eq_zero (by decide), ite_code_eq_zero (by decide), ite_code_eq_zero (by decide)]
  rw [hchain, not_or, Bool.not_eq_true', Bool.not_eq_false, Bool.not_eq_true', Bool.not_eq_false, Ne, Decidable.not_not, Ne, Decidable.not_not, Nat.not_lt,
    and_iff_left rfl, and_assoc]

end Load

/-! ### Training (R507 to R509) -/

section Training

variable {s : State}

/-- A port that has taken Enable is neither Down nor Lost. -/
theorem st_enable (p : Port) : p.enable.st ≠ .down ∧ p.enable.st ≠ .lost := by
  unfold Port.enable
  split
  · exact ⟨by simp [Port.train], by simp [Port.train]⟩
  · exact ⟨by simp [Port.train], by simp [Port.train]⟩
  next hdown hlost => exact ⟨hdown, hlost⟩

/-- The stacks' training retires the other dies and enables the ports (R508). -/
theorem hbmTrained_next {dies : Byte} (hst : s.mgmt.st = .training) (hnone : s.mgmt.dieok = 0) (hdies : dies ≠ 0) :
    ∃ t, s.hbmTrained dies = .next t ∧ t.mgmt.dieok = dies ∧ t.fab.retired = ~~~dies ∧ t.mgmt.st = .training ∧
      ∀ p ∈ t.fab.ports, p.st ≠ .down ∧ p.st ≠ .lost := by
  have hgo : ¬ (s.mgmt.st != .training || s.mgmt.dieok != 0 || dies == 0) = true := by
    simpa [hst, hnone] using hdies
  refine ⟨_, if_neg hgo, rfl, rfl, hst, fun p hp => ?_⟩
  obtain ⟨q, -, rfl⟩ := List.mem_map.mp hp
  exact st_enable q

/-- What training finds fits this package (R508, R509). -/
structure TrainingFits (s : State) (r : TrainingOutcome) : Prop where
  st : s.mgmt.st = .training
  dieok : r.dieok = s.mgmt.dieok
  rank : r.rank < 64
  podsize : r.podsize ≤ 64
  inPod : r.rank < r.podsize

variable {r : TrainingOutcome}

/-- The first check of `execFirmwareTrainingDone` lets such an outcome pass. -/
theorem TrainingFits.not_refused (h : TrainingFits s r) :
    ¬ (s.mgmt.st != .training || r.dieok != s.mgmt.dieok || decide (64 ≤ r.rank) || decide (64 < r.podsize) ||
      decide (r.podsize ≤ r.rank)) = true := by
  simp [h.st, h.dieok, h.rank, h.podsize, h.inPod]

theorem firmwareTrainingDone_of_no_die (h : TrainingFits s r) (hnone : r.dieok = 0) :
    exec (.firmwareTrainingDone r) s = .next (s.modMgmt fun m => { m with st := .failed, fail := 4 }) :=
  (if_neg h.not_refused).trans (if_pos hnone)

/-- With a usable die the package is Ready, with its rank, its pod and its peers; MV says whether the partner is among them (R509). -/
theorem firmwareTrainingDone_of_die (h : TrainingFits s r) (hdie : r.dieok ≠ 0) :
    ∃ t, exec (.firmwareTrainingDone r) s = .next t ∧ t.mgmt.st = .ready ∧ t.mgmt.dieok = r.dieok ∧ t.fab.rank = r.rank ∧
      t.fab.podsize = r.podsize ∧ t.fab.peermap = r.peermap ∧ (∀ p, mirrorOf r.rank r.podsize = some p → t.fab.mv = r.peermap.getLsbD p) := by
  refine ⟨_, (if_neg h.not_refused).trans (if_neg hdie), ?_⟩
  dsimp only
  obtain ⟨_, _, hreport⟩ := report_mgmt _ _ _
  rw [hreport, report_fab]
  refine ⟨rfl, rfl, rfl, rfl, rfl, fun p hp => ?_⟩
  simp [hp]

end Training

/-! ### Registers of the management block (R505, R510) -/

theorem bitAt_toNat {n : Nat} (v : BitVec n) (k : Nat) : bitAt v.toNat k = v.getLsbD k := by
  rw [bitAt, ← BitVec.testBit_toNat, Nat.testBit_eq_decide_div_mod_eq]
  rfl

theorem mstatWrite_next (v : W64) (s : State) :
    exec (.mstatWrite v) s = .next (s.modMgmt fun m => { m with rej := m.rej && !v.getLsbD 8 }) := by
  rw [← bitAt_toNat]
  rfl

/-- MOHEAD is a monotonic maximum (R510). -/
theorem write_mohead (m : Mgmt) (v : W64) : m.write 0x30 v = { m with mohead := if m.mohead.ult v then v else m.mohead } := by
  show (if m.mohead.toNat < v.toNat then { m with mohead := v } else m) = _
  by_cases h : m.mohead.toNat < v.toNat
  · simp only [BitVec.ult, h, decide_true, if_true]
  · simp only [BitVec.ult, h, decide_false, Bool.false_eq_true, if_false]

theorem moheadWrite_next (v : W64) (s : State) :
    exec (.moheadWrite v) s = .next (s.modMgmt fun m => { m with mohead := if m.mohead.ult v then v else m.mohead }) :=
  congrArg (fun m => Host.Outcome.next ({ s with mgmt := m } : State)) (write_mohead s.mgmt v)

/-! ### The statement on the management core -/

/-- Settles O49: each clause is the lemma on its step. Budgets fall by an induction over the contexts that are cut; what a record of Marintis
writes to its ring leaves the management block, the fabric and the contexts. -/
theorem managementStepsTakeEffect : Obligations.ManagementStepsTakeEffect := by
  unfold Obligations.ManagementStepsTakeEffect
  refine ⟨?coolant, fun s => rfl, conditionCleared_next, fun s => clockChange_down, fun m s => clockChange_up, ?powerOn, ?resetInput,
    fun v s => reset_of_key, fun v s => reset_of_not_key, ?load, ?loadRefused, fun s => authCheckDone_of_authenticating, check_eq_zero_iff,
    fun s dies => hbmTrained_next, ?trained, ?untrained, mstatWrite_next, moheadWrite_next⟩
  case coolant =>
    intro temp flow s
    obtain ⟨t, hexec, hout, hbudget⟩ := coolantOutOfEnvelope_next s temp flow
    refine ⟨t, hexec, hout, fun cx => ?_⟩
    obtain ⟨hlow, hfalls⟩ := hbudget cx
    exact ⟨hlow.floor, hlow.ceil, hlow.cur, hlow.least, hfalls⟩
  case powerOn =>
    intro s
    exact ⟨_, rfl, rfl, rfl, rfl⟩
  case resetInput =>
    intro s
    exact ⟨_, rfl, rfl, rfl, rfl, rfl, rfl, rfl, rfl⟩
  case load =>
    intro s hst
    exact load_of_loadable ((loadable_iff _).mpr hst)
  case loadRefused =>
    intro s hreset hfailed
    exact load_of_not_loadable fun h => ((loadable_iff _).mp h).elim hreset hfailed
  case trained =>
    intro s r hst hdieok hrank hpod hin hdie
    exact firmwareTrainingDone_of_die ⟨hst, hdieok, hrank, hpod, hin⟩ hdie
  case untrained =>
    intro s r hst hdieok hrank hpod hin hdie
    exact firmwareTrainingDone_of_no_die ⟨hst, hdieok, hrank, hpod, hin⟩ hdie

end Sys2Proof.Machine

/-!
SUPPORT. Traps (R47 to R49, R104, R105): which lanes enter their handlers, where a cause ends its kernel, and what the abort of a kernel leaves
of the table of kernels.
-/
namespace Sys2Proof.Machine
set_option Elab.async false

/-! ### Kernels through the shared operations -/

section Kernels

variable (s : State)

@[simp] theorem raisePts_kernels (u : Nat) (t : W64) : (s.raisePts u t).kernels = s.kernels := rfl

theorem markDirty_kernels (a : Nat) : (s.markDirty a).kernels = s.kernels := by
  unfold State.markDirty
  split
  · show (if _ then s else _).kernels = s.kernels
    split <;> rfl
  · rfl

theorem setKeys_kernels (cx a n : Nat) : (s.setKeys cx a n).kernels = s.kernels := by
  unfold State.setKeys
  split <;> rfl

theorem fireMonitors_kernels (a n : Nat) : (s.fireMonitors a n).kernels = s.kernels :=
  foldl_keeps State.kernels (fun s u => s.raisePts u _) (fun _ _ => rfl) (s.awaiting a n) s

theorem devPoke_kernels (cx a : Nat) (bs : List Byte) : (s.devPoke cx a bs).kernels = s.kernels := by
  unfold State.devPoke State.poke
  split
  · rfl
  · rw [fireMonitors_kernels, setKeys_kernels]
    exact markDirty_kernels _ a

theorem classify_kernels (cx va u : Nat) (l : Leaf) : (s.classify cx va u l).kernels = s.kernels := by
  unfold State.classify
  dsimp only
  split
  · rfl
  · split <;> rfl

@[simp] theorem devPut_kernels (cx va : Nat) (bs : List Byte) : (s.devPut cx va bs).kernels = s.kernels := by
  unfold State.devPut
  cases h : s.devWrite cx va bs with
  | none => rfl
  | some t =>
    obtain ⟨l, -, -, rfl⟩ := devWrite_some h
    exact (devPoke_kernels _ _ _ _).trans (classify_kernels _ _ _ _ _)

@[simp] theorem devPutAll_kernels (cx a : Nat) (bs : List Byte) (n : Nat) : (s.devPutAll cx a bs n).kernels = s.kernels := by
  induction n generalizing s a bs with
  | zero => rfl
  | succ n ih =>
    unfold State.devPutAll
    split
    · rfl
    · rw [ih, devPut_kernels]

@[simp] theorem requestAt_kernels (who cls cx va : Nat) : (s.requestAt who cls cx va).kernels = s.kernels := by
  unfold State.requestAt
  split <;> rfl

@[simp] theorem sgWriteBack_kernels (cx h : Nat) : (s.sgWriteBack cx h).kernels = s.kernels := by
  unfold State.sgWriteBack
  split
  · rfl
  · rw [requestAt_kernels, devPut_kernels]
    exact foldl_keeps State.kernels _ (fun s i => devPut_kernels s cx _ _) _ s

@[simp] theorem sgDrop_kernels (cx h : Nat) : (s.sgDrop cx h).kernels = s.kernels := by
  unfold State.sgDrop
  split
  · rfl
  · exact foldl_keeps State.kernels (fun s vp => s.releasePage cx vp) (fun _ _ => rfl) _ s

@[simp] theorem sgWriteArrays_kernels (cx h : Nat) : (s.sgWriteArrays cx h).kernels = s.kernels := by
  unfold State.sgWriteArrays
  split
  · rfl
  · dsimp only
    split
    · rfl
    · exact devPutAll_kernels ..

@[simp] theorem sgDeliver_kernels (cx h : Nat) (b : Bool) (ga : Option W32) : (s.sgDeliver cx h b ga).kernels = s.kernels := by
  unfold State.sgDeliver
  split
  · rfl
  · exact foldl_keeps State.kernels (fun s c => s.raisePts c s.devNow) (fun _ _ => rfl) _ s

/-- The abort of a kernel's descriptors leaves the kernels as they are where parking their observers does (R144). -/
theorem sgAbort_kernels (kid : Nat) {park : State → Nat → State} (hpark : ∀ s k, (park s k).kernels = s.kernels) :
    (s.sgAbort kid park).kernels = s.kernels := by
  refine foldl_keeps State.kernels _ (fun s x => ?_) s.sgs s
  obtain ⟨key, d⟩ := x
  dsimp only
  split
  · rfl
  · split
    · rw [hpark, sgDrop_kernels, sgWriteBack_kernels, setSg_kernels]
    · simp
    · simp
    · simp

@[simp] theorem modBar_kernels (b : BarRef) (f : Bar → Bar) : (s.modBar b f).kernels = s.kernels := by
  cases b with
  | wg w k => exact modWg_kernels ..
  | die | pkg | pod => rfl

@[simp] theorem unwait_kernels (ag : Agent) : (s.unwait ag).kernels = s.kernels := by
  unfold State.unwait
  split
  · refine (foldl_keeps State.kernels _ (fun s m => ?_) _ _).trans (foldl_keeps State.kernels _ (fun s b => modBar_kernels ..) _ s)
    split
    · exact modBar_kernels ..
    · rfl
  · rfl

theorem endGroup_kernels (gid : Nat) : (s.endGroup gid).kernels = s.kernels := by
  unfold State.endGroup
  split
  · rfl
  · rw [modGroup_kernels]
    exact foldl_keeps State.kernels State.unwait unwait_kernels _ s

theorem endCt_kernels (w : Nat) : (s.endCt w).kernels = s.kernels := by
  unfold State.endCt
  rw [modCt_kernels]
  exact unwait_kernels s _

/-- A kernel that has begun and has not ended drains once it is aborted, and ends with its first cause (R104, R105). -/
theorem kernel_abortKernel {s : State} {kid : Nat} {k : Kernel} (h : s.kernel? kid = some k) (hst : k.st = .dispatching ∨ k.st = .running)
    (ed : Ending) : ∃ y, (s.abortKernel kid ed).kernel? kid = some y ∧ y.st = .draining ∧ y.ending = some (k.ending.getD ed) := by
  refine ⟨{ k with ending := some (k.ending.getD ed), st := .draining, liveWgs := 0 }, ?_, rfl, rfl⟩
  unfold State.abortKernel
  rw [h]
  have hgo {t : State} (ht : t.kernels = s.kernels) : (t.modKernel kid fun k =>
      { k with ending := some (k.ending.getD ed), st := .draining, liveWgs := 0 }).kernel? kid =
        some { k with ending := some (k.ending.getD ed), st := .draining, liveWgs := 0 } :=
    kernel_modKernel ((congrArg (tabFind? · kid) ht).trans h) _
  rcases hst with hst | hst <;>
  · simp only [hst]
    apply hgo
    rw [foldl_keeps State.kernels _ fun s w => modWg_kernels s w _]
    show (List.foldl State.endCt _ _).kernels = _
    rw [foldl_keeps State.kernels _ endCt_kernels, foldl_keeps State.kernels _ endGroup_kernels]
    exact sgAbort_kernels s kid fun _ _ => rfl

end Kernels

/-! ### Lanes that enter their handlers (R47 to R49) -/

section Handlers

variable {s : State} {ag : Agent} {u : Strand} {kid : Nat}

theorem unit_of_strand {g k : Nat} {x : Group} (hg : s.group? g = some x) (hk : x.strands[k]? = some u) :
    s.unit? (.strand g k) = some u := by
  simp only [State.unit?, hg, Option.bind_some, hk]

theorem lane_mapLanes (u : Strand) (p : Nat → Bool) (f : Nat → Lane → Lane) {k : Nat} (h : k < u.lanes.length) :
    (u.mapLanes p f).lane k = if p k then f k (u.lane k) else u.lane k := by
  simp [Strand.mapLanes, Strand.lane, nth, h]

theorem lane_mapLanes_of_not (u : Strand) {p : Nat → Bool} (f : Nat → Lane → Lane) {k : Nat} (h : p k = false) :
    (u.mapLanes p f).lane k = u.lane k := by
  by_cases hk : k < u.lanes.length
  · rw [lane_mapLanes u p f hk, h, if_neg Bool.false_ne_true]
  · simp [Strand.mapLanes, Strand.lane, nth, hk]

@[simp] theorem lane_settle (u : Strand) (p k : Nat) : (u.settle p).lane k = u.lane k := by
  unfold Strand.settle
  split
  · rfl
  · split <;> rfl

/-- A lane that is parked is one of the strand's. -/
theorem lt_length_of_parked {l : Nat} {c : Cause} (h : (u.lane l).parked = some c) : l < u.lanes.length := by
  refine Nat.not_le.mp fun hl => ?_
  simp [Strand.lane, nth, List.getElem?_eq_none hl, Lane.init] at h

theorem mem_parkedLanes {l : Nat} {c : Cause} : (l, c) ∈ u.parkedLanes ↔ l < 8 ∧ (u.lane l).parked = some c := by
  simp [Strand.parkedLanes]

/-- A parked lane of the strand has to wait: a sub-strand of its instruction has yet to execute the first clause of its handler, or one of a
lower cause comes first (R47). -/
def Strand.mustWait (u : Strand) (l : Nat) (c : Cause) : Prop :=
  u.handlerOpens (u.lane l).batch = true ∨ ∃ p ∈ u.parkedLanes, (u.lane p.1).batch = (u.lane l).batch ∧ p.2.code < c.code

theorem entering_of_not_mustWait {l : Nat} {c : Cause} (hp : (u.lane l).parked = some c) (hw : ¬ u.mustWait l c) : u.entering l = some c := by
  simp only [Strand.mustWait, not_or, not_exists, not_and, Nat.not_lt, Bool.not_eq_true] at hw
  obtain ⟨hopen, hleast⟩ := hw
  have hall : (u.parkedLanes.all fun p => (u.lane p.1).batch != (u.lane l).batch || decide (c.code ≤ p.2.code)) = true := by
    rw [List.all_eq_true]
    intro p hmem
    by_cases hb : (u.lane p.1).batch = (u.lane l).batch
    · simp [hb, hleast p hmem hb]
    · simp [hb]
  simp [Strand.entering, hp, hopen, hall]

theorem entering_of_mustWait {l : Nat} {c : Cause} (hp : (u.lane l).parked = some c) (hw : u.mustWait l c) : u.entering l = none := by
  rcases hw with hopen | ⟨p, hmem, hb, hlt⟩
  · simp [Strand.entering, hp, hopen]
  · have hall : (u.parkedLanes.all fun p => (u.lane p.1).batch != (u.lane l).batch || decide (c.code ≤ p.2.code)) = false := by
      rw [List.all_eq_false]
      exact ⟨p, hmem, by simp [hb, hlt]⟩
    simp [Strand.entering, hp, hall]

theorem entering_of_not_parked {l : Nat} (hp : (u.lane l).parked = none) : u.entering l = none := by
  simp [Strand.entering, hp]

/-- The strand with each lane in its handler that may enter it now. -/
def State.entered (s : State) (cx : Nat) (u : Strand) : Strand :=
  u.mapLanes (fun k => (u.entering k).isSome) fun k l => l.enter (((u.entering k).bind (s.handler cx)).getD 0)

theorem lane_entered_of_entering {cx l h : Nat} {c : Cause} (hp : (u.lane l).parked = some c) (he : u.entering l = some c)
    (hh : s.handler cx c = some h) : (s.entered cx u).lane l = (u.lane l).enter h := by
  simp [State.entered, lane_mapLanes u _ _ (lt_length_of_parked hp), he, hh]

theorem lane_entered_of_not {cx l : Nat} (he : u.entering l = none) : (s.entered cx u).lane l = u.lane l := by
  exact lane_mapLanes_of_not u _ (by simp [he])

theorem not_any_trapHeld {cx : Nat} (h : ∀ p ∈ u.parkedLanes, s.trapHeld cx p.2 = false) :
    (u.parkedLanes.any fun p => s.trapHeld cx p.2) = false := by
  simpa using h

section Enter
variable (hu : s.unit? ag = some u) (hk : s.kidOf ag = some kid) (hheld : ∀ p ∈ u.parkedLanes, s.trapHeld (s.cxOf ag) p.2 = false)
include hu hk hheld

/-- Where no cause ends the kernel and every handler can be read, the lanes that may enter do (R47, R48). -/
theorem enterTrap_of_handlers (hends : ∀ p ∈ u.parkedLanes, s.endsKernel (s.cxOf ag) (u.lane p.1) p.2 = false)
    (hread : ∀ c ∈ u.enters, s.handler (s.cxOf ag) c ≠ none) : s.enterTrap ag = s.modUnit ag fun _ => s.entered (s.cxOf ag) u := by
  have hfind : (u.parkedLanes.find? fun (k, c) => s.endsKernel (s.cxOf ag) (u.lane k) c) = none :=
    List.find?_eq_none.mpr fun p hp => by simp [hends p hp]
  have hany : (u.enters.any fun c => (s.handler (s.cxOf ag) c).isNone) = false := by
    simpa [← Option.isSome_iff_ne_none] using hread
  simp only [State.enterTrap, hu, hk, not_any_trapHeld hheld, hfind, hany, Bool.false_eq_true, if_false]
  rfl

/-- Where the cause of the lowest parked lane ends the kernel, it does (R49). -/
theorem enterTrap_of_endsKernel {l : Nat} {c : Cause} {rest : List (Nat × Cause)} (hl : u.parkedLanes = (l, c) :: rest)
    (hends : s.endsKernel (s.cxOf ag) (u.lane l) c = true) :
    s.enterTrap ag = s.abortKernel kid ⟨BitVec.ofNat 8 c.code, (u.lane l).tpc, (u.lane l).taddr⟩ := by
  have hfind : (u.parkedLanes.find? fun (k, c) => s.endsKernel (s.cxOf ag) (u.lane k) c) = some (l, c) := by
    rw [hl]
    exact List.find?_cons_of_pos hends
  simp only [State.enterTrap, hu, hk, not_any_trapHeld hheld, hfind, Bool.false_eq_true, if_false]

end Enter

theorem endsKernel_iff {cx : Nat} {l : Lane} {c : Cause} : s.endsKernel cx l c = true ↔
    c = .lease ∨ c = .integrity ∨ (s.ctx cx).trapbase = 0 ∨ l.inHandler = true ∨ s.handler cx c = some 0 := by
  simp [State.endsKernel, or_assoc]

end Handlers

/-- Settles O59: a lane that may enter its handler is in the one of its cause and every other lane is as it was; an abort reaches the kernel through
operations that each leave the table of kernels alone. -/
theorem trapsAreRecordedAndEntered : Obligations.TrapsAreRecordedAndEntered := by
  unfold Obligations.TrapsAreRecordedAndEntered
  refine ⟨fun l c a f => rfl, ?enters, ?ends, fun s kid k ed hk hst => kernel_abortKernel hk hst ed⟩
  case enters =>
    intro s g k u kid x hg hk hkid ag waits hquiet hread
    have hu := unit_of_strand hg hk
    have henter := enterTrap_of_handlers hu hkid (fun p hp => (hquiet p hp).2) (fun p hp => (hquiet p hp).1) hread
    refine ⟨(s.entered (s.cxOf ag) u).settle (s.entered (s.cxOf ag) u).gave, ?_, ?_, ?_, ?_, ?_⟩
    · rw [State.trapStep, henter]
      exact unit_modUnit (unit_modUnit hu _) _
    · rw [State.trapStep, henter, modUnit_mem, modUnit_mem]
    · intro l c h hl hw hh
      obtain ⟨-, hp⟩ := mem_parkedLanes.mp hl
      rw [lane_settle, lane_entered_of_entering hp (entering_of_not_mustWait hp hw) hh]
      rfl
    · intro l c hl hw
      rw [lane_settle, lane_entered_of_not (entering_of_mustWait (mem_parkedLanes.mp hl).2 hw)]
    · intro l _ hp
      rw [lane_settle, lane_entered_of_not (entering_of_not_parked hp)]
  case ends =>
    intro s ag u kid l c rest hu hkid hl hheld hcause
    rw [State.trapStep, enterTrap_of_endsKernel hu hkid hheld hl (endsKernel_iff.mpr hcause)]

end Sys2Proof.Machine

/-!
SUPPORT. The checks that every word passes before its effect (R46, R120, R126, R207, R310, R323, R327, R399), the return from a trap (R50, R51)
and the saturation counters (R291, R292).
-/
namespace Sys2Proof.Machine
set_option Elab.async false

/-! ### Every word is issued -/

/-- `F` is the issue of word `i`, with a body of its own. -/
def Issues (i : Instr) (F : State → Out) : Prop := ∃ body, ∀ s, F s = s.word i body

section Issues

variable {i : Instr} {F : State → Out}

theorem issues_of_word {body} (h : ∀ s, F s = s.word i body) : Issues i F := ⟨body, h⟩
theorem issues_of_lanewise {f} (h : ∀ s, F s = s.lanewise i f) : Issues i F := issues_of_word h
theorem issues_of_alu {d ty f} (h : ∀ s, F s = s.alu i d ty f) : Issues i F := issues_of_lanewise h
theorem issues_of_checked {f} (h : ∀ s, F s = s.checked i f) : Issues i F := issues_of_word h
theorem issues_of_mul {d ty f} (h : ∀ s, F s = s.mul i d ty f) : Issues i F := issues_of_checked h
theorem issues_of_convert {cnt f} (h : ∀ s, F s = s.convert i cnt f) : Issues i F := issues_of_word h
theorem issues_of_predForm {p f} (h : ∀ s, F s = s.predForm i p f) : Issues i F := issues_of_lanewise h
theorem issues_of_returns {retry} (h : ∀ s, F s = s.returns i retry) : Issues i F := issues_of_word h
theorem issues_of_tier {b hbm d v n} (h : ∀ s, F s = s.tier i b hbm d v n) : Issues i F := issues_of_word h
theorem issues_of_copyWord {a d x bad body} (h : ∀ s, F s = s.copyWord i a d x bad body) : Issues i F := issues_of_word h

/-- Every instruction with a form is issued as a word, each through the operation that its meaning is written with; the instructions without one are
device steps. -/
theorem issues_of_formOf {f : Form} (h : formOf? i = some f) : Issues i (exec i) := by
  cases i
  case satq | shfl | bfly | bcast | vote | ballot | redux | fredux | scan | matchv | pcnt | elect | bra | brx | call | ret | enrol | rejoin
      | exit | yield | trap | brk | signal | signalMbox | rswitch | reggrow | regshrink | sleep | barinit | bararr | barwait | barinval |
      barrarr | barq | hbarInit | hbarArr | hbarWait | hbarQ | ld | st | ldt | stt | ldfr | stfr | atom | cas | ratom | fence | fenceTc |
      publish | mon | mwait | lastuse | mma | accdrain | accst | acctx | accwait | accfree | cbarArr | cbarWait | cbarInit | cbarInval |
      cbarQ | tready | fork | reward | slack | sgcancel | sgq | tapepush | launch | rcomb | sysrd | syswr | dbgmark | perfc | icinv |
      ckptmark =>
    unfold exec; exact issues_of_word fun _ => rfl
  case nop | icmp | iaddc | isubb | fcmp | fclass | dcmp | hcmp2 | rnd | rseed | pmovSet =>
    unfold exec; exact issues_of_lanewise fun _ => rfl
  case mov | iadd | isub | idiv | irem | imin | imax | iabs | ineg | iand | ior | ixor | inot | iandn | shl | shr | sar | rotl | bfe | bfi |
      popc | clz | ctz | brev | sel | iadd64 | shf64 | lea | ext | bmrg | lop3 | fadd | fsub | fmin | fmax | frcp | frsq | fsqrt | fsinpi |
      fcospi | fexp2 | flog2 | ftanh | frnd | dadd | dmin | dmax | drcp | dsqrt | hadd2 | hmax2 | hmin2 | unpk16 | unpk8 | unpk4 | pmovGet
      =>
    unfold exec; exact issues_of_alu fun _ => rfl
  case imul | imulh | imad | imad64 | dot4 | fmul | ffma | dmul | dfma | hmul2 | hfma2 | fdot2 =>
    unfold exec; exact issues_of_mul fun _ => rfl
  case cvtf | cvti | cvtd | pk16 | cvt8 | cvt4 | mxsc =>
    unfold exec; exact issues_of_convert fun _ => rfl
  case pand | por | pxor | pnot | pmov =>
    unfold exec; exact issues_of_predForm fun _ => rfl
  case rte | rteRetry =>
    unfold exec; exact issues_of_returns fun _ => rfl
  case tierpf | tierev =>
    unfold exec; exact issues_of_tier fun _ => rfl
  case copy | copymc | copyw =>
    unfold exec; exact issues_of_copyWord fun _ => rfl
  all_goals cases h

end Issues

/-! ### The checks, in their order -/

/-- The agent in focus stands at word `i` of form `f`, and `e` is what its issue would see. -/
structure State.Attempts (s : State) (ag : Agent) (i : Instr) (f : Form) (e : Env) : Prop where
  focus : s.focus = some ag
  form : formOf? i = some f
  env : (s.landReady ag).env? ag f.gd f.readsClk = some e

section Checks

variable {s : State} {ag : Agent} {i : Instr} {f : Form} {e : Env} (h : s.Attempts ag i f e) (body : Env → State → Out)
include h

theorem word_of_slotWait (hslot : (s.landReady ag).slotWait e = true) : s.word i body = .next (s.landReady ag).tick := by
  simp only [State.word, h.focus, h.form, h.env, hslot, if_true]

variable (hslot : (s.landReady ag).slotWait e = false)
include hslot

theorem word_of_not_permitted (hp : permitted e.ctl f.opc = false) :
    s.word i body = .next ((s.landReady ag).raisePath e .illegalOpcode) := by
  simp [State.word, h.focus, h.form, h.env, hslot, Form.cause, hp]

theorem word_of_bad_field (hp : permitted e.ctl f.opc = true) (hbad : f.ok e.ctl e.cl e.lane0.cwi = false ∨ badField i e = true) :
    s.word i body = .next ((s.landReady ag).raisePath e .illegalEncoding) := by
  cases hok : f.ok e.ctl e.cl e.lane0.cwi
  · simp [State.word, h.focus, h.form, h.env, hslot, Form.cause, hp, hok]
  · have hfield : badField i e = true := hbad.resolve_left (by simp [hok])
    simp [State.word, h.focus, h.form, h.env, hslot, Form.cause, hp, hok, hfield]

variable (hcause : f.cause e.ctl e.cl e.lane0.cwi = none) (hfield : badField i e = false)
include hcause hfield

theorem word_of_scoreboardWait (hu : e.u.stall = none) (hs : (s.landReady ag).scoreboardWait e f = true) :
    s.word i body = .next (s.landReady ag).tick := by
  simp [State.word, h.focus, h.form, h.env, hslot, hcause, hfield, hu, hs]

theorem word_of_rangeWait (hu : e.u.stall = none) (hs : (s.landReady ag).scoreboardWait e f = false)
    (hr : (s.landReady ag).rangeWait e f = true) : s.word i body = .next ((s.landReady ag).stallTick 5) := by
  simp [State.word, h.focus, h.form, h.env, hslot, hcause, hfield, hu, hs, hr]

variable (hgo : e.u.stall ≠ none ∨ ((s.landReady ag).scoreboardWait e f = false ∧ (s.landReady ag).rangeWait e f = false))
include hgo

/-- A word that need not wait, or has waited before, comes to its registers (R126) and then to its g destination (R120). -/
theorem word_of_not_waiting (ha : e.act ≠ 0) : s.word i body =
    if f.beyond e || badIndex i then .next ((s.landReady ag).raiseAct e .illegalEncoding)
    else if f.writesG && !e.coversU then .next ((s.landReady ag).finish e (e.divergent i))
    else body e (s.landReady ag) := by
  have hact : (e.act != 0) = true := bne_iff_ne.mpr ha
  have hwaits : (e.u.stall.isNone && (s.landReady ag).scoreboardWait e f) = false ∧
      (e.u.stall.isNone && (s.landReady ag).rangeWait e f) = false := by
    rcases hgo with hu | ⟨hs, hr⟩
    · simp [hu]
    · simp [hs, hr]
  simp only [State.word, h.focus, h.form, h.env, hslot, hcause, hfield, hact, hwaits, HOrElse.hOrElse, OrElse.orElse, Option.orElse,
    Bool.true_and, Bool.and_true, Bool.false_eq_true, if_false]

end Checks

theorem cause_eq_none {f : Form} {ctl : Bool} {cl : Clause} {w : Nat} (hp : permitted ctl f.opc = true) (hok : f.ok ctl cl w = true) :
    f.cause ctl cl w = none := by
  simp [Form.cause, hp, hok]

/-- Only `bcast` puts another cause before UNIFORM_DIVERGENT (R372). -/
theorem divergent_of_not_bcast {i : Instr} (e : Env) (h : ∀ gd d a b w, i ≠ .bcast gd d a b w) :
    e.divergent i = allBad e.act .uniformDivergent := by
  cases i with
  | bcast => exact absurd rfl (h _ _ _ _ _)
  | _ => rfl

/-! ### The checks of an access (R399) -/

section Locate

variable {s : State} {e : Env} {tlbs : List Nat} {need : Need} {use : BlockUse} {l va n al : Nat}

theorem spotOf_of_locate_error {c : Cause} (h : s.locate e tlbs va n al need = (.error c, s)) :
    s.spotOf e tlbs need use l ⟨va, n, al⟩ = (.error c, s) := by
  simp only [State.spotOf, h]

theorem locate_of_misaligned (h : va % al ≠ 0) : s.locate e tlbs va n al need = (.error .align, s) := by
  simp [State.locate, h]

theorem locate_of_no_space (h : va % al = 0) (hs : spaceOf s.fab va = none) : s.locate e tlbs va n al need = (.error .addrTag, s) := by
  simp [State.locate, h, hs]

theorem locate_of_not_leased (h : va % al = 0) (hs : spaceOf s.fab va = some .ctl) (hl : e.kern.leases false va n = false) :
    s.locate e tlbs va n al Need.load = (.error .lease, s) := by
  simp [State.locate, h, hs, State.paged, Need.load, hl]

end Locate

/-! ### Words with uniform operands -/

section Uniform

variable {s t : State} {e : Env} {vals : Nat → List W64}

theorem mem_lanesOf {m : BitVec 8} {l : Nat} : l ∈ lanesOf m ↔ inMask m l = true := by
  refine ⟨inMask_of_mem, fun h => List.mem_filter.mpr ⟨List.mem_range.mpr ?_, h⟩⟩
  refine Nat.not_le.mp fun hl => ?_
  simp [inMask, BitVec.getLsbD_of_ge m l hl] at h

theorem toNat_w (e : Env) (a : Src) (l : Nat) : (e.w a l).toNat = e.n .i32 a l := by
  have hlt : (lo32 (e.raw .i32 a l)).toNat < 2 ^ 32 := BitVec.isLt _
  simp only [Env.w, Env.n, Env.src, Ty.is64, Bool.false_eq_true, if_false, lo32, BitVec.toNat_setWidth] at hlt ⊢
  omega

theorem toNat_d (e : Env) (a : Src) (l : Nat) : (e.d a l).toNat = e.n .i64 a l := rfl

/-- A word whose operands agree, and whose earlier stores are done, does its work once for all active lanes. -/
theorem strandWord_of_agree (ha : e.act ≠ 0) (hc : s.clear? e = some t) (work : State → State × List LaneOut) :
    s.strandWord e (e.act, []) work = .next ((work t).1.finish e (work t).2) := by
  simp only [State.strandWord, if_neg ha, afterStores_of_clear hc, List.nil_append]

/-- A choice that is made for every element of a list is a map. -/
theorem filterMap_eq_map_of_mem {α β : Type} {l : List α} {f : α → Option β} {g : α → β} (h : ∀ a ∈ l, f a = some (g a)) :
    l.filterMap f = l.map g := by
  induction l with
  | nil => rfl
  | cons a t ih =>
    rw [List.filterMap_cons_some (h a List.mem_cons_self), ih fun b hb => h b (List.mem_cons_of_mem a hb), List.map_cons]

/-- Where the operand of every active lane is illegal, none carries the word out. -/
theorem strandOp_of_illegal {illegal : Nat → Bool} (h : ∀ l, inMask e.act l = true → illegal l = true) :
    e.strandOp vals illegal false = (0, allBad e.act .illegalEncoding) := by
  have hbads : (lanesOf e.act).filterMap (fun l =>
      if illegal l then some (LaneOut.bad l .illegalEncoding) else if vals l != vals e.low then some (.bad l .nonuniformOperand) else none)
      = allBad e.act .illegalEncoding :=
    filterMap_eq_map_of_mem fun l hl => by rw [if_pos (h l (inMask_of_mem hl))]
  have hnone (l : Nat) : (inMask e.act l && !((allBad e.act .illegalEncoding).any fun b => b.lane == l)) = false := by
    cases hl : inMask e.act l
    · rfl
    · simp only [Bool.true_and, Bool.not_eq_false', List.any_eq_true]
      exact ⟨.bad l .illegalEncoding, List.mem_map_of_mem (mem_lanesOf.mpr hl), by simp [LaneOut.bad]⟩
  simp only [Env.strandOp, hbads, hnone, Bool.false_and, Bool.false_eq_true, if_false]
  rfl

end Uniform

/-! ### `barinit` (R167, R390) -/

section Barinit

variable {gd : Guard} {b : Nat} {n : Src} {s t : State} {e : Env}

theorem src_of_agree {ty : Ty} (ha : e.agree fun l => [e.src ty n l]) {l : Nat} (hl : inMask e.act l = true) : e.n ty n l = e.n ty n e.low :=
  congrArg (fun vs : List W64 => (vs.headD 0).toNat) (ha.2 l hl)

theorem barinit_of_bad_count (h : s.issueOf? (.barinit gd b n) = some (e, t)) (ha : e.agree fun l => [e.src .i32 n l])
    (hn : e.w n e.low = 0 ∨ 65535 < (e.w n e.low).toNat) : exec (.barinit gd b n) s = .next (t.raiseAct e .illegalEncoding) := by
  have hbad : ∀ l, inMask e.act l = true → (e.n .i32 n l = 0 || 65535 < e.n .i32 n l : Bool) = true := by
    intro l hl
    rw [src_of_agree ha hl, ← toNat_w]
    rcases hn with hn | hn
    · simp [hn]
    · simp [hn]
  simp only [exec, execBarinit, word_of_issueOf h, strandOp_of_illegal hbad]
  rfl

theorem barinit_of_busy (h : s.clearOf? (.barinit gd b n) = some (e, t)) (ha : e.agree fun l => [e.src .i32 n l])
    (hlo : 1 ≤ (e.w n e.low).toNat) (hhi : (e.w n e.low).toNat ≤ 65535)
    (hbusy : (t.bar (.wg e.wid b)).waiters ≠ 0 ∨ (t.bar (.wg e.wid b)).pend ≠ 0) :
    exec (.barinit gd b n) s = .next (t.raiseAct e .barBusy) := by
  obtain ⟨u, hi, hc⟩ := clearOf_iff.mp h
  rw [toNat_w] at hlo hhi
  have hgood : ∀ l, inMask e.act l = true → (e.n .i32 n l = 0 || 65535 < e.n .i32 n l : Bool) = false := by
    intro l hl
    rw [src_of_agree ha hl]
    simp only [Bool.or_eq_false_iff, decide_eq_false_iff_not]
    omega
  have hb : (t.bar (e.bar b)).busy = true := by
    simpa [Bar.busy, Env.bar, bne_iff_ne] using hbusy
  simp only [exec, execBarinit, word_of_issueOf hi, strandOp_of_agree ha hgood (u := false) (by simp), strandWord_of_agree ha.1 hc, hb, if_true]
  rfl

end Barinit

/-! ### `rte` and `rte.retry` (R50, R51, R384) -/

section Returns

variable {gd : Guard} {retry : Bool} {s t : State} {e : Env}

theorem exec_rte (gd : Guard) (retry : Bool) (s : State) :
    exec (if retry then .rteRetry gd else .rte gd) s = s.returns (if retry then .rteRetry gd else .rte gd) retry := by
  cases retry <;> rfl

/-- Outside a handler the return raises PRIV at every active lane. -/
theorem returns_of_no_handler {i : Instr} (h : s.issueOf? i = some (e, t)) (hno : ∀ l, inMask e.act l = true → (e.u.lane l).inHandler = false) :
    s.returns i retry = .next (t.raiseAct e .priv) := by
  have hall : ((lanesOf e.act).filter fun l => !(e.u.lane l).inHandler) = lanesOf e.act :=
    List.filter_eq_self.mpr fun l hl => by simp [hno l (inMask_of_mem hl)]
  have hret (l : Nat) : (inMask e.act l && (e.u.lane l).inHandler) = false := by
    cases hl : inMask e.act l
    · rfl
    · simp [hno l hl]
  simp only [State.returns, word_of_issueOf h, hall, hret]
  rfl

/-- Lanes that are all active and in their handlers return, each as its trap record says. -/
theorem returns_of_handler {i : Instr} (h : s.issueOf? i = some (e, t)) (hpath : e.act = e.path) (ha : e.act ≠ 0)
    (hin : ∀ l, inMask e.act l = true → (e.u.lane l).inHandler = true)
    (hdefer : e.ctl = true → (lanesOf e.act).all (fun l => !(e.u.lane l).tflags.getLsbD 1) = true) :
    s.returns i retry = .next (((t.modUnit e.ag fun u =>
      { u.mapLanes (inMask e.path) (fun _ l => l.rte retry (t.clauseShape e.cx l.thdr)) with swash := min 511 (u.swash + 1) }).issued
        e).modUnit e.ag fun u => u.settle e.lane0.pc) := by
  have hbads : ((lanesOf e.act).filter fun l => !(e.u.lane l).inHandler) = [] :=
    List.filter_eq_nil_iff.mpr fun l hl => by simp [hin l (inMask_of_mem hl)]
  have hret : (maskOf fun l => inMask e.act l && (e.u.lane l).inHandler) = e.act := by
    rw [← maskOf_inMask e.act]
    congr 1
    funext l
    rw [maskOf_inMask]
    cases hl : inMask e.act l
    · rfl
    · simp [hin l hl]
  have hheld : (e.ctl && (lanesOf e.act).any fun l => (e.u.lane l).tflags.getLsbD 1) = false := by
    cases hctl : e.ctl
    · rfl
    · simpa using hdefer hctl
  have hlanes (u : Strand) (g : Lane → Lane) (r : Nat → Lane → Lane) :
      (u.mapLanes (inMask e.path) fun k l => if inMask e.act k then g l else r k l) = u.mapLanes (inMask e.path) fun _ l => g l := by
    simp only [Strand.mapLanes, hpath]
    congr 2
    funext k l
    cases inMask e.path k <;> rfl
  simp only [State.returns, word_of_issueOf h, hbads, hret, if_neg ha, hheld, Bool.false_eq_true, if_false, List.map_nil, hlanes]
  rfl

end Returns

/-- Settles O16: with every active lane in its handler the return has no cause to raise, and each lane of the path takes up its trap record. -/
theorem returnsResumeTheTrappedLanes : Obligations.ReturnsResumeTheTrappedLanes := by
  unfold Obligations.ReturnsResumeTheTrappedLanes
  intro gd retry s e t h hpath ha hin hdefer
  rw [exec_rte]
  exact returns_of_handler h hpath ha hin hdefer

/-- Settles O60: every word is the issue of its own body, so that the checks of the issue are those of every word, one lemma for each; then those of
an access, of `barinit` and of `rte`. -/
theorem wordsTrapOrWaitBeforeTheirEffect : Obligations.WordsTrapOrWaitBeforeTheirEffect := by
  unfold Obligations.WordsTrapOrWaitBeforeTheirEffect
  refine ⟨?issue, fun s e tlbs need use l va n al h => spotOf_of_locate_error (locate_of_misaligned h),
    fun s e tlbs need use l va n al h hs => spotOf_of_locate_error (locate_of_no_space h hs),
    fun s e tlbs l va n al h hs hl => spotOf_of_locate_error (locate_of_not_leased h hs hl),
    fun gd b n s e t => barinit_of_bad_count, fun gd b n s e t => barinit_of_busy, ?rte⟩
  case issue =>
    intro s i ag f e hfocus hform henv t
    have h : s.Attempts ag i f e := ⟨hfocus, hform, henv⟩
    obtain ⟨body, hexec⟩ := issues_of_formOf hform
    rw [hexec s]
    refine ⟨word_of_slotWait h body, fun hslot => ⟨word_of_not_permitted h body hslot, word_of_bad_field h body hslot, fun hp hok hfield => ?_⟩⟩
    have hcause := cause_eq_none hp hok
    refine ⟨word_of_scoreboardWait h body hslot hcause hfield, word_of_rangeWait h body hslot hcause hfield, fun hgo => ⟨?_, ?_⟩⟩
    · intro ha hbeyond
      rw [word_of_not_waiting h body hslot hcause hfield hgo ha, if_pos (by simpa using hbeyond)]
    · intro hbeyond hindex hg ha hcover
      rw [word_of_not_waiting h body hslot hcause hfield hgo ha, if_neg (by simp [hbeyond, hindex]), if_pos (by simp [hg, hcover])]
      refine ⟨rfl, fun hne => ?_⟩
      rw [divergent_of_not_bcast e hne]
      rfl
  case rte =>
    intro gd retry s e t h hno
    rw [exec_rte]
    exact returns_of_no_handler h hno

/-! ### Saturation counters (R291, R292, R361) -/

section Saturation

variable {s t : State} {e : Env} {k n : Nat}

theorem crosses_of_no_threshold (h : nth (s.ctx e.cx).satthr k 0 = 0) : s.crosses e k n = false := by
  simp only [State.crosses, h]
  rfl

/-- A count of nothing crosses no threshold. -/
theorem pos_of_crosses (h : s.crosses e k n = true) : 0 < n := by
  simp only [State.crosses, Bool.and_eq_true, decide_eq_true_eq] at h
  omega

/-- The conversions of the active lanes stand in ascending lanes. -/
theorem pairwise_lanes {f : Env → Nat → LaneOut × Nat} (hf : ∀ l, (f e l).1.lane = l) :
    ((lanesOf e.act).map (f e)).Pairwise fun a b => a.1.lane ≤ b.1.lane := by
  rw [List.pairwise_map]
  simp only [hf]
  exact (List.pairwise_lt_range.imp Nat.le_of_lt).filter _

/-- Where something was counted, SATURATION comes at the lowest lane with a count. -/
theorem saturated_of_count {rs : List (LaneOut × Nat)} (hsorted : rs.Pairwise fun a b => a.1.lane ≤ b.1.lane) (hpos : 0 < countOf rs) :
    ∃ r ∈ rs, r.2 ≠ 0 ∧ (∀ q ∈ rs, q.2 ≠ 0 → r.1.lane ≤ q.1.lane) ∧ ∀ outs, saturated rs outs = outs.map fun o =>
      if o.lane == r.1.lane && o.cause.isNone then { o with cause := some (.saturation, 0, 0), late := true } else o := by
  cases hc : rs.filter fun r => r.2 != 0 with
  | nil => simp [countOf, hc] at hpos
  | cons r rest =>
    have hmem {q : LaneOut × Nat} : q ∈ r :: rest ↔ q ∈ rs ∧ q.2 ≠ 0 := by
      rw [← hc, List.mem_filter, bne_iff_ne]
    have hleast := List.pairwise_cons.mp (hc ▸ hsorted.filter fun r : LaneOut × Nat => r.2 != 0)
    obtain ⟨hr, hcount⟩ := hmem.mp List.mem_cons_self
    refine ⟨r, hr, hcount, fun q hq hqc => ?_, fun outs => by simp only [saturated, hc]⟩
    rcases List.mem_cons.mp (hmem.mpr ⟨hq, hqc⟩) with rfl | hrest
    · exact Nat.le_refl _
    · exact hleast.1 q hrest

section Conversion

variable {i : Instr} {f : Env → Nat → LaneOut × Nat} (hconv : ConvResults i (some k) f) (h : s.issueOf? i = some (e, t))
include hconv h

theorem exec_of_no_threshold (hthr : nth (t.ctx e.cx).satthr k 0 = 0) : exec i s =
    .next ((t.addSat e k (countOf ((lanesOf e.act).map (f e)))).finish e (gResolve (((lanesOf e.act).map (f e)).map Prod.fst))) := by
  have hexec := hconv s e t h
  dsimp only at hexec
  rwa [crosses_of_no_threshold hthr, if_neg Bool.false_ne_true] at hexec

theorem exec_of_crosses (hlane : ∀ l, (f e l).1.lane = l) (hcross : t.crosses e k (countOf ((lanesOf e.act).map (f e))) = true) :
    ∃ r ∈ (lanesOf e.act).map (f e), r.2 ≠ 0 ∧ (∀ q ∈ (lanesOf e.act).map (f e), q.2 ≠ 0 → r.1.lane ≤ q.1.lane) ∧ exec i s =
      .next ((t.addSat e k (countOf ((lanesOf e.act).map (f e)))).finish e ((gResolve (((lanesOf e.act).map (f e)).map Prod.fst)).map fun o =>
        if o.lane == r.1.lane && o.cause.isNone then { o with cause := some (.saturation, 0, 0), late := true } else o)) := by
  have hexec := hconv s e t h
  dsimp only at hexec
  obtain ⟨r, hr, hcount, hleast, hsat⟩ := saturated_of_count (pairwise_lanes hlane) (pos_of_crosses hcross)
  rw [if_pos hcross, hsat] at hexec
  exact ⟨r, hr, hcount, hleast, hexec⟩

end Conversion

/-- A lane of `cvtf` with the count of its element. -/
def cvtfLane (d : Dst) (a : Src) (src : CvtFSrc) (sat : Bool) (rm : Rm) (e : Env) (l : Nat) : LaneOut × Nat :=
  convLane rm (if src = .f64 then toFmt .f32 rm sat else toFmtExact .f32 rm sat) d .i32 single e l [cvtfVal src e a l]

theorem lane_cvtfLane (d : Dst) (a : Src) (src : CvtFSrc) (sat : Bool) (rm : Rm) (e : Env) (l : Nat) :
    (cvtfLane d a src sat rm e l).1.lane = l := rfl

theorem cvtf_results (gd : Guard) (d : Dst) (a : Src) (k : Nat) (src : CvtFSrc) (sat : Bool) (rm : Rm) :
    ConvResults (.cvtf gd d a (some k) src sat rm) (some k) (cvtfLane d a src sat rm) :=
  convResults_of_convert fun _ => rfl

theorem satq_of_issueOf {gd : Guard} {d : Dst} {clr : Bool} (h : s.issueOf? (.satq gd d clr k) = some (e, t)) :
    exec (.satq gd d clr k) s = .next
      ((if clr && e.act != 0 then t.modCtx e.cx fun c => { c with satcnt := tabSet c.satcnt (16 * e.core + k) 0 } else t).finish e
        ((lanesOf e.act).map fun l => .reg l d .i32 (ofW (t.satCount e.cx e.core k)))) := by
  simp only [exec, execSatq, word_of_issueOf h]
  rfl

end Saturation

/-- Settles O10: a conversion raises SATURATION where its count crosses the threshold, which it cannot where the threshold is zero; the lanes stand in
ascending order, so that the first counted one is the lowest. -/
theorem saturationCountersTrapAtTheirThreshold : Obligations.SaturationCountersTrapAtTheirThreshold := by
  unfold Obligations.SaturationCountersTrapAtTheirThreshold
  refine ⟨?reset, ?noThreshold, ?crossing, ?late, fun s e k n => crosses_of_no_threshold, ?read, ?clear⟩
  case reset =>
    intro cx k hk
    show nth (List.replicate 16 (0 : W32)) k 1 = 0
    rw [nth, List.getElem?_replicate, if_pos hk, Option.getD_some]
  case noThreshold =>
    intro gd d a src sat rm k s e t h hthr rs
    have hrs : rs = (lanesOf e.act).map (cvtfLane d a src sat rm e) := rfl
    clear_value rs
    subst hrs
    exact exec_of_no_threshold (cvtf_results gd d a k src sat rm) h hthr
  case crossing =>
    intro gd d a src sat rm k s e t h rs hcross
    have hrs : rs = (lanesOf e.act).map (cvtfLane d a src sat rm e) := rfl
    clear_value rs
    subst hrs
    exact exec_of_crosses (cvtf_results gd d a k src sat rm) h (lane_cvtfLane d a src sat rm e) hcross
  case late =>
    intro l o next hcause hlate
    cases hgen : o.gen <;> simp [Lane.after, Lane.park, Lane.shift, hcause, hlate, hgen]
  case read =>
    intro gd d k s e t h
    exact satq_of_issueOf h
  case clear =>
    intro gd d k s e t h ha
    rw [satq_of_issueOf h, if_pos (by simpa using ha)]

end Sys2Proof.Machine

/-!
SUPPORT. Contexts (R33 to R60, R82): their commands, the writes of their registers, and the steps that grant, take away, save, restore and drain
them.
-/
namespace Sys2Proof.Machine
set_option Elab.async false

section Contexts

variable {s : State} {cx : Nat}

/-! ### Commands (R35, R44) -/

/-- Once the package is Ready a command of one of the 256 contexts has its effect (R33, R508). -/
theorem ctxCommand_of_ready (hcx : cx < 256) (hready : s.isReady = true) (f : State → State) : ctxCommand cx f s = .next (f s) := by
  rw [ctxCommand, if_pos hcx, if_pos hready]

section Ready

variable (hcx : cx < 256) (hready : s.isReady = true)
include hcx hready

theorem exec_build : exec (.build cx) s = .next (s.build cx) := ctxCommand_of_ready hcx hready fun s => s.build cx
theorem exec_commit : exec (.commit cx) s = .next (s.commit cx) := ctxCommand_of_ready hcx hready fun s => s.commit cx
theorem exec_preempt : exec (.preempt cx) s = .next (s.preempt cx) := ctxCommand_of_ready hcx hready fun s => s.preempt cx
theorem exec_destroy : exec (.destroy cx) s = .next (s.destroy cx) := ctxCommand_of_ready hcx hready fun s => s.destroy cx
theorem exec_clear : exec (.clear cx) s = .next (s.clear cx) := ctxCommand_of_ready hcx hready fun s => s.clear cx

end Ready

theorem build_of_free (h : (s.ctx cx).st = .free) : s.build cx = s.modCtx cx Context.built := by
  simp only [State.build, State.modCtx, h, BEq.rfl, if_true]

theorem build_of_not_free (h : (s.ctx cx).st ≠ .free) : s.build cx = s.modCtx cx Context.reject := by
  simp only [State.build, State.modCtx, beq_eq_false_iff_ne.mpr h, Bool.false_eq_true, if_false]

theorem commit_of_ok (h : (s.ctx cx).st = .building) (hok : (s.ctx cx).commitOk s.fab.rank = true) :
    s.commit cx = s.modCtx cx fun c => { c with st := .ready, lastcmd := 2 } := by
  simp only [State.commit, State.modCtx, h, hok, BEq.rfl, Bool.and_self, if_true]

theorem commit_of_not_ok (h : ¬((s.ctx cx).st = .building ∧ (s.ctx cx).commitOk s.fab.rank = true)) :
    s.commit cx = s.modCtx cx Context.reject := by
  have hno : ((s.ctx cx).st == .building && (s.ctx cx).commitOk s.fab.rank) = false := by simpa using h
  simp only [State.commit, State.modCtx, hno, Bool.false_eq_true, if_false]

theorem preempt_of_active (h : (s.ctx cx).st = .active) : s.preempt cx = s.preemptBy cx false := by
  simp only [State.preempt, h, BEq.rfl, if_true]

theorem preempt_of_not_active (h : (s.ctx cx).st ≠ .active) : s.preempt cx = s.modCtx cx Context.reject := by
  simp only [State.preempt, beq_eq_false_iff_ne.mpr h, Bool.false_eq_true, if_false]

theorem destroy_of_building (h : (s.ctx cx).st = .building) : s.destroy cx = s.modCtx cx fun c => { c with st := .free, lastcmd := 4 } := by
  simp only [State.destroy, h]

theorem destroy_of_whole (h : (s.ctx cx).st = .ready ∨ (s.ctx cx).st = .active ∨ (s.ctx cx).st = .saved) :
    s.destroy cx = s.drainCtx cx (s.kernelsOf cx KState.busy) := by
  rcases h with h | h | h <;> simp only [State.destroy, h]

theorem destroy_of_faulted (h : (s.ctx cx).st = .faulted) : s.destroy cx = s.drainCtx cx (s.kernelsOf cx fun k => k == .queued) := by
  simp only [State.destroy, h]

theorem destroy_of_other (h : (s.ctx cx).st = .free ∨ (s.ctx cx).st = .preempting ∨ (s.ctx cx).st = .draining) :
    s.destroy cx = s.modCtx cx Context.reject := by
  rcases h with h | h | h <;> simp only [State.destroy, h]

theorem clear_of_faulted (h : (s.ctx cx).st = .faulted) : s.clear cx =
    (s.endKernels (s.kernelsOf cx fun k => k == .queued) (s.ctx cx).fcause).modCtx cx fun c => { c with st := .ready, lastcmd := 5 } := by
  simp only [State.clear, h, BEq.rfl, if_true]

theorem clear_of_not_faulted (h : (s.ctx cx).st ≠ .faulted) : s.clear cx = s.modCtx cx Context.reject := by
  simp only [State.clear, beq_eq_false_iff_ne.mpr h, Bool.false_eq_true, if_false]

end Contexts

/-- Settles O34: on a package that is Ready each command is its row of the table of R44. -/
theorem contextCommandsMoveTheirContext : Obligations.ContextCommandsMoveTheirContext := by
  unfold Obligations.ContextCommandsMoveTheirContext
  intro cx s hcx hready
  refine ⟨fun hst => ?build, fun hst hok => ?commit, fun hst => ?preempt, fun hst => ?abandon, fun hst => ?destroy, fun hst => ?destroyFaulted,
    fun hst => ?clear⟩
  case build =>
    refine ⟨s.modCtx cx Context.built, by rw [exec_build hcx hready, build_of_free hst], ?_⟩
    rw [ctx_modCtx]
    exact ⟨rfl, rfl, rfl, rfl, rfl, fun c hne => ctx_modCtx_ne s cx c _ hne⟩
  case commit => rw [exec_commit hcx hready, commit_of_ok hst hok]
  case preempt =>
    rw [exec_preempt hcx hready, preempt_of_active hst]
    rfl
  case abandon => rw [exec_destroy hcx hready, destroy_of_building hst]
  case destroy => rw [exec_destroy hcx hready, destroy_of_whole hst]
  case destroyFaulted => rw [exec_destroy hcx hready, destroy_of_faulted hst]
  case clear =>
    refine ⟨s.clear cx, exec_clear hcx hready, ?_⟩
    rw [clear_of_faulted hst, ctx_modCtx]
    exact ⟨rfl, rfl⟩

/-- Settles O35: where R44 gives a command no row it is the rejection alone. -/
theorem contextCommandsAreRejectedElsewhere : Obligations.ContextCommandsAreRejectedElsewhere := by
  unfold Obligations.ContextCommandsAreRejectedElsewhere
  intro cx s hcx hready rejected
  have hreject : s.modCtx cx Context.reject = rejected := rfl
  refine ⟨fun hst => ?_, fun hst => ?_, fun hst hno => ?_, fun hst => ?_, fun hst => ?_, fun hst => ?_⟩
  · rw [exec_build hcx hready, build_of_not_free hst, hreject]
  · rw [exec_commit hcx hready, commit_of_not_ok fun h => hst h.1, hreject]
  · rw [exec_commit hcx hready, commit_of_not_ok (by simp [hno]), hreject]
  · rw [exec_preempt hcx hready, preempt_of_not_active hst, hreject]
  · rw [exec_destroy hcx hready, destroy_of_other hst, hreject]
  · rw [exec_clear hcx hready, clear_of_not_faulted hst, hreject]

section ContextSteps

variable {s u : State} {cx w : Nat}

/-! ### Registers (R36, R38, R39, R42) -/

theorem ctxStep_of_lt (hcx : cx < 256) (f : State → State) : ctxStep cx f s = .next (f s) := if_pos hcx

theorem ofNat_div_two_pow {m : Nat} (v : W64) (k : Nat) : BitVec.ofNat m (v.toNat / 2 ^ k) = v.extractLsb' k m := by
  rw [BitVec.extractLsb', Nat.shiftRight_eq_div_pow]

theorem ctx_setBudget (v : W64) (hlow : s.lowered = false) : ((s.setBudget cx v.toNat).ctx cx).floor = v.extractLsb' 32 16 ∧
    ((s.setBudget cx v.toNat).ctx cx).ceil = v.extractLsb' 16 16 ∧ ((s.setBudget cx v.toNat).ctx cx).cur = v.extractLsb' 16 16 := by
  simp only [State.setBudget, ctx_modCtx, Context.follow, hlow, Bool.false_eq_true, if_false, ofNat_div_two_pow, and_self]

theorem budgetCurChange_of_lowered {v : W16} (hcx : cx < 256) (hlow : s.mgmt.coolOut = true ∨ s.mgmt.hot = true)
    (hle : min (s.ctx cx).floor.toNat (s.ctx cx).ceil.toNat ≤ v.toNat) (hlt : v.toNat < (s.ctx cx).cur.toNat) :
    exec (.budgetCurChange cx v) s = .next (s.modCtx cx fun c => { c with cur := v }) := by
  have hl : s.lowered = true := by simpa [State.lowered] using hlow
  exact if_pos (by simp only [hcx, hl, hle, hlt, decide_true, Bool.and_self])

/-! ### Active slots (R82) -/

/-- The waiting context of highest rank takes a free slot; one that is saved takes back its places too. -/
theorem contextDispatch_of_first (hfirst : s.firstWaiting = some cx) (hwait : s.waitsForSlot cx = true) (hroom : s.slotHolders.length < 16) :
    let t := s.modCtx cx fun c => { c with st := .active, restoring := (s.ctx cx).st == .saved, dispatched := s.clk, waitSince := none }
    exec (.contextDispatch cx) s = .next (if (s.ctx cx).st == .saved then
      { t with wgs := t.wgs.map fun (i, w) => if w.saved && t.cxOfWg i == cx then (i, { w with saved := false }) else (i, w) } else t) := by
  exact if_pos (by simp only [hfirst, hwait, hroom, BEq.rfl, decide_true, Bool.and_self])

theorem schedulerPreempt_of_victim (hfirst : s.firstWaiting = some w) (hfull : s.slotHolders.length = 16)
    (hfree : (s.ctxs.any fun (_, c) => c.st == .preempting && c.bySched) = false) (hvictim : s.victim (s.rankOf w) = some cx) :
    exec (.schedulerPreempt cx) s = .next (s.preemptBy cx true) := by
  simp only [exec, execSchedulerPreempt, hfirst, hfull, hvictim, hfree, BEq.rfl, Bool.not_false, Bool.and_self, if_true]

/-! ### Save, restore, drain (R44, R52, R55) -/

theorem saveDone_of_ready (hst : (s.ctx cx).st = .preempting) (hready : s.saveReady cx = true)
    (himage : ((s.sgs.filter fun (key, _) => key / 4096 == cx).foldl (fun s (key, _) => s.sgWriteBack cx (key % 4096)) s).writeImage cx = .ok u) :
    exec (.saveDone cx none) s = .next (((((u.markRanges cx true).liveWgs cx).map Prod.fst).foldl
      (fun s w => if (u.ctx cx).restoring then s.modWg w fun w => { w with saved := true } else s.saveWg w) (u.markRanges cx true)).modCtx cx
        fun c => { c with st := .saved, saveseq := c.saveseq + 1, bySched := false, restoring := false }) := by
  simp only [exec, execSaveDone, hst, hready, himage, bne_self_eq_false, Bool.not_true, Bool.false_eq_true, if_false]

theorem restoreDone_of_ok (hst : (s.ctx cx).st = .active) (hrest : (s.ctx cx).restoring = true)
    (himage : s.restoreWgs cx (sectionIn (s.imageDir cx)) ((s.liveWgs cx).map Prod.fst) = .ok u) :
    exec (.restoreDone cx none) s = .next
      (((((u.kernelsOf cx fun k => k == .saved).foldl (fun s k => s.modKernel k fun k => { k with st := k.savedFrom }) u).markRanges cx
        false).modCtx cx fun c => { c with restoring := false }).dropWays cx |>.ctxIdle cx) := by
  simp only [exec, execRestoreDone, hst, hrest, himage, bne_self_eq_false, Bool.not_true, Bool.or_self, Bool.false_eq_true, if_false]

theorem contextDrainDone_of_idle (hst : (s.ctx cx).st = .draining) (hidle : s.engineBusy cx = false) (hnone : s.kernelsOf cx KState.busy = []) :
    exec (.contextDrainDone cx) s = .next (({ s with
      sgs := s.sgs.filter fun e => e.1 / 4096 != cx
      gens := s.gens.filter fun e => e.1 / 4096 != cx } : State).modCtx cx fun c => { c with st := .free }) := by
  simp only [exec, execContextDrainDone, hst, hidle, hnone, BEq.rfl, Bool.not_false, List.isEmpty_nil, Bool.and_self, if_true]

end ContextSteps

/-- Settles O36: each clause is the lemma on its step; a waiting context that is not saved is Ready and needs no restore. -/
theorem contextStepsTakeEffect : Obligations.ContextStepsTakeEffect := by
  unfold Obligations.ContextStepsTakeEffect
  refine ⟨fun cx v s hcx => ctxStep_of_lt hcx fun s => s.setPhase cx v.toNat, ?budget, ?ctxstat, ?ckptstat,
    fun cx v s => budgetCurChange_of_lowered, ?dispatch, ?restore,
    fun cx w s => schedulerPreempt_of_victim, fun cx s u => saveDone_of_ready, fun cx s u => restoreDone_of_ok,
    fun cx s => contextDrainDone_of_idle⟩
  case budget =>
    intro cx v s hcx hcool hhot
    exact ⟨_, ctxStep_of_lt hcx fun s => s.setBudget cx v.toNat, ctx_setBudget v (by rw [State.lowered, hcool, hhot, Bool.or_self])⟩
  case ctxstat =>
    intro cx v s hcx
    exact (ctxStep_of_lt hcx fun s => s.modCtx cx fun c => c.clearRej v.toNat).trans (by simp only [Context.clearRej, bitAt_toNat])
  case ckptstat =>
    intro cx v s hcx
    exact (ctxStep_of_lt hcx fun s => s.modCtx cx fun c => c.clearCerr v.toNat).trans (by simp only [Context.clearCerr, bitAt_toNat])
  case dispatch =>
    intro cx s hfirst hwait hroom hst
    have hdispatch := contextDispatch_of_first hfirst hwait hroom
    simpa only [beq_eq_false_iff_ne.mpr hst, Bool.false_eq_true, if_false] using hdispatch
  case restore =>
    intro cx s hfirst hwait hroom hst
    have hdispatch := contextDispatch_of_first hfirst hwait hroom
    simp only [hst, BEq.rfl, if_true] at hdispatch
    exact ⟨_, hdispatch, by rw [State.ctx]; simp, by rw [State.ctx]; simp⟩

end Sys2Proof.Machine

/-!
SUPPORT. The fetch of clauses, yields and the entry of handlers as steps (R47 to R49, R117, R307), the system words (R454 to R460), and the values
that registers have at reset.
-/
namespace Sys2Proof.Machine
set_option Elab.async false

/-! ### A fetch leaves every strand as it is -/

/-- The tables in which the strands stand: of groups, and of control threads. -/
def State.strandTables (s : State) : List (Nat × Group) × List (Nat × CThread) := (s.groups, s.cts)

theorem unit_of_strandTables {s t : State} (h : t.strandTables = s.strandTables) (ag : Agent) : t.unit? ag = s.unit? ag := by
  obtain ⟨hgroups, hcts⟩ := Prod.mk.inj h
  cases ag with
  | strand g k => simp only [State.unit?, State.group?, hgroups]
  | ctl w => simp only [State.unit?, State.ct?, hcts]

section FetchFrame

variable (s : State) (us : List Nat) (cx va : Nat)

theorem walkRequest_strandTables (who : Nat) : (s.walkRequest who us cx va).strandTables = s.strandTables := by
  unfold State.walkRequest
  split
  · rfl
  · split <;> rfl

theorem classify_strandTables (filler : Nat) (l : Leaf) : (s.classify cx va filler l).strandTables = s.strandTables := by
  unfold State.classify
  dsimp only
  split
  · rfl
  · split <;> rfl

theorem translate_strandTables (filler : Nat) : (s.translate us filler cx va).2.strandTables = s.strandTables := by
  unfold State.translate
  split
  · exact classify_strandTables ..
  · split
    · rfl
    · exact (classify_strandTables ..).trans (foldl_keeps State.strandTables (fun s u => s.tlbFill u cx va _) (fun _ _ => rfl) us s)

theorem icRead_strandTables (core a : Nat) : (s.icRead core a).2.strandTables = s.strandTables := by
  unfold State.icRead
  split <;> rfl

theorem fetchWord_strandTables (k : Kernel) (core : Nat) : (s.fetchWord k core va).2.strandTables = s.strandTables := by
  have htranslate := (translate_strandTables (s.walkRequest core [2048 + quadOf core] k.cx va) [2048 + quadOf core] k.cx va core).trans
    (walkRequest_strandTables ..)
  unfold State.fetchWord
  split
  · rfl
  · split
    · rfl
    · split
      next heq => rwa [heq] at htranslate
      next heq =>
        rw [heq] at htranslate
        split
        · exact htranslate
        · exact (icRead_strandTables ..).trans htranslate

theorem fetchWords_strandTables (k : Kernel) (core n : Nat) : (s.fetchWords k core va n).2.strandTables = s.strandTables := by
  induction n generalizing s va with
  | zero => rfl
  | succ n ih =>
    have hword := fetchWord_strandTables s va k core
    unfold State.fetchWords
    split
    next heq => rwa [heq] at hword
    next w t heq =>
      rw [heq] at hword
      have hrest := (ih t (va + 8)).trans hword
      split
      next heq => rwa [heq] at hrest
      next heq => rwa [heq] at hrest

end FetchFrame

/-- A clause that is fetched changes TLBs, pages and the instruction cache, and no strand. -/
theorem strandTables_of_fetchClause {s t : State} {k : Kernel} {core hdr : Nat} {r : Except (Cause × Nat × Nat) Clause}
    (h : s.fetchClause k core hdr = (r, t)) : t.strandTables = s.strandTables := by
  have hword := fetchWord_strandTables s hdr k core
  rw [show t = (s.fetchClause k core hdr).2 by rw [h]]
  unfold State.fetchClause
  dsimp only
  split
  · rfl
  · split
    next heq => rwa [heq] at hword
    next w v heq =>
      rw [heq] at hword
      split
      · exact hword
      · split
        · exact hword
        · split
          · exact hword
          · have hrest := (fetchWords_strandTables v (hdr + 8) k core ((headerLen w).1 + (headerLen w).2)).trans hword
            split
            next heq => rwa [heq] at hrest
            next heq => rwa [heq] at hrest

/-! ### A change of a strand depends on what it does to the strand that stands there -/

theorem modAt_congr {α : Type} {l : List α} {k : Nat} {a : α} {f g : α → α} (h : l[k]? = some a) (hfg : f a = g a) :
    modAt l k f = modAt l k g := by
  induction l generalizing k with
  | nil => rfl
  | cons b t ih =>
    cases k with
    | zero =>
      obtain rfl : b = a := Option.some.inj h
      exact congrArg (· :: t) hfg
    | succ k => exact congrArg (b :: ·) (ih h)

theorem modUnit_congr {s : State} {ag : Agent} {u : Strand} {f g : Strand → Strand} (h : s.unit? ag = some u) (hfg : f u = g u) :
    s.modUnit ag f = s.modUnit ag g := by
  cases ag with
  | strand i k =>
    obtain ⟨x, hx, hu⟩ := Option.bind_eq_some_iff.mp h
    simp only [State.modUnit, State.modGroup, hx, modAt_congr hu hfg]
  | ctl w =>
    obtain ⟨c, hc, rfl⟩ := Option.map_eq_some_iff.mp h
    simp only [State.modUnit, State.modCt, hc, hfg]

/-! ### Fetch, yield, entry -/

section Fetch

variable {s : State} {ag : Agent} {u : Strand} {w : Nat} {x : Kernel} {k0 : Nat} {ks : List Nat}

/-- The lanes of the path move to the first word of the clause whose header stands where its lowest lane is (R117). -/
theorem clauseFetch_of_ok {c : Clause} {t : State} (hissue : s.mayIssue ag = some (u, w, x)) (hpath : lanesOf u.path = k0 :: ks)
    (hat : (u.lane k0).inClause = false) (hheld : s.fetchHeld x (s.coreOf ag) (u.lane k0).pc = false)
    (hclause : s.fetchClause x (s.coreOf ag) (u.lane k0).pc = (.ok c, t)) :
    exec (.clauseFetch ag) s = .next (t.modUnit ag fun v =>
      { v.mapLanes (inMask v.path) (fun _ l =>
          if l.inClause then l else { l with inClause := true, hdr := (v.lane k0).pc, pc := (v.lane k0).pc + 8, cwi := 0 }) with
        clause := some c }).tick := by
  have hunit : t.unit? ag = some u :=
    (unit_of_strandTables (strandTables_of_fetchClause hclause) ag).trans (unit_of_mayIssue hissue)
  simp only [exec, execClauseFetch, hissue, hpath, hat, hheld, hclause, Bool.false_and, Bool.false_eq_true, if_false]
  exact congrArg (fun z => Host.Outcome.next (State.tick z)) (modUnit_congr hunit rfl)

theorem swashYield_of_due {g k : Nat} (hissue : s.mayIssue (.strand g k) = some (u, w, x)) (hpath : lanesOf u.path = k0 :: ks)
    (hat : (u.lane k0).inClause = false) (hswash : 256 ≤ u.swash) (hother : u.yieldPath.cur ≠ u.cur) :
    exec (.swashYield g k) s = .next (s.modUnit (.strand g k) Strand.yieldPath) := by
  simp only [exec, execSwashYield, hissue, hpath, hat, hswash, bne_iff_ne.mpr hother, Bool.not_false, decide_true, Bool.and_self, if_true]

theorem trapEntry_of_due (hissue : s.mayIssue ag = some (u, w, x)) (hdue : s.trapDue ag u = true) :
    exec (.trapEntry ag) s = .next (s.trapStep ag) := by
  simp only [exec, execTrapEntry, hissue, hdue, if_true]

end Fetch

/-- Settles O41: a lemma for each step. -/
theorem issueStepsTakeEffect : Obligations.IssueStepsTakeEffect := by
  unfold Obligations.IssueStepsTakeEffect
  exact ⟨fun ag s u w k k0 ks c t => clauseFetch_of_ok, fun g k s u w x k0 ks => swashYield_of_due, fun ag s u w k => trapEntry_of_due⟩

/-! ### System words (R454 to R460) -/

section SystemWords

variable {gd : Guard} {d : Dst} {a n ep : Src} {idx : Nat} {s t : State} {e : Env}

theorem sysrd_of_issueOf (h : s.issueOf? (.sysrd gd d idx) = some (e, t)) : exec (.sysrd gd d idx) s =
    .next (t.finish e ((lanesOf e.act).map fun l => .reg l d (SysReg.ty idx) (t.sysVal e idx l))) := by
  simp only [exec, execSysrd, word_of_issueOf h]

theorem syswr_phase_of_clear (h : s.clearOf? (.syswr gd a 6) = some (e, t)) (ha : e.act ≠ 0) :
    exec (.syswr gd a 6) s = .next ((t.setPhase e.cx (e.n .i32 a e.low % 8)).finish e (done e.act)) := by
  obtain ⟨u, hi, hc⟩ := clearOf_iff.mp h
  simp only [exec, execSyswr, word_of_issueOf hi, if_true, if_neg ha, afterStores_of_clear hc]

/-- A write of a trap register from within the handler, aligned where it is TPC, has no cause to raise (R455, R456). -/
theorem handlerWrite_of_inHandler {l : Nat} {v : W64} (hin : (e.u.lane l).inHandler = true) (hal : idx = 0x10 → v.toNat % 8 = 0) :
    e.handlerWrite idx l v = none := by
  have hno : ¬(idx = 0x10 ∧ v.toNat % 8 ≠ 0) := fun h => h.2 (hal h.1)
  simp only [Env.handlerWrite, hin, Bool.not_true, Bool.false_eq_true, if_false, if_neg hno]

theorem maskOf_act_of {p : Nat → Bool} (h : ∀ l, inMask e.act l = true → p l = true) : (maskOf fun l => inMask e.act l && p l) = e.act := by
  have hp : (fun l => inMask e.act l && p l) = inMask e.act := by
    funext l
    cases hl : inMask e.act l
    · rfl
    · simp [h l hl]
  rw [hp]
  exact maskOf_inMask e.act

theorem syswr_trap_of_issueOf (h : s.issueOf? (.syswr gd a idx) = some (e, t)) (hidx : idx = 0x10 ∨ (0x14 ≤ idx ∧ idx ≤ 0x17))
    (hin : ∀ l, inMask e.act l = true → (e.u.lane l).inHandler = true ∧ (idx = 0x10 → (e.d a l).toNat % 8 = 0)) :
    exec (.syswr gd a idx) s = .next
      ((t.modUnit e.ag fun u => u.mapLanes (inMask e.act) fun l x => x.setSys idx (e.d a l)).finish e (done e.act)) := by
  have hnone (l : Nat) (hl : inMask e.act l = true) : e.handlerWrite idx l (e.src .i64 a l) = none :=
    handlerWrite_of_inHandler (hin l hl).1 (hin l hl).2
  have hgood : (maskOf fun l => inMask e.act l && (e.handlerWrite idx l (e.src .i64 a l)).isNone) = e.act :=
    maskOf_act_of fun l hl => by simp [hnone l hl]
  have hbads : ((lanesOf e.act).filterMap fun l => (e.handlerWrite idx l (e.src .i64 a l)).map fun c => LaneOut.bad l c.1 c.2) = [] :=
    List.filterMap_eq_nil_iff.mpr fun l hl => by simp [hnone l (inMask_of_mem hl)]
  have hsix : idx ≠ 0x06 := by omega
  simp only [exec, execSyswr, word_of_issueOf h, if_neg hsix, if_pos hidx, hgood, hbads, List.append_nil]
  rfl

theorem dbgmark_of_traced (h : s.issueOf? (.dbgmark gd a) = some (e, t))
    (hon : bitAt (nth t.mgmt.tracemask (e.cx / 64) 0).toNat (e.cx % 64) = true) (ha : e.act ≠ 0) :
    exec (.dbgmark gd a) s = .next (({ t with mgmt := { t.mgmt with trace := t.mgmt.trace ++
      [⟨t.dtime, e.cx, e.core / 256, e.core % 256, e.u.slot, e.w a e.low⟩] } } : State).finish e (done e.act)) := by
  simp only [exec, execDbgmark, word_of_issueOf h, hon, bne_iff_ne.mpr ha, Bool.and_self, if_true]
  rfl

theorem perfc_of_issueOf (h : s.issueOf? (.perfc gd d idx) = some (e, t)) : exec (.perfc gd d idx) s =
    .next (t.finish e ((lanesOf e.act).map fun l => .reg l d .i64 (tabGet (t.ctx e.cx).perf 0 (8 * e.core + idx)))) := by
  simp only [exec, execPerfc, word_of_issueOf h]

/-- A package that is alone in its pod waits for no acknowledgement (R459). -/
theorem icinv_of_alone (h : s.clearOf? (.icinv gd a n) = some (e, t)) (hstall : e.u.stall = none)
    (ha : e.agree fun l => [e.src .i64 a l, e.src .i32 n l])
    (hcheck : ∀ u, s.issueOf? (.icinv gd a n) = some (e, u) → u.icinvCheck e (e.d a e.low).toNat (e.w n e.low).toNat = none)
    (hlen : e.w n e.low ≠ 0) (halone : t.liveRanks = [t.fab.rank]) :
    exec (.icinv gd a n) s = .next ((t.dropCode e.cx (e.d a e.low).toNat (e.w n e.low).toNat).finish e (done e.act)) := by
  obtain ⟨u, hi, hc⟩ := clearOf_iff.mp h
  have hgood := hcheck u hi
  have hne : e.n .i32 n e.low ≠ 0 := by
    rw [← toNat_w]
    exact fun h => hlen (BitVec.eq_of_toNat_eq h)
  rw [toNat_w, toNat_d] at hgood ⊢
  simp only [exec, execIcinv, word_of_issueOf hi, hstall, Option.isSome_none, Bool.false_eq_true, if_false,
    strandOp_of_agree ha (illegal := fun _ => false) (fun _ _ => rfl) (u := false) (by simp), if_neg ha.1, hgood, afterStores_of_clear hc,
    if_neg hne, if_pos halone, List.nil_append]

theorem ckptmark_of_good {ws : List Nat} {locs : List Loc} {bs : List (Nat × BufRec × Nat)} {u v : State}
    (h : s.clearOf? (.ckptmark gd a n ep) = some (e, t)) (ha : e.agree fun l => [e.src .i64 a l, e.src .i32 n l, e.src .i32 ep l])
    (hlo : 1 ≤ (e.w n e.low).toNat) (hhi : (e.w n e.low).toNat ≤ 64) (hal : (e.d a e.low).toNat % 16 = 0) (htag : (e.d a e.low).toNat < 2^62)
    (hload : t.loadList e (e.d a e.low).toNat (2 * (e.w n e.low).toNat) = (.ok (ws, locs), u))
    (hwait : ∀ x ∈ locs, t.mustWait e 8 Need.load x = false) (hbufs : u.ckptBufs e ws = (.ok bs, v))
    (hentry : v.ckptEntryCheck bs (e.d a e.low).toNat = none) :
    exec (.ckptmark gd a n ep) s = .next ((v.mark e.cx e.kid bs (e.w ep e.low)).finish e (done e.act)) := by
  obtain ⟨r, hi, hc⟩ := clearOf_iff.mp h
  rw [toNat_w] at hlo hhi hload
  rw [toNat_d] at hal htag hload hentry
  have hcount : ∀ l, inMask e.act l = true → (e.n .i32 n l = 0 || 64 < e.n .i32 n l : Bool) = false := by
    intro l hl
    have heq : e.n .i32 n l = e.n .i32 n e.low := congrArg (fun vs : List W64 => (nth vs 1 0).toNat) (ha.2 l hl)
    rw [heq]
    simp only [Bool.or_eq_false_iff, decide_eq_false_iff_not]
    omega
  have htop : ¬ e.n .i64 a e.low / 2^62 ≠ 0 := by omega
  have hnone : (locs.any fun x => t.mustWait e 8 Need.load x) = false := by simpa using hwait
  simp only [exec, execCkptmark, word_of_issueOf hi, strandOp_of_agree ha hcount (u := false) (by simp), if_neg ha.1, hal, ne_eq,
    not_true_eq_false, if_false, if_neg htop, afterStores_of_clear hc, hload, hnone, Bool.false_eq_true, hbufs, hentry, List.nil_append]
  rfl

/-! ### The steps that end an invalidation or a checkpoint copy -/

theorem icinvInvalidate_of_new {id : Nat} {x : IcinvOp} (hx : (s.icinvs.find? fun x => x.id == id) = some x) (hnew : x.dropped = false) :
    exec (.icinvInvalidate id) s = .next ((s.dropCode x.cx x.addr x.len).modIcinv id fun x => { x with dropped := true }) := by
  simp only [exec, execIcinvInvalidate, hx, hnew, Bool.false_eq_true, if_false]

theorem icinvAck_of_due {id rank : Nat} {x : IcinvOp} (hx : (s.icinvs.find? fun x => x.id == id) = some x) (hrank : rank ∈ x.acks)
    (hown : rank = s.fab.rank → x.dropped = true) :
    exec (.icinvAck id rank) s = .next ((s.modIcinv id fun x => { x with acks := x.acks.erase rank }).icinvEnd id) := by
  have hdue : (!x.acks.contains rank || (rank == s.fab.rank && !x.dropped)) = false := by
    simpa [hrank] using hown
  simp only [exec, execIcinvAck, hx, hdue, Bool.false_eq_true, if_false]

theorem checkpointCopyDone_of_ready {cx h : Nat} {c : CkptCopy} {u : State}
    (hc : (s.ckpts.find? fun c => c.cx == cx && c.handle == h) = some c) (hsrc : s.rangeReady cx c.buf.view c.buf.len false = true)
    (hdst : s.rangeReady cx c.dest c.buf.len false = true)
    (hparts : s.ckptParts cx c.buf.view c.dest c.buf.len (2 * (c.buf.len / 64 + 2)) = (none, u)) :
    exec (.checkpointCopyDone cx h) s = .next ((u.ckptDone cx h).served 2056 c.due) := by
  simp only [exec, execCheckpointCopyDone, hc, hsrc, hdst, hparts, Bool.and_self, Bool.not_true, Bool.false_eq_true, if_false]

theorem checkpointCopyFail_of_cause {cx h : Nat} {c : Cause} (hc : (s.ckpts.any fun c => c.cx == cx && c.handle == h) = true)
    (hcause : c = .peerLost ∨ c = .integrity ∨ c = .permission) : exec (.checkpointCopyFail cx h c) s = .next (s.ckptFail cx h) := by
  have hlisted : (c == .peerLost || c == .integrity || c == .permission) = true := by simpa [or_assoc] using hcause
  simp only [exec, execCheckpointCopyFail, hc, hlisted, Bool.and_self, if_true]

end SystemWords

/-- Settles O33: a lemma for each word and step. -/
theorem systemWordsComplete : Obligations.SystemWordsComplete := by
  unfold Obligations.SystemWordsComplete
  exact ⟨fun gd d n s e t h _ => sysrd_of_issueOf h, fun gd a s e t => syswr_phase_of_clear, fun gd a n s e t => syswr_trap_of_issueOf,
    fun gd a s e t => dbgmark_of_traced, fun gd d n s e t h _ => perfc_of_issueOf h, fun gd a n s e t => icinv_of_alone,
    fun gd a n ep s e t ws locs u bs v => ckptmark_of_good, fun id s x => icinvInvalidate_of_new, fun id rank s x => icinvAck_of_due,
    fun cx h s c u => checkpointCopyDone_of_ready, fun cx h c s => checkpointCopyFail_of_cause⟩

/-! ### Reset -/

/-- Every register of a queue reads zero at reset (R62). -/
theorem read_init (off : Nat) : Queue.init.read off = 0 := by
  unfold Queue.read
  split <;> rfl

/-- Every port is as at reset: those that exist are listed so, and one that does not is read so. -/
theorem port_reset (p : Nat) : State.reset.fab.port p = Port.init := by
  show ((List.replicate 12 Port.init)[p]?).getD Port.init = Port.init
  rw [List.getElem?_replicate]
  split <;> rfl

/-- Settles O56: a table that lists nothing reads as its reset values everywhere, and the fields of the blocks stand in their reset records. -/
theorem resetHoldsTheValuesOfTheManual : Obligations.ResetHoldsTheValuesOfTheManual := by
  unfold Obligations.ResetHoldsTheValuesOfTheManual
  refine ⟨reset_memory_wf, rfl, rfl, rfl, rfl, rfl, rfl, rfl, rfl, rfl, rfl, rfl, rfl, ?contexts, fun q => ⟨rfl, read_init⟩, fun g => rfl,
    ?phasetab, rfl, rfl, rfl, rfl, rfl, rfl, rfl, ?ports, ?tiles⟩
  case contexts => exact fun cx => ⟨rfl, rfl, rfl, rfl, rfl, rfl, rfl, rfl, rfl, rfl⟩
  case phasetab =>
    intro p hp
    show nth ((List.range 8).map PhaseTab.init) p (PhaseTab.init 0) = PhaseTab.init p
    simp [nth, hp]
  case ports =>
    intro p
    rw [port_reset]
    exact ⟨rfl, rfl⟩
  case tiles =>
    intro d i
    rw [show State.reset.tile d i = TileEntry.init from rfl]
    decide

end Sys2Proof.Machine

/-!
SUPPORT. Queues (R61 to R85): their commands and the writes of their registers, the records that the scheduler chooses and takes, and the holds of
those that wait.
-/
namespace Sys2Proof.Machine
set_option Elab.async false

/-- A change of a queue depends on what it does to the queue that stands there. -/
theorem modQueue_congr {s : State} {q : Nat} {f g : Queue → Queue} (h : f (s.queue q) = g (s.queue q)) : s.modQueue q f = s.modQueue q g := by
  simp only [State.modQueue, h]

/-! ### Commands by their values (R61, R65) -/

section CommandValues

variable {s : State} {q : Nat}

/-- The double words of the queue blocks lie 0x80 bytes apart from 0x10000 on (R61). -/
theorem blockOf_queueRegister {off : Nat} (hready : s.isReady = true) (hrank : s.fab.rank < 64) (hq : q < 1024) (hoff : off < 0x80)
    (hal : off % 8 = 0) : s.blockOf (blockBase + 2^20 * s.fab.rank + 0x10000 + 0x80 * q + off) = some (some (.queue q off)) := by
  have ho : blockBase + 2^20 * s.fab.rank + 0x10000 + 0x80 * q + off - blockBase = 2^20 * s.fab.rank + (0x10000 + 0x80 * q + off) := by omega
  have hr : (2^20 * s.fab.rank + (0x10000 + 0x80 * q + off)) / 2^20 = s.fab.rank := by omega
  have hplace : (2^20 * s.fab.rank + (0x10000 + 0x80 * q + off)) % 2^20 / 8 * 8 = 0x10000 + 0x80 * q + off := by omega
  have hblock : blockAt (0x10000 + 0x80 * q + off) = .queue q off := by
    have hdiv : (0x10000 + 0x80 * q + off - 0x10000) / 0x80 = q := by omega
    have hmod : (0x10000 + 0x80 * q + off) % 0x80 = off := by omega
    rw [blockAt, if_neg (by omega), if_pos (by omega), hdiv, hmod]
  unfold State.blockOf
  simp only [ho, hr, hplace, hblock, hready]
  rw [if_neg (by omega)]
  simp

theorem registerWrite_of_block {a : Nat} {b : Block} (ha : a % 8 = 0) (hb : s.blockOf a = some (some b)) (v : W64) :
    exec (.registerWrite a v) s = .next (s.regWrite b v false) := by
  have h8 : a / 8 * 8 = a := Nat.div_mul_cancel (Nat.dvd_of_mod_eq_zero ha)
  show execRegisterWrite a v s = _
  rw [execRegisterWrite, h8, hb]

theorem queueStep_of_lt (hq : q < 1024) (f : State → State) : queueStep q f s = .next (f s) := if_pos hq

section QueueSteps

variable (hq : q < 1024)
include hq

theorem exec_enable_eq_queueCmd : exec (.enable q) s = .next (s.queueCmd q 1) := queueStep_of_lt hq fun s => s.queueCmd q 1
theorem exec_disable_eq_queueCmd : exec (.disable q) s = .next (s.queueCmd q 2) := queueStep_of_lt hq fun s => s.queueCmd q 2
theorem exec_resume_eq_queueCmd : exec (.resume q) s = .next (s.queueCmd q 3) := queueStep_of_lt hq fun s => s.queueCmd q 3
theorem exec_skip_eq_queueCmd : exec (.skip q) s = .next (s.queueCmd q 4) := queueStep_of_lt hq fun s => s.queueCmd q 4
theorem exec_tapeclr_eq_queueCmd : exec (.tapeclr q) s = .next (s.queueCmd q 5) := queueStep_of_lt hq fun s => s.queueCmd q 5

end QueueSteps

/-- Only the lowest byte of a value that is written to QCMD counts. -/
theorem queueCmd_mod (v : Nat) : s.queueCmd q v = s.queueCmd q (v % 256) := by
  simp only [State.queueCmd, Nat.mod_mod]

/-- A value that names no command is rejected. -/
theorem queueCmd_of_other {v : Nat} (hready : s.isReady = true) (hv : v % 256 = 0 ∨ 5 < v % 256) :
    s.queueCmd q v = s.modQueue q Queue.reject := by
  unfold State.queueCmd
  rw [hready]
  split
  · rfl
  · split
    case h_6 => rfl
    all_goals omega

theorem registerWrite_qcmd (hq : q < 1024) (hready : s.isReady = true) (hrank : s.fab.rank < 64) (v : W64) :
    exec (.registerWrite (blockBase + 2^20 * s.fab.rank + 0x10000 + 0x80 * q + 0x20) v) s = .next (s.queueCmd q (v.toNat % 256)) := by
  have ha : (blockBase + 2^20 * s.fab.rank + 0x10000 + 0x80 * q + 0x20) % 8 = 0 := by
    unfold blockBase
    omega
  rw [registerWrite_of_block ha (blockOf_queueRegister hready hrank hq (by decide) (by decide)), ← queueCmd_mod]
  rfl

end CommandValues

/-- Settles O38: the address is that of QCMD of the queue, and each command is QCMD with its own value. -/
theorem queueCommandValuesGiveTheirCommands : Obligations.QueueCommandValuesGiveTheirCommands := by
  unfold Obligations.QueueCommandValuesGiveTheirCommands
  intro q v s hq hready hrank out
  have hout : out = .next (s.queueCmd q (v.toNat % 256)) := registerWrite_qcmd hq hready hrank v
  refine ⟨fun hv => ?enable, fun hv => ?disable, fun hv => ?resume, fun hv => ?skip, fun hv => ?tapeclr, fun hv => ?other⟩
  case enable => rw [hout, hv, exec_enable_eq_queueCmd hq]
  case disable => rw [hout, hv, exec_disable_eq_queueCmd hq]
  case resume => rw [hout, hv, exec_resume_eq_queueCmd hq]
  case skip => rw [hout, hv, exec_skip_eq_queueCmd hq]
  case tapeclr => rw [hout, hv, exec_tapeclr_eq_queueCmd hq]
  case other =>
    rw [hout, ← queueCmd_mod, queueCmd_of_other hready hv]
    rfl

/-! ### Commands in the states of the queue (R66, R79, R84) -/

section Commands

variable {s : State} {q : Nat}

theorem not_ready_ne_true (hready : s.isReady = true) : ¬(!s.isReady) = true := by simp [hready]

section Ready

variable (hq : q < 1024) (hready : s.isReady = true)
include hq hready

theorem exec_enable : exec (.enable q) s = .next (s.enableQ q) :=
  (exec_enable_eq_queueCmd hq).trans (congrArg _ (if_neg (not_ready_ne_true hready)))

theorem exec_disable : exec (.disable q) s = .next (s.disable q) :=
  (exec_disable_eq_queueCmd hq).trans (congrArg _ (if_neg (not_ready_ne_true hready)))

theorem exec_resume : exec (.resume q) s = .next (s.resumeQ q) :=
  (exec_resume_eq_queueCmd hq).trans (congrArg _ (if_neg (not_ready_ne_true hready)))

theorem exec_skip : exec (.skip q) s = .next (s.skipQ q) :=
  (exec_skip_eq_queueCmd hq).trans (congrArg _ (if_neg (not_ready_ne_true hready)))

theorem exec_tapeclr : exec (.tapeclr q) s = .next (s.modQueue q Queue.tapeClr) :=
  (exec_tapeclr_eq_queueCmd hq).trans (congrArg _ (if_neg (not_ready_ne_true hready)))

end Ready

/-- What ENABLE asks of the configuration of a queue (R66). -/
def Queue.configOk (x : Queue) (ctxFree : Bool) : Bool :=
  decide (3 ≤ x.rlog2) && decide (x.rlog2 ≤ 16) && decide (3 ≤ x.clog2) && decide (x.clog2 ≤ 12)
    && baseOk x.qring 256 && baseOk x.qcring 64 && baseOk x.qtape (2^22) && !ctxFree

theorem configOk_iff {x : Queue} {ctxFree : Bool} : x.configOk ctxFree = true ↔ 3 ≤ x.rlog2 ∧ x.rlog2 ≤ 16 ∧ 3 ≤ x.clog2 ∧ x.clog2 ≤ 12 ∧
    baseOk x.qring 256 = true ∧ baseOk x.qcring 64 = true ∧ baseOk x.qtape (2^22) = true ∧ ctxFree = false := by
  simp [Queue.configOk, and_assoc]

/-- A queue that ENABLE starts is Idle and empty, at the initial sequence numbers. -/
theorem enable_of_ok {x : Queue} {ctxFree : Bool} (hst : x.st = .disabled) (hok : x.configOk ctxFree = true) :
    let y := x.enable ctxFree
    y.st = .idle ∧ y.qhead = x.qiseq ∧ y.qtail = x.qiseq ∧ y.qcseq = x.qicseq ∧ y.qchead = x.qicseq ∧ y.lastcmd = 1 := by
  have hgo : (x.st == .disabled && x.configOk ctxFree) = true := by simp [hst, hok]
  intro y
  rw [show y = _ from if_pos hgo]
  exact ⟨rfl, rfl, rfl, rfl, rfl, rfl⟩

theorem enable_of_not_ok {x : Queue} {ctxFree : Bool} (h : ¬(x.st = .disabled ∧ x.configOk ctxFree = true)) : x.enable ctxFree = x.reject := by
  have hno : ¬(x.st == .disabled && x.configOk ctxFree) = true := by simpa using h
  exact if_neg hno

theorem enableQ_of_not_ok (h : ¬((s.queue q).st = .disabled ∧ (s.queue q).configOk ((s.ctx (s.queue q).cx).st == .free) = true)) :
    s.enableQ q = s.modQueue q Queue.reject := modQueue_congr (enable_of_not_ok h)

theorem disable_of_off (h : (s.queue q).st = .disabled ∨ (s.queue q).st = .draining) : s.disable q = s.modQueue q Queue.reject := by
  rcases h with h | h <;> simp only [State.disable, h]

theorem disable_of_dispatching (h : (s.queue q).st = .dispatching) :
    s.disable q = ((s.takeNow q).modQueue q fun x => { x with lastcmd := 2 }).drainQueue q := by
  simp only [State.disable, h]

theorem disable_of_other (hoff : (s.queue q).st ≠ .disabled) (hdrain : (s.queue q).st ≠ .draining) (hdisp : (s.queue q).st ≠ .dispatching) :
    s.disable q = (s.modQueue q fun x => { x with lastcmd := 2 }).drainQueue q := by
  unfold State.disable
  split
  · contradiction
  · contradiction
  · contradiction
  · rfl

/-- No REVERSE stands stalled: the queue is stalled on its head record. -/
theorem stalledReverse_eq_none {x : Queue} (h : x.stallRev = false ∨ x.rev = none) : (if x.stallRev then x.rev else none) = none := by
  rcases h with h | h <;> simp [h]

section Stalled

variable (hst : (s.queue q).st = .stalled)
include hst

theorem not_stalled_eq_false : ((s.queue q).st != .stalled) = false := by simp [hst]

/-- RESUME of a queue that is stalled on its head record has the record tested again. -/
theorem resumeQ_of_head (h : (s.queue q).stallRev = false ∨ (s.queue q).rev = none) :
    s.resumeQ q = (s.modQueue q fun x => { x with scause := .none, lastcmd := 3, stallRev := false }).modQueue q fun x => { x with st := .idle } := by
  simp only [State.resumeQ, not_stalled_eq_false hst, stalledReverse_eq_none h, Bool.false_eq_true, if_false]

/-- SKIP of a queue that is stalled on its head record completes the record as SKIPPED. -/
theorem skipQ_of_head (h : (s.queue q).stallRev = false ∨ (s.queue q).rev = none) :
    s.skipQ q = (s.modQueue q fun x =>
      { x with st := .idle, scause := .none, lastcmd := 4, qhead := x.qhead + 1, ready := none, sigWake := false }).complete q
        (simpleRec (s.queue q).qhead.toNat (s.queue q).stallTyp 2 s.dtime) := by
  simp only [State.skipQ, not_stalled_eq_false hst, stalledReverse_eq_none h, Bool.false_eq_true, if_false]

variable {r : Reverse} (hrev : (s.queue q).stallRev = true) (hr : (s.queue q).rev = some r)
include hrev hr

/-- RESUME of a stalled REVERSE that finds a kernel to launch has the queue wait for it. -/
theorem resumeQ_of_reverse {r' : Reverse} {d : Nat} {t : State}
    (ht : t = s.modQueue q fun x => { x with scause := .none, lastcmd := 3, stallRev := false })
    (hnext : t.revNext (s.queue q) { r with kernel := none, since := s.dtime } = (r', d, .kernel)) :
    s.resumeQ q = t.modQueue q fun x => { x with st := .blocked, hold := 4, rev := some r', depth := d } := by
  subst ht
  simp only [State.resumeQ, not_stalled_eq_false hst, hrev, hr, modQueue_dtime, hnext, Bool.false_eq_true, if_false, if_true]

/-- SKIP of a REVERSE that an aborted kernel stopped completes it as ABORTED. -/
theorem skipQ_of_aborted (hcause : (s.queue q).scause = .revabort) :
    s.skipQ q = (s.modQueue q fun x => { x with st := .idle, scause := .none, lastcmd := 4 }).revComplete q r (some (s.revEnding r)) := by
  simp only [State.skipQ, not_stalled_eq_false hst, hrev, hr, hcause, BEq.rfl, Bool.false_eq_true, if_false, if_true]

end Stalled

theorem resumeQ_of_not_stalled (h : (s.queue q).st ≠ .stalled) : s.resumeQ q = s.modQueue q Queue.reject :=
  if_pos (bne_iff_ne.mpr h)

theorem skipQ_of_not_stalled (h : (s.queue q).st ≠ .stalled) : s.skipQ q = s.modQueue q Queue.reject :=
  if_pos (bne_iff_ne.mpr h)

theorem tapeClr_of_quiet {x : Queue} (h : x.st = .disabled ∨ x.st = .idle ∨ x.st = .stalled) : x.tapeClr = { x with depth := 0, lastcmd := 5 } := by
  rcases h with h | h | h <;> simp only [Queue.tapeClr, h]

theorem tapeClr_of_busy {x : Queue} (h : x.st = .armed ∨ x.st = .dispatching ∨ x.st = .blocked ∨ x.st = .draining) : x.tapeClr = x.reject := by
  rcases h with h | h | h | h <;> simp only [Queue.tapeClr, h]

end Commands

/-! ### Writes of queue registers (R62, R70, R83) -/

section Writes

variable {s : State} {q : Nat} {x : Queue}

theorem exec_qtailWrite (hq : q < 1024) (v : W64) : exec (.qtailWrite q v) s = .next (s.modQueue q fun x => x.raiseTail v) :=
  queueStep_of_lt hq fun s => s.modQueue q fun x => x.raiseTail v

theorem exec_qcheadWrite (hq : q < 1024) (v : W64) : exec (.qcheadWrite q v) s = .next (s.modQueue q fun x => x.raiseHead v) :=
  queueStep_of_lt hq fun s => s.modQueue q fun x => x.raiseHead v

theorem raiseTail_of_disabled (h : x.st = .disabled) (v : W64) : x.raiseTail v = x.reject := by
  rw [Queue.raiseTail, h]
  rfl

theorem raiseHead_of_disabled (h : x.st = .disabled) (v : W64) : x.raiseHead v = x.reject := by
  rw [Queue.raiseHead, h]
  rfl

/-- QTAIL is a monotonic maximum. -/
theorem raiseTail_of_enabled (h : x.st ≠ .disabled) (v : W64) : x.raiseTail v = { x with qtail := if x.qtail.ult v then v else x.qtail } := by
  rw [Queue.raiseTail, if_neg (by simpa using h), BitVec.ult]
  by_cases hlt : x.qtail.toNat < v.toNat <;> simp [hlt]

/-- QCHEAD is a monotonic maximum. -/
theorem raiseHead_of_enabled (h : x.st ≠ .disabled) (v : W64) : x.raiseHead v = { x with qchead := if x.qchead.ult v then v else x.qchead } := by
  rw [Queue.raiseHead, if_neg (by simpa using h), BitVec.ult]
  by_cases hlt : x.qchead.toNat < v.toNat <;> simp [hlt]

end Writes

/-- Settles O37: a command is what its state of the queue makes of it, a write is the function of its register; a rejection sets REJ alone. -/
theorem queueCommandsTakeEffect : Obligations.QueueCommandsTakeEffect := by
  unfold Obligations.QueueCommandsTakeEffect
  refine ⟨?enable, fun q s hq hready hoff hdrain hdisp => ?disable, fun q s hq hready hdisp => ?disableDispatching,
    fun q s hq hready hst hhead => ?resume, fun q s hq hready hst hhead => ?skip, ?resumeReverse,
    fun q s r hq hready hst hrev hr hcause => ?skipReverse, ?rejected, fun q v s hq hst => ?writesRejected,
    fun q s hq hready hst => ?tapeclr, fun q v s hq hst => ?qtail, fun q v s hq hst => ?qchead, fun q v s hq => ?qwake, fun q v s hq => ?qstat⟩
  case enable =>
    intro q s hq hready hst hrlo hrhi hclo hchi hring hcring htape hctx
    have hok := configOk_iff.mpr ⟨hrlo, hrhi, hclo, hchi, hring, hcring, htape, beq_eq_false_iff_ne.mpr hctx⟩
    refine ⟨_, exec_enable hq hready, ?_⟩
    rw [State.enableQ, queue_modQueue]
    exact enable_of_ok hst hok
  case disable => rw [exec_disable hq hready, disable_of_other hoff hdrain hdisp]
  case disableDispatching => rw [exec_disable hq hready, disable_of_dispatching hdisp]
  case resume =>
    refine ⟨_, exec_resume hq hready, ?_⟩
    simp only [resumeQ_of_head hst hhead, queue_modQueue, and_self]
  case skip =>
    refine ⟨_, s.modQueue q fun x =>
      { x with st := .idle, scause := .none, lastcmd := 4, qhead := x.qhead + 1, ready := none, sigWake := false }, exec_skip hq hready, ?_⟩
    simp only [skipQ_of_head hst hhead, queue_modQueue, and_self]
  case resumeReverse =>
    intro q s r r' d hq hready hst hrev hr t hnext
    rw [exec_resume hq hready, resumeQ_of_reverse hst hrev hr rfl hnext]
  case skipReverse => rw [exec_skip hq hready, skipQ_of_aborted hst hrev hr hcause]
  case rejected =>
    intro q s hq hready rejected
    have hreject : s.modQueue q Queue.reject = rejected := rfl
    refine ⟨fun hst => ?_, fun hbad => ?_, fun hst => ?_, fun hst => ⟨?_, ?_⟩, fun hst => ?_⟩
    · rw [exec_enable hq hready, enableQ_of_not_ok fun h => hst h.1, hreject]
    · rw [exec_enable hq hready, enableQ_of_not_ok, hreject]
      rintro ⟨-, hok⟩
      obtain ⟨hrlo, hrhi, hclo, hchi, hring, hcring, htape, hctx⟩ := configOk_iff.mp hok
      rcases hbad with h | h | h | h | h | h | h | h
      · omega
      · omega
      · omega
      · omega
      · cases h.symm.trans hring
      · cases h.symm.trans hcring
      · cases h.symm.trans htape
      · exact beq_eq_false_iff_ne.mp hctx h
    · rw [exec_disable hq hready, disable_of_off hst, hreject]
    · rw [exec_resume hq hready, resumeQ_of_not_stalled hst, hreject]
    · rw [exec_skip hq hready, skipQ_of_not_stalled hst, hreject]
    · rw [exec_tapeclr hq hready, modQueue_congr (tapeClr_of_busy hst), hreject]
  case writesRejected =>
    exact ⟨(exec_qtailWrite hq v).trans (congrArg _ (modQueue_congr (raiseTail_of_disabled hst v))),
      (exec_qcheadWrite hq v).trans (congrArg _ (modQueue_congr (raiseHead_of_disabled hst v)))⟩
  case tapeclr => exact (exec_tapeclr hq hready).trans (congrArg _ (modQueue_congr (tapeClr_of_quiet hst)))
  case qtail => exact (exec_qtailWrite hq v).trans (congrArg _ (modQueue_congr (raiseTail_of_enabled hst v)))
  case qchead => exact (exec_qcheadWrite hq v).trans (congrArg _ (modQueue_congr (raiseHead_of_enabled hst v)))
  case qwake =>
    refine ⟨_, queueStep_of_lt hq fun s => s.modQueue q Queue.signal, ?_⟩
    rw [queue_modQueue]
    rfl
  case qstat => exact (queueStep_of_lt hq fun s => s.modQueue q fun x => x.clearStat v).trans (by simp only [Queue.clearStat, bitAt_toNat])

/-! ### Records (R67, R69, R72 to R78, R80, R240) -/

section Records

variable {s : State} {q : Nat} {rec : List Byte}

/-- The chosen queue goes to Dispatching with its head record, and reading the record is a request. -/
theorem choose_of_record (hdue : s.takeDue = true) (hchosen : s.chosen q false = true) (hhead : s.head q = .record rec) :
    s.choose q = .next ((s.modQueue q fun x => { x with st := .dispatching, disp := some rec }).requestAt 2059 0 (s.queue q).cx
      ((s.queue q).slotAt (s.queue q).qhead.toNat)) := by
  simp only [State.choose, hdue, hchosen, hhead, Bool.and_self, if_true]

/-- A record of a good form that is in Dispatching has the action of its type. -/
theorem dispatchRec_of_type {typ : Nat} {act : List Byte → State} (hst : (s.queue q).st = .dispatching) (hdisp : (s.queue q).disp = some rec)
    (hgood : recError rec = none) (htyp : recType rec = typ) : s.dispatchRec q typ act = .next (act rec) := by
  simp only [State.dispatchRec, hst, hdisp, hgood, htyp, BEq.rfl, if_true]

theorem takeMark_of_refused (h : (s.queue q).pushRefused = true) :
    s.takeMark q rec = (s.modQueue q fun x => { x with tovf := x.tovf || x.depth == 65536 }).takeDone q 3 := if_pos h

/-- A MARK that the tape admits writes its entry, whose two words hold its kind and its value. -/
theorem takeMark_of_pushed {t u : State} (h : (s.queue q).pushRefused = false)
    (hkind : s.devWrite (s.queue q).cx ((s.queue q).entryAt (s.queue q).depth) (leBytes 8 2) = some t)
    (hvalue : t.devWrite (s.queue q).cx ((s.queue q).entryAt (s.queue q).depth + 0x18) (leBytes 8 (wordAt rec 2 % 2^32)) = some u) :
    s.takeMark q rec = (u.modQueue q fun x => { x with depth := x.depth + 1 }).takeDone q 3 := by
  simp only [State.takeMark, h, hkind, hvalue, Bool.false_eq_true, if_false]

theorem takeWait_of_ok {b : Bool} (h : s.waitMet (s.queue q) rec = .ok b) : s.takeWait q rec = s.takeDone q 4 := by
  simp only [State.takeWait, h]

theorem takeWait_of_error {c : SCause} (h : s.waitMet (s.queue q) rec = .error c) : s.takeWait q rec = s.takeError q c 4 := by
  simp only [State.takeWait, h]

theorem signalValue_of_store {cx : Nat} (h : wordAt rec 4 % 4 = 0) : s.signalValue cx rec = some (wordAt rec 3) := by
  simp only [State.signalValue, h]

theorem signalValue_of_add {cx : Nat} {bs : List Byte} (h : wordAt rec 4 % 4 = 1) (hread : s.devRead cx (wordAt rec 2) 8 = some bs) :
    s.signalValue cx rec = some ((leNat bs + wordAt rec 3) % 2^64) := by
  simp only [State.signalValue, h, hread, Option.map_some]

theorem signalValue_of_max {cx : Nat} {bs : List Byte} (hstore : wordAt rec 4 % 4 ≠ 0) (hadd : wordAt rec 4 % 4 ≠ 1)
    (hread : s.devRead cx (wordAt rec 2) 8 = some bs) : s.signalValue cx rec = some (max (leNat bs) (wordAt rec 3)) := by
  unfold State.signalValue
  split
  · contradiction
  · contradiction
  · rw [hread]
    rfl

/-- A SIGNAL that can write its value does, and wakes the queue it names. -/
theorem takeSignal_of_written {v : Nat} {t : State} (hv : s.signalValue (s.queue q).cx rec = some v)
    (hwrite : s.devWrite (s.queue q).cx (wordAt rec 2) (leBytes 8 v) = some t) : s.takeSignal q rec =
      (if bitAt (wordAt rec 4) 31 then t.modQueue (bits (wordAt rec 4) 25 16) Queue.signal else t).takeDone q 5 := by
  simp only [State.takeSignal, hv, hwrite]

/-- A running REVERSE that the scheduler chooses launches the first kernel of its run. -/
theorem reverseNextKernel_of_todo {r : Reverse} {i : Nat} {is : List Nat} (hchosen : s.chosen q true = true) (hr : (s.queue q).rev = some r)
    (htodo : r.todo = i :: is) : exec (.reverseNextKernel q) s = .next (s.launchTape q r i) := by
  simp only [exec, execReverseNextKernel, hchosen, hr, htodo, if_true]

/-! ### Holds (R72, R84) -/

/-- A Blocked queue to whose head record no hold applies is Armed. -/
theorem holdRelease_of_free (hst : (s.queue q).st = .blocked) (hhead : s.head q = .record rec) (hhold : s.holdOf q rec = .ok 0) :
    exec (.holdRelease q) s = .next (s.modQueue q fun x => { x with st := .armed, hold := 0, ready := some (x.ready.getD s.dtime) }) := by
  simp only [exec, execHoldRelease, hst, hhead, hhold, BEq.rfl, if_true]

/-- A WAIT that is held when its time is over stalls its queue. -/
theorem waitTimeout_of_held {t : W64} {h : Nat} (hst : (s.queue q).st = .blocked) (hhead : s.head q = .record rec)
    (hready : (s.queue q).ready = some t) (htyp : recType rec = 4) (hhold : s.holdOf q rec = .ok h) (hheld : h ≠ 0)
    (htime : wordAt rec 4 / 2^32 ≠ 0) (hover : t.toNat + wordAt rec 4 / 2^32 ≤ s.dtime.toNat) :
    exec (.waitTimeout q) s = .next (s.takeError q .waitto 4) := by
  simp only [exec, execWaitTimeout, hhead, hready, hhold, hst, htyp, bne_iff_ne.mpr hheld, bne_iff_ne.mpr htime, hover, BEq.rfl, decide_true,
    Bool.and_self, if_true]

end Records

/-- Settles O39: the choice, the action of each type of record, the next kernel of a REVERSE, and the two ends of a hold. -/
theorem queueRecordsTakeEffect : Obligations.QueueRecordsTakeEffect := by
  unfold Obligations.QueueRecordsTakeEffect
  refine ⟨fun q s rec => choose_of_record, ?record, fun q s r i is => reverseNextKernel_of_todo, fun q s rec => holdRelease_of_free, ?timeout⟩
  case record =>
    intro q s rec hst hdisp hgood
    have haction {typ : Nat} (htyp : recType rec = typ) (act : List Byte → State) : s.dispatchRec q typ act = .next (act rec) :=
      dispatchRec_of_type hst hdisp hgood htyp
    refine ⟨fun htyp => haction htyp (s.takeLaunch q), fun htyp => haction htyp fun _ => s.takeReverse q,
      fun htyp hfull => ?markRefused, fun htyp hroom t u hkind hvalue => ?mark, fun htyp => ⟨fun b hmet => ?wait, fun c hbad => ?waitError⟩,
      fun htyp v t hv hwrite => ?signal, fun htyp => haction htyp (s.takePhase q), fun htyp => haction htyp fun _ => s.takeDone q 7⟩
    case markRefused => exact (haction htyp (s.takeMark q)).trans (congrArg _ (takeMark_of_refused hfull))
    case mark => exact (haction htyp (s.takeMark q)).trans (congrArg _ (takeMark_of_pushed hroom hkind hvalue))
    case wait => exact (haction htyp (s.takeWait q)).trans (congrArg _ (takeWait_of_ok hmet))
    case waitError => exact (haction htyp (s.takeWait q)).trans (congrArg _ (takeWait_of_error hbad))
    case signal =>
      have hvalue : s.signalValue (s.queue q).cx rec = some v := by
        split at hv
        next hop => rw [signalValue_of_store hop, hv]
        next hop =>
          obtain ⟨bs, hread, rfl⟩ := hv
          exact signalValue_of_add hop hread
        next hstore hadd =>
          obtain ⟨bs, hread, rfl⟩ := hv
          exact signalValue_of_max hstore hadd hread
      exact (haction htyp (s.takeSignal q)).trans (congrArg _ (takeSignal_of_written hvalue hwrite))
  case timeout =>
    intro q s rec t h hst hhead hready htyp hhold hheld htime hover
    exact waitTimeout_of_held hst hhead hready htyp hhold hheld htime hover

end Sys2Proof.Machine

/-!
SUPPORT. The words that reach a queue, the mailbox or the tile table: signals (R83, R386), pushes onto the tape and launches (R77, R103, R451,
R452), and `tready` (R271, R449).
-/
namespace Sys2Proof.Machine
set_option Elab.async false

section DeviceWords

variable {gd : Guard} {a b : Src} {p : Nat} {s t : State} {e : Env}

theorem signal_of_own (h : s.clearOf? (.signal gd a b) = some (e, t)) (ha : e.agree fun l => [e.src .i32 a l])
    (hq : (e.w a e.low).toNat < 1024) (hcx : (t.queue (e.w a e.low).toNat).cx = e.cx) :
    exec (.signal gd a b) s = .next ((t.modQueue (e.w a e.low).toNat Queue.signal).finish e (done e.act)) := by
  obtain ⟨u, hi, hc⟩ := clearOf_iff.mp h
  rw [toNat_w] at hq hcx ⊢
  have hown : ¬(1024 ≤ e.n .i32 a e.low ∨ (t.queue (e.n .i32 a e.low)).cx ≠ e.cx) := by
    rintro (hno | hno)
    · omega
    · exact hno hcx
  simp only [exec, execSignal, word_of_issueOf hi, uniform_of_agree ha, strandWord_of_agree ha.1 hc, if_neg hown]

theorem signalMbox_of_agree (h : s.clearOf? (.signalMbox gd a b) = some (e, t)) (ha : e.agree fun l => [e.src .i32 a l]) :
    exec (.signalMbox gd a b) s = .next ((t.mailbox e.cx (e.w b e.low)).finish e (done e.act)) := by
  obtain ⟨u, hi, hc⟩ := clearOf_iff.mp h
  simp only [exec, execSignalMbox, word_of_issueOf hi, uniform_of_agree ha, strandWord_of_agree ha.1 hc]
  rfl

/-- An Armed entry of the own context becomes ready where nothing refuses it and nothing has to be waited for. -/
theorem tready_of_armed {i d k : Nat} {y : TileEntry} (h : s.clearOf? (.tready gd i) = some (e, t)) (hact : e.act ≠ 0)
    (hd : d = e.core / 256) (hk : k = (e.greg i).toNat % 4096) (hy : y = t.tile d k) (hcx : y.cx = e.cx) (hst : y.st = .armed)
    (hskind : y.skind = true) (hview : t.inView e (t.ownVa y.roff) y.len = true) (hlost : y.lost t.fab.lostmap.toNat = false)
    (hroom : t.tileFull d y = false) (hsource : t.tileSourceReady y = true) : exec (.tready gd i) s =
      .next (((t.modTile d k fun x => { x with issuer := some e.ag }).tileReady d k e.kid).finish e (done e.act)) := by
  subst hd hk hy
  obtain ⟨u, hi, hc⟩ := clearOf_iff.mp h
  simp only [exec, execTready, word_of_issueOf hi, if_neg hact, afterStores_of_clear hc, hcx, hst, hskind, hview, hlost, hroom, hsource,
    ne_eq, not_true_eq_false, decide_false, bne_self_eq_false, Bool.not_true, Bool.or_self, Bool.false_eq_true, if_false]

theorem tapepush_of_pushed {upd : Bool} {u : State} (h : s.clearOf? (.tapepush gd p a b upd) = some (e, t))
    (ha : e.agree fun l => [e.src .i64 a l, e.src .i64 b l]) (hcheck : tapeCheck (e.d a e.low).toNat (e.d b e.low).toNat = none)
    (hroom : (t.queue e.kern.queue).pushRefused = false)
    (hpush : t.pushTape e.kern.queue (e.d a e.low).toNat (e.d b e.low).toNat upd = some u) :
    exec (.tapepush gd p a b upd) s = .next (u.finish e (allPd e.act p true)) := by
  obtain ⟨v, hi, hc⟩ := clearOf_iff.mp h
  rw [toNat_d, toNat_d] at hcheck hpush
  simp only [exec, execTapepush, word_of_issueOf hi, strandOp_of_agree ha (illegal := fun _ => false) (fun _ _ => rfl) (u := false) (by simp),
    strandWord_of_agree ha.1 hc, hcheck, hroom, hpush, Bool.false_eq_true, if_false]

/-- A launch that passes its checks has the answer of its target queue, which may take no record. -/
theorem launch_of_checked {q : Src} {ok : Bool} {u : State} (h : s.clearOf? (.launch gd p a q) = some (e, t))
    (ha : e.agree fun l => [e.src .i64 a l, e.src .i32 q l])
    (hcheck : t.launchCheck e (e.d a e.low).toNat (e.w q e.low).toNat = none)
    (hinto : t.launchInto e.cx (e.d a e.low).toNat (e.w q e.low).toNat = some (ok, u)) :
    exec (.launch gd p a q) s = .next (u.finish e (allPd e.act p ok)) := by
  obtain ⟨v, hi, hc⟩ := clearOf_iff.mp h
  rw [toNat_d, toNat_w] at hcheck hinto
  simp only [exec, execLaunch, word_of_issueOf hi, strandOp_of_agree ha (illegal := fun _ => false) (fun _ _ => rfl) (u := false) (by simp),
    strandWord_of_agree ha.1 hc, hcheck, hinto]

end DeviceWords

/-- Settles O17: a lemma for each signal. -/
theorem signalsReachTheirQueueAndMailbox : Obligations.SignalsReachTheirQueueAndMailbox := by
  unfold Obligations.SignalsReachTheirQueueAndMailbox
  exact ⟨fun gd a b s e t => signal_of_own, fun gd a b s e t => signalMbox_of_agree⟩

/-- Settles O29: a lemma for each word. -/
theorem tileTapeAndLaunchWordsComplete : Obligations.TileTapeAndLaunchWordsComplete := by
  unfold Obligations.TileTapeAndLaunchWordsComplete
  refine ⟨fun gd i s e t h hact => ?tready, fun gd p a b upd s e t u => tapepush_of_pushed, fun gd p a q s e t ok u => launch_of_checked⟩
  case tready => exact tready_of_armed h hact rfl rfl rfl

end Sys2Proof.Machine

/-!
SUPPORT. The life of a kernel from its admission to its end: leases, the placement of its workgroups, the loading of its groups (R88 to R107,
R130).
-/
namespace Sys2Proof.Machine
set_option Elab.async false

section KernelLife

variable {s t u : State} {k g wid : Nat} {x : Kernel} {y : Group} {p : Place}

/-! ### Admission and leases (R88, R97, R102, R104) -/

section Admission

variable (hk : s.kernel? k = some x) (hst : x.st = .queued) (hctx : (s.ctx x.cx).st ≠ .faulted) (hdeps : x.deps.all s.depMet = true)
include hk hst hctx hdeps

theorem kernelAdmit_of_empty (hgrid : x.grid.1 * x.grid.2.1 * x.grid.2.2 = 0) : exec (.kernelAdmit k) s = .next (s.finishKernel k) := by
  simp only [exec, execKernelAdmit, hk, hst, bne_iff_ne.mpr hctx, hdeps, hgrid, BEq.rfl, Bool.and_self, if_true]

theorem kernelAdmit_of_grid (hgrid : x.grid.1 * x.grid.2.1 * x.grid.2.2 ≠ 0) :
    exec (.kernelAdmit k) s = .next (((s.modKernel k fun x => { x with st := .ranging }).rangeOn k).preWake x.cx) := by
  simp only [exec, execKernelAdmit, hk, hst, bne_iff_ne.mpr hctx, hdeps, hgrid, BEq.rfl, Bool.and_self, if_true, if_false]

end Admission

/-- A change of a kernel depends on what it does to the kernel that stands there. -/
theorem modKernel_congr {f h : Kernel → Kernel} (hk : s.kernel? k = some x) (hfh : f x = h x) : s.modKernel k f = s.modKernel k h := by
  simp only [State.modKernel, hk, hfh]

/-- Leases of pages change no kernel. -/
theorem kernel_leasePages (cx : Nat) (ls : List (Nat × Leaf)) : (ls.foldl (fun s l => s.leasePage cx l) s).kernel? k = s.kernel? k :=
  foldl_keeps (State.kernel? · k) (fun s l => s.leasePage cx l) (fun _ _ => rfl) ls s

/-- A ranging kernel whose pages may all be leased, and which copies its parameter block nowhere, is Ready once the block is read. The length
of the block is that of the kernel with its leases listed, which is the length before. -/
theorem kernelLeased_of_read {ls : List (Nat × Leaf)} {bs : List Byte} (hk : s.kernel? k = some x) (hls : s.kernelLeaves x = some ls)
    (hst : x.st = .ranging) (hlease : s.leasable x (firstEach ls) = true)
    (hfault : ((s.ctx x.cx).faults.any fun f => f.kernels.contains k) = false)
    (ht : t = ((firstEach ls).foldl (fun s l => s.leasePage x.cx l) s).modKernel k fun x => { x with leased := (firstEach ls).map Prod.fst })
    (hread : t.devReadN x.cx x.params ((x.plen + 7) / 8) = some bs) (hcopy : x.pcopy = 0) :
    exec (.kernelLeased k) s = .next (t.modKernel k fun x => { x with st := .ready, pblock := bs.take x.plen, readySince := t.dtime }) := by
  have hkt : t.kernel? k = some { x with leased := (firstEach ls).map Prod.fst } :=
    ht ▸ kernel_modKernel ((kernel_leasePages x.cx _).trans hk) _
  subst ht
  simp only [exec, execKernelLeased, hk, hls, hst, hlease, hfault, hread, hcopy, BEq.rfl, Bool.not_false, Bool.and_self, if_true]
  exact congrArg _ (modKernel_congr hkt rfl)

theorem leaseRenewal_of_leased (hk : s.kernel? k = some x) (hleased : x.leased ≠ []) : exec (.leaseRenewal k) s = .next s := by
  simp only [exec, execLeaseRenewal, hk, List.isEmpty_eq_false_iff.mpr hleased, Bool.not_false, if_true]

/-! ### Placement, loading and the end (R89, R92, R104, R106, R130) -/

/-- The next workgroup of a kernel is placed where its record, its runs, its groups and the L1 ways of its cores have room. -/
theorem workgroupPlaced_of_room {w : Workgroup} (hk : s.kernel? k = some x) (hplacing : s.placing x = true)
    (hw : w = wgAt k x x.nextWg p none)
    (hwg : s.addWg x w p (if x.centry.isSome then some (ctAt x p.ctIdx (x.xyz x.nextWg) (w.coreAt 0)) else none) = some (wid, t))
    (hgroups : t.addGroups x wid w x.specs 0 0 p.strands = some u) (hways : u.waysFit w = true) :
    exec (.workgroupPlaced k p) s = .next (u.modKernel k fun y => { y with
      nextWg := y.nextWg + 1, liveWgs := y.liveWgs + 1
      st := if y.nextWg + 1 = x.grid.1 * x.grid.2.1 * x.grid.2.2 then .running else .dispatching }) := by
  subst hw
  simp only [exec, execWorkgroupPlaced, hk, hplacing, hwg, hgroups, hways, Bool.not_true, Bool.false_eq_true, if_false]

theorem groupLoaded_of_loading (hg : s.group? g = some y) (hst : y.st = .loading) (hctx : (s.ctx (s.cxOfWg y.wg)).st = .active) :
    exec (.groupLoaded g) s = .next (s.loadGroup g) := by
  simp only [exec, execGroupLoaded, hg, hst, hctx, BEq.rfl, Bool.and_self, if_true]

/-- A quiet draining kernel ends once the stores of its threads are drained. -/
theorem kernelQuiet_of_drained (hk : s.kernel? k = some x) (hst : x.st = .draining) (hquiet : s.quiet k x = true)
    (ht : t = (s.kernelAgents k).foldl State.drain s) (hdrained : (s.kernelAgents k).all t.drained = true) :
    exec (.kernelQuiet k) s = .next (t.finishKernel k) := by
  subst ht
  simp only [exec, execKernelQuiet, hk, hst, hquiet, hdrained, BEq.rfl, Bool.and_self, if_true]

end KernelLife

/-- Settles O40: a lemma for each step of a kernel's life, and one for each of the two ends of an admission. -/
theorem kernelStepsTakeEffect : Obligations.KernelStepsTakeEffect := by
  unfold Obligations.KernelStepsTakeEffect
  refine ⟨fun k s x hk hst hctx hdeps => ⟨?empty, ?grid⟩, ?leased, fun k s x => leaseRenewal_of_leased, ?placed,
    fun g s x => groupLoaded_of_loading, ?quiet⟩
  case empty => exact kernelAdmit_of_empty hk hst hctx hdeps
  case grid => exact kernelAdmit_of_grid hk hst hctx hdeps
  case leased =>
    intro k s x ls bs hk hls hst hlease hfault t hread hcopy
    exact kernelLeased_of_read hk hls hst hlease hfault rfl hread hcopy
  case placed =>
    intro k p s x wid t u hk hplacing w hwg hgroups hways
    exact workgroupPlaced_of_room hk hplacing rfl hwg hgroups hways
  case quiet =>
    intro k s x hk hst hquiet t hdrained
    exact kernelQuiet_of_drained hk hst hquiet rfl hdrained

end Sys2Proof.Machine

/-!
SUPPORT. Words that move or end the lanes of a path: rejoin masks (R114, R115), `exit` (R380), `yield` (R381), `trap` and `brk` (R383), and
`sleep` (R382).
-/
namespace Sys2Proof.Machine
set_option Elab.async false

section LaneFlow

variable {gd : Guard} {j n : Nat} {a : Src} {s t : State} {e : Env}

/-- Lanes are changed alike where the changes agree at the lanes that are changed. -/
theorem mapLanes_congr (u : Strand) {p : Nat → Bool} {f g : Nat → Lane → Lane} (h : ∀ k l, p k = true → f k l = g k l) :
    u.mapLanes p f = u.mapLanes p g := by
  have hlane : (fun k l => if p k then f k l else l) = fun k l => if p k then g k l else l := by
    funext k l
    split
    · exact h k l ‹_›
    · rfl
  simp only [Strand.mapLanes, hlane]

/-- Where no lane is chosen the strand is as it was. -/
theorem mapLanes_of_none (u : Strand) {p : Nat → Bool} (f : Nat → Lane → Lane) (h : ∀ k, p k = false) : u.mapLanes p f = u := by
  have hid : (fun k l => if p k then f k l else l) = fun (_ : Nat) (l : Lane) => l := by
    funext k l
    rw [h k, if_neg Bool.false_ne_true]
  have hlanes : (u.lanes.mapIdx fun (_ : Nat) (l : Lane) => l) = u.lanes := List.ext_getElem (by simp) (by simp)
  simp only [Strand.mapLanes, hid, hlanes]

/-! ### Rejoin masks (R114, R115) -/

theorem enrol_of_issueOf (h : s.issueOf? (.enrol j) = some (e, t)) : exec (.enrol j) s = .next
    ((t.modUnit e.ag fun u => { u with jmask := modAt u.jmask j fun _ => e.path, u := e.path }).finish e (done e.act)) := by
  simp only [exec, execEnrol, word_of_issueOf h]

theorem rejoin_of_outside (h : s.issueOf? (.rejoin j) = some (e, t)) (hout : e.path &&& nth e.u.jmask j 0 = 0) :
    exec (.rejoin j) s = .next (t.finish e (done e.act)) := by
  simp only [exec, execRejoin, word_of_issueOf h, hout, if_true]

/-- A path that lies wholly in the mask waits as a whole. -/
theorem rejoin_of_inside (h : s.issueOf? (.rejoin j) = some (e, t)) (hin : e.path &&& nth e.u.jmask j 0 = e.path) (hpath : e.path ≠ 0) :
    exec (.rejoin j) s = .next ((t.modUnit e.ag fun u =>
      (Strand.rejoinRelease
        { u.mapLanes (inMask e.path) (fun _ l => l.hold (.rejoin j) (e.cl.next l)) with swash := min 511 (u.swash + 1) }
        j).settle e.lane0.pc).issued e) := by
  have hlanes (u : Strand) : (u.mapLanes (inMask e.path) fun k l =>
      if inMask e.path k then l.hold (.rejoin j) (e.cl.next l) else (l.shift 0).goto (e.cl.next l)) =
      u.mapLanes (inMask e.path) fun _ l => l.hold (.rejoin j) (e.cl.next l) :=
    mapLanes_congr u fun k l hk => if_pos hk
  simp only [exec, execRejoin, word_of_issueOf h, hin, if_neg hpath, hlanes]
  rfl

/-! ### Exit, yield (R380, R381) -/

/-- The strand of a path whose lanes all exit, `last` where no other lane of the strand is live. -/
def Strand.exited (u : Strand) (e : Env) : Strand :=
  let last := u.liveMask &&& ~~~e.act = 0
  let x : Strand := { u with
    swash := min 511 (u.swash + 1)
    gAtExit := if last then e.grp.gregs else u.gAtExit
    vAtExit := if last then e.grp.win.filter fun x => decide (x.1 % e.grp.width / 8 = e.k) else u.vAtExit }
  (x.exitLanes e.act).rejoinAll.settle e.lane0.pc

theorem exit_of_whole_path (h : s.clearOf? (.exit gd) = some (e, t)) (hact : e.act = e.path) (hne : e.act ≠ 0)
    (hmmas : e.ctl = true → t.mmas.all (fun m => m.wg != e.wid || m.heldBy) = true) :
    exec (.exit gd) s =
      .next (((((t.dropResults e.ag e.act).exitFails e.ag e.act e.kid).modUnit e.ag (Strand.exited · e)).afterExit e).issued e) := by
  obtain ⟨u, hi, hc⟩ := clearOf_iff.mp h
  have hwait : (e.ctl && t.mmas.any fun m => m.wg == e.wid && !m.heldBy) = false := by
    cases hctl : e.ctl
    · rfl
    · simpa [List.all_eq_true, List.any_eq_false, Classical.or_iff_not_imp_left] using hmmas hctl
  have hstay (k : Nat) : (inMask e.path k && !inMask e.act k) = false := by rw [hact, Bool.and_not_self]
  simp only [exec, execExit, word_of_issueOf hi, if_neg hne, afterStores_of_clear hc, hwait, Bool.false_eq_true, if_false,
    mapLanes_of_none _ _ hstay]
  rfl

theorem yield_of_issueOf (h : s.issueOf? (.yield gd) = some (e, t)) (hne : e.act ≠ 0) :
    exec (.yield gd) s = .next ((t.finish e (done e.act)).modUnit e.ag fun u => { u.yieldPath with swash := 0 }) := by
  simp only [exec, execYield, word_of_issueOf h, if_neg hne]

/-! ### Traps (R383) -/

theorem trap_of_issueOf (h : s.issueOf? (.trap gd n) = some (e, t)) : exec (.trap gd n) s = .next (t.finish e (allBad e.act .soft)) := by
  simp only [exec, execTrap, word_of_issueOf h]
  rfl

theorem brk_of_issueOf (h : s.issueOf? (.brk gd n) = some (e, t)) : exec (.brk gd n) s = .next (t.finish e (allBad e.act .brk)) := by
  simp only [exec, execBrk, word_of_issueOf h]
  rfl

/-! ### Sleep (R382) -/

theorem sleep_of_agree (h : s.issueOf? (.sleep gd a) = some (e, t)) (ha : e.agree fun l => [e.src .i32 a l]) :
    exec (.sleep gd a) s = .next (t.holdPath e (.sleep (e.w a e.low).toNat)) := by
  simp only [exec, execSleep, word_of_issueOf h, uniform_of_agree ha, if_neg ha.1, toNat_w]
  rfl

theorem sleepExpire_of_due {ag : Agent} {u : Strand} {k : Nat} {x : Kernel} (hissue : s.mayIssue ag = some (u, k, x))
    (hdue : (u.lanes.any fun l => l.wait == some (.sleep 0)) = true) :
    exec (.sleepExpire ag) s = .next (s.modUnit ag fun u => u.release (fun w => w == .sleep 0) fun _ => 0) := by
  simp only [exec, execSleepExpire, hissue, hdue, if_true]

end LaneFlow

/-- Settles O15: a lemma for each word, and one for each way the path of a `rejoin` may lie to its mask. -/
theorem rejoinExitYieldAndTrapWordsComplete : Obligations.RejoinExitYieldAndTrapWordsComplete := by
  unfold Obligations.RejoinExitYieldAndTrapWordsComplete
  exact ⟨fun j s e t => enrol_of_issueOf, fun j s e t => rejoin_of_outside, fun j s e t => rejoin_of_inside,
    fun gd s e t => exit_of_whole_path, fun gd s e t => yield_of_issueOf, fun gd n s e t => trap_of_issueOf,
    fun gd n s e t => brk_of_issueOf, fun gd a s e t => sleep_of_agree, fun ag s u k x => sleepExpire_of_due⟩

end Sys2Proof.Machine

/-!
SUPPORT. Group-wide words (R121): the strand that arrives first waits, and the word takes its effect at once where no other strand of the group is
live.
-/
namespace Sys2Proof.Machine
set_option Elab.async false

/-- The state in which a strand has arrived first at the group-wide word `i`, with operands `vs`. -/
def State.arrivedFirst (s : State) (e : Env) (i : Instr) (vs : List W64) : State :=
  (s.holdWide e []).modGroup e.gid fun g => { g with st := .converging, gw := some ⟨e.lane0.pc, i, vs, [(e.k, e.act)]⟩ }

/-- The first strand that arrives at word `i` waits in it, and where no other strand of its group is live the word has the effect `f`. The word
issues in a state for which `c` holds, with operands `vals`. -/
def WaitsThenTakesEffect (i : Instr) (vals : Env → Nat → List W64) (c : Env → State → Prop)
    (f : Env → List W64 → State → State) : Prop :=
  ∀ s e t u, s.issueOf? i = some (e, t) → c e t → t.clear? e = some u → e.agree (vals e) → e.coversU = true →
    ((u.group? e.gid).bind fun g => g.gw) = none →
    exec i s = .next (((u.arrivedFirst e i (vals e e.low)).wideCheck e.gid gwApply).widePass e) ∧
    (∀ g, (u.arrivedFirst e i (vals e e.low)).group? e.gid = some g → g.st = .converging →
      g.gw = some ⟨e.lane0.pc, i, vals e e.low, [(e.k, e.act)]⟩ →
      (∀ k, k < g.strands.length → k ≠ e.k → (nth g.strands k (Strand.init 0 0 [])).live = false) →
      exec i s = .next ((f e (vals e e.low) (u.arrivedFirst e i (vals e e.low))).widePass e))

section Arrival

variable {s t u : State} {e : Env} {i : Instr} {vals : Nat → List W64} {apply : State → Nat → State}

theorem wideWord_of_first (hc : t.clear? e = some u) (ha : e.agree vals) (hcov : e.coversU = true)
    (hnone : ((u.group? e.gid).bind fun g => g.gw) = none) :
    t.wideWord e i vals apply = .next (((u.arrivedFirst e i (vals e.low)).wideCheck e.gid apply).widePass e) := by
  simp only [State.wideWord, strandOp_of_agree ha (illegal := fun _ => false) (fun _ _ => rfl) (u := true) (fun _ => hcov), if_neg ha.1,
    afterStores_of_clear hc, hnone]
  rfl

/-- A pending word is complete where every strand but one that has arrived is not live. -/
theorem wideCheck_of_alone {w : State} {gid k : Nat} {m : BitVec 8} {pc : Nat} {vs : List W64} {g : Group} (hg : w.group? gid = some g)
    (hst : g.st = .converging) (hgw : g.gw = some ⟨pc, i, vs, [(k, m)]⟩)
    (hdead : ∀ j, j < g.strands.length → j ≠ k → (nth g.strands j (Strand.init 0 0 [])).live = false) :
    w.wideCheck gid apply = apply w gid := by
  have hall : ((List.range g.strands.length).all fun j =>
      !(nth g.strands j (Strand.init 0 0 [])).live || [(k, m)].any fun a => a.1 == j) = true := by
    refine List.all_eq_true.mpr fun j hj => ?_
    by_cases hjk : j = k
    · simp [hjk]
    · rw [hdead j (List.mem_range.mp hj) hjk]
      rfl
  simp only [State.wideCheck, hg, hgw, hst, hall, BEq.rfl, Bool.and_self, if_true]

/-- Where the active lanes are all of U and the group has no word pending, the strand can arrive, and its operands are not refused before. -/
theorem refused_of_none_pending (ok : Bool) (hcov : e.coversU = true) (hnone : ((t.group? e.gid).bind fun g => g.gw) = none) :
    t.refused e ok vals = false := by
  simp [State.refused, State.wideClash, hcov, hnone]

theorem countOk_iff {n : Nat} : countOk n = true ↔ 1 ≤ n ∧ n ≤ 240 := by simp [countOk]

theorem map_beq_some_true {α : Type} (o : Option α) (p : α → Bool) : (o.map p == some true) = o.any p := by
  cases o with
  | none => rfl
  | some a => cases h : p a <;> simp [h]

end Arrival

/-- A word that comes to the arrival of its strand, and whose completion is `f`, waits and then takes its effect. -/
theorem waitsThenTakesEffect_of_wideWord {i : Instr} {vals : Env → Nat → List W64} {c : Env → State → Prop}
    {f : Env → List W64 → State → State}
    (hexec : ∀ s e t, s.issueOf? i = some (e, t) → c e t → e.coversU = true → exec i s = t.wideWord e i (vals e) gwApply)
    (heffect : ∀ (w : State) e g pc arrived, w.group? e.gid = some g → g.gw = some ⟨pc, i, vals e e.low, arrived⟩ →
      gwApply w e.gid = f e (vals e e.low) w) : WaitsThenTakesEffect i vals c f := by
  intro s e t u h hcond hc ha hcov hnone
  have hwait := (hexec s e t h hcond hcov).trans (wideWord_of_first hc ha hcov hnone)
  refine ⟨hwait, fun g hg hst hgw hdead => ?_⟩
  rw [hwait, wideCheck_of_alone hg hst hgw hdead, heffect _ e g _ _ hg hgw]

/-- Settles O31: each word comes to the arrival of its strand, and its completion is the arm of `gwApply` for it. -/
theorem groupWideWordsTakeEffectOnceAllHaveArrived : Obligations.GroupWideWordsTakeEffectOnceAllHaveArrived := by
  unfold Obligations.GroupWideWordsTakeEffectOnceAllHaveArrived
  intro wide none_
  have hwide : wide = WaitsThenTakesEffect := rfl
  clear_value wide
  subst hwide
  refine ⟨fun gd p a => ?rswitch, fun gd p n => ?reggrow, fun gd n => ?regshrink, fun gd p h k en => ?fork, fun gd h x => ?reward,
    fun gd d h sx => ?slack, fun gd d a r => ?rcomb⟩
  case rswitch =>
    refine waitsThenTakesEffect_of_wideWord (fun s e t h _ _ => ?_) fun w e g pc arrived hg hgw => ?_
    · simp only [exec, execRswitch, word_of_issueOf h]; rfl
    · simp only [gwApply, hg, hgw, Option.bind_some]
  case reggrow =>
    refine waitsThenTakesEffect_of_wideWord (fun s e t h hnone hcov => ?_) fun w e g pc arrived hg hgw => ?_
    · simp only [exec, execReggrow, word_of_issueOf h, refused_of_none_pending _ hcov hnone, Bool.false_eq_true, if_false]
    · simp only [gwApply, hg, hgw, Option.bind_some, countOk_iff]
  case regshrink =>
    refine waitsThenTakesEffect_of_wideWord (fun s e t h hnone hcov => ?_) fun w e g pc arrived hg hgw => ?_
    · simp only [exec, execRegshrink, word_of_issueOf h, refused_of_none_pending _ hcov hnone, Bool.false_eq_true, if_false]
    · simp only [gwApply, hg, hgw, Option.bind_some, countOk_iff]
  case fork =>
    refine waitsThenTakesEffect_of_wideWord (fun s e t h hnone hcov => ?_) fun w e g pc arrived hg hgw => ?_
    · simp only [exec, execFork, word_of_issueOf h, refused_of_none_pending _ hcov hnone, Bool.false_eq_true, if_false]
    · simp only [gwApply, hg, hgw, Option.bind_some, map_beq_some_true]
  case reward =>
    refine waitsThenTakesEffect_of_wideWord (fun s e t h _ _ => ?_) fun w e g pc arrived hg hgw => ?_
    · simp only [exec, execReward, word_of_issueOf h]
    · simp only [gwApply, hg, hgw, Option.bind_some]
  case slack =>
    refine waitsThenTakesEffect_of_wideWord (fun s e t h _ _ => ?_) fun w e g pc arrived hg hgw => ?_
    · simp only [exec, execSlack, word_of_issueOf h]
    · simp only [gwApply, hg, hgw, Option.bind_some]
  case rcomb =>
    refine waitsThenTakesEffect_of_wideWord (fun s e t h hregs _ => ?_) fun w e g pc arrived hg hgw => ?_
    · have hroom : ¬(e.grp.regs < a + 32 / min e.grp.width 32 ∨ e.grp.regs < d + 32 / min e.grp.width 32) := by
        rintro (hlt | hlt)
        · exact absurd hregs.1 (Nat.not_le.mpr hlt)
        · exact absurd hregs.2 (Nat.not_le.mpr hlt)
      simp only [exec, execRcomb, word_of_issueOf h, if_neg hroom]; rfl
    · simp only [gwApply, hg, hgw, Option.bind_some]

end Sys2Proof.Machine

/-!
SUPPORT. The steps of groups and sample groups: grants of growth (R129), the placement of siblings (R139 to R141), `sgcancel` and `sgq` (R145,
R147), the ends of a sample group (R149 to R152) and of a round of `rcomb` (R277, R278).
-/
namespace Sys2Proof.Machine
set_option Elab.async false

section SampleGroups

variable {s t : State} {cx h : Nat} {d : SgDesc}

/-! ### Growth (R127, R129) -/

theorem growGrant_of_room {g : Nat} {x : Group} {k : Kernel} (hg : s.group? g = some x) (hk : s.kernelOf g = some k) (hst : x.st = .growing)
    (hroom : s.growRoom g x.want = true) (hctx : (s.ctx k.cx).st = .active) :
    exec (.growGrant g) s = .next ((s.modGroup g fun x => { x.growTo x.want with st := .converging }).granted g k) := by
  simp only [exec, execGrowGrant, hg, hk, hst, hroom, hctx, BEq.rfl, Bool.and_self, if_true]

/-! ### Forming (R139 to R141) -/

theorem siblingsPlaced_of_room {places : List Place} {g : Group} {k : Kernel} {pw : Workgroup} {gs : List Nat} {u : State}
    (hd : s.sg? cx h = some d) (hg : s.group? d.parent = some g) (hk : s.kernel? d.kernel = some k) (hw : s.wg? g.wg = some pw)
    (hst : d.st = .forming) (hlen : places.length = d.k) (hwait : d.fwait ≤ d.forkwait.toNat) (hctx : (s.ctx cx).st = .active)
    (hrest : (s.ctx cx).restoring = false)
    (hplaced : s.placeSiblings d.kernel k h (d.origin.getD g) pw d.entry places 0 = some (gs, u)) :
    exec (.siblingsPlaced cx h places) s = .next
      (((u.modKernel d.kernel fun k => { k with liveWgs := k.liveWgs + d.k }).sgState cx h
        { d with st := .running, sibs := gs.map siblingOf, origin := none }).wideDone d.parent (some (d.pd, true))) := by
  have hmay : (d.st != .forming || places.length != d.k || decide (d.forkwait.toNat < d.fwait) || (s.ctx cx).st != .active ||
      (s.ctx cx).restoring) = false := by
    simp [hst, hlen, hctx, hrest, Nat.not_lt.mpr hwait]
  simp only [exec, execSiblingsPlaced, hd, hg, hk, hw, hmay, hplaced, Bool.false_eq_true, if_false]

theorem forkwaitExpire_of_no_room (hd : s.sg? cx h = some d) (hst : d.st = .forming) (hwait : d.forkwait.toNat ≤ d.fwait)
    (hroom : s.forkRoom h d = none) (hctx : (s.ctx cx).st = .active) : exec (.forkwaitExpire cx h) s = .next
      ((((s.sgUnform cx h d).wideDone d.parent (some (d.pd, false))).parkObservers (4096 * cx + h)).trapAll cx) := by
  simp only [exec, execForkwaitExpire, hd, hst, hwait, hroom, hctx, BEq.rfl, decide_true, Option.isNone_none, Bool.and_self, if_true]

/-! ### `sgcancel`, `sgq` (R145, R147) -/

section Words

variable {gd : Guard} {hs i sel : Src} {r : Nat} {e : Env}

theorem sgcancel_of_running (hc : s.clearOf? (.sgcancel gd hs i) = some (e, t)) (ha : e.agree fun l => [e.src .i32 hs l, e.src .i32 i l])
    (hheld : t.sgHeld e.cx (sgIndex (e.src .i32 hs e.low)) = false) (hsee : t.sgSee e.cx (sgIndex (e.src .i32 hs e.low)) = some d)
    (hi : (e.w i e.low).toNat < d.k) (hfree : d.st ≠ .free) (hforming : d.st ≠ .forming) : exec (.sgcancel gd hs i) s = .next
      (((t.sgSeen e.unit e.cx (sgIndex (e.src .i32 hs e.low))).finish e (done e.act)).sgCancel e.cx (sgIndex (e.src .i32 hs e.low))
        (e.w i e.low).toNat) := by
  obtain ⟨u, hissue, hclear⟩ := clearOf_iff.mp hc
  rw [toNat_w] at hi ⊢
  have hok : ¬(d.k ≤ e.n .i32 i e.low ∨ d.st = .free ∨ d.st = .forming) := by
    rintro (hle | hst | hst)
    · exact Nat.not_le.mpr hi hle
    · exact hfree hst
    · exact hforming hst
  simp only [exec, execSgcancel, word_of_issueOf hissue,
    strandOp_of_agree ha (illegal := fun _ => false) (fun _ _ => rfl) (u := false) (by simp), if_neg ha.1, afterStores_of_clear hclear, hheld,
    hsee, if_neg hok, Bool.false_eq_true, if_false, List.nil_append]

/-- `sgq` reads a descriptor of which nothing is held, neither the record nor the arrays. -/
theorem sgq_of_not_held (hc : s.clearOf? (.sgq gd r hs sel) = some (e, t)) (ha : e.agree fun l => [e.src .i32 hs l])
    (hheld : ∀ u, s.issueOf? (.sgq gd r hs sel) = some (e, u) → u.sgHeld e.cx (sgIndex (e.src .i32 hs e.low)) = false ∧
      ∀ x, u.sgSee e.cx (sgIndex (e.src .i32 hs e.low)) = some x →
        ∀ a ∈ u.sgArrays e.cx (sgIndex (e.src .i32 hs e.low)) (e.w sel 0).toNat x, u.devHeld e.cx a = false)
    (hsee : t.sgSee e.cx (sgIndex (e.src .i32 hs e.low)) = some d) : exec (.sgq gd r hs sel) s = .next
      ((((t.sgArrays e.cx (sgIndex (e.src .i32 hs e.low)) (e.w sel 0).toNat d).foldl (fun s a => s.unitLoad e.cx a) t).sgSeen e.unit e.cx
        (sgIndex (e.src .i32 hs e.low))).finish e ((lanesOf e.act).map fun l =>
          .reg l (.reg r) .i64 (BitVec.ofNat 64 (t.sgValue e.cx (sgIndex (e.src .i32 hs e.low)) (e.w sel 0).toNat d)))) := by
  obtain ⟨u, hissue, hclear⟩ := clearOf_iff.mp hc
  obtain ⟨hrec, harrays⟩ := hheld u hissue
  rw [toNat_w] at harrays ⊢
  have hfree : ((u.sgSee e.cx (sgIndex (e.src .i32 hs e.low))).any fun x =>
      (u.sgArrays e.cx (sgIndex (e.src .i32 hs e.low)) (e.n .i32 sel 0) x).any (u.devHeld e.cx)) = false := by
    cases hx : u.sgSee e.cx (sgIndex (e.src .i32 hs e.low)) with
    | none => rfl
    | some x => simpa [List.any_eq_false] using harrays x hx
  simp only [exec, execSgq, word_of_issueOf hissue,
    strandOp_of_agree ha (illegal := fun _ => false) (fun _ _ => rfl) (u := false) (by simp), hrec, hfree, Bool.or_self, Bool.and_false,
    Bool.false_eq_true, if_false, strandWord_of_agree ha.1 hclear, hsee]

end Words

/-! ### The ends of a sample group (R149 to R152) -/

theorem sgTimeout_of_elapsed (hd : s.sg? cx h = some d) (hst : d.st = .running) (hto : d.timeout ≠ 0)
    (helapsed : d.timeout.toNat ≤ d.elapsed.toNat) (hctx : (s.ctx cx).st = .active) :
    exec (.sgTimeout cx h) s = .next ((d.late.map fun i => (nth d.sibs i (siblingOf 0)).grp).foldl State.sgEnd
      (if d.quorum ≤ d.narr then s.sgState cx h { d.expire with part := true, st := .gathering }
        else s.sgFinish cx h ({ d.expire with qfail := true } : SgDesc).fail)) := by
  simp only [exec, execSgTimeout, hd, hst, bne_iff_ne.mpr hto, helapsed, hctx, BEq.rfl, decide_true, Bool.and_self, if_true]

theorem sgResult_of_gathering (hd : s.sg? cx h = some d) (hst : d.st = .gathering) :
    exec (.sgResult cx h) s = .next (s.sgFinish cx h d.scored) := by
  simp only [exec, execSgResult, hd, hst, BEq.rfl, if_true]

theorem sgDrained_of_ended (hd : s.sg? cx h = some d) (hst : d.st = .scored ∨ d.st = .failed) :
    exec (.sgDrained cx h) s = .next ((s.sgState cx h { d with st := .released }).sgDrop cx h) := by
  have hended : (d.st == .scored || d.st == .failed) = true := by simpa using hst
  simp only [exec, execSgDrained, hd, hended, if_true]

/-! ### The ends of a round (R277, R278) -/

variable {die desc : Nat} {o : Round}

theorem rcombRoundEnd_of_complete (ho : (s.rounds.find? fun o => o.die == die && o.desc == desc &&
      (List.range o.n).all fun p => o.packets.any fun q => q.pos == p) = some o) :
    exec (.rcombRoundEnd die desc) s = .next (s.endRound o
      (some (heapValue combineSum (fun p => ((o.packets.find? fun q => q.pos == p).map fun q => q.vals).getD []) o.n 7 0).1) none) := by
  simp only [exec, execRcombRoundEnd, ho]

theorem rcombTimeout_of_missing {m : Nat}
    (ho : (s.rounds.find? fun o => o.die == die && o.desc == desc && o.expired && (s.ctx o.cx).st == .active) = some o)
    (hm : ((List.range o.n).find? fun p => !(o.packets.any fun q => q.pos == p)) = some m) :
    exec (.rcombTimeout die desc) s = .next (s.endRound o none (some m)) := by
  simp only [exec, execRcombTimeout, ho, Round.missing, hm]

end SampleGroups

/-- Settles O32: a lemma for each word and each step. -/
theorem sampleGroupStepsTakeEffect : Obligations.SampleGroupStepsTakeEffect := by
  unfold Obligations.SampleGroupStepsTakeEffect
  exact ⟨fun g s x k => growGrant_of_room, fun cx h places s d g k pw gs u => siblingsPlaced_of_room,
    fun cx h s d => forkwaitExpire_of_no_room, fun gd h i s e t d => sgcancel_of_running, fun gd r h sel s e t d => sgq_of_not_held,
    fun cx h s d => sgTimeout_of_elapsed, fun cx h s d => sgResult_of_gathering, fun cx h s d => sgDrained_of_ended,
    fun die desc s o => rcombRoundEnd_of_complete, fun die desc s o m => rcombTimeout_of_missing⟩

end Sys2Proof.Machine

/-!
SUPPORT. A word that issues with no cause (R120, R317, R324, R327, R457): its outcomes, the state after it, and what it leaves as it was outside the
strands.
-/
namespace Sys2Proof.Machine
set_option Elab.async false

/-! ### Outcomes with no cause -/

/-- Where the choice of g results leaves no lane with a cause it has changed no lane (R120). -/
theorem gResolve_of_no_cause {outs : List LaneOut} (h : ∀ o ∈ gResolve outs, o.cause = none) : gResolve outs = outs := by
  cases hfind : outs.find? fun o => o.cause.isNone || o.late with
  | none =>
    unfold gResolve
    rw [hfind]
  | some o =>
    have hmap := gResolve_of_find hfind
    rw [hmap]
    refine (List.map_congr_left fun x hx => ?_).trans (List.map_id outs)
    by_cases hdiff : ((x.cause.isNone || x.late) && x.res.filter Res.isG != o.res.filter Res.isG) = true
    · have hbad : { LaneOut.bad x.lane .nonuniformOperand with gen := x.gen } ∈ gResolve outs := by
        rw [hmap]
        exact List.mem_map.mpr ⟨x, hx, if_pos hdiff⟩
      cases h _ hbad
    · exact if_neg hdiff

/-- Where no lane has a g result there is nothing to choose (R120). -/
theorem gResolve_of_no_greg {outs : List LaneOut} (h : ∀ o ∈ outs, o.res.filter Res.isG = []) : gResolve outs = outs := by
  cases hfind : outs.find? fun o => o.cause.isNone || o.late with
  | none =>
    unfold gResolve
    rw [hfind]
  | some o =>
    rw [gResolve_of_find hfind]
    refine (List.map_congr_left fun x hx => if_neg ?_).trans (List.map_id outs)
    simp [h x hx, h o (List.mem_of_find?_eq_some hfind)]

theorem outOf_map {f : Nat → LaneOut} (hlane : ∀ l, (f l).lane = l) (ls : List Nat) (l : Nat) :
    outOf (ls.map f) l = if l ∈ ls then some (f l) else none := by
  induction ls with
  | nil => rfl
  | cons j ls ih =>
    simp only [outOf] at ih
    by_cases hj : j = l
    · simp [outOf, hlane, hj]
    · simp [outOf, hlane, hj, ih, Ne.symm hj]

/-- A result is written when its word issues: a predicate always, a register unless the result is long-latency (R327). -/
def Res.atOnce (long : Bool) : Res → Bool
  | .p _ _ => true
  | _ => !long

/-- The results that are written when the word issues, each with its lane. -/
def writtenAtOnce (long : Bool) (outs : List LaneOut) : List (Nat × Res) :=
  outs.flatMap fun o => (o.res.filter (Res.atOnce long)).map fun r => (o.lane, r)

theorem mem_writtenAtOnce {long : Bool} {outs : List LaneOut} {w : Nat × Res} (h : w ∈ writtenAtOnce long outs) :
    ∃ o ∈ outs, o.lane = w.1 ∧ w.2 ∈ o.res := by
  obtain ⟨o, ho, hw⟩ := List.mem_flatMap.mp h
  obtain ⟨r, hr, rfl⟩ := List.mem_map.mp hw
  exact ⟨o, ho, rfl, (List.mem_filter.mp hr).1⟩

/-! ### The state after the issue -/

/-- The strand with the lanes of the path gone on (R324). -/
def Strand.goesOn (u : Strand) (e : Env) (outs : List LaneOut) : Strand :=
  { u.mapLanes (inMask e.path) (fun k l => (e.seen k l).after (outOf outs k) (e.cl.next (e.u.lane k))) with swash := min 511 (u.swash + 1) }

/-- The strand with its latest issue noted (R17, R110). -/
def Strand.noted (u : Strand) (e : Env) (clk : W64) : Strand :=
  { u with last := some clk, lastPipe := e.pipe, lone := isLone (e.word.toNat / 2^56), since := none, asked := none, part := [] }

/-- The strand after a word: its lanes have gone on, the issue is noted, and the next path is chosen. -/
def Strand.afterWord (u : Strand) (e : Env) (outs : List LaneOut) (clk : W64) : Strand :=
  ((u.goesOn e outs).noted e clk).settle e.lane0.pc

section Issue

variable (s : State) (e : Env) (outs : List LaneOut) (long : Bool)

/-- The state with the results that are written at once. -/
def State.withResults : State := (writtenAtOnce long outs).foldl (fun s w => s.put e.ag w.1 w.2) s

/-- The state with the long-latency results listed. -/
def State.withPending : State :=
  let ws := outs.flatMap fun o => o.res.flatMap (Res.lands e.ctl o.lane)
  if long && !ws.isEmpty then { s with pend := s.pend ++ [⟨s.nextId, e.ag, e.cl.slot, true, ws⟩], nextId := s.nextId + 1 } else s

variable {s} in
/-- What the table of outstanding results does not bear on is the same with the long-latency results listed. -/
theorem withPending_keeps {β : Type} (g : State → β) (hrest : ∀ (s : State) p n, g { s with pend := p, nextId := n } = g s) :
    g (s.withPending e outs long) = g s := by
  unfold State.withPending
  dsimp only
  split
  · exact hrest s _ _
  · rfl

theorem putAll_eq_foldl_put (ag : Agent) (o : LaneOut) :
    s.putAll ag long o = (o.res.filter (Res.atOnce long)).foldl (fun s r => s.put ag o.lane r) s := by
  rw [List.foldl_filter]
  refine congrArg (o.res.foldl · s) ?_
  funext s r
  cases r <;> cases long <;> rfl

theorem foldl_putAll : outs.foldl (fun s o => s.putAll e.ag long o) s = s.withResults e outs long := by
  simp only [State.withResults, writtenAtOnce, List.foldl_flatMap, List.foldl_map, putAll_eq_foldl_put]

variable {outs}

theorem finish_of_no_cause (h : ∀ o ∈ gResolve outs, o.cause = none) : s.finish e outs long =
    ((((s.withResults e outs long).withPending e outs long).modUnit e.ag fun u => u.goesOn e outs).issued e).modUnit e.ag fun u =>
      u.settle e.lane0.pc := by
  have hres := gResolve_of_no_cause h
  rw [hres] at h
  have hgood : (outs.filter fun o => o.cause.isNone || o.late) = outs := List.filter_eq_self.mpr fun o ho => by simp [h o ho]
  have hnone : (outs.any fun o => o.cause.isSome) = false := List.any_eq_false.mpr fun o ho => by simp [h o ho]
  simp only [State.finish, State.finishTo, hres, hgood, hnone, foldl_putAll, State.resettle, Bool.false_eq_true, if_false]
  rfl

/-- The word keeps whatever depends neither on the results of its agent nor on its strand, outstanding results, the contexts or %clk. -/
theorem finish_keeps {β : Type} (g : State → β) (hput : ∀ s l r, g (s.put e.ag l r) = g s) (hunit : ∀ s f, g (s.modUnit e.ag f) = g s)
    (hrest : ∀ (s : State) p n cs c, g { s with pend := p, nextId := n, ctxs := cs, clk := c } = g s)
    (h : ∀ o ∈ gResolve outs, o.cause = none) : g (s.finish e outs long) = g s := by
  have hissued (s : State) : g (s.issued e) = g s := by
    refine Eq.trans ?_ (hunit s fun u => u.noted e s.clk)
    unfold State.issued
    dsimp only
    split
    · exact hrest (s.modUnit _ _) _ _ _ _
    · exact hrest (s.modUnit _ _) _ _ _ _
  rw [finish_of_no_cause s e long h, hunit, hissued, hunit, withPending_keeps e outs long g fun s p n => hrest s p n s.ctxs s.clk]
  exact foldl_keeps g _ (fun s (w : Nat × Res) => hput s w.1 w.2) _ s

/-! ### Outside the strands -/

/-- The state but for its groups and control threads. -/
def State.sansUnits : State := { s with groups := [], cts := [] }

theorem eq_of_sansUnits {s t : State} (h : t.sansUnits = s.sansUnits) : { t with groups := s.groups, cts := s.cts } = s :=
  show ({ t.sansUnits with groups := s.groups, cts := s.cts } : State) = { s.sansUnits with groups := s.groups, cts := s.cts } by rw [h]

theorem clk_of_sansUnits {s t : State} (h : t.sansUnits = s.sansUnits) : t.clk = s.clk :=
  show t.sansUnits.clk = s.sansUnits.clk by rw [h]

theorem ctx_of_sansUnits {s t : State} (h : t.sansUnits = s.sansUnits) (cx : Nat) : t.ctx cx = s.ctx cx :=
  show t.sansUnits.ctx cx = s.sansUnits.ctx cx by rw [h]

theorem pend_of_sansUnits {s t : State} (h : t.sansUnits = s.sansUnits) : t.pend = s.pend ∧ t.nextId = s.nextId :=
  show t.sansUnits.pend = s.sansUnits.pend ∧ t.sansUnits.nextId = s.sansUnits.nextId by rw [h]; exact ⟨rfl, rfl⟩

theorem modGroup_sansUnits (g : Nat) (f : Group → Group) : (s.modGroup g f).sansUnits = s.sansUnits := by
  unfold State.modGroup
  split <;> rfl

theorem modCt_sansUnits (w : Nat) (f : CThread → CThread) : (s.modCt w f).sansUnits = s.sansUnits := by
  unfold State.modCt
  split <;> rfl

theorem modUnit_sansUnits (ag : Agent) (f : Strand → Strand) : (s.modUnit ag f).sansUnits = s.sansUnits := by
  cases ag with
  | strand g k => exact modGroup_sansUnits s g _
  | ctl w => exact modCt_sansUnits s w _

theorem put_sansUnits (ag : Agent) (l : Nat) (r : Res) : (s.put ag l r).sansUnits = s.sansUnits := by
  cases ag with
  | strand g k => exact modGroup_sansUnits s g _
  | ctl w => exact modCt_sansUnits s w _

theorem landWrites_sansUnits (ag : Agent) (ws : List RegWrite) : (s.landWrites ag ws).sansUnits = s.sansUnits := by
  cases ag with
  | strand g k => exact modGroup_sansUnits s g _
  | ctl w => exact modCt_sansUnits s w _

variable (outs) in
theorem withResults_sansUnits : (s.withResults e outs long).sansUnits = s.sansUnits :=
  foldl_keeps State.sansUnits _ (fun s (w : Nat × Res) => put_sansUnits s e.ag w.1 w.2) _ s

/-- `t` with the strands, the tables of outstanding results and contexts and %clk of `s`. -/
def State.framedBy (t s : State) : State :=
  { t with groups := s.groups, cts := s.cts, ctxs := s.ctxs, pend := s.pend, nextId := s.nextId, clk := s.clk }

theorem framedBy_congr {t u : State} (h : t.sansUnits = u.sansUnits) : t.framedBy s = u.framedBy s :=
  show t.sansUnits.framedBy s = u.sansUnits.framedBy s by rw [h]

variable (h : ∀ o ∈ gResolve outs, o.cause = none)
include h

/-- What stands outside the strands, the tables of outstanding results and contexts and %clk is as before. -/
theorem finish_framedBy : (s.finish e outs long).framedBy s = s :=
  finish_keeps s e long (fun t => t.framedBy s) (fun t l r => framedBy_congr s (put_sansUnits t e.ag l r))
    (fun t f => framedBy_congr s (modUnit_sansUnits t e.ag f)) (fun _ _ _ _ _ => rfl) h

theorem finish_clk : (s.finish e outs long).clk = s.clk + 1 := by
  have hclk : ((s.withResults e outs long).withPending e outs long).clk = s.clk :=
    (withPending_keeps e outs long State.clk fun _ _ _ => rfl).trans (clk_of_sansUnits (withResults_sansUnits s e outs long))
  rw [finish_of_no_cause s e long h, modUnit_clk, issued_clk, modUnit_clk, hclk]

/-- Only a long-latency word lists a result as outstanding (R327). -/
theorem finish_pend : (s.finish e outs).pend = s.pend ∧ (s.finish e outs).nextId = s.nextId := by
  rw [finish_of_no_cause s e false h]
  simp only [modUnit_pend, issued_pend, modUnit_nextId, issued_nextId]
  exact pend_of_sansUnits (withResults_sansUnits s e outs false)

end Issue

/-! ### Contexts (R457) -/

/-- `d` is context `c` but for its performance counters. -/
def Context.SameButPerf (c d : Context) : Prop := { d with perf := c.perf } = c

theorem Context.SameButPerf.trans {a b c : Context} (h : a.SameButPerf b) (k : b.SameButPerf c) : a.SameButPerf c := by
  show ({ ({ c with perf := b.perf } : Context) with perf := a.perf } : Context) = a
  rw [k, h]

theorem ctx_count_ne (s : State) {c cx : Nat} (core n k : Nat) (h : cx ≠ c) : (s.count c core n k).ctx cx = s.ctx cx :=
  ctx_modCtx_ne _ _ _ _ h

theorem ctx_count (s : State) (c core n k cx : Nat) : (s.ctx cx).SameButPerf ((s.count c core n k).ctx cx) := by
  by_cases h : cx = c
  · rw [h, State.count, ctx_modCtx]
    rfl
  · rw [ctx_count_ne s core n k h]
    rfl

theorem ctx_modUnit (s : State) (ag : Agent) (f : Strand → Strand) (cx : Nat) : (s.modUnit ag f).ctx cx = s.ctx cx := by
  simp only [State.ctx, modUnit_ctxs]

theorem ctx_issued (s : State) (e : Env) (cx : Nat) : (s.ctx cx).SameButPerf ((s.issued e).ctx cx) := by
  have hunit (f : Strand → Strand) : (s.ctx cx).SameButPerf ((s.modUnit e.ag f).ctx cx) := by rw [ctx_modUnit]; rfl
  unfold State.issued
  dsimp only
  split
  · exact hunit _
  · exact (hunit _).trans ((ctx_count _ _ _ _ _ cx).trans (ctx_count _ _ _ _ _ cx))

theorem ctx_issued_ne (s : State) (e : Env) {cx : Nat} (h : cx ≠ e.cx) : (s.issued e).ctx cx = s.ctx cx := by
  unfold State.issued
  dsimp only
  split
  · exact ctx_modUnit s e.ag _ cx
  · exact (ctx_count_ne _ _ _ _ h).trans ((ctx_count_ne _ _ _ _ h).trans (ctx_modUnit s e.ag _ cx))

theorem ctx_finish (s : State) (e : Env) {outs : List LaneOut} (long : Bool) (h : ∀ o ∈ gResolve outs, o.cause = none) (cx : Nat) :
    (s.ctx cx).SameButPerf ((s.finish e outs long).ctx cx) ∧ (cx ≠ e.cx → (s.finish e outs long).ctx cx = s.ctx cx) := by
  have hbefore (f : Strand → Strand) : (((s.withResults e outs long).withPending e outs long).modUnit e.ag f).ctx cx = s.ctx cx := by
    rw [ctx_modUnit, withPending_keeps e outs long (State.ctx · cx) fun _ _ _ => rfl,
      ctx_of_sansUnits (withResults_sansUnits s e outs long)]
  rw [finish_of_no_cause s e long h, ctx_modUnit]
  exact ⟨hbefore _ ▸ ctx_issued _ e cx, fun hne => (ctx_issued_ne _ e hne).trans (hbefore _)⟩

end Sys2Proof.Machine

/-!
SUPPORT. What a word with no cause keeps of a lane, a strand, a group and a control thread (R120, R126, R316, R324, R341, R342).
-/
namespace Sys2Proof.Machine
set_option Elab.async false

/-! ### Lanes -/

/-- A lane but for its place, its predicates, its latches, the captured half of %clk and its generator: what a word with no cause does not
change. -/
def Lane.lasting (l : Lane) : Lane :=
  { l with
    pc := 0, cwi := 0, inClause := false, preds := 0, lat0 := 0, lat1 := 0, lat2 := 0, lat3 := 0, clkh := 0, opening := false, gen := 0
    owed := [] }

/-- A lane with no cause has its generator set, its latches shifted and its place moved. -/
theorem after_of_no_cause (l : Lane) {o : Option LaneOut} (next : Nat × Bool) (h : ∀ x, o = some x → x.cause = none) :
    ∃ gen r, l.after o next = (({ l with gen := gen } : Lane).shift r).goto next := by
  cases o with
  | none => exact ⟨l.gen, 0, rfl⟩
  | some x =>
    refine ⟨x.gen.getD l.gen, x.lat, ?_⟩
    simp only [Lane.after, h x rfl]
    cases x.gen <;> rfl

theorem seen_eq (e : Env) (k : Nat) (l : Lane) : ∃ c, e.seen k l = { l with clkh := c } := by
  unfold Env.seen
  split
  · exact ⟨_, rfl⟩
  · exact ⟨l.clkh, rfl⟩

theorem pred_setPred_ne (l : Lane) {p q : Nat} (b : Bool) (h : q ≠ p) : (l.setPred p b).pred q = l.pred q := by
  have hbit : (BitVec.ofNat 96 (2 ^ p)).getLsbD q = false := by
    rw [BitVec.getLsbD_ofNat, Nat.testBit_two_pow_of_ne (Ne.symm h), Bool.and_false]
  by_cases hq : q < 96
  · unfold Lane.pred Lane.setPred
    cases b
    · simp only [Bool.false_eq_true, if_false, BitVec.getLsbD_and, BitVec.getLsbD_not, hbit, hq, decide_true, Bool.not_false, Bool.and_true]
    · simp only [if_true, BitVec.getLsbD_or, hbit, Bool.or_false]
  · simp [Lane.pred, BitVec.getLsbD_of_ge _ _ (Nat.le_of_not_lt hq)]

/-! ### Strands -/

/-- Words of a window, g registers, lanes and predicates of lanes that are to be left as they are. -/
structure Kept where
  word : Nat → Prop
  greg : Nat → Prop
  lane : Nat → Prop
  pred : Nat → Nat → Prop

/-- A strand but for its lanes and what its issue is ordered by. -/
def Strand.lasting (u : Strand) : Strand :=
  { u with
    lanes := [], cur := 0, swash := 0, gave := 0, stall := none, last := none, lastPipe := 0, lone := false, since := none, asked := none
    part := [] }

/-- Strand `v` is `u` but for its lanes, of which those of `q` are unchanged, and what its issue is ordered by. -/
structure Strand.Keeps (q : Kept) (u v : Strand) : Prop where
  lasting : v.lasting = u.lasting
  lane : ∀ l, q.lane l → v.lane l = u.lane l
  traps : ∀ l, (v.lane l).lasting = (u.lane l).lasting
  pred : ∀ l p, q.pred l p → (v.lane l).pred p = (u.lane l).pred p

namespace Strand.Keeps

variable {q : Kept} {u v w : Strand}

theorem refl (u : Strand) : u.Keeps q u := ⟨rfl, fun _ _ => rfl, fun _ => rfl, fun _ _ _ => rfl⟩

theorem trans (h : u.Keeps q v) (k : v.Keeps q w) : u.Keeps q w where
  lasting := k.lasting.trans h.lasting
  lane l hl := (k.lane l hl).trans (h.lane l hl)
  traps l := (k.traps l).trans (h.traps l)
  pred l p hp := (k.pred l p hp).trans (h.pred l p hp)

/-- Lanes are changed that need not be kept, and no more of them than a word may change. -/
theorem of_mapLanes {p : Nat → Bool} {f : Nat → Lane → Lane} (hlane : ∀ l, q.lane l → p l = false)
    (htraps : ∀ l, p l = true → ∀ x, (f l x).lasting = x.lasting)
    (hpred : ∀ l n, p l = true → q.pred l n → ∀ x : Lane, (f l x).pred n = x.pred n) : u.Keeps q (u.mapLanes p f) := by
  have hcases (l : Nat) : (u.mapLanes p f).lane l = u.lane l ∨ (p l = true ∧ (u.mapLanes p f).lane l = f l (u.lane l)) := by
    by_cases hp : p l = true
    · by_cases hl : l < u.lanes.length
      · exact .inr ⟨hp, by rw [lane_mapLanes u p f hl, if_pos hp]⟩
      · exact .inl (by simp [Strand.mapLanes, Strand.lane, nth, hl])
    · exact .inl (lane_mapLanes_of_not u f (Bool.eq_false_iff.mpr hp))
  refine ⟨rfl, fun l hl => lane_mapLanes_of_not u f (hlane l hl), fun l => ?_, fun l n hn => ?_⟩
  · rcases hcases l with heq | ⟨hp, heq⟩
    · rw [heq]
    · rw [heq, htraps l hp]
  · rcases hcases l with heq | ⟨hp, heq⟩
    · rw [heq]
    · rw [heq, hpred l n hp hn]

theorem settle (u : Strand) (p : Nat) : u.Keeps q (u.settle p) := by
  refine ⟨?_, fun l _ => lane_settle u p l, fun l => by rw [lane_settle], fun l n _ => by rw [lane_settle]⟩
  unfold Strand.settle
  split
  · rfl
  · split <;> rfl

end Strand.Keeps

/-- The lanes of the path that do not raise a cause go on with their results in the latches. -/
theorem keeps_afterWord {q : Kept} {e : Env} {outs : List LaneOut} (hcause : ∀ o ∈ outs, o.cause = none)
    (hlane : ∀ l, q.lane l → inMask e.path l = false) (u : Strand) (clk : W64) : u.Keeps q (u.afterWord e outs clk) := by
  have hout (l : Nat) (x : LaneOut) (hx : outOf outs l = some x) : x.cause = none := hcause x (List.mem_of_find?_eq_some hx)
  have hmap : u.Keeps q (u.mapLanes (inMask e.path) fun k l => (e.seen k l).after (outOf outs k) (e.cl.next (e.u.lane k))) := by
    have hgo (l : Nat) (x : Lane) : ∃ c gen r, (e.seen l x).after (outOf outs l) (e.cl.next (e.u.lane l)) =
        (({ x with clkh := c, gen := gen } : Lane).shift r).goto (e.cl.next (e.u.lane l)) := by
      obtain ⟨c, hseen⟩ := seen_eq e l x
      obtain ⟨gen, r, hafter⟩ := after_of_no_cause (e.seen l x) (e.cl.next (e.u.lane l)) (hout l)
      exact ⟨c, gen, r, by rw [hafter, hseen]⟩
    refine .of_mapLanes hlane (fun l _ x => ?_) fun l n _ _ x => ?_
    · obtain ⟨c, gen, r, heq⟩ := hgo l x
      rw [heq]
      rfl
    · obtain ⟨c, gen, r, heq⟩ := hgo l x
      rw [heq]
      rfl
  refine Strand.Keeps.trans ?_ (.settle _ _)
  exact ⟨hmap.lasting, hmap.lane, hmap.traps, hmap.pred⟩

/-! ### Groups -/

/-- A group with strand `k` changed. -/
def Group.modStrand (x : Group) (k : Nat) (f : Strand → Strand) : Group := { x with strands := modAt x.strands k f }

/-- The group with results of strand `k` written. -/
def Group.putAll (x : Group) (k : Nat) (ws : List (Nat × Res)) : Group := ws.foldl (fun x w => x.put k w.1 w.2) x

/-- Group `y` is `x` but for the words, the g registers and strand `k`, of all of which what `q` names is as before. -/
structure Group.Keeps (q : Kept) (k : Nat) (x y : Group) : Prop where
  rest : { y with win := x.win, gregs := x.gregs, strands := x.strands } = x
  word : ∀ m, q.word m → tabGet y.win 0 m = tabGet x.win 0 m
  greg : ∀ m, q.greg m → tabGet y.gregs 0 m = tabGet x.gregs 0 m
  others : ∀ j, j ≠ k → y.strands[j]? = x.strands[j]?
  strand : ∀ u, x.strands[k]? = some u → ∃ v, y.strands[k]? = some v ∧ u.Keeps q v

namespace Group.Keeps

variable {q : Kept} {k : Nat} {x y z : Group}

theorem refl (x : Group) : x.Keeps q k x :=
  ⟨rfl, fun _ _ => rfl, fun _ _ => rfl, fun _ _ => rfl, fun u hu => ⟨u, hu, .refl u⟩⟩

theorem trans (h : x.Keeps q k y) (i : y.Keeps q k z) : x.Keeps q k z where
  rest := by
    show ({ ({ z with win := y.win, gregs := y.gregs, strands := y.strands } : Group) with
      win := x.win, gregs := x.gregs, strands := x.strands } : Group) = x
    rw [i.rest, h.rest]
  word m hm := (i.word m hm).trans (h.word m hm)
  greg m hm := (i.greg m hm).trans (h.greg m hm)
  others j hj := (i.others j hj).trans (h.others j hj)
  strand u hu := by
    obtain ⟨v, hv, huv⟩ := h.strand u hu
    obtain ⟨w, hw, hvw⟩ := i.strand v hv
    exact ⟨w, hw, huv.trans hvw⟩

theorem width_eq (h : x.Keeps q k y) : y.width = x.width := by rw [← h.rest]

theorem of_win {win : Tab W32} (h : ∀ m, q.word m → tabGet win 0 m = tabGet x.win 0 m) : x.Keeps q k { x with win := win } :=
  ⟨rfl, h, fun _ _ => rfl, fun _ _ => rfl, fun u hu => ⟨u, hu, .refl u⟩⟩

theorem of_gregs {gregs : Tab W32} (h : ∀ m, q.greg m → tabGet gregs 0 m = tabGet x.gregs 0 m) : x.Keeps q k { x with gregs := gregs } :=
  ⟨rfl, fun _ _ => rfl, h, fun _ _ => rfl, fun u hu => ⟨u, hu, .refl u⟩⟩

theorem of_modStrand {f : Strand → Strand} (h : ∀ u : Strand, u.Keeps q (f u)) : x.Keeps q k (x.modStrand k f) :=
  ⟨rfl, fun _ _ => rfl, fun _ _ => rfl, fun j hj => getElem?_modAt_ne _ _ _ _ hj,
    fun u hu => ⟨f u, by rw [Group.modStrand, getElem?_modAt, hu, Option.map_some], h u⟩⟩

/-- A result changes its words, its g registers and its predicate alone. -/
theorem put {l : Nat} {r : Res} (hword : ∀ m, q.word m → m ∉ r.words x.width k l) (hgreg : ∀ m, q.greg m → m ∉ r.gregs)
    (hlane : ∀ j, q.lane j → j ≠ l) (hpred : ∀ p, q.pred l p → p ∉ r.preds) : x.Keeps q k (x.put k l r) := by
  cases r with
  | d32 d v =>
    cases d with
    | reg n => exact of_win fun m hm => tabGet_set_ne _ _ _ _ _ (List.ne_of_not_mem_cons (hword m hm))
    | g n => exact of_gregs fun m hm => tabGet_set_ne _ _ _ _ _ (List.ne_of_not_mem_cons (hgreg m hm))
    | lat0 => exact refl x
  | d64 d v =>
    cases d with
    | reg n =>
      refine of_win fun m hm => ?_
      obtain ⟨hlo, hhi⟩ := List.ne_and_not_mem_of_not_mem_cons (hword m hm)
      exact (tabGet_set_ne _ _ _ _ _ (List.ne_of_not_mem_cons hhi)).trans (tabGet_set_ne _ _ _ _ _ hlo)
    | g n =>
      refine of_gregs fun m hm => ?_
      obtain ⟨hlo, hhi⟩ := List.ne_and_not_mem_of_not_mem_cons (hgreg m hm)
      exact (tabGet_set_ne _ _ _ _ _ (List.ne_of_not_mem_cons hhi)).trans (tabGet_set_ne _ _ _ _ _ hlo)
    | lat0 => exact refl x
  | p n b =>
    refine of_modStrand fun u => .of_mapLanes (fun j hj => beq_false_of_ne (hlane j hj)) (fun _ _ _ => rfl) fun j m hj hm y => ?_
    obtain rfl : j = l := beq_iff_eq.mp hj
    exact pred_setPred_ne y b (List.ne_of_not_mem_cons (hpred m hm))

end Group.Keeps

theorem modAt_modAt {α : Type} (l : List α) (k : Nat) (f g : α → α) : modAt (modAt l k f) k g = modAt l k fun a => g (f a) := by
  induction l generalizing k with
  | nil => rfl
  | cons a t ih =>
    cases k with
    | zero => rfl
    | succ k => exact congrArg (a :: ·) (ih k)

theorem modStrand_modStrand (x : Group) (k : Nat) (f g : Strand → Strand) :
    (x.modStrand k f).modStrand k g = x.modStrand k fun u => g (f u) := by
  simp only [Group.modStrand, modAt_modAt]

/-- What a word leaves of a group of width `w` of which strand `k` issues it: all but its results, and of the strand the lanes that neither
stand on the path nor have an outcome. -/
def keptBy (e : Env) (outs : List LaneOut) (w k : Nat) : Kept where
  word m := ∀ o ∈ outs, ∀ r ∈ o.res, m ∉ r.words w k o.lane
  greg m := ∀ o ∈ outs, ∀ r ∈ o.res, m ∉ r.gregs
  lane l := inMask e.path l = false ∧ ∀ o ∈ outs, o.lane ≠ l
  pred l p := ∀ o ∈ outs, o.lane = l → ∀ r ∈ o.res, p ∉ r.preds

theorem keeps_putAll (x : Group) (e : Env) (outs : List LaneOut) (long : Bool) (k : Nat) :
    x.Keeps (keptBy e outs x.width k) k (x.putAll k (writtenAtOnce long outs)) := by
  refine List.foldlRecOn (motive := fun y => x.Keeps (keptBy e outs x.width k) k y) _ _ (.refl x) fun y hy w hw => ?_
  obtain ⟨o, ho, hl, hr⟩ := mem_writtenAtOnce hw
  have hwidth := hy.width_eq
  refine hy.trans (.put (fun m hm => ?_) (fun m hm => hm o ho _ hr) (fun j hj => ?_) fun p hp => hp o ho hl _ hr)
  · rw [hwidth, ← hl]
    exact hm o ho _ hr
  · exact hl ▸ Ne.symm (hj.2 o ho)

/-! ### Control threads -/

/-- The control thread with results written. -/
def CThread.putAll (c : CThread) (ws : List (Nat × Res)) : CThread := ws.foldl (fun c w => c.put w.2) c

/-- Control thread `d` is `c` but for its strand and its c registers, of which those of `kept` are as before. -/
structure CThread.Keeps (kept : Nat → Prop) (c d : CThread) : Prop where
  rest : { d with cregs := c.cregs, unit := c.unit } = c
  creg : ∀ n, kept n → tabGet d.cregs 0 n = tabGet c.cregs 0 n

namespace CThread.Keeps

variable {kept : Nat → Prop} {b c d : CThread}

theorem refl (c : CThread) : c.Keeps kept c := ⟨rfl, fun _ _ => rfl⟩

theorem trans (h : b.Keeps kept c) (i : c.Keeps kept d) : b.Keeps kept d where
  rest := by
    show ({ ({ d with cregs := c.cregs, unit := c.unit } : CThread) with cregs := b.cregs, unit := b.unit } : CThread) = b
    rw [i.rest, h.rest]
  creg n hn := (i.creg n hn).trans (h.creg n hn)

/-- A c register is written, c0 never. -/
theorem of_creg {n : Nat} {v : W64} (h : ¬ kept n) : c.Keeps kept (if n = 0 then c else { c with cregs := tabSet c.cregs n v }) := by
  split
  · exact refl c
  · exact ⟨rfl, fun m hm => tabGet_set_ne _ _ _ _ _ fun heq => h (heq ▸ hm)⟩

/-- A result changes its c register alone. -/
theorem put {r : Res} (h : ∀ n, kept n → n ∉ r.cregs) : c.Keeps kept (c.put r) := by
  cases r with
  | d32 d v =>
    cases d with
    | reg n => exact of_creg fun hn => h n hn List.mem_cons_self
    | g n => exact refl c
    | lat0 => exact refl c
  | d64 d v =>
    cases d with
    | reg n => exact of_creg fun hn => h n hn List.mem_cons_self
    | g n => exact refl c
    | lat0 => exact refl c
  | p n b => exact of_creg fun hn => h n hn List.mem_cons_self

theorem putAll (c : CThread) (outs : List LaneOut) (long : Bool) :
    c.Keeps (fun n => ∀ o ∈ outs, ∀ r ∈ o.res, n ∉ r.cregs) (c.putAll (writtenAtOnce long outs)) := by
  refine List.foldlRecOn (motive := fun d => c.Keeps (fun n => ∀ o ∈ outs, ∀ r ∈ o.res, n ∉ r.cregs) d) _ _ (.refl c) fun d hd w hw => ?_
  obtain ⟨o, ho, -, hr⟩ := mem_writtenAtOnce hw
  exact hd.trans (.put fun n hn => hn o ho _ hr)

end CThread.Keeps

end Sys2Proof.Machine

/-!
SUPPORT. The group or the control thread after a word that issues with no cause, the latches of its lanes (R324), and the results that land before
it (R327).
-/
namespace Sys2Proof.Machine
set_option Elab.async false

/-! ### The group or the control thread after the issue -/

section Holder

variable {s : State} {e : Env} {outs : List LaneOut} (long : Bool)

section Strand

variable {g k : Nat} {x : Group} (hag : e.ag = .strand g k)
include hag

theorem cts_finish_of_strand (h : ∀ o ∈ gResolve outs, o.cause = none) : (s.finish e outs long).cts = s.cts :=
  finish_keeps s e long State.cts (fun s l r => by rw [hag]; exact modGroup_cts s g _) (fun s f => by rw [hag]; exact modGroup_cts s g _)
    (fun _ _ _ _ _ => rfl) h

theorem group_finish_ne (h : ∀ o ∈ gResolve outs, o.cause = none) {j : Nat} (hj : j ≠ g) : (s.finish e outs long).group? j = s.group? j :=
  finish_keeps s e long (State.group? · j) (fun s l r => by rw [hag]; exact group_modGroup_ne s g j _ hj)
    (fun s f => by rw [hag]; exact group_modGroup_ne s g j _ hj) (fun _ _ _ _ _ => rfl) h

variable (hg : s.group? g = some x)
include hg

theorem group_modUnit (f : Strand → Strand) : (s.modUnit e.ag f).group? g = some (x.modStrand k f) := by
  rw [hag]
  exact group_modGroup hg _

theorem group_issued : (s.issued e).group? g = some (x.modStrand k fun u => u.noted e s.clk) := by
  unfold State.issued
  dsimp only
  split <;> exact group_modUnit hag hg _

theorem group_foldl_put (ws : List (Nat × Res)) : (ws.foldl (fun s w => s.put e.ag w.1 w.2) s).group? g = some (x.putAll k ws) := by
  induction ws generalizing s x with
  | nil => exact hg
  | cons w ws ih =>
    refine ih (x := x.put k w.1 w.2) ?_
    rw [hag]
    exact group_modGroup hg _

/-- The group has the results that are written at once, and its strand has gone on. -/
theorem group_finish (h : ∀ o ∈ gResolve outs, o.cause = none) : ∃ clk, (s.finish e outs long).group? g =
    some ((x.putAll k (writtenAtOnce long outs)).modStrand k fun u => u.afterWord e outs clk) := by
  have hpend : ((s.withResults e outs long).withPending e outs long).group? g = some (x.putAll k (writtenAtOnce long outs)) :=
    (withPending_keeps e outs long (State.group? · g) fun _ _ _ => rfl).trans (group_foldl_put hag hg _)
  rw [finish_of_no_cause s e long h, group_modUnit hag (group_issued hag (group_modUnit hag hpend _))]
  simp only [modStrand_modStrand]
  exact ⟨_, rfl⟩

end Strand

section Control

variable {w : Nat} {c : CThread} (hag : e.ag = .ctl w)
include hag

theorem groups_finish_of_ctl (h : ∀ o ∈ gResolve outs, o.cause = none) : (s.finish e outs long).groups = s.groups :=
  finish_keeps s e long State.groups (fun s l r => by rw [hag]; exact modCt_groups s w _) (fun s f => by rw [hag]; exact modCt_groups s w _)
    (fun _ _ _ _ _ => rfl) h

theorem ct_finish_ne (h : ∀ o ∈ gResolve outs, o.cause = none) {v : Nat} (hv : v ≠ w) : (s.finish e outs long).ct? v = s.ct? v :=
  finish_keeps s e long (State.ct? · v) (fun s l r => by rw [hag]; exact ct_modCt_ne s w v _ hv)
    (fun s f => by rw [hag]; exact ct_modCt_ne s w v _ hv) (fun _ _ _ _ _ => rfl) h

variable (hc : s.ct? w = some c)
include hc

theorem ct_modUnit (f : Strand → Strand) : (s.modUnit e.ag f).ct? w = some { c with unit := f c.unit } := by
  rw [hag]
  exact ct_modCt hc _

theorem ct_issued : ∃ u, (s.issued e).ct? w = some { c with unit := u } := by
  unfold State.issued
  dsimp only
  split <;> exact ⟨_, ct_modUnit hag hc _⟩

theorem ct_foldl_put (ws : List (Nat × Res)) : (ws.foldl (fun s w => s.put e.ag w.1 w.2) s).ct? w = some (c.putAll ws) := by
  induction ws generalizing s c with
  | nil => exact hc
  | cons x ws ih =>
    refine ih (c := c.put x.2) ?_
    rw [hag]
    exact ct_modCt hc _

/-- The control thread has the results that are written at once. -/
theorem ct_finish (h : ∀ o ∈ gResolve outs, o.cause = none) :
    ∃ u, (s.finish e outs long).ct? w = some { c.putAll (writtenAtOnce long outs) with unit := u } := by
  have hpend : ((s.withResults e outs long).withPending e outs long).ct? w = some (c.putAll (writtenAtOnce long outs)) :=
    (withPending_keeps e outs long (State.ct? · w) fun _ _ _ => rfl).trans (ct_foldl_put hag hc _)
  obtain ⟨u, hissued⟩ := ct_issued hag (ct_modUnit hag hpend _)
  rw [finish_of_no_cause s e long h, ct_modUnit hag hissued]
  exact ⟨_, rfl⟩

end Control

end Holder

/-! ### Results in vector registers -/

theorem tabGet_foldl_tabSet_ne {α : Type} {key : Nat → Nat} (f : Nat → α) (z : α) {ls : List Nat} {m : Nat} (t : Tab α)
    (h : ∀ l ∈ ls, m ≠ key l) : tabGet (ls.foldl (fun t l => tabSet t (key l) (f l)) t) z m = tabGet t z m :=
  List.foldlRecOn (motive := fun u => tabGet u z m = tabGet t z m) ls _ rfl fun _ hu l hl => (tabGet_set_ne _ _ _ _ _ (h l hl)).trans hu

/-- Every key that is set reads its value, the keys being distinct. -/
theorem tabGet_foldl_tabSet {α : Type} {key : Nat → Nat} (hkey : ∀ i j, key i = key j → i = j) (f : Nat → α) (z : α) {ls : List Nat}
    {l : Nat} (t : Tab α) (hl : l ∈ ls) : tabGet (ls.foldl (fun t l => tabSet t (key l) (f l)) t) z (key l) = f l := by
  induction ls generalizing t with
  | nil => cases hl
  | cons j ls ih =>
    by_cases hlater : l ∈ ls
    · exact ih _ hlater
    · obtain rfl : l = j := (List.mem_cons.mp hl).resolve_right hlater
      have hkeys (i : Nat) (hi : i ∈ ls) : key l ≠ key i := fun heq => hlater (hkey l i heq ▸ hi)
      rw [List.foldl_cons, tabGet_foldl_tabSet_ne f z _ hkeys, tabGet_set]

section Vector

variable {n : Nat} {f : Nat → W32}

theorem reg_i32_ofW (l n : Nat) (v : W32) : LaneOut.reg l (.reg n) .i32 (ofW v) = .ok l [.d32 (.reg n) v] (ofW v) := by
  have hlo : lo32 (ofW v) = v := by simp [lo32, ofW]
  simp only [LaneOut.reg, Ty.is64, hlo, Bool.false_eq_true, if_false]
  rfl

theorem gResolve_regs (ls : List Nat) :
    gResolve (ls.map fun l => .reg l (.reg n) .i32 (ofW (f l))) = ls.map fun l => .reg l (.reg n) .i32 (ofW (f l)) := by
  refine gResolve_of_no_greg fun o ho => ?_
  obtain ⟨l, -, rfl⟩ := List.mem_map.mp ho
  rw [reg_i32_ofW]
  rfl

theorem cause_of_regs (ls : List Nat) : ∀ o ∈ gResolve (ls.map fun l => .reg l (.reg n) .i32 (ofW (f l))), o.cause = none := by
  rw [gResolve_regs]
  intro o ho
  obtain ⟨l, -, rfl⟩ := List.mem_map.mp ho
  rw [reg_i32_ofW]
  rfl

theorem writtenAtOnce_regs (ls : List Nat) : writtenAtOnce false (ls.map fun l => .reg l (.reg n) .i32 (ofW (f l))) =
    ls.map fun l => (l, .d32 (.reg n) (f l)) := by
  simp only [reg_i32_ofW]
  induction ls with
  | nil => rfl
  | cons l ls ih => exact congrArg _ ih

theorem putAll_regs (x : Group) (k : Nat) (ls : List Nat) : x.putAll k (ls.map fun l => (l, .d32 (.reg n) (f l))) =
    { x with win := ls.foldl (fun t l => tabSet t (n * x.width + (8 * k + l)) (f l)) x.win } := by
  induction ls generalizing x with
  | nil => rfl
  | cons l ls ih => exact ih { x with win := tabSet x.win (n * x.width + (8 * k + l)) (f l) }

end Vector

theorem inMask_of_subset {a b : BitVec 8} (h : a &&& ~~~b = 0) {l : Nat} (hl : inMask a l = true) : inMask b l = true := by
  have hbit := congrArg (BitVec.getLsbD · l) h
  have hlt : l < 8 := List.mem_range.mp (List.mem_filter.mp (mem_lanesOf.mpr hl)).1
  unfold inMask at hl ⊢
  simpa [hl, hlt] using hbit

/-- A lane of the path with an outcome has its result in lat0, one without has zero there, and the older latches have moved on (R324). -/
theorem latches_afterWord {e : Env} {outs : List LaneOut} (hcause : ∀ o ∈ outs, o.cause = none) {u : Strand} (clk : W64) {l : Nat}
    (hpath : inMask e.path l = true) (hl : l < u.lanes.length) :
    ((u.afterWord e outs clk).lane l).lat0 = ((outOf outs l).map LaneOut.lat).getD 0 ∧
      ((u.afterWord e outs clk).lane l).lat1 = (u.lane l).lat0 ∧ ((u.afterWord e outs clk).lane l).lat2 = (u.lane l).lat1 ∧
      ((u.afterWord e outs clk).lane l).lat3 = (u.lane l).lat2 := by
  have hlane : (u.afterWord e outs clk).lane l = (e.seen l (u.lane l)).after (outOf outs l) (e.cl.next (e.u.lane l)) :=
    (lane_settle _ _ l).trans ((lane_mapLanes u _ _ hl).trans (if_pos hpath))
  obtain ⟨c, hseen⟩ := seen_eq e l (u.lane l)
  rw [hlane, hseen]
  cases hout : outOf outs l with
  | none => exact ⟨rfl, rfl, rfl, rfl⟩
  | some o =>
    have hnone : o.cause = none := hcause o (List.mem_of_find?_eq_some hout)
    simp only [Lane.after, hnone, Option.map_some, Option.getD_some]
    cases o.gen <;> exact ⟨rfl, rfl, rfl, rfl⟩

/-! ### Results that land (R327) -/

theorem foldl_landWrites_sansUnits (s : State) (ps : List Pending) :
    (ps.foldl (fun s p => s.landWrites p.ag p.writes) s).sansUnits = s.sansUnits :=
  foldl_keeps State.sansUnits _ (fun s (p : Pending) => landWrites_sansUnits s p.ag p.writes) ps s

theorem landReady_frame (s : State) (ag : Agent) : { s.landReady ag with groups := s.groups, cts := s.cts, pend := s.pend } = s :=
  have hland := eq_of_sansUnits (foldl_landWrites_sansUnits s (s.pend.filter fun p => sameGroup p.ag ag && p.ready))
  congrArg (fun t : State => { t with pend := s.pend }) hland

/-- Where no result of the agent's group is known, none lands. -/
theorem landReady_of_none_ready {s : State} {ag : Agent} (h : ∀ p ∈ s.pend, sameGroup p.ag ag = true → p.ready = false) :
    s.landReady ag = s := by
  have hno (p : Pending) (hp : p ∈ s.pend) : (sameGroup p.ag ag && p.ready) = false := by
    cases hsame : sameGroup p.ag ag
    · rfl
    · exact h p hp hsame
  have hland : (s.pend.filter fun p => sameGroup p.ag ag && p.ready) = [] :=
    List.filter_eq_nil_iff.mpr fun p hp => by simp [hno p hp]
  have hkeep : (s.pend.filter fun p => !(sameGroup p.ag ag && p.ready)) = s.pend :=
    List.filter_eq_self.mpr fun p hp => by simp [hno p hp]
  simp only [State.landReady, hland, hkeep, List.foldl_nil]

/-- Settles O57: with no cause every outcome is written as it stands, so that the group is `x.putAll` with its strand gone on, and the control
thread is `c.putAll`; each of these keeps what no result names. -/
theorem finishedWordsChangeOnlyTheirResults : Obligations.FinishedWordsChangeOnlyTheirResults := by
  unfold Obligations.FinishedWordsChangeOnlyTheirResults
  refine ⟨?frame, ?strand, ?control, ?latches, fun s ag => ⟨landReady_frame s ag, landReady_of_none_ready⟩⟩
  case frame =>
    intro s e outs long h
    refine ⟨finish_framedBy s e long h, finish_clk s e long h, ?_, ctx_finish s e long h⟩
    rintro rfl
    exact finish_pend s e h
  case strand =>
    intro s e outs long g k x h hag hg
    refine ⟨cts_finish_of_strand long hag h, fun j hj => group_finish_ne long hag h hj, ?_⟩
    obtain ⟨clk, hfinish⟩ := group_finish long hag hg h
    have hcause : ∀ o ∈ outs, o.cause = none := gResolve_of_no_cause h ▸ h
    have hword := keeps_afterWord (q := keptBy e outs x.width k) hcause fun l hl => hl.1
    have hkeeps := (keeps_putAll x e outs long k).trans (.of_modStrand fun u => hword u clk)
    refine ⟨_, hfinish, hkeeps.rest, hkeeps.word, hkeeps.greg, hkeeps.others, fun u hu => ?_⟩
    obtain ⟨v, hv, huv⟩ := hkeeps.strand u hu
    have hstrand {α : Type} (f : Strand → α) : f v.lasting = f u.lasting := congrArg f huv.lasting
    have hlane {α : Type} (l : Nat) (f : Lane → α) : f (v.lane l).lasting = f (u.lane l).lasting := congrArg f (huv.traps l)
    exact ⟨v, hv, hstrand Strand.slot, hstrand Strand.jmask, hstrand Strand.u, hstrand Strand.mon, hstrand Strand.stores,
      hstrand Strand.gAtExit, hstrand Strand.vAtExit, hstrand Strand.doneAt, fun l hl ho => huv.lane l ⟨hl, ho⟩,
      fun l => ⟨hlane l Lane.live, hlane l Lane.inHandler, hlane l Lane.tpc, hlane l Lane.tcause, hlane l Lane.taddr, hlane l Lane.tflags,
        hlane l Lane.tlat0, hlane l Lane.tlat1, hlane l Lane.tlat2, hlane l Lane.tlat3, hlane l Lane.towed⟩, huv.pred⟩
  case control =>
    intro s e outs w c h hag hc
    obtain ⟨u, hfinish⟩ := ct_finish false hag hc h
    have hkeeps := CThread.Keeps.putAll c outs false
    exact ⟨groups_finish_of_ctl false hag h, fun v hv => ct_finish_ne false hag h hv, _, hfinish, hkeeps.rest, hkeeps.creg⟩
  case latches =>
    intro s e g k x u n f hag hg hu hact hlen
    obtain ⟨clk, hfinish⟩ := group_finish false hag hg (cause_of_regs (n := n) (f := f) (lanesOf e.act))
    have hcause := cause_of_regs (n := n) (f := f) (lanesOf e.act)
    rw [gResolve_regs] at hcause
    rw [writtenAtOnce_regs, putAll_regs] at hfinish
    have hlat (l : Nat) (hl : inMask e.path l = true) := latches_afterWord hcause clk hl (hlen l hl)
    refine ⟨_, u.afterWord e _ clk, hfinish, ?_, fun l hl => ⟨?_, ?_⟩, fun l hl => (hlat l hl).2, fun l hl hno => ?_⟩
    · rw [Group.modStrand, getElem?_modAt, hu, Option.map_some]
    · exact tabGet_foldl_tabSet (fun i j hij => by omega) f 0 x.win (mem_lanesOf.mpr hl)
    · rw [(hlat l (inMask_of_subset hact hl)).1, outOf_map (fun _ => rfl), if_pos (mem_lanesOf.mpr hl), reg_i32_ofW]
      rfl
    · have hmem : l ∉ lanesOf e.act := fun hmem => by simp [mem_lanesOf.mp hmem] at hno
      rw [(hlat l hl).1, outOf_map (fun _ => rfl), if_neg hmem]
      rfl

end Sys2Proof.Machine

/-!
SUPPORT. Barriers (R156 to R177, R388 to R395, R441): the words on barriers of the workgroup, of the control thread and of a wider scope, and
the engine operations that end by arriving on theirs (R161, R203, R423).
-/
namespace Sys2Proof.Machine
set_option Elab.async false

/-! ### Operands on which the active lanes agree (R119) -/

section Agreement

variable {e : Env} {ty : Ty} {n : Src} {vals : Nat → List W64}

theorem agree_nil (hact : e.act ≠ 0) : e.agree fun _ => [] := ⟨hact, fun _ _ => rfl⟩

theorem agree_tail {v : Nat → W64} (ha : e.agree fun l => v l :: vals l) : e.agree vals :=
  ⟨ha.1, fun l hl => List.tail_eq_of_cons_eq (ha.2 l hl)⟩

theorem n_of_agree (ha : e.agree fun l => e.src ty n l :: vals l) {l : Nat} (hl : inMask e.act l = true) : e.n ty n l = e.n ty n e.low :=
  congrArg BitVec.toNat (List.head_eq_of_cons_eq (ha.2 l hl))

/-- A count that the lanes agree on is legal at every lane where it is legal at the lowest. -/
theorem legal_of_agree (ha : e.agree fun l => e.src ty n l :: vals l) {illegal : Nat → Bool} (hlow : illegal (e.n ty n e.low) = false) :
    ∀ l, inMask e.act l = true → illegal (e.n ty n l) = false := fun l hl => by rw [n_of_agree ha hl, hlow]

end Agreement

/-! ### Barriers of the workgroup (R162 to R171, R390 to R393) -/

section WorkgroupBarriers

variable {gd : Guard} {b : Nat} {n ph : Src} {p : Option Nat} {s t u : State} {e : Env}

theorem busy_eq_false {x : Bar} (hw : x.waiters = 0) (hp : x.pend = 0) : x.busy = false := by simp [Bar.busy, hw, hp]

theorem barinit_of_free (h : s.clearOf? (.barinit gd b n) = some (e, t)) (ha : e.agree fun l => [e.src .i32 n l])
    (hlo : 1 ≤ (e.w n e.low).toNat) (hhi : (e.w n e.low).toNat ≤ 65535) (hfree : (t.bar (.wg e.wid b)).busy = false) :
    exec (.barinit gd b n) s = .next ((t.modBar (.wg e.wid b) fun x => x.start (e.w n e.low).toNat).finish e (done e.act)) := by
  obtain ⟨v, hi, hc⟩ := clearOf_iff.mp h
  rw [toNat_w] at hlo hhi ⊢
  have hlegal := legal_of_agree ha (illegal := fun k => k = 0 || 65535 < k) (by simp; omega)
  simp only [exec, execBarinit, word_of_issueOf hi, strandOp_of_agree ha hlegal (u := false) (by simp), strandWord_of_agree ha.1 hc, Env.bar,
    hfree, Bool.false_eq_true, if_false]

theorem bararr_of_count (h : s.clearOf? (.bararr gd b n) = some (e, t)) (ha : e.agree fun l => [e.src .i32 n l]) (hcov : e.coversU = true)
    (hhi : (e.w n e.low).toNat ≤ 65535) :
    exec (.bararr gd b n) s = .next ((t.finish e (done e.act)).arriveAt (.wg e.wid b) (e.w n e.low).toNat false none) := by
  obtain ⟨v, hi, hc⟩ := clearOf_iff.mp h
  rw [toNat_w] at hhi ⊢
  have hlegal := legal_of_agree ha (illegal := fun k => 65535 < k) (by simpa using hhi)
  simp only [exec, execBararr, word_of_issueOf hi, strandOp_of_agree ha hlegal fun _ => hcov, if_neg ha.1, afterStores_of_clear hc, Env.bar,
    List.nil_append]

/-- A wait on a barrier that is invalid, or whose phase of that parity has completed, returns at its issue. -/
theorem barWait_of_passed {q : Bool} (hc : u.clear? e = some t) (hact : e.act ≠ 0) (hcov : e.coversU = true)
    (hpassed : (t.bar (.wg e.wid b)).valid = false ∨ (t.bar (.wg e.wid b)).phase ≠ q) : u.barWait e b q p =
      .next ((t.finish e (waitOuts e.act p (t.bar (.wg e.wid b)).outcome.1 (t.bar (.wg e.wid b)).outcome.2)).raisePts e.unit
        (t.bar (.wg e.wid b)).time) := by
  have hreturns : (!(t.bar (.wg e.wid b)).valid || (t.bar (.wg e.wid b)).phase != q) = true := by simpa using hpassed
  simp only [State.barWait, strandOp_of_agree (agree_nil hact) (illegal := fun _ => false) (fun _ _ => rfl) fun _ => hcov, if_neg hact,
    afterStores_of_clear hc, hreturns, if_true]

/-- A wait on a valid barrier that is still in the phase of that parity holds its path. -/
theorem barWait_of_waiting {q : Bool} (hc : u.clear? e = some t) (hact : e.act ≠ 0) (hcov : e.coversU = true)
    (hvalid : (t.bar (.wg e.wid b)).valid = true) (hphase : (t.bar (.wg e.wid b)).phase = q) :
    u.barWait e b q p = .next (t.holdBar e b q p e.act) := by
  have hwaits : (!(t.bar (.wg e.wid b)).valid || (t.bar (.wg e.wid b)).phase != q) = false := by simp [hvalid, hphase]
  simp only [State.barWait, strandOp_of_agree (agree_nil hact) (illegal := fun _ => false) (fun _ _ => rfl) fun _ => hcov, if_neg hact,
    afterStores_of_clear hc, hwaits, Bool.false_eq_true, if_false]

theorem barwait_of_issueOf (h : s.issueOf? (.barwait gd p b ph) = some (e, u)) :
    exec (.barwait gd p b ph) s = u.barWait e b ((e.w ph e.low).getLsbD 0) p := by
  simp only [exec, execBarwait, word_of_issueOf h, ← toNat_w, bitAt_toNat]

theorem barinval_of_clear (h : s.clearOf? (.barinval gd b) = some (e, t)) (hact : e.act ≠ 0) :
    exec (.barinval gd b) s = .next ((t.finish e (done e.act)).invalBar (.wg e.wid b)) := by
  obtain ⟨v, hi, hc⟩ := clearOf_iff.mp h
  simp only [exec, execBarinval, word_of_issueOf hi, if_neg hact, afterStores_of_clear hc, Env.bar]

theorem barrarr_of_target {hd : Src} {w : Nat} (h : s.clearOf? (.barrarr gd hd n) = some (e, t))
    (ha : e.agree fun l => [e.src .i32 hd l, e.src .i32 n l]) (hcov : e.coversU = true) (hhi : (e.w n e.low).toNat ≤ 65535)
    (hw : t.remoteWg e (e.w hd e.low).toNat = some w) : exec (.barrarr gd hd n) s =
      .next ((t.postArrival (.wg w ((e.w hd e.low).toNat % 16)) (some e.ag) (e.w n e.low).toNat false none).finish e (done e.act)) := by
  obtain ⟨v, hi, hc⟩ := clearOf_iff.mp h
  simp only [toNat_w] at hhi hw ⊢
  have hlegal := legal_of_agree (agree_tail ha) (illegal := fun k => 65535 < k) (by simpa using hhi)
  simp only [exec, execBarrarr, word_of_issueOf hi, strandOp_of_agree ha hlegal fun _ => hcov, strandWord_of_agree ha.1 hc, hw]

/-- What `barq` reads of a barrier, or its remote handle (R157, R158, R171). -/
def State.barqValue (t : State) (e : Env) (b : Nat) : BarqSel → Nat
  | .state => (t.bar (.wg e.wid b)).state
  | .count => (t.bar (.wg e.wid b)).count
  | .handle => e.wg.handle b

theorem barq_of_clear {d : Dst} {which : BarqSel} (h : s.clearOf? (.barq gd d b which) = some (e, t)) (hact : e.act ≠ 0)
    (hcov : which ≠ .handle → e.coversU = true) : exec (.barq gd d b which) s =
      .next (t.finish e ((lanesOf e.act).map fun l => .reg l d which.ty (BitVec.ofNat 64 (t.barqValue e b which)))) := by
  obtain ⟨v, hi, hc⟩ := clearOf_iff.mp h
  have hlanes : e.strandOp (fun _ => []) (fun _ => false) (which != .handle) = (e.act, []) :=
    strandOp_of_agree (agree_nil hact) (fun _ _ => rfl) fun hwide => hcov (bne_iff_ne.mp hwide)
  simp only [exec, execBarq, word_of_issueOf hi, hlanes, strandWord_of_agree hact hc]
  cases which <;> rfl

end WorkgroupBarriers

/-- Settles O18: a lemma for each word; a wait is the one on its barrier, which returns or holds its path. -/
theorem workgroupBarrierWordsComplete : Obligations.WorkgroupBarrierWordsComplete := by
  unfold Obligations.WorkgroupBarrierWordsComplete
  refine ⟨fun gd b n s e t h ha hlo hhi hw hp => barinit_of_free h ha hlo hhi (busy_eq_false hw hp), fun gd b n s e t => bararr_of_count,
    fun gd p b ph s e t h hact hcov hpassed => ?returns, fun gd p b ph s e t h hact hcov hvalid hphase => ?waits,
    fun gd b s e t => barinval_of_clear, fun gd hd n s e t w => barrarr_of_target, fun gd d b which s e t h hact hcov => ?query⟩
  case returns =>
    obtain ⟨u, hi, hc⟩ := clearOf_iff.mp h
    rw [barwait_of_issueOf hi, barWait_of_passed hc hact hcov hpassed]
  case waits =>
    obtain ⟨u, hi, hc⟩ := clearOf_iff.mp h
    rw [barwait_of_issueOf hi, barWait_of_waiting hc hact hcov hvalid hphase]
  case query =>
    rw [barq_of_clear h hact hcov]
    cases which <;> rfl

/-! ### Barriers of the control thread (R441) -/

section ControlBarriers

variable {b d : Nat} {n ph : Src} {p : Option Nat} {bc : Bool} {s t u : State} {e : Env}

theorem cbarArr_of_clear (h : s.clearOf? (.cbarArr b) = some (e, t)) :
    exec (.cbarArr b) s = .next ((t.finish e (done e.act)).arriveAt (.wg e.wid b) 1 false none) := by
  obtain ⟨v, hi, hc⟩ := clearOf_iff.mp h
  simp only [exec, execCbarArr, word_of_issueOf hi, afterStores_of_clear hc, Env.bar]

theorem cbarWait_of_issueOf (h : s.issueOf? (.cbarWait p b ph) = some (e, u)) :
    exec (.cbarWait p b ph) s = u.barWait e b ((e.d ph 0).getLsbD 0) p := by
  simp only [exec, execCbarWait, word_of_issueOf h, ← toNat_d, bitAt_toNat]

theorem cbarInit_of_free (h : s.clearOf? (.cbarInit b n) = some (e, t)) (hlo : 1 ≤ (e.d n 0).toNat) (hhi : (e.d n 0).toNat ≤ 65535)
    (hfree : (t.bar (.wg e.wid b)).busy = false) :
    exec (.cbarInit b n) s = .next ((t.modBar (.wg e.wid b) fun x => x.start (e.d n 0).toNat).finish e (done e.act)) := by
  obtain ⟨v, hi, hc⟩ := clearOf_iff.mp h
  rw [toNat_d] at hlo hhi ⊢
  have hlegal : ¬(e.n .i64 n 0 = 0 ∨ 65535 < e.n .i64 n 0) := by omega
  simp only [exec, execCbarInit, word_of_issueOf hi, if_neg hlegal, afterStores_of_clear hc, Env.bar, hfree, Bool.false_eq_true, if_false]

theorem cbarInval_of_clear (h : s.clearOf? (.cbarInval b) = some (e, t)) :
    exec (.cbarInval b) s = .next ((t.finish e (done e.act)).invalBar (.wg e.wid b)) := by
  obtain ⟨v, hi, hc⟩ := clearOf_iff.mp h
  simp only [exec, execCbarInval, word_of_issueOf hi, afterStores_of_clear hc, Env.bar]

theorem cbarQ_of_clear (h : s.clearOf? (.cbarQ d b bc) = some (e, t)) :
    exec (.cbarQ d b bc) s = .next (t.finish e [.reg 0 (.reg d) .i64
      (BitVec.ofNat 64 (if bc then (t.bar (.wg e.wid b)).count else (t.bar (.wg e.wid b)).state))]) := by
  obtain ⟨v, hi, hc⟩ := clearOf_iff.mp h
  simp only [exec, execCbarQ, word_of_issueOf hi, afterStores_of_clear hc, Env.bar]

end ControlBarriers

/-- Settles O27: a lemma for each word; a wait is the one of the workgroup's words. -/
theorem controlBarrierWordsComplete : Obligations.ControlBarrierWordsComplete := by
  unfold Obligations.ControlBarrierWordsComplete
  refine ⟨fun b s e t => cbarArr_of_clear, fun p b ph s e t h hact hcov hvalid hphase => ?waits,
    fun p b ph s e t h hact hcov hpassed => ?returns,
    fun b n s e t h hlo hhi hw hp => cbarInit_of_free h hlo hhi (busy_eq_false hw hp), fun b s e t => cbarInval_of_clear,
    fun d b bc s e t => cbarQ_of_clear⟩
  case waits =>
    obtain ⟨u, hi, hc⟩ := clearOf_iff.mp h
    rw [cbarWait_of_issueOf hi, barWait_of_waiting hc hact hcov hvalid hphase]
  case returns =>
    obtain ⟨u, hi, hc⟩ := clearOf_iff.mp h
    rw [cbarWait_of_issueOf hi, barWait_of_passed hc hact hcov hpassed]

/-! ### Barriers of a wider scope (R173, R174, R394) -/

/-- The message `op` of `e` to barrier `i` of a scope is on its way to the barrier's holder. -/
def State.messageSent (t : State) (e : Env) (sc : HScope) (i : Src) (op val : Nat) (pd : Option Nat) (d : Nat) (bc : Bool) : State :=
  { t with hmsgs := t.hmsgs ++ [⟨t.nextId, e.ag, e.act, e.lane0.pc, e.lane0.hdr, e.hbar sc (e.w i e.low).toNat, op, val, pd, d, bc, false, none⟩]
           nextId := t.nextId + 1 }

section WideBarriers

variable {gd : Guard} {i n ph : Src} {sc : HScope} {p : Option Nat} {d : Nat} {bc : Bool} {s t u : State} {e : Env}

theorem raise_nil (s : State) (ag : Agent) : s.raise ag [] = s := rfl

section Send

variable {vals : Nat → List W64} {illegal : Nat → Bool} {needU : Bool} {op val : Nat} (hc : u.clear? e = some t)
  (ha : e.agree fun l => e.src .i32 i l :: vals l) (hscope : (e.w i e.low).toNat < scopeCount sc)
  (hlegal : ∀ l, inMask e.act l = true → illegal l = false) (hcov : needU = true → e.coversU = true)
include ha hscope hlegal hcov

/-- A message whose index the scope has, and whose other operands are legal, is that of every active lane. -/
theorem strandOp_of_scope : e.strandOp (fun l => e.src .i32 i l :: vals l) (fun l => scopeCount sc ≤ e.n .i32 i l || illegal l) needU =
    (e.act, []) := by
  rw [toNat_w] at hscope
  have hindex := legal_of_agree ha (illegal := fun k => scopeCount sc ≤ k) (by simpa using hscope)
  exact strandOp_of_agree ha (fun l hl => Bool.or_eq_false_iff.mpr ⟨hindex l hl, hlegal l hl⟩) hcov

include hc

/-- A word that waits for the reply holds its whole path. -/
theorem hbarSend_of_holds : u.hbarSend e sc i vals illegal needU true op val p d bc =
    .next ((t.messageSent e sc i op val p d bc).holdPath e (.hbar t.nextId)) := by
  simp only [State.hbarSend, strandOp_of_scope ha hscope hlegal hcov, if_neg ha.1, afterStores_of_clear hc, List.any_nil, Bool.not_false,
    Bool.and_true, maskOf_inMask, List.filterMap_nil, raise_nil, if_true, State.messageSent, toNat_w]

theorem hbarSend_of_arrival : u.hbarSend e sc i vals illegal needU false op val p d bc =
    .next ((t.messageSent e sc i op val p d bc).finish e (done e.act)) := by
  simp only [State.hbarSend, strandOp_of_scope ha hscope hlegal hcov, if_neg ha.1, afterStores_of_clear hc, Bool.false_eq_true, if_false,
    List.nil_append, State.messageSent, toNat_w]

end Send

theorem hbarInit_of_clear (h : s.clearOf? (.hbarInit gd i n sc) = some (e, t)) (ha : e.agree fun l => [e.src .i32 i l, e.src .i32 n l])
    (hscope : (e.w i e.low).toNat < scopeCount sc) (hlo : 1 ≤ (e.w n e.low).toNat) (hhi : (e.w n e.low).toNat ≤ 65535) :
    exec (.hbarInit gd i n sc) s =
      .next ((t.messageSent e sc i 0 (e.w n e.low).toNat none 0 false).holdPath e (.hbar t.nextId)) := by
  obtain ⟨v, hi, hc⟩ := clearOf_iff.mp h
  rw [toNat_w] at hlo hhi ⊢
  have hlegal := legal_of_agree (agree_tail ha) (illegal := fun k => k = 0 || 65535 < k) (by simp; omega)
  simp only [exec, execHbarInit, word_of_issueOf hi, hbarSend_of_holds hc ha hscope hlegal (needU := false) (by simp)]

theorem hbarArr_of_clear (h : s.clearOf? (.hbarArr gd i sc) = some (e, t)) (ha : e.agree fun l => [e.src .i32 i l]) (hcov : e.coversU = true)
    (hscope : (e.w i e.low).toNat < scopeCount sc) :
    exec (.hbarArr gd i sc) s = .next ((t.messageSent e sc i 1 1 none 0 false).finish e (done e.act)) := by
  obtain ⟨v, hi, hc⟩ := clearOf_iff.mp h
  simp only [exec, execHbarArr, word_of_issueOf hi, hbarSend_of_arrival hc ha hscope (illegal := fun _ => false) (fun _ _ => rfl) fun _ => hcov]

theorem hbarWait_of_clear (h : s.clearOf? (.hbarWait gd p i ph sc) = some (e, t)) (ha : e.agree fun l => [e.src .i32 i l])
    (hcov : e.coversU = true) (hscope : (e.w i e.low).toNat < scopeCount sc) : exec (.hbarWait gd p i ph sc) s =
      .next ((t.messageSent e sc i 2 ((e.w ph e.low).toNat % 2) p 0 false).holdPath e (.hbar t.nextId)) := by
  obtain ⟨v, hi, hc⟩ := clearOf_iff.mp h
  simp only [exec, execHbarWait, word_of_issueOf hi, hbarSend_of_holds hc ha hscope (illegal := fun _ => false) (fun _ _ => rfl) fun _ => hcov,
    ← toNat_w]

theorem hbarQ_of_clear (h : s.clearOf? (.hbarQ gd d i bc sc) = some (e, t)) (ha : e.agree fun l => [e.src .i32 i l]) (hcov : e.coversU = true)
    (hscope : (e.w i e.low).toNat < scopeCount sc) :
    exec (.hbarQ gd d i bc sc) s = .next ((t.messageSent e sc i 3 0 none d bc).holdPath e (.hbar t.nextId)) := by
  obtain ⟨v, hi, hc⟩ := clearOf_iff.mp h
  simp only [exec, execHbarQ, word_of_issueOf hi, hbarSend_of_holds hc ha hscope (illegal := fun _ => false) (fun _ _ => rfl) fun _ => hcov]

end WideBarriers

/-- Settles O19: every form sends its message, and but for an arrival holds its path for the reply. -/
theorem wideBarrierWordsSendTheirMessages : Obligations.WideBarrierWordsSendTheirMessages := by
  unfold Obligations.WideBarrierWordsSendTheirMessages
  exact ⟨fun gd i n sc s e t => hbarInit_of_clear, fun gd i sc s e t => hbarArr_of_clear, fun gd p i ph sc s e t => hbarWait_of_clear,
    fun gd d i bc sc s e t => hbarQ_of_clear⟩

/-! ### Engine operations that end on their barrier (R161, R203, R204, R423, R443, R445) -/

section EngineOperations

variable {id : Nat} {s u v : State}

theorem copyComplete_of_ready {c c' : CopyOp} {b : BufRec} {off : Nat} {bar : BarRef} (hfind : (s.copies.find? fun c => c.id == id) = some c)
    (hdst : c.dst = .buffer b off) (hhas : s.engineHas c = true) (hsources : ∀ x ∈ c.lines, s.sourceReady c x = true)
    (hready : s.copyReady c b off = true) (hfetch : s.fetchAll c c.lines = (none, c', u)) (hshadow : u.copyShadow c' b off = (none, v))
    (hbar : c'.bar = some bar) : exec (.copyComplete id none) s =
      .next ((({ v with copies := v.copies.filter fun x => x.id != id } : State).served c'.core c'.due).postArrival bar none 1 true none) := by
  have hlines : (c.lines.all fun x => s.sourceReady c x) = true := List.all_eq_true.mpr hsources
  simp [exec, execCopyComplete, hfind, hdst, hhas, hlines, hready, hfetch, hshadow, hbar]

theorem tierMoveDone_of_ready {t : TierOp} (hfind : (s.tiers.find? fun t => t.id == id) = some t) (hready : s.tierReady t = true)
    (hlines : s.tierLines t t.moved.length (t.len / 64 + 1) = (none, u)) : exec (.tierMoveDone id none) s =
      .next ((({ u with tiers := u.tiers.filter fun x => x.id != id } : State).served (u.coreOf t.ag) t.due).postArrival t.bar none 1 true none) := by
  simp [exec, execTierMoveDone, hfind, hready, hlines]

end EngineOperations

/-- Settles O30: a lemma for each of the two operations. -/
theorem engineOperationsArriveWhenDone : Obligations.EngineOperationsArriveWhenDone := by
  unfold Obligations.EngineOperationsArriveWhenDone
  exact ⟨fun id s c b off bar c' u v => copyComplete_of_ready, fun id s t u => tierMoveDone_of_ready⟩

end Sys2Proof.Machine

/-!
SUPPORT. The fabric (R175, R251 to R267): what each event makes of its port, the routes, and the loss of a peer.
-/
namespace Sys2Proof.Machine
set_option Elab.async false

/-! ### Events of one port -/

/-- A change of an entry depends on what it does to the entry that stands there. -/
theorem modAt_congr_nth {α : Type} {l : List α} {k : Nat} {d : α} {f g : α → α} (h : f (nth l k d) = g (nth l k d)) :
    modAt l k f = modAt l k g := by
  cases hk : l[k]? with
  | some a => exact modAt_congr hk (by simpa [nth, hk] using h)
  | none =>
    have hkeep (f : α → α) : modAt l k f = l := List.ext_getElem? fun i => by
      by_cases hi : i = k
      · rw [hi, getElem?_modAt, hk, Option.map_none]
      · exact getElem?_modAt_ne l k i f hi
    rw [hkeep f, hkeep g]

theorem modPort_congr {s : State} {port : Nat} {f g : Port → Port} (h : f (s.fab.port port) = g (s.fab.port port)) :
    s.modPort port f = s.modPort port g := by
  simp only [State.modPort, State.modFab, modAt_congr_nth h]

/-- A step of a port that exists and meets its condition changes that port by what the step makes of it. -/
theorem portStep_of_ok {s : State} {port : Nat} {ok : Port → Bool} {f g : Port → Port} (hport : port < 12) (hok : ok (s.fab.port port) = true)
    (h : f (s.fab.port port) = g (s.fab.port port)) : portStep port s ok f = .next (s.modPort port g) := by
  rw [portStep, if_pos ⟨hport, hok⟩, modPort_congr h]

section PortEvents

variable {port : Nat} {s : State}

theorem exec_retrain : exec (.retrain port) s = portStep port s (fun _ => true) Port.retrain := rfl

theorem exec_linkDisable : exec (.linkDisable port) s = portStep port s (fun _ => true) Port.disable := rfl

theorem exec_linkEnable : exec (.linkEnable port) s = portStep port s (fun _ => true) Port.enable := rfl

theorem exec_trainingResult {res : TrainResult} :
    exec (.trainingResult port res) s = portStep port s (fun p => p.st == .training && !p.retryWait) fun p => p.trained res := rfl

theorem exec_trainingRetry :
    exec (.trainingRetry port) s = portStep port s (fun p => p.st == .training && p.retryWait) fun p => { p with retryWait := false } := rfl

theorem exec_laneFail {lane : Nat} : exec (.laneFail port lane) s =
    portStep port s (fun p => p.runs && decide (lane < 8) && p.lanes.getLsbD lane) fun p => p.laneFail lane := rfl

theorem exec_silence : exec (.silence port) s = portStep port s Port.runs Port.train := rfl

theorem exec_replayRequest {ack : Nat} : exec (.replayRequest port ack) s = portStep port s Port.runs fun p => p.replay (ack % 4096) := rfl

theorem exec_creditReturn {vc n : Nat} :
    exec (.creditReturn port vc n) s = portStep port s (fun p => p.runs && decide (vc < 6)) fun p => p.credit vc n := rfl

end PortEvents

section Ports

variable {p : Port}

/-! ### Link states (R258) -/

theorem runs_of_up_or_degraded (h : p.st = .up ∨ p.st = .degraded) : p.runs = true := by simpa [Port.runs] using h

theorem retrain_of_runs (h : p.st = .up ∨ p.st = .degraded) : p.retrain = { p with st := .training, retryWait := false } := by
  rcases h with h | h <;> simp only [Port.retrain, h, Port.train]

theorem retrain_of_lost (h : p.st = .lost) : p.retrain = { p with st := .training, retryWait := false, failures := 0 } := by
  simp only [Port.retrain, h, Port.train]

theorem retrain_of_other (h : p.st = .down ∨ p.st = .training) : p.retrain = p := by
  rcases h with h | h <;> simp only [Port.retrain, h]

theorem enable_of_off (h : p.st = .down ∨ p.st = .lost) : p.enable = { p with st := .training, retryWait := false, failures := 0 } := by
  rcases h with h | h <;> simp only [Port.enable, h, Port.train]

theorem enable_of_other (h : p.st = .training ∨ p.st = .up ∨ p.st = .degraded) : p.enable = p := by
  rcases h with h | h | h <;> simp only [Port.enable, h]

theorem awaits_result (hst : p.st = .training) (hwait : p.retryWait = false) : (p.st == .training && !p.retryWait) = true := by
  simp [hst, hwait]

theorem trained_whole {peer : Nat} (hpeer : peer < 64) : p.trained (.trained peer) = { p with st := .up, lanes := 0xFF, peer := peer } := by
  simp only [Port.trained, Nat.mod_eq_of_lt hpeer]

theorem trained_half {peer : Nat} {upper : Bool} (hpeer : peer < 64) :
    p.trained (.half peer upper) = { p with st := .degraded, lanes := if upper then 0xF0 else 0x0F, peer := peer } := by
  simp only [Port.trained, Nat.mod_eq_of_lt hpeer]

theorem trained_fail_of_lt (h : p.failures < 2) : p.trained .fail = { p with failures := p.failures + 1, retryWait := true } := by
  have hfew : ¬3 ≤ p.failures + 1 := by omega
  simp only [Port.trained, if_neg hfew]

/-- The third failure in a row loses the link. -/
theorem trained_fail_of_two (h : p.failures = 2) : p.trained .fail = { p with failures := 3, st := .lost } := by
  simp only [Port.trained, h, Nat.le_refl, if_true]

theorem laneFail_of_up (lane : Nat) (h : p.st = .up) : p.laneFail lane =
    { p with st := .degraded, lanes := if lane < 4 then 0xF0 else 0x0F, credits := p.credits.map fun n => n / 2 } := by
  simp only [Port.laneFail, h, BEq.rfl, if_true]

theorem laneFail_of_degraded (lane : Nat) (h : p.st = .degraded) : p.laneFail lane = { p with st := .training, retryWait := false } := by
  simp [Port.laneFail, h, Port.train]

/-- A lane that fails is in use: the port runs on it. -/
theorem lane_in_use {lane : Nat} (h : p.st = .up ∨ p.st = .degraded) (hlane : lane < 8) (hin : p.lanes.getLsbD lane = true) :
    (p.runs && decide (lane < 8) && p.lanes.getLsbD lane) = true := by
  rw [runs_of_up_or_degraded h, hin, decide_eq_true hlane]
  rfl

/-! ### Flits (R253, R255) -/

theorem takes_flit {bs : List Byte} (h : p.st = .up ∨ p.st = .degraded) (hlen : bs.length = 64) : (p.runs && bs.length == 64) = true := by
  simp [runs_of_up_or_degraded h, hlen]

theorem accepts_iff {bs : List Byte} (hlen : bs.length = 64) :
    p.accepts bs = true ↔ crc32 (bs.take 60) = leNat (bs.drop 60) ∧ flitSeq bs = p.expect := by
  simp [Port.accepts, flitGood, hlen]

/-- An accepted flit that asks for no replay acknowledges up to its ACK. -/
theorem receive_of_accepted {bs : List Byte} (h : p.accepts bs = true) (hkind : flitKind bs ≠ 3) : p.receive bs =
    { p with expect := (p.expect + 1) % 4096, wantReplay := false, unacked := ackUpTo p.unacked (flitAck bs),
             sendq := p.sendq.filter fun f => (ackUpTo p.unacked (flitAck bs)).any fun h => h.seq == f.seq } := by
  have hgood : (flitGood bs && flitSeq bs == p.expect) = true := h
  simp only [Port.receive, hgood, if_true, if_neg hkind, Port.ack]

theorem receive_of_not_accepted {bs : List Byte} (h : p.accepts bs = false) : p.receive bs = { p with crcerr := p.crcerr + 1, wantReplay := true } :=
  if_neg (ne_true_of_eq_false h)

end Ports

section FlitReceive

variable {port : Nat} {bs : List Byte} {s : State}

theorem flitReceive_of_accepted (hvc : flitVc bs < 6) (hkind : flitKind bs ≠ 2) :
    exec (.flitReceive port bs) s = portStep port s (fun p => p.runs && bs.length == 64) fun p => p.receive bs := by
  have hchannel : decide (6 ≤ flitVc bs) = false := decide_eq_false (Nat.not_le.mpr hvc)
  simp only [exec, execFlitReceive, hchannel, beq_false_of_ne hkind, Bool.and_false, Bool.false_eq_true, if_false]

theorem flitReceive_of_not_accepted (h : (s.fab.port port).accepts bs = false) :
    exec (.flitReceive port bs) s = portStep port s (fun p => p.runs && bs.length == 64) fun p => p.receive bs := by
  simp only [exec, execFlitReceive, h, Bool.false_and, Bool.false_eq_true, if_false]

end FlitReceive

/-! ### Routes and lost peers (R175, R256, R259, R263 to R266) -/

section Peers

variable {s : State} {t : Nat}

/-- A channel changes its route once no flit of it is unacknowledged on the old one. -/
theorem routeSwitch_of_quiet {vc p : Nat} (hvc : vc < 6) (hpod : t < s.fab.podsize) (hother : t ≠ s.fab.rank)
    (hbest : s.fab.bestRoute t = some p) (hnew : tabFind? s.fab.route (8 * t + vc) ≠ some p)
    (hquiet : ∀ q, tabFind? s.fab.route (8 * t + vc) = some q → ∀ f ∈ (s.fab.port q).unacked, f.vc ≠ vc) :
    exec (.routeSwitch t vc) s = .next (s.modFab fun f => { f with route := tabSet f.route (8 * t + vc) p }) := by
  cases hold : tabFind? s.fab.route (8 * t + vc) with
  | none => simp [exec, execRouteSwitch, hbest, hold, hvc, hpod, hother]
  | some q =>
    have hne : q ≠ p := fun heq => hnew (heq ▸ hold)
    have hidle : ((s.fab.port q).unacked.any fun x => x.vc == vc) = false :=
      List.any_eq_false.mpr fun f hf => by simpa using hquiet q hold f hf
    simp [exec, execRouteSwitch, hbest, hold, hvc, hpod, hother, hne, hidle]

theorem lossDeclaration_of_peer (h : s.peer t = true) : exec (.lossDeclaration t) s = .next (s.lose t) := if_pos h

theorem peerFailureReport_of_peer (h : s.peer t = true) : exec (.peerFailureReport t) s = .next (s.foundLost t) := if_pos h

theorem noRouteTimeout_of_peer (h : s.peer t = true) (hnone : s.fab.bestRoute t = none) :
    exec (.noRouteTimeout t) s = .next (s.foundLost t) := by
  simp only [exec, execNoRouteTimeout, h, hnone, Option.isNone_none, Bool.and_self, if_true]

theorem directoryRebuildDone_of_rebuilding (h : t ∈ s.fab.rebuilding) : exec (.directoryRebuildDone t) s =
    .next ((s.modFab fun f => { f with rebuilding := f.rebuilding.filter fun r => r != t }).reissue t) :=
  if_pos (List.contains_iff_mem.mpr h)

end Peers

/-- Settles O47: each event of a port is the transition of the port that stands there. -/
theorem fabricStepsTakeEffect : Obligations.FabricStepsTakeEffect := by
  unfold Obligations.FabricStepsTakeEffect
  refine ⟨fun port s hport h => exec_retrain.trans (portStep_of_ok hport rfl (retrain_of_runs h)),
    fun port s hport h => exec_retrain.trans (portStep_of_ok hport rfl (retrain_of_lost h)),
    fun port s hport h => exec_retrain.trans (portStep_of_ok hport rfl (retrain_of_other h)),
    fun port s hport _ => exec_linkDisable.trans (portStep_of_ok hport rfl rfl),
    fun port s hport h => exec_linkEnable.trans (portStep_of_ok hport rfl (enable_of_off h)),
    fun port s hport h => exec_linkEnable.trans (portStep_of_ok hport rfl (enable_of_other h)),
    fun port peer hpeer s hport ⟨hst, hwait⟩ =>
      exec_trainingResult.trans (portStep_of_ok hport (awaits_result hst hwait) (trained_whole hpeer)),
    fun port peer upper hpeer s hport ⟨hst, hwait⟩ =>
      exec_trainingResult.trans (portStep_of_ok hport (awaits_result hst hwait) (trained_half hpeer)),
    fun port s hport ⟨hst, hwait, hfew⟩ =>
      exec_trainingResult.trans (portStep_of_ok hport (awaits_result hst hwait) (trained_fail_of_lt hfew)),
    fun port s hport ⟨hst, hwait, htwo⟩ =>
      exec_trainingResult.trans (portStep_of_ok hport (awaits_result hst hwait) (trained_fail_of_two htwo)),
    fun port s hport ⟨hst, hwait⟩ => exec_trainingRetry.trans (portStep_of_ok hport (by simp [hst, hwait]) rfl),
    fun port lane hlane s hport ⟨hst, hin⟩ =>
      exec_laneFail.trans (portStep_of_ok hport (lane_in_use (.inl hst) hlane hin) (laneFail_of_up lane hst)),
    fun port lane hlane s hport ⟨hst, hin⟩ =>
      exec_laneFail.trans (portStep_of_ok hport (lane_in_use (.inr hst) hlane hin) (laneFail_of_degraded lane hst)),
    fun port s hport h => exec_silence.trans (portStep_of_ok hport (runs_of_up_or_degraded h) rfl),
    fun port bs hlen s hport h => ?accepted, fun port bs hlen s hport h => ?discarded,
    fun port ack hack s hport h => exec_replayRequest.trans (portStep_of_ok hport (runs_of_up_or_degraded h) (by rw [Nat.mod_eq_of_lt hack])),
    fun port vc n hvc s hport h => exec_creditReturn.trans (portStep_of_ok hport (by simp [runs_of_up_or_degraded h, hvc]) rfl),
    fun t vc p s => routeSwitch_of_quiet, fun t s h => ⟨lossDeclaration_of_peer h, peerFailureReport_of_peer h, noRouteTimeout_of_peer h⟩,
    fun t s => directoryRebuildDone_of_rebuilding⟩
  case accepted =>
    obtain ⟨hup, hcrc, hseq, hvc, hcredit, hreplay⟩ := h
    rw [flitReceive_of_accepted hvc hcredit]
    exact portStep_of_ok hport (takes_flit hup hlen) (receive_of_accepted ((accepts_iff hlen).mpr ⟨hcrc, hseq⟩) hreplay)
  case discarded =>
    obtain ⟨hup, hbad⟩ := h
    have hrefused : (s.fab.port port).accepts bs = false := Bool.eq_false_iff.mpr fun hacc =>
      hbad.elim (· ((accepts_iff hlen).mp hacc).1) (· ((accepts_iff hlen).mp hacc).2)
    rw [flitReceive_of_not_accepted hrefused]
    exact portStep_of_ok hport (takes_flit hup hlen) (receive_of_not_accepted hrefused)

end Sys2Proof.Machine

/-!
SUPPORT. The reply to an init of a wider barrier (R394), and a state in which the lane that waits for it goes on with another result than 0.
-/
namespace Sys2Proof.Machine
set_option Elab.async false

/-- An init that was granted, whose record names a predicate and whose reply has the status set: a record that no word sends, but that a state
may hold. -/
def initWithPd : HMsg := ⟨0, .ctl 0, 1, 0, 0, .pod 0 0, 0, 1, some 1, 0, false, false, some (none, true, 0)⟩

/-- Lane 0 of control thread 0 waits for the reply to `initWithPd`. -/
def initWithPdWaits : State :=
  { State.reset with
    hmsgs := [initWithPd]
    cts := [(0, ⟨0, [], Strand.init 0 1 [{ Lane.init with live := true, wait := some (.hbar 0) }], none, false, []⟩)] }

/-- The latest result of lane 0 of control thread 0 (R324). -/
def State.controlLatch (s : State) : Option W64 := (s.unit? (.ctl 0)).map fun u => (u.lane 0).lat0

/-- Refutes O20: the clause on the reply to an init has the waiting lanes go on with result 0 whatever the message's predicate and the reply's
status are, but `Lane.hbarReturn` gives them the status where the message names a predicate; in `initWithPdWaits` that is 1. -/
theorem not_arrivalsAndMessagesTakeEffect : ¬ Obligations.ArrivalsAndMessagesTakeEffect := by
  unfold Obligations.ArrivalsAndMessagesTakeEffect
  rintro ⟨-, -, -, hinit, -⟩
  have hclaimed := hinit 0 initWithPdWaits initWithPd (none, true, 0) rfl rfl rfl rfl
  obtain ⟨t, ht, hlatch⟩ : ∃ t, exec (.hbarReply 0) initWithPdWaits = .next t ∧ t.controlLatch = some 1 := ⟨_, rfl, by decide⟩
  rw [ht, Host.Outcome.next.injEq] at hclaimed
  rw [hclaimed] at hlatch
  exact absurd hlatch (by decide)

end Sys2Proof.Machine

/-!
SUPPORT. Stores (R191, R397, R402, R404, R409 to R412): what a store does whose accesses pass their checks and wait for nothing.
-/
namespace Sys2Proof.Machine
set_option Elab.async false

section Stores

variable {s t u v : State} {e : Env} {tlbs : List Nat} {need : Need} {use : BlockUse} {plans : List (Nat × List Plan)}
  {good : List (Nat × List Spot)} {data : Nat → List (List Byte)} {pre : List LaneOut} {vals : Nat → List W64}

/-! ### Addresses and accesses -/

theorem sgn_toNat (x : W32) : sgn 32 x.toNat = x.toInt := by
  have hlt := x.isLt
  rw [sgn, BitVec.toInt_eq_toNat_cond, Nat.mod_eq_of_lt hlt]
  split <;> split <;> omega

/-- The effective address a + sext(o) is that of 64-bit arithmetic (R397). -/
theorem toNat_ea (e : Env) (a o : Src) (l : Nat) : (e.d a l + (e.w o l).signExtend 64).toNat = e.ea a o l := by
  have hoffset : e.i .i32 o l = (e.w o l).toInt := by
    rw [← sgn_toNat, toNat_w]
    rfl
  have hsum : e.d a l + (e.w o l).signExtend 64 = BitVec.ofInt 64 ((e.n .i64 a l : Int) + (e.w o l).toInt) := by
    rw [← toNat_d, BitVec.ofInt_add, BitVec.ofInt_natCast, BitVec.ofNat_toNat, BitVec.setWidth_eq]
    rfl
  rw [hsum, BitVec.toNat_ofInt, Env.ea, hoffset]
  rfl

theorem spots?_eq_some (h : s.spots? e tlbs need use plans = some (good, u)) :
    s.locateLanes e tlbs need use (e.todo plans) = ((good, []), u) ∧ u.waiting e need good = [] := by
  unfold State.spots? at h
  split at h
  · rename_i hlocate
    split at h
    · cases h
      exact ⟨hlocate, ‹_›⟩
    · cases h
  · cases h

theorem splitLanes_of_none_waiting (h : u.waiting e need good = []) : u.splitLanes e need good = (good, []) := by
  simp [State.splitLanes, h, List.partition_eq_filter_filter]

/-- Stores are made at once where all of them enter the store queue, and otherwise after the agent's earlier ones. -/
theorem storeLanes_of_spots (h : s.spots? e tlbs Need.store .store plans = some (good, u)) (hv : u.storable? e (writesOf good data) = some v) :
    s.storeLanes e tlbs pre plans data = .next (v.stored e pre good data) := by
  obtain ⟨hlocate, hnone⟩ := spots?_eq_some h
  unfold State.storable? at hv
  simp only [State.storeLanes, hlocate, splitLanes_of_none_waiting hnone, List.isEmpty_nil, Bool.not_true, Bool.false_eq_true, if_false,
    List.append_nil]
  split at hv
  · cases hv
    rw [if_pos ‹_›]
    rfl
  · rw [if_neg ‹_›, afterStores_of_clear hv]
    rfl

/-! ### Fragments and shapes -/

/-- A fragment whose operands agree and are aligned is accessed by every active lane (R412). -/
theorem fragment_of_aligned {a p : Src} {tr : Bool} {el : FragEl} (ha : e.agree fun l => [e.src .i64 a l, e.src .i32 p l])
    (haligned : let q := if tr then fragBits el / 8 else 16; q = 0 ∨ ((e.d a e.low).toNat % q = 0 ∧ (e.w p e.low).toNat % q = 0))
    (body : List LaneOut → List (Nat × List Plan) → State → Out) : s.fragment e a p tr el body =
      body [] ((lanesOf e.act).map fun l =>
        (l, fragPlans tr (fragBits el) (e.d a e.low).toNat (e.w p e.low).toNat (8 * e.k + l))) s := by
  rw [toNat_d, toNat_w] at *
  have hgood : ¬((if tr then fragBits el / 8 else 16) ≠ 0 && (e.n .i64 a e.low % (if tr then fragBits el / 8 else 16) != 0 ||
      e.n .i32 p e.low % (if tr then fragBits el / 8 else 16) != 0)) = true := by
    rcases haligned with hzero | ⟨hplace, hpitch⟩
    · simp [hzero]
    · simp [hplace, hpitch]
  simp only [State.fragment, uniform_of_agree ha, if_neg ha.1, if_neg hgood]

/-- A word on a shape whose record can be had does its work with it (R406). -/
theorem withShape_of_shape {h : Src} {r : ShapeRec} (ha : e.agree fun l => [e.src .i32 h l]) (hshape : s.shape? e h = some (r, t))
    (body : ShapeRec → BitVec 8 → List LaneOut → State → Out) : s.withShape e h body = body r e.act [] t := by
  simp only [State.shape?, toNat_w, Option.bind_eq_some_iff] at hshape
  obtain ⟨w, hw, hrecord⟩ := hshape
  have hafter (k : State → Out) : s.afterRecord e (e.n .i32 h e.low) k = k w := by
    unfold State.afterRecord
    split at hw
    · cases hw
      rw [if_pos ‹_›]
    · obtain ⟨c, hc, hheld⟩ := Option.bind_eq_some_iff.mp hw
      split at hheld
      · cases hheld
      · cases hheld
        rw [if_neg ‹_›, afterStores_of_clear hc, if_neg ‹_›]
  split at hrecord
  · rename_i hok
    cases hrecord
    simp only [State.withShape, uniform_of_agree ha, if_neg ha.1, hafter, hok]
  · cases hrecord

/-! ### The words -/

variable {gd : Guard} {a o p h : Src}

theorem st_of_spots {sv : Src} {size : MemSize} (hi : s.issueOf? (.st gd a o sv size) = some (e, t))
    (hspots : t.spots? e e.tlbs Need.store .store
      ((lanesOf e.act).map fun l => (l, [⟨(e.d a l + (e.w o l).signExtend 64).toNat, memBytes size, memBytes size⟩])) = some (good, u))
    (hv : u.storable? e (writesOf good fun l => [e.storeBytes sv (memBytes size) l]) = some v) :
    exec (.st gd a o sv size) s = .next (v.stored e [] good fun l => [e.storeBytes sv (memBytes size) l]) := by
  simp only [toNat_ea] at hspots
  simp only [exec, execSt, word_of_issueOf hi, storeLanes_of_spots hspots hv]

theorem stt_of_spots {x : Nat} {sv : Src} {r : ShapeRec} {t1 : State} (hi : s.issueOf? (.stt gd h x sv) = some (e, t))
    (ha : e.agree fun l => [e.src .i32 h l]) (hshape : t.shape? e h = some (r, t1)) (hdata : e.sttOk sv r.size = true)
    (hbeyond : e.regsBeyond (sttRegs x r sv) = false) (hwait : t1.regsWait e (sttRegs x r sv) = false)
    (hspots : t1.spots? e [walkerOf e.core] Need.store .store
      (((lanesOf e.act).filter fun l => !r.clipped (e.coords x r.rank l)).map fun l => (l, [⟨r.addr (e.coords x r.rank l), r.size, r.size⟩]))
      = some (good, u))
    (hv : u.storable? e (writesOf good fun l => [e.storeBytes sv r.size l]) = some v) :
    exec (.stt gd h x sv) s = .next (v.stored e
      (((lanesOf e.act).filter fun l => r.clipped (e.coords x r.rank l)).map fun l => .ok l [] 0) good
      fun l => [e.storeBytes sv r.size l]) := by
  have hlegal : ¬(!e.sttOk sv r.size || e.regsBeyond (sttRegs x r sv)) = true := by simp [hdata, hbeyond]
  simp only [exec, execStt, word_of_issueOf hi, withShape_of_shape ha hshape]
  refine (if_neg hlegal).trans ((if_neg (Bool.eq_false_iff.mp hwait)).trans ?_)
  simp only [List.partition_eq_filter_filter, Function.comp_def, List.nil_append]
  exact storeLanes_of_spots hspots hv

theorem stfr_of_spots {x : Nat} {tr : Bool} {el : FragEl} (hi : s.issueOf? (.stfr gd a p x tr el) = some (e, t))
    (ha : e.agree fun l => [e.src .i64 a l, e.src .i32 p l])
    (haligned : let q := if tr then fragBits el / 8 else 16; q = 0 ∨ ((e.d a e.low).toNat % q = 0 ∧ (e.w p e.low).toNat % q = 0))
    (hspots : t.spots? e e.tlbs Need.store .store ((lanesOf e.act).map fun l =>
      (l, fragPlans tr (fragBits el) (e.d a e.low).toNat (e.w p e.low).toNat (8 * e.k + l))) = some (good, u))
    (hv : u.storable? e (writesOf good fun l => fragBytes tr (fragBits el)
      ((List.range 8).foldl (fun n r => n + (e.vreg (x + r) l).toNat * 2 ^ (32 * r)) 0)) = some v) :
    exec (.stfr gd a p x tr el) s = .next (v.stored e [] good fun l => fragBytes tr (fragBits el)
      ((List.range 8).foldl (fun n r => n + (e.vreg (x + r) l).toNat * 2 ^ (32 * r)) 0)) := by
  simp only [exec, execStfr, word_of_issueOf hi, fragment_of_aligned ha haligned, storeLanes_of_spots hspots hv]

end Stores

/-- Settles O22: a lemma for each word, all of them by the stores of lanes whose accesses pass their checks. -/
theorem storeWordsQueueTheirBytes : Obligations.StoreWordsQueueTheirBytes := by
  unfold Obligations.StoreWordsQueueTheirBytes
  exact ⟨fun gd a o x size s e t good u v => st_of_spots, fun gd h x sv s e t r t1 good u v => stt_of_spots,
    fun gd a p x tr el s e t good u v => stfr_of_spots⟩

end Sys2Proof.Machine

/-!
SUPPORT. Fences, publication, monitors, tier moves and last use (R199 to R202, R210, R211, R243, R244, R417 to R424): what each word does under
the conditions of its rule.
-/
namespace Sys2Proof.Machine
set_option Elab.async false

section Ordering

variable {gd : Guard} {s t u : State} {e : Env}

/-! ### Fences (R210, R211, R418) -/

section Fences

variable {sc : Nat}

/-- A fence that has no failure to report raises the program time alone. -/
theorem fenceEnd_of_no_fail (h : ∀ l, inMask e.act l = true → t.failOf e.ag sc l = none) :
    t.fenceEnd e sc = (t.raisePts e.unit (e.u.doneTime sc)).finish e (done e.act) := by
  have hfails : (lanesOf e.act).filterMap (fun l => t.failOf e.ag sc l) = [] :=
    List.filterMap_eq_nil_iff.mpr fun l hl => h l (inMask_of_mem hl)
  unfold State.fenceEnd
  dsimp only
  rw [hfails]
  refine congrArg (State.finish _ e) (List.map_congr_left fun l hl => ?_)
  rw [h l (inMask_of_mem hl)]

theorem fence_of_done {sc : Scope} (hi : s.issueOf? (.fence gd sc) = some (e, t)) (hact : e.act ≠ 0)
    (hscopes : ∀ x, x ∈ t.asyncScopes e.ag → scopeCode sc < x)
    (hfail : ∀ l, inMask e.act l = true → t.failOf e.ag (scopeCode sc) l = none) :
    exec (.fence gd sc) s = .next ((t.raisePts e.unit (e.u.doneTime (scopeCode sc))).finish e (done e.act)) := by
  have hdone : ((t.asyncScopes e.ag).any fun x => decide (x ≤ scopeCode sc)) = false := by simpa using hscopes
  simp only [exec, execFence, word_of_issueOf hi, if_neg hact, hdone, Bool.false_eq_true, if_false, fenceEnd_of_no_fail hfail]

theorem fenceTc_of_done (h : s.clearOf? (.fenceTc gd) = some (e, t)) (hact : e.act ≠ 0) (hscopes : t.asyncScopes e.ag = [])
    (hhomes : (t.homes.any fun h => h.ag == some e.ag) = false) (hfail : ∀ l, inMask e.act l = true → t.failOf e.ag 5 l = none) :
    exec (.fenceTc gd) s = .next ((t.raisePts e.unit (e.u.doneTime 5)).finish e (done e.act)) := by
  obtain ⟨v, hi, hc⟩ := clearOf_iff.mp h
  simp only [exec, execFenceTc, word_of_issueOf hi, if_neg hact, afterStores_of_clear hc, hscopes, hhomes, List.isEmpty_nil, Bool.not_true,
    Bool.or_self, Bool.false_eq_true, if_false, fenceEnd_of_no_fail hfail]

end Fences

/-! ### Publication (R202, R419) -/

/-- The swap of a buffer of this package takes place at the issue where no engine write and no checkpoint copy of it is open. -/
theorem publish_of_quiet {h : Src} {b : BufRec} (hc : s.clearOf? (.publish gd h) = some (e, t)) (hstall : e.u.stall = none)
    (ha : e.agree fun l => [e.src .i32 h l]) (hcov : e.coversU = true) (hheld : t.recordHeld e ((e.w h e.low).toNat % 4096) = false)
    (hrecord : t.record e.kid e.cx e.core ((e.w h e.low).toNat % 4096) bufOf = (.ok b, u)) (hcheck : u.publishCheck e b = none)
    (hown : ∀ r o, spaceOf u.fab b.view ≠ some (.other r o)) (hwrites : u.engineWrites e.cx b.view b.len = [])
    (hckpt : u.ckptOn e.cx b.view = false) : exec (.publish gd h) s =
      .next (((u.finish e (done e.act)).publishHere e.cx ((e.w h e.low).toNat % 4096) b).afterSwap e.ag) := by
  obtain ⟨v, hi, hc⟩ := clearOf_iff.mp hc
  rw [toNat_w] at *
  simp only [exec, execPublish, word_of_issueOf hi, hstall, Option.isSome_none, Bool.false_eq_true, if_false,
    strandOp_of_agree ha (fun _ _ => rfl) (u := false) (by simp), if_neg ha.1, afterStores_of_clear hc, hheld, hrecord, hcov, Bool.not_true,
    hcheck, hwrites, hckpt, List.isEmpty_nil, Bool.not_false, Bool.and_true, List.nil_append]
  exact if_pos rfl

/-! ### Monitors (R421, R422) -/

section Monitors

variable {a n : Src} {p : Option Nat} {v : Strand}

theorem mon_of_spot {x : Spot} (h : s.clearOf? (.mon gd a) = some (e, t)) (ha : e.agree fun l => [e.src .i64 a l])
    (hspot : t.spotOf e e.tlbs Need.load .load e.low ⟨(e.d a e.low).toNat, 1, 1⟩ = (.ok x, u))
    (hgo : u.mustWait e 1 Need.load x.loc = false) : exec (.mon gd a) s =
      .next (((u.monTime e x).finish e (done e.act)).modUnit e.ag fun v => { v with mon := v.mon.arm (e.monLine x.loc) }) := by
  obtain ⟨v, hi, hc⟩ := clearOf_iff.mp h
  rw [toNat_d] at hspot
  simp only [exec, execMon, word_of_issueOf hi, uniform_of_agree ha, if_neg ha.1, afterStores_of_clear hc, hspot, hgo, Bool.false_eq_true,
    if_false, List.nil_append]

/-- An `mwait` on a monitor that is Fired or Disarmed returns at once. -/
theorem mwait_of_not_armed (h : s.clearOf? (.mwait gd p n) = some (e, t)) (ha : e.agree fun l => [e.src .i32 n l])
    (hunit : t.unit? e.ag = some v) (harmed : v.mon.st ≠ .armed) (hwaiting : v.mon.st ≠ .waiting) : exec (.mwait gd p n) s =
      .next (((if v.mon.st = .fired then t.raisePts e.unit v.mon.time else t).finish e
        (p.elim (done e.act) fun q => allPd e.act q true)).modUnit e.ag fun u =>
          { u with mon := { v.mon with st := .disarmed, left := none } }) := by
  obtain ⟨w, hi, hc⟩ := clearOf_iff.mp h
  simp only [exec, execMwait, word_of_issueOf hi, uniform_of_agree ha, if_neg ha.1, afterStores_of_clear hc, hunit, Option.map_some,
    Option.getD_some, List.nil_append]
  cases hst : v.mon.st with
  | armed => exact absurd hst harmed
  | waiting => exact absurd hst hwaiting
  | disarmed => cases p <;> rfl
  | fired => cases p <;> rfl

/-- An `mwait` on an Armed monitor waits, with a timer where its operand is not zero. -/
theorem mwait_of_armed (h : s.clearOf? (.mwait gd p n) = some (e, t)) (ha : e.agree fun l => [e.src .i32 n l])
    (hunit : t.unit? e.ag = some v) (harmed : v.mon.st = .armed) : exec (.mwait gd p n) s =
      .next ((t.modUnit e.ag fun u => { u with mon :=
        { v.mon with st := .waiting, left := if e.w n e.low = 0 then none else some (e.w n e.low).toNat } }).holdMwait e e.act [] p) := by
  obtain ⟨w, hi, hc⟩ := clearOf_iff.mp h
  have hzero : e.w n e.low = 0 ↔ e.n .i32 n e.low = 0 := by rw [← toNat_w, ← BitVec.toNat_inj]; rfl
  simp only [exec, execMwait, word_of_issueOf hi, uniform_of_agree ha, if_neg ha.1, afterStores_of_clear hc, hunit, Option.map_some,
    Option.getD_some, harmed, hzero, toNat_w]

end Monitors

/-! ### Tier moves and last use (R423, R424) -/

section Moves

variable {d x n : Src}

/-- The tier move that a word starts once PEND of its barrier has risen (R423). -/
def State.newTier (u : State) (e : Env) (b : Nat) (d x n : Src) : TierOp :=
  ⟨u.nextId, e.ag, e.kid, (e.d x e.low).toNat, (e.d d e.low).toNat, (e.w n e.low).toNat * 4096, .wg e.wid b, [], u.dueIn 2⟩

/-- A tier move that passes its checks raises PEND of its barrier and starts the wake of its segments. -/
theorem tier_of_accepted {i : Instr} {b : Nat} {hbm : Bool} (h : s.clearOf? i = some (e, t)) (hrole : e.grp.copyRole = true)
    (hpend : ∀ u, s.issueOf? i = some (e, u) → (u.bar (.wg e.wid b)).pend < 0xFFFF)
    (ha : e.agree fun l => [e.src .i64 d l, e.src .i64 x l, e.src .i32 n l]) (hlen : (e.w n e.low).toNat ≠ 0)
    (hcheck : t.tierCheck e hbm (e.d d e.low).toNat (e.d x e.low).toNat ((e.w n e.low).toNat * 4096) = none) :
    let u := t.pendUp (.wg e.wid b)
    let op := u.newTier e b d x n
    s.tier i b hbm d x n = .next (((({ u with nextId := u.nextId + 1, tiers := u.tiers ++ [op] } : State).wakeRange e.cx op.src op.len).wakeRange
      e.cx op.dst op.len).finish e (done e.act)) := by
  obtain ⟨v, hi, hc⟩ := clearOf_iff.mp h
  have hroom : ¬0xFFFF ≤ (v.bar (.wg e.wid b)).pend := Nat.not_le.mpr (hpend v hi)
  have hbytes : ¬(e.w n e.low).toNat * 4096 = 0 := by omega
  simp only [State.tier, word_of_issueOf hi, hrole, strandOp_of_agree ha (fun _ _ => rfl) (u := false) (by simp), Env.bar, hroom, decide_false,
    Bool.not_true, Bool.and_false, Bool.false_and, Bool.false_eq_true, if_false, strandWord_of_agree ha.1 hc, ← toNat_d, ← toNat_w, hcheck,
    if_neg hbytes, State.newTier]

theorem lastuse_of_checked {a : Src} (hi : s.issueOf? (.lastuse gd a n) = some (e, t))
    (ha : e.agree fun l => [e.src .i64 a l, e.src .i32 n l])
    (hcheck : t.lastuseCheck e (e.d a e.low).toNat (e.w n e.low).toNat = none) :
    let sp := t.homeSpans e.cx (e.d a e.low).toNat (e.w n e.low).toNat
    exec (.lastuse gd a n) s = .next (((List.range 8).foldl (fun s d =>
      s.lifetime e.ag d ((sp.filter fun x => x.1 == d).map fun x => x.2) (t.ownOps e.ag)) (t.drain e.ag)).finish e (done e.act)) := by
  simp only [exec, execLastuse, word_of_issueOf hi, strandOp_of_agree ha (fun _ _ => rfl) (u := false) (by simp), if_neg ha.1, ← toNat_d,
    ← toNat_w, hcheck, List.nil_append]

end Moves

end Ordering

/-- Settles O24: a lemma for each word; the two tier moves are one operation, and `mwait` returns or waits by the state of its monitor. -/
theorem orderingWordsComplete : Obligations.OrderingWordsComplete := by
  unfold Obligations.OrderingWordsComplete
  refine ⟨fun gd sc s e t => fence_of_done, fun gd s e t => fenceTc_of_done, fun gd h s e t b u => publish_of_quiet,
    fun gd a s e t x u => mon_of_spot, fun gd p n s e t v h ha hunit harmed hwaiting => ?returns,
    fun gd p n s e t v => mwait_of_armed, fun ev gd b d x n s e t h hrole hpend ha hlen hcheck => ?moves,
    fun gd a n s e t => lastuse_of_checked⟩
  case returns =>
    rw [mwait_of_not_armed h ha hunit harmed hwaiting]
    cases p <;> rfl
  case moves =>
    cases ev
    · exact tier_of_accepted h hrole hpend ha hlen hcheck
    · exact tier_of_accepted h hrole hpend ha hlen hcheck

end Sys2Proof.Machine

/-!
SUPPORT. The steps of the matrix unit (R208, R301, R431 to R437): the end of a sum, a mismatch, and a drain from its settling to where it lands.
-/
namespace Sys2Proof.Machine
set_option Elab.async false

section MatrixUnit

variable {s : State} {core id : Nat}

theorem halfUsed_zero : halfUsed 0 = false := rfl

/-- A sum without scales whose operands are there and not held updates its tile. -/
theorem mmaEnd_of_operands {m : MmaOp} {a b : Nat × Group} (hm : s.nextMma core = some m) (hcs : m.cs = 0)
    (hga : s.operandOf m.wg core (bits m.ca.toNat 43 32) = some a) (hgb : s.operandOf m.wg core (bits m.cb.toNat 43 32) = some b)
    (hha : s.operandHeld m.id core (some a) (m.ca.toNat % 256) 8 = false) (hhb : s.operandHeld m.id core (some b) (m.cb.toNat % 256) 8 = false) :
    let u := if m.tile < 32 then s.modAcc core m.tile fun t => { t with data := mmaTile m (s.acc core m.tile).data a.2 b.2 none none } else s
    exec (.mmaEnd core) s = .next (({ u with mmas := u.mmas.filter fun x => x.id != m.id } : State).count (u.cxOfWg m.wg) core 2 1) := by
  have hlow : m.cs.toNat % 2 ^ 32 = 0 := by rw [hcs]; rfl
  have hhigh : m.cs.toNat / 2 ^ 32 = 0 := by rw [hcs]; rfl
  have hnone (reg : Nat) : s.operandHeld m.id core none reg 1 = false := rfl
  simp only [exec, execMmaEnd, hm, hlow, hhigh, halfUsed_zero, Bool.false_eq_true, if_false, hga, hgb, hha, hhb, hnone, Bool.or_self,
    Bool.not_false, Bool.true_or, Option.map_none]

theorem residueMismatchMma_of_checked {m : MmaOp} {c : CThread} (hm : s.nextMma core = some m) (hres : (s.ctx (s.cxOfWg m.wg)).res = true) :
    let u := s.mismatch core 1
    let v := ({ u with mmas := u.mmas.map fun (x : MmaOp) =>
      if x.wg == m.wg && decide (m.id ≤ x.id) then { x with heldBy := true } else x } : State).modCt m.wg fun c =>
        { c with deferred := some m.id, due := true }
    v.ct? m.wg = some c →
    exec (.residueMismatchMma core) s = .next (if (c.unit.lane 0).stopsNow then v.raiseResidue m.wg m.pc else v) := by
  intro u v hc
  simp only [exec, execResidueMismatchMma, hm, hres, Bool.not_true, Bool.false_eq_true, if_false]
  rw [show State.ct? _ m.wg = some c from hc]

/-! ### Drains (R208, R432, R437) -/

variable {d : DrainOp}

theorem drainSettle_of_tile {i : Nat} (hd : (s.drains.find? fun d => d.id == id) = some d) (hopen : d.settled = false)
    (hruns : s.unitRuns d.wg = true) (htile : d.tile = some i) (hafter : ∀ m ∈ s.mmas, m.id ∉ d.after) :
    let u := s.modAcc d.core i AccTile.settle
    exec (.drainSettle id) s = .next { u with drains := u.drains.map fun y =>
      if y.id == id then { d with settled := true, vals := d.converted (s.acc d.core i).elems } else y } := by
  have hdone : (s.mmas.any fun m => d.after.contains m.id) = false := by simpa using hafter
  simp only [exec, execDrainSettle, hd, hopen, hruns, hdone, htile, Bool.not_true, Bool.or_self, Bool.false_eq_true, if_false]

theorem rangeRetire_of_drain {r : RangeEntry} (hr : (s.ranges.find? fun r => r.id == id && !r.saved) = some r)
    (hcopy : (s.copies.find? fun c => c.id == r.op) = none) (hd : (s.drains.find? fun d => d.id == r.op && d.settled) = some d) :
    exec (.rangeRetire id) s = .next (s.retireDrain d r) := by
  simp only [exec, execRangeRetire, hr, hcopy, hd]

/-- PEND of a tile's barrier does not depend on the drains. -/
theorem tileFull_drains (s : State) (ds : List DrainOp) (die : Nat) (t : TileEntry) :
    ({ s with drains := ds } : State).tileFull die t = s.tileFull die t := rfl

theorem acctxLand_of_armed {i : Nat} (hd : (s.drains.find? fun d => d.id == id && d.settled) = some d) (hkind : d.kind = .entry i)
    (harmed : (s.tile (d.core / 256) i).st = .armed) (hstage : (s.tile (d.core / 256) i).skind = false)
    (hroom : s.tileFull (d.core / 256) (s.tile (d.core / 256) i) = false) :
    let t := s.tile (d.core / 256) i
    let u := ({ s with drains := s.drains.filter fun x => x.id != id
                       collq := tabSet s.collq (512 * (d.core / 256) + t.src % 512) (d.vals.map (landElem t.fmt)) } : State)
    exec (.acctxLand id) s = .next ((u.modTile (d.core / 256) i fun t => { t with issuer := some (.ctl d.wg) }).tileReady (d.core / 256) i
      (((u.wg? d.wg).map fun w => w.kernel).getD 0)) := by
  have hlands : ((s.tile (d.core / 256) i).st != .armed || (s.tile (d.core / 256) i).skind) = false := by simp [harmed, hstage]
  simp only [exec, execAcctxLand, hd, hkind, hroom, hlands, Bool.false_and, Bool.false_eq_true, if_false]

end MatrixUnit

/-- Settles O26: a lemma for each step. -/
theorem matrixUnitStepsTakeEffect : Obligations.MatrixUnitStepsTakeEffect := by
  unfold Obligations.MatrixUnitStepsTakeEffect
  exact ⟨fun core s m a b => mmaEnd_of_operands, fun core s m c => residueMismatchMma_of_checked, fun id s d i => drainSettle_of_tile,
    fun id s r d => rangeRetire_of_drain, fun id s d i hd hkind harmed hstage hroom =>
      acctxLand_of_armed hd hkind harmed hstage ((tileFull_drains s _ _ _).symm.trans hroom)⟩

end Sys2Proof.Machine

/-!
SUPPORT. The memory service (R184 to R198, R201, R215, R246, R249, R265, R327): results that land, stores, fills, the dies' agents, and writes on
their way to home, mirror and replicas.
-/
namespace Sys2Proof.Machine
set_option Elab.async false

section MemoryService

variable {s : State} {id die line : Nat} {ag : Agent}

theorem longLatencyResult_of_ready {p : Pending} (hp : (s.pend.find? fun p => p.id == id && p.ready) = some p) :
    exec (.longLatencyResult id) s = .next { (s.landWrites p.ag p.writes) with pend := s.pend.filter fun x => x.id != id } := by
  simp only [exec, execLongLatencyResult, hp]

/-! ### Stores (R191, R193) -/

section Stores

variable {q : QStore} (hq : s.headStore ag = some q) (hflight : s.storeInFlight ag = false) (hrepl : s.replicated (s.cxOf ag) q.va = false)
include hq hflight hrepl

theorem storePerform_of_held (hheld : s.storeHeld ag q = true) : exec (.storePerform ag) s = .next (s.storeAsk ag q) := by
  simp only [exec, execStorePerform, hq, hrepl, hflight, hheld, Bool.false_eq_true, if_false, if_true]

variable (hfree : s.storeHeld ag q = false)
include hfree

theorem storePerform_of_here (hhere : ¬(q.at_ < 2 ^ 43 ∧ homeRank q.at_ ≠ s.fab.rank)) :
    exec (.storePerform ag) s = .next (s.performStore ag) := by
  simp only [exec, execStorePerform, hq, hrepl, hflight, hfree, Bool.false_eq_true, if_false, if_neg hhere]

theorem storePerform_of_away (hctl : q.at_ < 2 ^ 43) (haway : homeRank q.at_ ≠ s.fab.rank) : exec (.storePerform ag) s = .next
    ((s.popStore ag).homeSend (some ag) (s.cxOf ag) (s.unitOf ag) (s.pageShared (s.cxOf ag) q.va) q.parts q.issued
      (some (s.coreOf ag, q.due))).2 := by
  simp only [exec, execStorePerform, hq, hrepl, hflight, hfree, Bool.false_eq_true, if_false, if_pos (And.intro hctl haway)]

end Stores

/-! ### Fills (R189, R195, R246, R249) -/

section Fills

variable {m : Miss}

theorem served_eq (s : State) (i : Nat) (due : W64) : ∃ mb, s.served i due = { s with mb := mb } := by
  unfold State.served
  split
  · exact ⟨_, rfl⟩
  · exact ⟨s.mb, rfl⟩

theorem fillL1_frame (s : State) (m : Miss) :
    (s.fillL1 m).misses = s.misses ∧ (s.fillL1 m).mem = s.mem ∧ (s.fillL1 m).mgmt = s.mgmt := by
  unfold State.fillL1
  dsimp only
  split <;> exact ⟨rfl, rfl, rfl⟩

/-- A fill that comes into a core's L1 is the line as memory holds it. -/
theorem exists_mem_l1_fillL1 (s : State) (m : Miss) :
    ∃ x ∈ (s.fillL1 m).l1, x.core = m.unit ∧ x.line = m.line ∧ x.data = memRead s.mem m.line 64 := by
  unfold State.fillL1
  dsimp only
  split <;> exact ⟨_, List.mem_append_right _ (List.mem_singleton_self _), rfl, rfl, rfl⟩

/-- Miss `m` is served and counted, before its line comes into L1 (R195, R246, R457). -/
def State.missServed (s : State) (m : Miss) (id : Nat) : State :=
  (({ s with misses := s.misses.filter fun x => x.id != id } : State).served m.unit m.due).count m.cx m.unit 3 1

theorem missServed_frame (s : State) (m : Miss) (id : Nat) :
    (s.missServed m id).misses = s.misses.filter (fun x => x.id != id) ∧ (s.missServed m id).mem = s.mem ∧
      (s.missServed m id).mgmt = s.mgmt ∧ (s.missServed m id).fillKept m = s.fillKept m := by
  obtain ⟨mb, hserved⟩ := served_eq { s with misses := s.misses.filter fun x => x.id != id } m.unit m.due
  unfold State.missServed
  rw [hserved]
  exact ⟨rfl, rfl, rfl, rfl⟩

/-- The fill's line comes into L1, if it stays there. -/
def State.filled (s : State) (m : Miss) : State := if s.fillKept m then s.fillL1 m else s

theorem filled_frame (s : State) (m : Miss) :
    (s.filled m).misses = s.misses ∧ (s.filled m).mem = s.mem ∧ (s.filled m).mgmt = s.mgmt := by
  unfold State.filled
  split
  · exact fillL1_frame s m
  · exact ⟨rfl, rfl, rfl⟩

theorem missFill_of_miss {soft : List SoftError} (hm : (s.misses.find? fun m => m.id == id) = some m) (hhome : s.rebuilding m.line = false)
    (hsoft : (soft.any fun e => decide (16 ≤ e.stack) || decide (2 ^ 16 ≤ e.bank)) = false) :
    exec (.missFill id soft) s = .next ((soft.foldl State.softError (s.missServed m id)).filled m) := by
  simp only [exec, execMissFill, hm, hsoft, hhome, Bool.false_eq_true, if_false]
  rfl

theorem missFill_of_no_error (hm : (s.misses.find? fun m => m.id == id) = some m) (hhome : s.rebuilding m.line = false) :
    ∃ t, exec (.missFill id []) s = .next t ∧ t.misses = s.misses.filter (fun x => x.id != id) ∧ t.mem = s.mem ∧
      (s.fillKept m = true → ∃ x ∈ t.l1, x.core = m.unit ∧ x.line = m.line ∧ x.data = memRead s.mem m.line 64) := by
  obtain ⟨hmisses, hmem, -, hkept⟩ := missServed_frame s m id
  obtain ⟨hfilled, hfilledMem, -⟩ := filled_frame (s.missServed m id) m
  refine ⟨_, missFill_of_miss hm hhome rfl, hfilled.trans hmisses, hfilledMem.trans hmem, fun h => ?_⟩
  show ∃ x ∈ ((s.missServed m id).filled m).l1, _
  rw [State.filled, if_pos (hkept.trans h), ← hmem]
  exact exists_mem_l1_fillL1 _ m

theorem report_softCount (s : State) (kind : Nat) (data : List Byte) : (s.report kind data).mgmt.softCount = s.mgmt.softCount := by
  obtain ⟨_, _, h⟩ := report_mgmt s kind data
  rw [h]

theorem spareStart_softCount (s : State) (e : SoftError) : (s.spareStart e).mgmt.softCount = s.mgmt.softCount := by
  unfold State.spareStart
  dsimp only
  split
  · rfl
  · exact report_softCount s _ _

theorem softCount_softError (s : State) (e : SoftError) :
    tabGet (s.softError e).mgmt.softCount 0 e.stack = tabGet s.mgmt.softCount 0 e.stack + 1 := by
  unfold State.softError
  dsimp only
  split
  · rw [spareStart_softCount, report_softCount, tabGet_set]
  · rw [report_softCount, tabGet_set]

theorem missFill_of_error {er : SoftError} (hm : (s.misses.find? fun m => m.id == id) = some m) (hhome : s.rebuilding m.line = false)
    (hstack : er.stack < 16) (hbank : er.bank < 2 ^ 16) : ∃ t, exec (.missFill id [er]) s = .next t ∧
      tabGet t.mgmt.softCount 0 er.stack = tabGet s.mgmt.softCount 0 er.stack + 1 := by
  refine ⟨_, missFill_of_miss hm hhome (by simp; omega), ?_⟩
  show tabGet (((s.missServed m id).softError er).filled m).mgmt.softCount 0 er.stack = _
  rw [(filled_frame _ m).2.2, softCount_softError, (missServed_frame s m id).2.2.1]

end Fills

theorem ptsTick_of_last {u : Nat} (hu : u ≤ devUnit) (hlast : s.clk.toNat % 64 = 63) (hat : tabGet s.ptsAt 0 u ≤ s.span) :
    exec (.ptsTick u) s = .next { s with pts := tabSet s.pts u (s.ptsOf u + 1), ptsAt := tabSet s.ptsAt u (s.span + 1) } := by
  simp only [exec, execPtsTick, if_pos (And.intro hu (And.intro hlast hat))]

/-! ### The dies' agents (R193, R197, R198) -/

section Agents

theorem ctlOwn_fab (s : State) (die a : Nat) : (s.ctlOwn die a).fab = s.fab := by
  have hinvalid (ds : List Nat) : (ds.foldl (fun s d => s.setDir d (lineOf a) .invalid) s).fab = s.fab :=
    foldl_keeps State.fab (fun s d => s.setDir d (lineOf a) .invalid) (fun _ _ => rfl) ds s
  unfold State.ctlOwn
  dsimp only
  split
  · rfl
  · split <;> exact hinvalid _

variable (hdie : die < 8) (hline : line < 2 ^ 43)
include hdie hline

theorem invalidation_of_no_holder (hheld : s.dieHolds die (lineOf line) = false) : ∃ t, exec (.invalidation die line) s = .next t ∧
    t.dirAt die (lineOf line) = .invalid ∧ (∀ x ∈ t.l1, x.core / 256 = die → x.line ≠ lineOf line) ∧ (die, lineOf line) ∉ t.inval := by
  have hctl : ¬(8 ≤ die ∨ 2 ^ 43 ≤ line) := by omega
  refine ⟨({ s with
    inval := s.inval.filter fun p => p != (die, lineOf line)
    l1 := s.l1.filter fun l => !(l.core / 256 == die && l.line == lineOf line) } : State).setDir die (lineOf line) .invalid, ?_, ?_, ?_, ?_⟩
  · simp only [exec, execInvalidation, if_neg hctl, hheld, Bool.false_eq_true, if_false]
  · exact tabGet_set ..
  · intro x hx hcore hsame
    have hkept := (List.mem_filter.mp hx).2
    simp [hcore, hsame] at hkept
  · exact fun hmem => by simpa using (List.mem_filter.mp hmem).2

variable (hhome : s.rebuilding line = false)
include hhome

theorem upgradeRequest_of_copies (hagents : s.agentsIn die (lineOf line) true ≠ []) :
    exec (.upgradeRequest die line) s = .next (s.askAgents die (lineOf line) true) := by
  have hctl : ¬(8 ≤ die ∨ 2 ^ 43 ≤ line) := by omega
  have hasks : (!(s.agentsIn die (lineOf line) true).isEmpty) = true := by simpa using hagents
  simp only [exec, execUpgradeRequest, if_neg hctl, hhome, hasks, Bool.false_eq_true, if_false, if_true]

variable (hagents : s.agentsIn die (lineOf line) true = [])
include hagents

theorem upgradeRequest_of_no_store :
    let t := (s.ctlOwn die (lineOf line)).request (2076 + die) 0 (lineOf line)
    t.storers die (lineOf line) = [] → exec (.upgradeRequest die line) s = .next t := by
  intro t hstorers
  have hctl : ¬(8 ≤ die ∨ 2 ^ 43 ≤ line) := by omega
  simp only [exec, execUpgradeRequest, if_neg hctl, hhome, hagents, List.isEmpty_nil, Bool.not_true, Bool.false_eq_true, if_false]
  rw [show State.storers _ die (lineOf line) = [] from hstorers]
  rfl

/-- The first store that waits for the line is performed on it once the die owns it. -/
theorem upgradeRequest_of_store {rest : List Agent} :
    let t := (s.ctlOwn die (lineOf line)).request (2076 + die) 0 (lineOf line)
    t.storers die (lineOf line) = ag :: rest → t.storeInFlight ag = false →
      (∀ q, t.headStore ag = some q → t.storeBefore ag q = false) → homeRank (lineOf line) = s.fab.rank →
      exec (.upgradeRequest die line) s = .next (t.performStore ag) := by
  intro t hstorers hflight hbefore hrank
  have hctl : ¬(8 ≤ die ∨ 2 ^ 43 ≤ line) := by omega
  have hnone : (t.headStore ag).any (t.storeBefore ag) = false := by
    cases hq : t.headStore ag with
    | none => rfl
    | some q => exact hbefore q hq
  have hgoes : (!t.storeInFlight ag && !(t.headStore ag).any (t.storeBefore ag)) = true := by rw [hflight, hnone]; rfl
  have hfirst : (t.storers die (lineOf line)).find? (fun ag => !t.storeInFlight ag && !(t.headStore ag).any (t.storeBefore ag)) = some ag := by
    rw [hstorers]
    exact List.find?_cons_of_pos hgoes
  simp only [exec, execUpgradeRequest, if_neg hctl, hhome, hagents, List.isEmpty_nil, Bool.not_true, Bool.false_eq_true, if_false]
  rw [show List.find? _ (State.storers _ die (lineOf line)) = some ag from hfirst]
  exact if_pos (hrank.trans (congrArg Fabric.rank (ctlOwn_fab s die (lineOf line))).symm)

end Agents

/-! ### Home, mirror and replicas (R215, R265) -/

section Homes

variable {h : HomeW}

section HomeWrite

variable (hh : (s.homes.find? fun h => h.id == id && !h.applied) = some h)
  (hfirst : ∀ x ∈ s.homes, x.ag = h.ag → x.core = h.core → h.id ≤ x.id)
include hh hfirst

theorem homeWrite_of_first : exec (.homeWrite id) s = if s.homeHeld h then .next (s.homeAsk h) else .next (s.homeApply h) := by
  have hnone : (s.homes.any fun x => x.ag == h.ag && x.core == h.core && x.id < h.id) = false := by
    refine List.any_eq_false.mpr fun x hx => ?_
    simp only [Bool.and_eq_true, beq_iff_eq, decide_eq_true_eq]
    rintro ⟨⟨hag, hcore⟩, hlt⟩
    exact absurd (hfirst x hx hag hcore) (Nat.not_le.mpr hlt)
  simp only [exec, execHomeWrite, hh, hnone, Bool.false_eq_true, if_false]

end HomeWrite

theorem mirrorAck_of_applied (hh : (s.homes.find? fun h => h.id == id && h.applied) = some h) :
    exec (.mirrorAck id) s = if s.homeHeld h then .next (s.homeAsk h) else .next (s.homeLand h) := by
  simp only [exec, execMirrorAck, hh]

end Homes

section Replicas

theorem replicaUpdate_of_ready {q : QStore} {k : Nat} (hq : s.headStore ag = some q) (hk : s.kidOf ag = some k)
    (hrepl : s.replicated (s.cxOf ag) q.va = true) (hflight : s.storeInFlight ag = false) (hbefore : s.storeBefore ag q = false)
    (hseg : s.segReady q.at_ = true) (hgood : s.mergeGood (s.cxOf ag) q = true) : exec (.replicaUpdate ag) s = .next
      ((s.popStore ag).repUpdate (some ag) (s.cxOf ag) (s.unitOf ag) (lineOf q.va) (lineOf q.at_) (s.replicaLine q) false q.issued
        (some (s.coreOf ag, q.due))) := by
  simp only [exec, execReplicaUpdate, hq, hk, hrepl, hflight, hbefore, hseg, hgood, Bool.not_true, Bool.or_self, Bool.false_eq_true, if_false]

/-- The first update that a die has yet to apply is applied, or wakes the segment of the replica. -/
theorem replicaApply_of_first {r : RepUpdate} (hr : (s.reps.find? fun r => r.id == id) = some r) (hdie : die ∈ r.dies)
    (hfirst : ∀ x ∈ s.reps, die ∈ x.dies → r.t.toNat < x.t.toNat ∨ (x.t = r.t ∧ r.id ≤ x.id)) :
    let y := { r with dies := r.dies.erase die }
    exec (.replicaApply id die) s = if s.segReady (s.replAddr die r.addr) then .next
      ((({ s with reps := s.reps.map fun (x : RepUpdate) => if x.id == id then y else x } : State).touch (s.replAddr die r.addr)).repSettle y)
      else .next (s.wakeFor r.cx (s.replAddr die r.addr)) := by
  have hnone : (s.reps.any fun x => x.dies.contains die && (decide (x.t.toNat < r.t.toNat) || (x.t == r.t && decide (x.id < r.id)))) = false := by
    refine List.any_eq_false.mpr fun x hx => ?_
    simp only [Bool.and_eq_true, Bool.or_eq_true, List.contains_iff_mem, beq_iff_eq, decide_eq_true_eq]
    rintro ⟨hmem, hlt | ⟨hsame, hlt⟩⟩
    · rcases hfirst x hx hmem with hgt | ⟨heq, -⟩
      · omega
      · rw [heq] at hlt
        omega
    · rcases hfirst x hx hmem with hgt | ⟨-, hle⟩
      · rw [hsame] at hgt
        omega
      · omega
  have hhas : r.dies.contains die = true := List.contains_iff_mem.mpr hdie
  simp only [exec, execReplicaApply, hr, hhas, hnone, Bool.not_true, Bool.false_eq_true, if_false]
  cases s.segReady (s.replAddr die r.addr) <;> rfl

end Replicas

/-! ### Engine writes of other ranks, and evictions (R184, R187, R201, R261) -/

theorem engineWriteAccept_of_peer {rank cx ofs : Nat} {data : List Byte} (hpod : rank < s.fab.podsize) (hother : rank ≠ s.fab.rank)
    (hlive : bitAt s.fab.lostmap.toNat rank = false) (hcx : cx < 256) (hofs : ofs < 2 ^ 48)
    (hnode : s.inNode (inHbm ofs) (s.ownVa ofs) data.length = true) : exec (.engineWriteAccept rank cx ofs data) s =
      if s.inWriteOk cx (s.ownVa ofs) data.length then .next
        (({ s with nextId := s.nextId + 1, inWrites := s.inWrites ++ [⟨s.nextId, rank, cx, ofs, data⟩] } : State).rangeWake cx
          (s.ownVa ofs) data.length true)
      else .next s := by
  have hserved : ¬(s.fab.podsize ≤ rank ∨ rank = s.fab.rank ∨ bitAt s.fab.lostmap.toNat rank ∨ 256 ≤ cx ∨ 2 ^ 48 ≤ ofs ∨
      (!s.inNode (inHbm ofs) (s.ownVa ofs) data.length) = true) := by
    simp only [hlive, hnode, Bool.not_true, Bool.false_eq_true, or_false, false_or, not_or, Nat.not_le]
    exact ⟨hpod, hother, hcx, hofs⟩
  simp only [exec, execEngineWriteAccept, if_neg hserved]

theorem eviction_of_l1 {core : Nat} (h : ∃ x ∈ s.l1, x.core = core ∧ x.line = lineOf line) : exec (.eviction core line) s =
    .next { s with l1 := s.l1.filter fun x => !(x.core == core && x.line == lineOf line) } := by
  have hheld : (s.l1.any fun x => x.core == core && x.line == lineOf line) = true := by simpa using h
  simp only [exec, execEviction, hheld, if_true]

theorem eviction_of_l2 {core : Nat} (hnone : ∀ x ∈ s.l1, x.core = core → x.line ≠ lineOf line)
    (hdirty : ∃ x ∈ s.dirty, x.line = lineOf line) (hclean : ∀ x ∈ s.l1, x.line = lineOf line → x.dirty = false) : exec (.eviction core line) s = .next
      (({ s with dirty := s.dirty.filter fun x => x.line != lineOf line } : State).request (core % 2048) 2 (lineOf line)) := by
  have hheld : (s.l1.any fun x => x.core == core && x.line == lineOf line) = false := by simpa using hnone
  have hback : ((s.dirty.any fun d => d.line == lineOf line) && !(s.l1.any fun l => l.line == lineOf line && l.dirty)) = true := by
    simpa using ⟨hdirty, hclean⟩
  simp only [exec, execEviction, hheld, hback, Bool.false_eq_true, if_false, if_true]

end MemoryService

/-- Settles O44: a lemma for each step, and for each way that a store, an invalidation, an upgrade and an eviction may find its line. -/
theorem memoryServiceStepsTakeEffect : Obligations.MemoryServiceStepsTakeEffect := by
  unfold Obligations.MemoryServiceStepsTakeEffect
  refine ⟨fun id s p => longLatencyResult_of_ready, fun ag s q hq hflight hrepl _ => ⟨storePerform_of_held hq hflight hrepl,
      storePerform_of_here hq hflight hrepl, storePerform_of_away hq hflight hrepl⟩,
    fun id s m => missFill_of_no_error, fun id s m er => missFill_of_error, fun u s => ptsTick_of_last,
    fun die line s => invalidation_of_no_holder, fun die line s hdie hline hhome => ⟨upgradeRequest_of_copies hdie hline hhome,
      fun hagents => ⟨upgradeRequest_of_no_store hdie hline hhome hagents, fun ag rest => upgradeRequest_of_store hdie hline hhome hagents⟩⟩,
    fun id s h hh hfirst => ?home, fun id s h hh => ?mirror, fun rank cx ofs data s hpod hother hlive hcx hofs hnode => ?accept,
    fun ag s q k => replicaUpdate_of_ready, fun id die s r hr hdie hfirst => ?apply, fun core line s => eviction_of_l1,
    fun core line s => eviction_of_l2⟩
  case home =>
    rw [homeWrite_of_first hh hfirst]
    exact ⟨fun hfree => by rw [hfree]; rfl, fun hheld => by rw [hheld]; rfl⟩
  case mirror =>
    rw [mirrorAck_of_applied hh]
    exact ⟨fun hfree => by rw [hfree]; rfl, fun hheld => by rw [hheld]; rfl⟩
  case accept =>
    rw [engineWriteAccept_of_peer hpod hother hlive hcx hofs hnode]
    exact ⟨fun hok => if_pos hok, fun hbad => if_neg (Bool.eq_false_iff.mp hbad)⟩
  case apply =>
    rw [replicaApply_of_first hr hdie hfirst]
    exact ⟨fun hseg => if_pos hseg, fun hseg => if_neg (Bool.eq_false_iff.mp hseg)⟩

end Sys2Proof.Machine

/-!
SUPPORT. Waiting words of memory (R202, R212, R244, R261, R262, R324, R422): the end of a timed `mwait`, `lastuse`, `publish`, and remote atomics.
-/
namespace Sys2Proof.Machine
set_option Elab.async false

/-! ### Timed waits (R422) -/

section TimedWaits

variable {s : State} {ag : Agent} {u : Strand} {l : Lane}

theorem pred_setPred_same (l : Lane) {p : Nat} (b : Bool) (h : p < 96) : (l.setPred p b).pred p = b := by
  have hbit : (BitVec.ofNat 96 (2 ^ p)).getLsbD p = true := by
    rw [BitVec.getLsbD_ofNat, Nat.testBit_two_pow_self, Bool.and_true, decide_eq_true h]
  unfold Lane.pred Lane.setPred
  cases b
  · simp only [Bool.false_eq_true, if_false, BitVec.getLsbD_and, BitVec.getLsbD_not, hbit, h, decide_true, Bool.not_true, Bool.and_false]
  · simp only [if_true, BitVec.getLsbD_or, hbit, Bool.or_true]

theorem mwaitOver_of_no_predicate (h : l.wait = some (.mwait none)) : l.mwaitOver = l.park .mwaitTimeout 0 0 := by
  simp only [Lane.mwaitOver, h]

theorem mwaitOver_of_predicate {p : Nat} (hp : p ≠ inactive) (h : l.wait = some (.mwait (some p))) :
    l.mwaitOver = ((({ l with wait := none } : Lane).setPred p false).shift 0).goto (l.npc, l.nin) := by
  simp only [Lane.mwaitOver, Lane.mwaitDone, h, if_neg hp, Bool.false_eq_true, if_false]

theorem mwaitOver_of_no_mwait (h : ∀ p, l.wait ≠ some (.mwait p)) : l.mwaitOver = l := by
  unfold Lane.mwaitOver Lane.mwaitDone
  split
  · exact absurd ‹_› (h _)
  · split
    · exact absurd ‹_› (h _)
    · exact absurd ‹_› (h _)
    · rfl

/-- With a predicate the lane goes on behind the word with it clear, and with result 0. -/
theorem mwaitOver_goes_on {p : Nat} (hp : p ≠ inactive) (hlt : p < 96) (h : l.wait = some (.mwait (some p))) :
    let m := l.mwaitOver
    m.wait = none ∧ m.pred p = false ∧ (∀ q, q < 96 → q ≠ p → m.pred q = l.pred q) ∧ m.pc = l.npc ∧ m.parked = l.parked ∧
      m.lat0 = 0 := by
  intro m
  have hm : m = ((({ l with wait := none } : Lane).setPred p false).shift 0).goto (l.npc, l.nin) := mwaitOver_of_predicate hp h
  rw [hm]
  exact ⟨rfl, pred_setPred_same { l with wait := none } false hlt, fun q _ hq => pred_setPred_ne { l with wait := none } false hq, rfl, rfl, rfl⟩

end TimedWaits

/-! ### `lastuse` (R244) -/

section Lastuse

variable {s : State} {ag : Agent} {id : Nat}

/-- An agent with nothing on its way has its stores drained (R191). -/
theorem drain_of_no_stores (hstores : ∀ u, s.unit? ag = some u → u.stores = []) (hhomes : ∀ h ∈ s.homes, h.ag ≠ some ag) :
    s.drain ag = s := by
  have hnone : (s.homes.filter fun h => h.ag == some ag && !h.applied) = [] :=
    List.filter_eq_nil_iff.mpr fun h hh => by simp [hhomes h hh]
  have hsame : s.homesOf ag = s := by rw [State.homesOf, hnone]; rfl
  unfold State.drain
  dsimp only
  rw [hsame]
  split
  · rfl
  · rename_i u hu
    rw [hstores u hu]
    rfl

theorem drained_of_no_stores (hstores : ∀ u, s.unit? ag = some u → u.stores = []) (hhomes : ∀ h ∈ s.homes, h.ag ≠ some ag)
    (hreps : ∀ r ∈ s.reps, r.ag ≠ some ag) : s.drained ag = true := by
  have hhead : s.headStore ag = none := by
    unfold State.headStore
    cases hu : s.unit? ag with
    | none => rfl
    | some u => simp [hstores u hu]
  have hflight : s.inFlight ag = [] := by
    unfold State.inFlight
    rw [List.append_eq_nil_iff, List.filterMap_eq_nil_iff, List.filterMap_eq_nil_iff]
    exact ⟨fun h hh => by simp [hhomes h hh], fun r hr => by simp [hreps r hr]⟩
  rw [State.drained, hhead, hflight]
  rfl

/-- A line that is dropped leaves the lists of dirty lines and of last uses as they are. -/
theorem foldl_dropLine_lists (ds : List Dirty) (s : State) :
    ((ds.foldl State.dropLine s).dirty, (ds.foldl State.dropLine s).lastuses) = (s.dirty, s.lastuses) :=
  foldl_keeps (fun s => (s.dirty, s.lastuses)) State.dropLine (fun _ _ => rfl) ds s

theorem lastuseArm_of_done {x : LastUse} (hx : (s.lastuses.find? fun x => x.id == id) = some x)
    (hafter : ∀ o ∈ x.after, s.writeOpen o = false ∧ ∀ r ∈ s.ratoms, r.id ≠ o) (hstores : ∀ u, s.unit? x.ag = some u → u.stores = [])
    (hhomes : ∀ h ∈ s.homes, h.ag ≠ some x.ag) (hreps : ∀ r ∈ s.reps, r.ag ≠ some x.ag) :
    let drop := fun (d : Dirty) => (x.spans.any fun p => decide (p.1 ≤ d.line) && decide (d.line < p.2)) && !x.written.contains d.line
      && !(s.l1.any fun l => l.line == d.line && l.dirty)
    exec (.lastuseArm id) s = .next { (s.dirty.filter drop).foldl State.dropLine s with
      dirty := s.dirty.filter fun d => !drop d, lastuses := s.lastuses.filter fun y => y.id != id } := by
  intro drop
  have hdone : (x.after.any fun o => s.writeOpen o || s.ratoms.any fun r => r.id == o) = false := by
    refine List.any_eq_false.mpr fun o ho => ?_
    obtain ⟨hopen, hratoms⟩ := hafter o ho
    simpa [hopen] using hratoms
  simp only [exec, execLastuseArm, hx, hdone, drain_of_no_stores hstores hhomes, drained_of_no_stores hstores hhomes hreps, Bool.not_true,
    Bool.false_eq_true, if_false, Option.getD_some]
  exact congrArg (fun lists => Host.Outcome.next ({ (s.dirty.filter drop).foldl State.dropLine s with
    dirty := lists.1.filter fun d => !drop d, lastuses := lists.2.filter fun y => y.id != id } : State))
    (foldl_dropLine_lists (s.dirty.filter drop) s)

end Lastuse

/-! ### `publish` (R202, R261) -/

section Publish

variable {s : State} {id : Nat}

theorem publishSwap_of_done {p : PubOp} (hp : (s.pubs.find? fun p => p.id == id && p.remote.isNone) = some p)
    (hbefore : ∀ w ∈ p.before, s.writeOpen w = false) (hckpt : s.ckptOn p.cx p.buf.view = false) : exec (.publishSwap id) s = .next
      (((({ s with pubs := s.pubs.filter fun x => x.id != id } : State).publishHere p.cx p.handle p.buf).afterSwap p.ag).unstall p.ag p.act none
        0) := by
  have hdone : p.before.any s.writeOpen = false := by simpa using hbefore
  simp only [exec, execPublishSwap, hp, hdone, hckpt, Bool.or_self, Bool.false_eq_true, if_false]

theorem publishAck_of_remote {p : PubOp} (hp : (s.pubs.find? fun p => p.id == id && p.remote.isSome) = some p) : exec (.publishAck id) s = .next
    (((({ s with fresh := s.fresh + 1, pubs := s.pubs.filter fun x => x.id != id } : State).writeGen p.cx p.handle
      ((Config.freeValue s.fresh).getLsbD 0)).afterSwap p.ag).unstall p.ag p.act none 0) := by
  simp only [exec, execPublishAck, hp]
  rfl

theorem publishSwapRequest_of_good {rank cx view len o : Nat} (hspace : spaceOf s.fab view = some (.own o)) (hpod : rank < s.fab.podsize)
    (hother : rank ≠ s.fab.rank) (hlive : bitAt s.fab.lostmap.toNat rank = false) (hcx : cx < 256) (hwrites : s.engineWrites cx view len = [])
    (hckpt : s.ckptOn cx view = false) (hfree : (s.ctx cx).st ≠ .free) (hbuilding : (s.ctx cx).st ≠ .building)
    (hpages : ∀ a r, (a, r) ∈ s.rangeLeaves cx view len → ∃ l, r = .ok l ∧ pteDual l.pte = true ∧ pteWr l.pte = true ∧
      s.pageHere cx a l = true) : exec (.publishSwapRequest rank cx view len) s = .next (s.swapFront cx view len) := by
  have hserved : ¬(decide (s.fab.podsize ≤ rank) || rank == s.fab.rank || bitAt s.fab.lostmap.toNat rank || decide (32 * 8 ≤ cx) ||
      !(s.engineWrites cx view len).isEmpty || s.ckptOn cx view) = true := by
    simp [hlive, hwrites, hckpt, hother]
    omega
  simp only [exec, execPublishSwapRequest, hspace, if_neg hserved]
  refine congrArg _ (if_pos ?_)
  simp only [bne_iff_ne, Bool.and_eq_true, List.all_eq_true]
  refine ⟨⟨hfree, hbuilding⟩, fun (a, r) hr => ?_⟩
  obtain ⟨l, rfl, hdual, hwr, hhere⟩ := hpages a r hr
  simp [hdual, hwr, hhere]

end Publish

/-! ### Remote atomics (R212, R262, R324) -/

section RemoteAtomics

variable {s : State} {id : Nat} {r : RatomOp}

section Apply

variable (hr : (s.ratoms.find? fun r => r.id == id) = some r) (hopen : r.applied = none)
  (hfirst : ∀ x ∈ s.ratoms, x.ag = r.ag → x.addr / 8 = r.addr / 8 → x.applied = none → id ≤ x.id)
include hr hopen hfirst

theorem ratomApply_of_first : exec (.ratomApply id) s =
    if bits r.addr 61 48 = s.fab.rank then .next (s.ratomHere r)
    else if bitAt s.fab.lostmap.toNat (bits r.addr 61 48) then .next (s.modRatom id fun r => { r with applied := some (.inr .peerLost) })
    else .next (s.ratomThere r) := by
  have hgoes : (r.applied.isSome || s.ratoms.any fun x => x.ag == r.ag && x.id < id && x.addr / 8 == r.addr / 8 && x.applied.isNone) = false := by
    rw [hopen]
    refine List.any_eq_false.mpr fun x hx => ?_
    simp only [Bool.and_eq_true, beq_iff_eq, decide_eq_true_eq, Option.isNone_iff_eq_none]
    rintro ⟨⟨⟨hag, hlt⟩, haddr⟩, happlied⟩
    exact absurd (hfirst x hx hag haddr happlied) (Nat.not_le.mpr hlt)
  simp only [exec, execRatomApply, hr, hgoes, Bool.false_eq_true, if_false]

end Apply

/-- A remote atomic ends with its result known to the registers that it is due in (R327). -/
def State.ratomKnown (s : State) (r : RatomOp) (id : Nat) (v : W64) : State :=
  { s with
    ratoms := s.ratoms.filter fun x => x.id != id
    pend := s.pend.map fun p => if p.id == r.pend then { p with ready := true, writes := p.writes.mapIdx fun k w => w.fill v r.w64 k } else p }

/-- The result of remote atomic `id` reaches the latches of lane `k` that hold its place (R324). -/
def Strand.lateLat (u : Strand) (k id : Nat) (v : W64) : Strand := { u with lanes := modAt u.lanes k fun l => l.lateLat id v }

theorem live_lane_lateLat (u : Strand) (k id : Nat) (v : W64) : ((u.lateLat k id v).lane k).live = (u.lane k).live := by
  simp only [Strand.lane, Strand.lateLat, nth, getElem?_modAt]
  cases u.lanes[k]? <;> rfl

/-- The result of a remote atomic reaches its registers and its latches, and the request is served (R246). -/
def State.ratomDone (s : State) (r : RatomOp) (id : Nat) (v : W64) : State :=
  ((s.ratomKnown r id v).modUnit r.ag fun u => u.lateLat r.lane id v).served (s.coreOf r.ag) r.due

theorem ratomComplete_of_value {v : W64} (hr : (s.ratoms.find? fun r => r.id == id) = some r) (hv : r.applied = some (.inl v)) :
    exec (.ratomComplete id) s = .next (s.ratomDone r id v) := by
  simp only [exec, execRatomComplete, hr, hv]
  rfl

theorem ratomDone_frame (s : State) (r : RatomOp) (id : Nat) (v : W64) :
    (s.ratomDone r id v).ratomFails = s.ratomFails ∧ (s.ratomDone r id v).fab = s.fab := by
  obtain ⟨mb, hserved⟩ := served_eq ((s.ratomKnown r id v).modUnit r.ag fun u => u.lateLat r.lane id v) (s.coreOf r.ag) r.due
  rw [State.ratomDone, hserved]
  exact ⟨modUnit_ratomFails .., modUnit_fab ..⟩

/-- The result of a remote atomic leaves its lane live. -/
theorem laneLive_ratomDone (v : W64) (h : s.laneLive r.ag r.lane = true) : (s.ratomDone r id v).laneLive r.ag r.lane = true := by
  obtain ⟨mb, hserved⟩ := served_eq ((s.ratomKnown r id v).modUnit r.ag fun u => u.lateLat r.lane id v) (s.coreOf r.ag) r.due
  rw [State.ratomDone, hserved]
  show ((((s.ratomKnown r id v).modUnit r.ag fun u => u.lateLat r.lane id v).unit? r.ag).map fun u => (u.lane r.lane).live).getD false = true
  unfold State.laneLive at h
  cases hu : s.unit? r.ag with
  | none => simp [hu] at h
  | some u =>
    have hknown : (s.ratomKnown r id v).unit? r.ag = some u := hu
    rw [hu] at h
    rw [unit_modUnit hknown]
    exact (live_lane_lateLat u r.lane id v).trans h

theorem ratomComplete_of_cause {c : Cause} (hr : (s.ratoms.find? fun r => r.id == id) = some r) (hc : r.applied = some (.inr c))
    (hlive : s.laneLive r.ag r.lane = true) : exec (.ratomComplete id) s = .next { s.ratomDone r id 0 with
      ratomFails := s.ratomFails ++ [⟨r.ag, r.lane, r.addr, c, bits r.addr 61 48 != s.fab.rank⟩] } := by
  obtain ⟨hfails, hfab⟩ := ratomDone_frame s r id 0
  have hdone : exec (.ratomComplete id) s =
      if (s.ratomDone r id 0).laneLive r.ag r.lane then .next { s.ratomDone r id 0 with
        ratomFails := (s.ratomDone r id 0).ratomFails ++
          [⟨r.ag, r.lane, r.addr, c, bits r.addr 61 48 != (s.ratomDone r id 0).fab.rank⟩] }
      else .next ((s.ratomDone r id 0).modKernel r.kernel fun k => { k with late := some (k.late.getD c) }) := by
    simp only [exec, execRatomComplete, hr, hc]
    rfl
  rw [hdone, if_pos (laneLive_ratomDone 0 hlive), hfails, hfab]

theorem lateLat_of_owed (l : Lane) (v : W64) {k : Nat} (hk : k < 4) (howed : nth l.owed k none = some id) :
    nth [(l.lateLat id v).lat0, (l.lateLat id v).lat1, (l.lateLat id v).lat2, (l.lateLat id v).lat3] k 0 = v := by
  have hlate (x : W64) : lateAt l.owed id v k x = v := by simp [lateAt, howed]
  match k, hk with
  | 0, _ => exact hlate _
  | 1, _ => exact hlate _
  | 2, _ => exact hlate _
  | 3, _ => exact hlate _

end RemoteAtomics

/-- Settles O45: a lemma for each step, and for what each makes of a lane. -/
theorem waitingMemoryWordsTakeEffect : Obligations.WaitingMemoryWordsTakeEffect := by
  unfold Obligations.WaitingMemoryWordsTakeEffect
  refine ⟨fun ag s u hu hst hleft hactive => ?timeout, fun l => ⟨mwaitOver_of_no_predicate, fun p hp hlt => mwaitOver_goes_on hp hlt,
      mwaitOver_of_no_mwait⟩,
    fun id s x => lastuseArm_of_done, fun id s p => publishSwap_of_done, fun id s p => publishAck_of_remote,
    fun rank cx view len o s => publishSwapRequest_of_good, fun id s r hr hopen hfirst => ?apply, fun id s r v => ratomComplete_of_value,
    fun id s r c => ratomComplete_of_cause, fun l id v k => lateLat_of_owed l v⟩
  case timeout =>
    have hdue : (u.mon.st == .waiting && u.mon.left == some 0 && (s.ctx (s.cxOf ag)).st == .active) = true := by simp [hst, hleft, hactive]
    simp only [exec, execMwaitTimeout, hu]
    exact if_pos hdue
  case apply =>
    rw [ratomApply_of_first hr hopen hfirst]
    exact ⟨fun hhere => if_pos hhere, fun hthere hlost => (if_neg hthere).trans (if_pos hlost),
      fun hthere hlive => (if_neg hthere).trans (if_neg (Bool.eq_false_iff.mp hlive))⟩

end Sys2Proof.Machine

/-!
SUPPORT. Pages and segments (R218, R226 to R231, R234, R235, R237 to R242, R250): translation commands and their ends, verdicts, moves, and the steps of
the tide map.
-/
namespace Sys2Proof.Machine
set_option Elab.async false

/-! ### Translation commands (R226, R227, R231) -/

section Commands

variable {s : State} {cx page : Nat} {l : Leaf}

/-- An accepted translation command: it is noted with the time of its end, UNMAP and PROTECT rewrite the entries of the page, and an unmapped page
is forgotten. -/
def State.takeCommand (s : State) (cx op page : Nat) (l : Leaf) : State :=
  let t := s.modCtx cx fun c => { c with xres := 0, xcmd := some ⟨op, page, if op = 3 then s.dueIn 2 else s.leaseEnd cx page l⟩ }
  if op = 1 then
    ({ t with pages := t.pages.filter fun p => !(p.cx == cx && p.vpage == l.page page) } : State).mapPte l fun e =>
      pteSetState (pteSetBit e 63 false) 6
  else if op = 2 then t.mapPte l fun e => pteSetBit (pteSetBit e 60 false) 59 false
  else t

/-- On a Ready package a command is accepted where the context has none in progress and the page has a valid leaf and is Mapped or Resident. -/
theorem xcommand_of_accepted {op : Nat} (hop : op = 1 ∨ op = 2 ∨ op = 3) (hready : s.isReady = true) (hidle : (s.ctx cx).xcmd = none)
    (hpage : s.pageOk page = true) (hleaf : s.leaf cx page = .ok l) (hstate : s.pageState cx page l < 3) :
    s.xcommand cx op page = s.takeCommand cx op page l := by
  have hnone : ¬ ((s.ctx cx).xcmd.isSome || !s.isReady) = true := by simp [hidle, hready]
  have hgood : ¬ (op = 0 ∨ 3 < op ∨ (!s.pageOk page) = true) := by
    rw [hpage]
    simp only [Bool.not_true, Bool.false_eq_true, or_false]
    omega
  have hmovable : ¬ 3 ≤ s.pageState cx page l := by omega
  unfold State.xcommand
  simp only [if_neg hnone, if_neg hgood, hleaf, if_neg hmovable]
  obtain rfl | rfl | rfl := hop <;> rfl

theorem translationLeaseExpire_of_due {x : XCmd} (hx : (s.ctx cx).xcmd = some x) (hpage : x.page = page) (hop : x.op = 1 ∨ x.op = 2)
    (hdue : x.expiry.toNat ≤ s.dtime.toNat) :
    exec (.translationLeaseExpire cx page) s = .next (s.modCtx cx fun c => { c with xcmd := none }) := by
  have hends : (x.page == page && (x.op == 1 || x.op == 2) && decide (x.expiry.toNat ≤ s.dtime.toNat)) = true := by simp [hpage, hop, hdue]
  simp only [exec, execTranslationLeaseExpire, hx]
  exact if_pos hends

theorem zeroDone_of_active {x : XCmd} (hx : (s.ctx cx).xcmd = some x) (hpage : x.page = page) (hop : x.op = 3)
    (hleaf : s.leaf cx page = .ok l) (hactive : s.segsActive (s.frameSegs page l) = true) :
    exec (.zeroDone cx page) s =
      let t := ((s.modCtx cx fun c => { c with xcmd := none }).served 2056 x.expiry).segsUse cx (s.frameSegs page l)
      .next (t.zeroBytes cx (t.frames page l).1 (t.frames page l).2) := by
  have hzero : (x.page == page && x.op == 3) = true := by simp [hpage, hop]
  have hawake : ¬ (!s.segsActive (s.frameSegs page l)) = true := by simp [hactive]
  simp only [exec, execZeroDone, hx, if_pos hzero, hleaf]
  exact if_neg hawake

end Commands

/-! ### Moves and replicas (R231, R234, R235) -/

section Moves

variable {s : State} {cx page frame : Nat} {l : Leaf} {m : Byte}

/-- A page whose frame lies on the target die already is not copied. -/
theorem pageMoveDone_in_place (hleaf : s.leaf cx page = .ok l) (hmoving : (s.page cx (l.page page)).moving = some (1, m))
    (hdie : segDie (pteFrame l.pte / 2^30) = (maskDies m).headD 0) :
    exec (.pageMoveDone cx page (pteFrame l.pte)) s = .next
      ((s.setPage { s.page cx (l.page page) with moving := none }).served 2056 (s.page cx (l.page page)).due) := by
  simp only [exec, execPageMoveDone, hleaf, hmoving, if_true]
  exact if_pos (.inl hdie)

theorem pageMoveDone_to_free_frame (hleaf : s.leaf cx page = .ok l) (hmoving : (s.page cx (l.page page)).moving = some (1, m))
    (hother : frame ≠ pteFrame l.pte) (hfree : s.frameFree (s.frames page l).2 l.psize frame ((maskDies m).headD 0) false = true)
    (hactive : s.segsActive (s.frameSegs page l ++ segsFrom frame (s.frames page l).2) = true) :
    exec (.pageMoveDone cx page frame) s =
      let t := ((s.segsUse cx (s.frameSegs page l ++ segsFrom frame (s.frames page l).2)).setPage
        { s.page cx (l.page page) with moving := none }).moveData (s.frames page l).1 (tensorPhys s.fab.rank frame) (s.frames page l).2
      .next ((t.mapPte l fun e => e - pteFrame e + frame).served 2056 (s.page cx (l.page page)).due) := by
  have htaken : ¬ (!s.frameFree (s.frames page l).2 l.psize frame ((maskDies m).headD 0) false) = true := by rw [hfree]; decide
  have hawake : ¬ (!s.segsActive (s.frameSegs page l ++ segsFrom frame (s.frames page l).2)) = true := by simp [hactive]
  simp only [exec, execPageMoveDone, hleaf, hmoving, if_true, if_neg hother, if_neg htaken]
  exact if_neg hawake

theorem replicaDiscard_of_released (hleaf : s.leaf cx page = .ok l) (hdiscard : (s.page cx (l.page page)).discard = true)
    (hleases : (s.page cx (l.page page)).leases = 0) (hrepl : (s.page cx (l.page page)).repl ≠ [])
    (hdue : (s.leaseEnd cx page l).toNat ≤ s.dtime.toNat) :
    exec (.replicaDiscard cx page) s = .next (s.setPage { s.page cx (l.page page) with discard := false, repl := [] }) := by
  have hended : ((s.page cx (l.page page)).discard && (s.page cx (l.page page)).leases == 0 && !(s.page cx (l.page page)).repl.isEmpty &&
      decide ((s.leaseEnd cx page l).toNat ≤ s.dtime.toNat)) = true := by simp [hdiscard, hleases, hrepl, hdue]
  simp only [exec, execReplicaDiscard, hleaf]
  exact if_pos hended

end Moves

/-- Settles O42: the three commands are the accepted command with their own number, and each end is the lemma on its step. -/
theorem pageStepsTakeEffect : Obligations.PageStepsTakeEffect := by
  unfold Obligations.PageStepsTakeEffect
  have haccepted {cx op page : Nat} {s : State} {l : Leaf} (hop : op = 1 ∨ op = 2 ∨ op = 3)
      (h : cx < 256 ∧ s.isReady = true ∧ (s.ctx cx).xcmd = none ∧ s.pageOk page = true ∧ s.leaf cx page = .ok l ∧ s.pageState cx page l < 3) :
      xStep cx (fun s => s.xcommand cx op page) s = .next (s.takeCommand cx op page l) := by
    obtain ⟨hcx, hready, hidle, hpage, hleaf, hstate⟩ := h
    rw [xStep, if_pos hcx, xcommand_of_accepted hop hready hidle hpage hleaf hstate]
  exact ⟨fun cx page s l h => haccepted (.inl rfl) h, fun cx page s l h => haccepted (.inr (.inl rfl)) h,
    fun cx page s l h => haccepted (.inr (.inr rfl)) h, fun cx page s x => translationLeaseExpire_of_due,
    fun cx page s x l => zeroDone_of_active, fun cx seq s => rfl, fun cx seq s => rfl, fun cx v s => rfl,
    fun cx page s l m => pageMoveDone_in_place, fun cx page frame s l m => pageMoveDone_to_free_frame,
    fun cx page s l => replicaDiscard_of_released⟩

/-! ### The tide map (R237 to R242) -/

section Tide

variable {s : State} {g : Nat}

/-- SEG of TIDECMD names a segment (R242). -/
def State.nameSeg (s : State) (g : Nat) : State := { s with mb := { s.mb with tideSeg := g } }

@[simp] theorem seg_nameSeg (s : State) (g h : Nat) : (s.nameSeg g).seg h = s.seg h := rfl
@[simp] theorem poolSeg_nameSeg (s : State) (g h : Nat) : (s.nameSeg g).poolSeg h = s.poolSeg h := rfl
@[simp] theorem mirrorSeg_nameSeg (s : State) (g h : Nat) : (s.nameSeg g).mirrorSeg h = s.mirrorSeg h := rfl

/-- The walks of a range read the fabric, the memory and the contexts, nothing of the memory block. -/
theorem leavesOf_nameSeg (s : State) (g cx n a z : Nat) : (s.nameSeg g).leavesOf cx n a z = s.leavesOf cx n a z := by
  induction n generalizing a with
  | zero => rfl
  | succ n ih =>
    simp only [State.leavesOf, ih]
    rfl

theorem wakeSet_nameSeg (s : State) (g cx : Nat) : (s.nameSeg g).wakeSet cx = s.wakeSet cx := by
  have hranges : (s.nameSeg g).wakeRanges cx = s.wakeRanges cx := rfl
  simp only [State.wakeSet, State.segsOf, State.rangeLeaves, hranges, leavesOf_nameSeg]

@[simp] theorem wakers_nameSeg (s : State) (g h : Nat) : (s.nameSeg g).wakers h = s.wakers h := by
  have hctxs : (s.nameSeg g).ctxs = s.ctxs := rfl
  simp only [State.wakers, wakeSet_nameSeg, hctxs]

/-- An OFF that nothing refuses. Naming the segment changes no wake set and no pool, so the refusals are those of the state before. -/
theorem segOff_mb_of_unused (hg : g < 824) (hwakers : s.wakers g = []) (hpool : s.poolSeg g = false) (hmirror : s.mirrorSeg g = false) :
    (s.segOff g).mb = ((s.nameSeg g).modSeg g fun x => { x with tide := .off, waking := false }).mb := by
  have hfree : ¬ (!((s.nameSeg g).wakers g).isEmpty || (s.nameSeg g).poolSeg g || (s.nameSeg g).mirrorSeg g) = true := by
    simp [hwakers, hpool, hmirror]
  have hoff : s.segOff g = _ := (if_neg (Nat.not_le.mpr hg)).trans (if_neg hfree)
  rw [hoff]
  rfl

theorem on_of_ready (hready : s.isReady = true) (hg : g < 824) :
    exec (.on g) s = .next ((s.nameSeg g).wakeSeg g) := by
  simp only [exec, execOn, hready, if_true, State.segOn, if_pos hg, State.nameSeg]

theorem idleTimeout_of_due (hg : g < 824) (hwaking : (s.seg g).waking = false) (hkept : s.kept g = false) (htide : (s.seg g).tide = .active)
    (htimer : s.segTimer g (fun p => p.idlet.toNat) ≠ 0)
    (hdue : (s.seg g).last.toNat + 1000 * s.segTimer g (fun p => p.idlet.toNat) ≤ s.dtime.toNat) :
    exec (.idleTimeout g) s = .next (s.modSeg g fun x => { x with tide := .idle, last := s.dtime }) := by
  simp only [exec, execIdleTimeout]
  exact if_pos (by simp [hg, hwaking, hkept, htide, htimer, hdue])

theorem retentionTimeout_of_due (hg : g < 824) (hwaking : (s.seg g).waking = false) (hkept : s.kept g = false)
    (htide : (s.seg g).tide = .idle) (htimer : s.segTimer g (fun p => p.rett.toNat) ≠ 0)
    (hdue : (s.seg g).last.toNat + 1000 * s.segTimer g (fun p => p.rett.toNat) ≤ s.dtime.toNat) :
    exec (.retentionTimeout g) s = .next (s.modSeg g fun x => { x with tide := .retention, last := s.dtime }) := by
  simp only [exec, execRetentionTimeout]
  exact if_pos (by simp [hg, hwaking, hkept, htide, htimer, hdue])

end Tide

/-! ### Row sparing (R250) -/

theorem rowSpareSwitch_of_copied {s : State} {id : Nat} {r : RowSpare} (hr : (s.mgmt.spares.find? fun r => r.id == id) = some r) :
    exec (.rowSpareSwitch id) s = .next { s with mgmt := { s.mgmt with
      spares := s.mgmt.spares.filter fun x => x.id != id
      rowCount := tabErase s.mgmt.rowCount (rowKey ⟨r.stack, r.bank, r.row⟩) } } := by
  simp only [exec, execRowSpareSwitch, hr]

/-- Settles O43: a lemma for each command and step; an OFF that nothing refuses leaves the segment Off. -/
theorem segmentStepsTakeEffect : Obligations.SegmentStepsTakeEffect := by
  unfold Obligations.SegmentStepsTakeEffect
  refine ⟨fun g s hready hg hwakers hpool hmirror => ?off, fun g s => on_of_ready, fun v s => rfl, fun g s => idleTimeout_of_due,
    fun g s => retentionTimeout_of_due, fun g s hwaking => if_pos hwaking, fun id s r => rowSpareSwitch_of_copied⟩
  case off =>
    have hnext : exec (.off g) s = .next (s.segOff g) := by simp only [exec, execOff, hready, if_true]
    have hmb := segOff_mb_of_unused hg hwakers hpool hmirror
    have hseg : (s.segOff g).seg g = { s.seg g with tide := .off, waking := false } := by
      rw [State.seg, hmb, ← State.seg, seg_modSeg, seg_nameSeg]
    exact ⟨s.segOff g, hnext, by rw [hseg], by rw [hseg], by rw [hmb]; rfl⟩

end Sys2Proof.Machine

/-!
SUPPORT. Collectives (R268 to R275): stores to an entry of a tile table, contributions, and the ends of an entry by its result or by a cause.
-/
namespace Sys2Proof.Machine
set_option Elab.async false

/-! ### Entries (R269) -/

section Entries

variable {t : TileEntry} {v : Nat}

theorem idle_iff : t.idle = true ↔ t.st = .empty ∨ t.st = .complete ∨ t.st = .error := by simp [TileEntry.idle, or_assoc]

theorem not_idle_of_armed_or_fired (h : t.st = .armed ∨ t.st = .fired) : t.idle = false := by
  rcases h with h | h <;> simp [TileEntry.idle, h]

/-- The entry that the checks of an arm look at: it has the fields of the store, and nothing of an earlier collective. -/
def TileEntry.cleared (t : TileEntry) (v : Nat) : TileEntry :=
  { t.setWord1 v with inv := false, ovf := false, ecause := 0, got := [], result := none, own := [] }

/-- The entry in Error with a cause (R274). -/
def TileEntry.failed (t : TileEntry) (c : Cause) : TileEntry := { t with st := .error, ecause := BitVec.ofNat 8 c.code }

theorem arm_of_idle (h : t.idle = true) (rank podsize lostmap : Nat) : t.arm v rank podsize lostmap =
    if (t.cleared v).armOk rank podsize = false then (t.cleared v).failed .illegalEncoding
    else if (t.cleared v).lost lostmap = true then (t.cleared v).failed .peerLost
    else { t.cleared v with st := .armed } := by
  have hidle : ¬(!t.idle) = true := by simp [h]
  rw [TileEntry.arm, if_neg hidle]
  cases hok : (t.cleared v).armOk rank podsize with
  | false => exact if_pos (congrArg Bool.not hok)
  | true => exact if_neg (ne_true_of_eq_false (congrArg Bool.not hok))

theorem disarm_of_empty (h : t.st = .empty) : t.disarm v = t.setWord1 v := by simp only [TileEntry.disarm, h]

theorem disarm_of_armed (h : t.st = .armed) : t.disarm v = { t with st := .empty, waiting := [] } := by simp only [TileEntry.disarm, h]

theorem disarm_of_fired (h : t.st = .fired) : t.disarm v = t := by simp only [TileEntry.disarm, h]

theorem disarm_of_ended (h : t.st = .complete ∨ t.st = .error) : t.disarm v = { t with st := .empty } := by
  rcases h with h | h <;> simp only [TileEntry.disarm, h]

/-- A store to word 0x08 that neither arms nor disarms. -/
theorem store1_of_idle (h : t.idle = true) (hv : 2 ≤ v / 2 ^ 61) (rank podsize lostmap : Nat) :
    t.store1 v rank podsize lostmap = t.setWord1 v := by
  have harm : ¬v / 2 ^ 61 = 1 := by omega
  have hdisarm : ¬v / 2 ^ 61 = 0 := by omega
  rw [TileEntry.store1, if_neg harm, if_neg hdisarm, if_pos h]

/-- ECAUSE holds every cause. -/
theorem causeOf_ecause (c : Cause) : causeOf (BitVec.ofNat 8 c.code).toNat = some c := by cases c <;> rfl

end Entries

/-! ### Stores to an entry (R268, R269) -/

section TileStores

variable {s : State} {d i j : Nat} {c : Contribution} {t : TileEntry}

/-- A change of an entry depends on what it makes of the entry that stands there. -/
theorem modTile_eq {f : TileEntry → TileEntry} {x : TileEntry} (h : f (s.tile d i) = x) :
    s.modTile d i f = { s with tiles := tabSet s.tiles (4096 * d + i) x } := by
  rw [State.modTile, h]

/-- An entry that an arm takes to Error arrives on its barrier, if it uses one. -/
theorem armArrival_of_failed {before x : TileEntry} {k : Cause} (hidle : before.idle = true) (hx : s.tile d i = x.failed k) :
    s.armArrival d i (2 ^ 61) before = if x.bv then s.postArrival (.die x.cx d x.bar) none 1 false (some k) else s := by
  have harms : (2 : Nat) ^ 61 / 2 ^ 61 = 1 := rfl
  simp only [State.armArrival, hx, TileEntry.failed, hidle, harms, causeOf_ecause, true_and]

theorem armArrival_of_armed {before : TileEntry} {v : Nat} (h : (s.tile d i).st = .armed) : s.armArrival d i v before = s :=
  if_neg fun ⟨_, _, herror, _⟩ => TState.noConfusion (h.symm.trans herror)

theorem armArrival_of_other {before : TileEntry} {v : Nat} (h : v / 2 ^ 61 ≠ 1) : s.armArrival d i v before = s :=
  if_neg fun harm => h harm.1

/-- An entry that leaves an arm in Error, with its arrival. -/
def State.armFailed (s : State) (d i : Nat) (x : TileEntry) (c : Cause) : State :=
  let u : State := { s with tiles := tabSet s.tiles (4096 * d + i) (x.failed c) }
  if x.bv then u.postArrival (.die x.cx d x.bar) none 1 false (some c) else u

variable (hd : d < 8) (hi : i < 4096)
include hd hi

theorem exec_tileArm (v : W64) : exec (.tileArm d i v) s = .next
    ((s.modTile d i fun t => t.arm v.toNat s.fab.rank s.fab.podsize s.fab.lostmap.toNat).armArrival d i (2 ^ 61) (s.tile d i)) :=
  if_pos ⟨hd, hi⟩

theorem exec_tileDisarm (v : W64) : exec (.tileDisarm d i v) s = .next (s.modTile d i fun t => t.disarm v.toNat) := if_pos ⟨hd, hi⟩

theorem exec_tileEntryWrite (word1 : Bool) (v : W64) :
    exec (.tileEntryWrite d i word1 v) s = .next (s.tileStore d i word1 v.toNat false) := if_pos ⟨hd, hi⟩

theorem tileArm_of_failed {v : W64} {x : TileEntry} {k : Cause} (hidle : (s.tile d i).idle = true)
    (harm : (s.tile d i).arm v.toNat s.fab.rank s.fab.podsize s.fab.lostmap.toNat = x.failed k) :
    exec (.tileArm d i v) s = .next (s.armFailed d i x k) := by
  rw [exec_tileArm hd hi, armArrival_of_failed hidle ((tile_modTile ..).trans harm), modTile_eq harm]
  rfl

theorem tileArm_of_armed {v : W64} {x : TileEntry} (hst : x.st = .armed)
    (harm : (s.tile d i).arm v.toNat s.fab.rank s.fab.podsize s.fab.lostmap.toNat = x) :
    exec (.tileArm d i v) s = .next { s with tiles := tabSet s.tiles (4096 * d + i) x } := by
  rw [exec_tileArm hd hi, armArrival_of_armed (by rw [tile_modTile, harm, hst]), modTile_eq harm]

/-- The checks of an arm, in the order in which the entry fails by them (R264, R269). -/
theorem tileArm_of_idle (v : W64) (hidle : (s.tile d i).idle = true) :
    let x := (s.tile d i).cleared v.toNat
    exec (.tileArm d i v) s = .next (if x.armOk s.fab.rank s.fab.podsize = false then s.armFailed d i x .illegalEncoding
      else if x.lost s.fab.lostmap.toNat = true then s.armFailed d i x .peerLost
      else { s with tiles := tabSet s.tiles (4096 * d + i) { x with st := .armed } }) := by
  intro x
  have harm := arm_of_idle (v := v.toNat) hidle s.fab.rank s.fab.podsize s.fab.lostmap.toNat
  by_cases hbad : x.armOk s.fab.rank s.fab.podsize = false
  · rw [if_pos hbad]
    exact tileArm_of_failed hd hi hidle (harm.trans (if_pos hbad))
  · rw [if_neg hbad] at harm ⊢
    by_cases hlost : x.lost s.fab.lostmap.toNat = true
    · rw [if_pos hlost]
      exact tileArm_of_failed hd hi hidle (harm.trans (if_pos hlost))
    · rw [if_neg hlost]
      exact tileArm_of_armed hd hi rfl (harm.trans (if_neg hlost))

theorem tileDisarm_of_entry {v : W64} {x : TileEntry} (h : (s.tile d i).disarm v.toNat = x) :
    exec (.tileDisarm d i v) s = .next { s with tiles := tabSet s.tiles (4096 * d + i) x } := by
  rw [exec_tileDisarm hd hi, modTile_eq h]

theorem tileEntryWrite_word0 (v : W64) : exec (.tileEntryWrite d i false v) s = .next { s with
    tiles := tabSet s.tiles (4096 * d + i) (if (s.tile d i).idle = true then (s.tile d i).setWord0 v.toNat false else s.tile d i) } :=
  exec_tileEntryWrite hd hi false v

theorem tileEntryWrite_word1_of_idle (v : W64) (h : (s.tile d i).idle = true) (hv : 2 ≤ v.toNat / 2 ^ 61) :
    exec (.tileEntryWrite d i true v) s =
      .next { s with tiles := tabSet s.tiles (4096 * d + i) ((s.tile d i).setWord1 v.toNat) } := by
  have hother : v.toNat / 2 ^ 61 ≠ 1 := by omega
  rw [exec_tileEntryWrite hd hi, State.tileStore, if_pos rfl, armArrival_of_other hother, modTile_eq (store1_of_idle h hv ..)]

/-! ### Contributions (R261, R270, R275) -/

theorem in_table : ¬(8 ≤ d ∨ 4096 ≤ i) := by omega

theorem collectiveContribution_of_refused (hok : s.contributionOk (s.tile d i) c = false) :
    exec (.collectiveContribution d i c) s = .next s := by
  simp only [exec, execCollectiveContribution, if_neg (in_table hd hi), hok, Bool.not_false, if_true]

variable (hok : s.contributionOk (s.tile d i) c = true)
include hok

theorem collectiveContribution_of_taken (hst : (s.tile d i).st = .fired) (hagrees : (s.tile d i).agrees c = true)
    (hpos : (s.tile d i).position s.fab.rank = some j) (htake : (s.tile d i).take j c = some t) :
    exec (.collectiveContribution d i c) s = .next { s with tiles := tabSet s.tiles (4096 * d + i) (t.settle j) } := by
  simp only [exec, execCollectiveContribution, if_neg (in_table hd hi), hok, hst, hagrees, hpos, htake, Bool.not_true, Bool.false_eq_true, if_false]
  rfl

theorem collectiveContribution_of_disagrees (hst : (s.tile d i).st = .armed ∨ (s.tile d i).st = .fired)
    (hagrees : (s.tile d i).agrees c = false) :
    exec (.collectiveContribution d i c) s = .next (s.tileFail d i .illegalEncoding) := by
  rcases hst with hst | hst <;>
    simp only [exec, execCollectiveContribution, if_neg (in_table hd hi), hok, hst, hagrees, BEq.rfl, Bool.and_self, Bool.not_true, Bool.not_false,
      Bool.false_eq_true, if_false, if_true]

/-- A contribution waits in the pending store of an entry that is not Fired yet. -/
theorem collectiveContribution_of_early (hst : (s.tile d i).st ≠ .fired) (hagrees : (s.tile d i).st = .armed → (s.tile d i).agrees c = true)
    (hroom : s.pendingStore d < 64) : exec (.collectiveContribution d i c) s = .next
      { s with tiles := tabSet s.tiles (4096 * d + i) { s.tile d i with waiting := (s.tile d i).waiting ++ [c] } } := by
  have hfits : ¬64 ≤ s.pendingStore d := Nat.not_le.mpr hroom
  have haccepts : ((s.tile d i).st == .armed && !(s.tile d i).agrees c) = false := by
    by_cases harmed : (s.tile d i).st = .armed
    · simp [hagrees harmed]
    · simp [harmed]
  simp only [exec, execCollectiveContribution, if_neg (in_table hd hi), hok, haccepts, if_neg hfits, Bool.not_true, Bool.false_eq_true, if_false]
  rfl

end TileStores

/-! ### Writes into a shadow leave the tile tables as they are (R200, R248) -/

section ShadowWrites

variable (s : State) (us : List Nat) (cx va : Nat)

theorem classify_tiles (filler : Nat) (l : Leaf) : (s.classify cx va filler l).tiles = s.tiles := by
  unfold State.classify
  dsimp only
  split
  · rfl
  · split <;> rfl

theorem translate_tiles (filler : Nat) : (s.translate us filler cx va).2.tiles = s.tiles := by
  unfold State.translate
  split
  · exact classify_tiles ..
  · split
    · rfl
    · exact (classify_tiles ..).trans (foldl_keeps State.tiles (fun s u => s.tlbFill u cx va _) (fun _ _ => rfl) us s)

theorem markDirty_tiles (a : Nat) : (s.markDirty a).tiles = s.tiles := by
  unfold State.markDirty
  split
  · dsimp only
    split <;> rfl
  · rfl

theorem setKeys_tiles (a n : Nat) : (s.setKeys cx a n).tiles = s.tiles := by
  unfold State.setKeys
  split <;> rfl

theorem touch_tiles (a : Nat) : (s.touch a).tiles = s.tiles := by
  unfold State.touch
  split <;> rfl

theorem shadowWrite_tiles (l2 : Bool) (bs : List Byte) : (s.shadowWrite us l2 cx va bs).2.tiles = s.tiles := by
  have htranslate := translate_tiles s us cx va devUnit
  unfold State.shadowWrite
  split
  next heq => rwa [heq] at htranslate
  next heq =>
    rw [heq] at htranslate
    dsimp only
    split
    · exact htranslate
    · split
      · exact htranslate
      · rw [touch_tiles, setKeys_tiles, setMem_tiles]
        cases l2 with
        | true => exact (markDirty_tiles ..).trans htranslate
        | false => exact htranslate

theorem shadowWrites_tiles (l2 : Bool) (bs : List Byte) (n : Nat) : (s.shadowWrites us l2 cx va bs n).2.tiles = s.tiles := by
  induction n generalizing s va bs with
  | zero => rfl
  | succ n ih =>
    unfold State.shadowWrites
    split
    · rfl
    · exact (ih ..).trans (shadowWrite_tiles ..)

end ShadowWrites

/-- The state in which an engine's write into a shadow ends has the tile tables of the state before. -/
theorem tiles_of_shadowWrites {s u : State} {us : List Nat} {l2 : Bool} {cx va n : Nat} {bs : List Byte} {c : Option Cause}
    (h : s.shadowWrites us l2 cx va bs n = (c, u)) : u.tiles = s.tiles :=
  (congrArg (·.2.tiles) h).symm.trans (shadowWrites_tiles ..)

theorem served_tiles (s : State) (i : Nat) (due : W64) : (s.served i due).tiles = s.tiles := by
  obtain ⟨mb, hserved⟩ := served_eq s i due
  rw [hserved]

/-! ### Results and timeouts (R272 to R275) -/

section TileEnds

variable {s : State} {d i : Nat}

/-- The entry once its result is written: the flags of a reduction are those received with it. -/
def TileEntry.done (t : TileEntry) (r : Contribution) : TileEntry :=
  { t with st := .complete, inv := decide (t.op ≤ 2) && r.inv, ovf := decide (t.op ≤ 2) && r.ovf, got := [], result := none, own := [] }

/-- Of all operations but the gather the result is one tile, at ROFF. -/
theorem outputs_of_one_tile {t : TileEntry} (h : t.op ≤ 3) (j : Nat) (r : Contribution) : t.outputs j r = [(t.roff, r.data)] := if_pos h

theorem len_of_one_tile {t : TileEntry} (h : t.op ≤ 3) : t.len = 1024 * tileElem t.fmt := by rw [TileEntry.len, if_pos h, Nat.mul_one]

/-- The result of an entry without a barrier that is one tile, once its pages are ready and its write meets no cause. -/
theorem collectiveResult_of_written {r : Contribution} {j : Nat} {u : State} (hst : (s.tile d i).st = .fired)
    (hresult : (s.tile d i).result = some r) (hpos : (s.tile d i).position s.fab.rank = some j)
    (hlive : (s.ctx (s.tile d i).cx).st ≠ .free ∧ (s.ctx (s.tile d i).cx).st ≠ .building) (hop : (s.tile d i).op ≤ 3)
    (hbar : (s.tile d i).bv = false)
    (hready : s.rangeReady (s.tile d i).cx (s.ownVa (s.tile d i).roff) (1024 * tileElem (s.tile d i).fmt) true = true)
    (hwrites : (s.served (2048 + d) ((s.tile d i).firedAt + (s.dueIn 1 - s.dtime))).shadowWrites [] true (s.tile d i).cx
      (s.ownVa (s.tile d i).roff) (tileBytes (s.tile d i).fmt r.data) ((tileBytes (s.tile d i).fmt r.data).length / 64 + 2) = (none, u)) :
    exec (.collectiveResult d i) s = .next (u.modTile d i fun t => t.done r) := by
  have halive : ((s.ctx (s.tile d i).cx).st != .free && (s.ctx (s.tile d i).cx).st != .building) = true := by simp [hlive]
  simp only [exec, execCollectiveResult, hst, hresult, hpos, len_of_one_tile hop, outputs_of_one_tile hop, hready, halive, hwrites, hbar,
    List.foldl_cons, List.foldl_nil, Bool.not_true, Bool.false_eq_true, if_false, if_true]
  rfl

theorem collectiveTimeout_of_due (hst : (s.tile d i).st = .fired) (hnone : (s.tile d i).result = none) (hon : s.fab.collto ≠ 0)
    (hdue : (s.tile d i).firedAt.toNat + s.fab.collto.toNat ≤ s.dtime.toNat) :
    exec (.collectiveTimeout d i) s = .next (s.tileFail d i .reduceTimeout) := by
  have hends : s.tileDue (s.tile d i) = true := by
    rw [State.tileDue, hst, hnone, bne_iff_ne.mpr hon, decide_eq_true hdue]
    rfl
  exact if_pos hends

end TileEnds

/-- Settles O48: an arm goes by its checks and a disarm by the state of the entry; a result stands in the entry's flags since writes into a
shadow leave the tile tables as they are. -/
theorem collectiveStepsTakeEffect : Obligations.CollectiveStepsTakeEffect := by
  unfold Obligations.CollectiveStepsTakeEffect
  refine ⟨fun d i v s hd hi hst => tileArm_of_idle hd hi v (idle_iff.mpr hst),
    fun d i v s hd hi hst => tileDisarm_of_entry hd hi (disarm_of_empty hst),
    fun d i v s hd hi hst => tileDisarm_of_entry hd hi (disarm_of_armed hst),
    fun d i v s hd hi hst => tileDisarm_of_entry hd hi (disarm_of_fired hst),
    fun d i v s hd hi hst => tileDisarm_of_entry hd hi (disarm_of_ended hst), fun d i v s hd hi hst => ⟨?word0, ?word1⟩,
    fun d i v s hd hi hst => ?busy, fun d i c s => collectiveContribution_of_refused, fun d i c s j t => collectiveContribution_of_taken,
    fun d i c s => collectiveContribution_of_disagrees, fun d i c s => collectiveContribution_of_early,
    fun d i s r j u hst hresult hpos hfree hbuilding hop hbar hready hwrites => ?result, fun d i s => collectiveTimeout_of_due⟩
  case word0 => rw [tileEntryWrite_word0 hd hi, if_pos (idle_iff.mpr hst)]
  case word1 => exact tileEntryWrite_word1_of_idle hd hi v (idle_iff.mpr hst)
  case busy => rw [tileEntryWrite_word0 hd hi, if_neg (ne_true_of_eq_false (not_idle_of_armed_or_fired hst))]
  case result =>
    have hkept : u.tiles = s.tiles := (tiles_of_shadowWrites hwrites).trans (served_tiles ..)
    have hentry : (u.modTile d i fun t => t.done r).tile d i = (s.tile d i).done r := by
      rw [tile_modTile, State.tile, State.tile, hkept]
    refine ⟨_, collectiveResult_of_written hst hresult hpos ⟨hfree, hbuilding⟩ hop hbar hready hwrites, rfl, congrArg TileEntry.st hentry,
      fun hreduces => ?_⟩
    rw [hentry, TileEntry.done, decide_eq_true hreduces]
    exact ⟨Bool.true_and _, Bool.true_and _⟩

end Sys2Proof.Machine

/-!
SUPPORT. The generators of the lanes (R295, R296): their step, what leaves every one of them as it is, and those of a strand after a word.
-/
namespace Sys2Proof.Machine

/-! ### The step (R296) -/

theorem eq_zero_of_shiftLeft_eq {w k : Nat} {x : BitVec w} (hk : 0 < k) (h : x = x <<< k) : x = 0 := by
  refine BitVec.eq_of_getLsbD_eq fun i hi => ?_
  rw [BitVec.ofNat_eq_ofNat, BitVec.getLsbD_zero]
  induction i using Nat.strongRecOn with
  | ind i ih =>
    rw [h, BitVec.getLsbD_shiftLeft]
    by_cases hlow : i < k
    · simp [hlow]
    · simp [ih (i - k) (by omega) (by omega)]

theorem eq_zero_of_ushiftRight_eq {w k : Nat} {x : BitVec w} (hk : 0 < k) (h : x = x >>> k) : x = 0 := by
  have hdiv : x.toNat = x.toNat / 2 ^ k := by
    rw [← Nat.shiftRight_eq_div_pow, ← BitVec.toNat_ushiftRight, ← h]
  refine BitVec.eq_of_toNat_eq (Nat.eq_zero_of_not_pos fun hpos => ?_)
  exact Nat.ne_of_lt (Nat.div_lt_self hpos (Nat.one_lt_two_pow (Nat.ne_of_gt hk))) hdiv.symm

/-- Each of the three shifts of the step takes only zero to zero. -/
theorem rndStep_ne_zero {x : W32} (hx : x ≠ 0) : rndStep x ≠ 0 := by
  have hleft {k : Nat} (hk : 0 < k) {y : W32} (hy : y ≠ 0) : y ^^^ (y <<< k) ≠ 0 := fun h =>
    hy (eq_zero_of_shiftLeft_eq hk (BitVec.xor_eq_zero_iff.mp h))
  have hright {k : Nat} (hk : 0 < k) {y : W32} (hy : y ≠ 0) : y ^^^ (y >>> k) ≠ 0 := fun h =>
    hy (eq_zero_of_ushiftRight_eq hk (BitVec.xor_eq_zero_iff.mp h))
  exact hleft (by decide) (hright (by decide) (hleft (by decide) hx))

/-! ### The generators of a strand -/

/-- The generators of a strand's lanes. -/
def Strand.gens (u : Strand) : List W32 := u.lanes.map Lane.gen

theorem gen_lane (u : Strand) (l : Nat) : (u.lane l).gen = nth u.gens l Lane.init.gen := by
  simp [Strand.lane, Strand.gens, nth, Option.getD_map]

theorem gen_lane_congr {u v : Strand} (h : v.gens = u.gens) (l : Nat) : (v.lane l).gen = (u.lane l).gen := by
  rw [gen_lane, gen_lane, h]

theorem gens_mapLanes {p : Nat → Bool} {f : Nat → Lane → Lane} (hf : ∀ k l, (f k l).gen = l.gen) (u : Strand) :
    (u.mapLanes p f).gens = u.gens := by
  refine List.ext_getElem? fun k => ?_
  simp only [Strand.gens, Strand.mapLanes, List.getElem?_map, List.getElem?_mapIdx, Option.map_map]
  refine Option.map_congr fun l _ => ?_
  simp only [Function.comp_apply]
  split
  · exact hf k l
  · rfl

@[simp] theorem gens_settle (u : Strand) (p : Nat) : (u.settle p).gens = u.gens := by
  unfold Strand.settle
  split
  · rfl
  · split <;> rfl

theorem gens_release (u : Strand) (w : Wait → Bool) (r : Nat → W64) : (u.release w r).gens = u.gens := by
  refine (gens_settle _ _).trans (gens_mapLanes ?_ u)
  exact fun _ _ => rfl

theorem gens_exitLanes (u : Strand) (m : BitVec 8) : (u.exitLanes m).gens = u.gens := by
  refine gens_mapLanes (p := inMask m) ?_ u
  exact fun _ _ => rfl

theorem gen_mwaitDone (b : Bool) (l : Lane) : (l.mwaitDone b).gen = l.gen := by
  unfold Lane.mwaitDone
  split
  · split <;> rfl
  · rfl
  · rfl

theorem gens_seeWrite (u : Strand) (a n : Nat) (t : W64) : (u.seeWrite a n t).gens = u.gens := by
  unfold Strand.seeWrite
  split
  · split
    · rfl
    · rw [Strand.mwaitRelease, gens_settle]
      simp [Strand.gens, gen_mwaitDone]
    · rfl
  · rfl

theorem gens_unit_seeWrite (c : CThread) (a n : Nat) (t : W64) : (c.seeWrite a n t).unit.gens = c.unit.gens := by
  have hunit : (c.seeWrite a n t).unit = c.unit.seeWrite a n t := by
    unfold CThread.seeWrite
    dsimp only
    split <;> rfl
  rw [hunit, gens_seeWrite]

/-! ### The generators of a group -/

/-- The generators of a group, strand by strand. -/
def Group.gens (x : Group) : List (List W32) := x.strands.map Strand.gens

theorem gens_modStrand {f : Strand → Strand} (hf : ∀ u : Strand, (f u).gens = u.gens) (x : Group) (k : Nat) :
    Group.gens { x with strands := modAt x.strands k f } = x.gens := by
  refine List.ext_getElem? fun j => ?_
  simp only [Group.gens, List.getElem?_map]
  by_cases hj : j = k
  · rw [hj, getElem?_modAt, Option.map_map]
    exact Option.map_congr fun u _ => hf u
  · rw [getElem?_modAt_ne _ _ _ _ hj]

theorem gens_mapStrands {f : Strand → Strand} (hf : ∀ u : Strand, (f u).gens = u.gens) (us : List Strand) :
    (us.map f).map Strand.gens = us.map Strand.gens := by
  simp [hf]

theorem gens_put (x : Group) (k l : Nat) (r : Res) : (x.put k l r).gens = x.gens := by
  cases r with
  | d32 d v => cases d <;> rfl
  | d64 d v => cases d <;> rfl
  | p n b =>
    refine gens_modStrand (gens_mapLanes ?_) x k
    exact fun _ _ => rfl

theorem gens_slackReturn (x : Group) (h : Nat) (ga gs : W32) : (x.slackReturn h ga gs).gens = x.gens := by
  unfold Group.slackReturn
  split
  · refine List.ext_getElem? fun k => ?_
    simp only [Group.gens, List.getElem?_map, List.getElem?_mapIdx, Option.map_map]
    exact Option.map_congr fun u _ => gens_release u _ _
  · rfl

theorem unit_put (c : CThread) (r : Res) : (c.put r).unit = c.unit := by
  have hcreg (n : Nat) (v : W64) : (if n = 0 then c else { c with cregs := tabSet c.cregs n v }).unit = c.unit := by split <;> rfl
  cases r with
  | d32 d v =>
    cases d with
    | reg n => exact hcreg n _
    | g n | lat0 => rfl
  | d64 d v =>
    cases d with
    | reg n => exact hcreg n _
    | g n | lat0 => rfl
  | p n b => exact hcreg n _

/-! ### The generators of a state -/

/-- The generators of an agent's lanes. -/
def State.generators (s : State) (ag : Agent) : Option (List W32) := (s.unit? ag).map Strand.gens

theorem generators_of_unit {s t : State} {ag : Agent} {u v : Strand} (h : t.generators = s.generators) (hu : s.unit? ag = some u)
    (hv : t.unit? ag = some v) : v.gens = u.gens := by
  have hag := congrFun h ag
  rw [State.generators, State.generators, hu, hv] at hag
  exact Option.some.inj hag

theorem exists_unit_of_generators {s t : State} {ag : Agent} {u : Strand} (h : t.generators = s.generators) (hu : s.unit? ag = some u) :
    ∃ v, t.unit? ag = some v ∧ v.gens = u.gens := by
  have hag : (t.unit? ag).map Strand.gens = some u.gens := (congrFun h ag).trans (congrArg (Option.map Strand.gens) hu)
  exact Option.map_eq_some_iff.mp hag

theorem generators_congr {s t : State} (hgroup : ∀ g, (t.group? g).map Group.gens = (s.group? g).map Group.gens)
    (hct : ∀ w, (t.ct? w).map (fun c => c.unit.gens) = (s.ct? w).map fun c => c.unit.gens) : t.generators = s.generators := by
  have hstrand (s : State) (g k : Nat) : s.generators (.strand g k) = ((s.group? g).map Group.gens).bind fun x => x[k]? := by
    simp only [State.generators, State.unit?, Option.map_bind, Option.bind_map]
    exact congrArg _ (funext fun x => (List.getElem?_map ..).symm)
  have hctl (s : State) (w : Nat) : s.generators (.ctl w) = (s.ct? w).map fun c => c.unit.gens := Option.map_map ..
  funext ag
  cases ag with
  | strand g k => rw [hstrand, hstrand, hgroup]
  | ctl w => rw [hctl, hctl, hct]

theorem generators_of_strandTables {s t : State} (h : t.strandTables = s.strandTables) : t.generators = s.generators :=
  funext fun ag => congrArg (Option.map Strand.gens) (unit_of_strandTables h ag)

theorem tabFind?_map {α : Type} {f : Nat × α → Nat × α} (hf : ∀ e, (f e).1 = e.1) (t : Tab α) (k : Nat) :
    tabFind? (t.map f) k = (tabFind? t k).map fun v => (f (k, v)).2 := by
  induction t with
  | nil => rfl
  | cons e t ih =>
    have hhead : f e = (e.1, (f e).2) := by rw [← hf e]
    rw [List.map_cons, hhead]
    simp only [tabFind?]
    by_cases hk : e.1 = k
    · subst hk
      simp
    · simp [hk, ih]

/-- A change of every group and control thread that keeps its generators keeps those of the state. -/
theorem generators_of_mapTables {s t : State} {f : Nat × Group → Nat × Group} {g : Nat × CThread → Nat × CThread}
    (hgroups : t.groups = s.groups.map f) (hcts : t.cts = s.cts.map g) (hf : ∀ e, (f e).1 = e.1 ∧ (f e).2.gens = e.2.gens)
    (hg : ∀ e, (g e).1 = e.1 ∧ (g e).2.unit.gens = e.2.unit.gens) : t.generators = s.generators := by
  refine generators_congr (fun j => ?_) fun w => ?_
  · rw [State.group?, State.group?, hgroups, tabFind?_map fun e => (hf e).1, Option.map_map]
    exact Option.map_congr fun x _ => (hf (j, x)).2
  · rw [State.ct?, State.ct?, hcts, tabFind?_map fun e => (hg e).1, Option.map_map]
    exact Option.map_congr fun c _ => (hg (w, c)).2

theorem generators_of_mapGroups {s t : State} {f : Nat × Group → Nat × Group} (hgroups : t.groups = s.groups.map f) (hcts : t.cts = s.cts)
    (hf : ∀ e, (f e).1 = e.1 ∧ (f e).2.gens = e.2.gens) : t.generators = s.generators :=
  generators_of_mapTables hgroups (hcts.trans (List.map_id _).symm) hf fun _ => ⟨rfl, rfl⟩

section Generators

variable (s : State)

theorem generators_modGroup {f : Group → Group} (hf : ∀ x : Group, (f x).gens = x.gens) (g : Nat) :
    (s.modGroup g f).generators = s.generators := by
  refine generators_congr (fun j => ?_) fun w => by rw [State.ct?, State.ct?, modGroup_cts]
  by_cases hj : j = g
  · subst hj
    cases hx : s.group? j with
    | none => rw [State.modGroup, hx, hx]
    | some x => rw [group_modGroup hx, Option.map_some, Option.map_some, hf]
  · rw [group_modGroup_ne _ _ _ _ hj]

theorem generators_modCt {f : CThread → CThread} (hf : ∀ c : CThread, (f c).unit.gens = c.unit.gens) (w : Nat) :
    (s.modCt w f).generators = s.generators := by
  refine generators_congr (fun g => by rw [State.group?, State.group?, modCt_groups]) fun j => ?_
  by_cases hj : j = w
  · subst hj
    cases hc : s.ct? j with
    | none => rw [State.modCt, hc, hc]
    | some c => rw [ct_modCt hc, Option.map_some, Option.map_some, hf]
  · rw [ct_modCt_ne _ _ _ _ hj]

theorem generators_modUnit {f : Strand → Strand} (hf : ∀ u : Strand, (f u).gens = u.gens) (ag : Agent) :
    (s.modUnit ag f).generators = s.generators := by
  cases ag with
  | strand g k => exact generators_modGroup s (fun x => gens_modStrand hf x k) g
  | ctl w => exact generators_modCt s (fun c => hf c.unit) w

theorem generators_put (ag : Agent) (l : Nat) (r : Res) : (s.put ag l r).generators = s.generators := by
  cases ag with
  | strand g k => exact generators_modGroup s (fun x => gens_put x k l r) g
  | ctl w => exact generators_modCt s (fun c => congrArg Strand.gens (unit_put c r)) w

theorem generators_modKernel (k : Nat) (f : Kernel → Kernel) : (s.modKernel k f).generators = s.generators :=
  generators_of_strandTables (by simp only [State.strandTables, modKernel_groups, modKernel_cts])

theorem generators_modWg (w : Nat) (f : Workgroup → Workgroup) : (s.modWg w f).generators = s.generators :=
  generators_of_strandTables (by simp only [State.strandTables, modWg_groups, modWg_cts])

/-! ### Writes of the device keep the generators -/

theorem generators_fireMonitors (a n : Nat) : (s.fireMonitors a n).generators = s.generators := by
  refine Eq.trans ?_ (foldl_keeps State.generators (fun s' u => s'.raisePts u (s.lineTime (lineOf a)).wts) (fun _ _ => rfl) (s.awaiting a n) s)
  exact generators_of_mapTables rfl rfl (fun e => ⟨rfl, gens_mapStrands (gens_seeWrite · a n _) e.2.strands⟩)
    fun e => ⟨rfl, gens_unit_seeWrite e.2 a n _⟩

theorem generators_markDirty (a : Nat) : (s.markDirty a).generators = s.generators := by
  unfold State.markDirty
  split
  · show (if _ then s else _).generators = s.generators
    split <;> rfl
  · rfl

theorem generators_setKeys (cx a n : Nat) : (s.setKeys cx a n).generators = s.generators := by
  unfold State.setKeys
  split <;> rfl

theorem generators_devPoke (cx a : Nat) (bs : List Byte) : (s.devPoke cx a bs).generators = s.generators := by
  unfold State.devPoke State.poke
  split
  · rfl
  · rw [generators_fireMonitors, generators_setKeys]
    exact generators_markDirty _ a

@[simp] theorem generators_devPut (cx va : Nat) (bs : List Byte) : (s.devPut cx va bs).generators = s.generators := by
  unfold State.devPut
  cases h : s.devWrite cx va bs with
  | none => rfl
  | some t =>
    obtain ⟨l, -, -, rfl⟩ := devWrite_some h
    exact (generators_devPoke _ _ _ _).trans (generators_of_strandTables (classify_strandTables ..))

@[simp] theorem generators_devPutAll (cx a : Nat) (bs : List Byte) (n : Nat) : (s.devPutAll cx a bs n).generators = s.generators := by
  induction n generalizing s a bs with
  | zero => rfl
  | succ n ih =>
    unfold State.devPutAll
    split
    · rfl
    · rw [ih, generators_devPut]

@[simp] theorem generators_requestAt (who cls cx va : Nat) : (s.requestAt who cls cx va).generators = s.generators := by
  unfold State.requestAt
  split <;> rfl

/-! ### The abort of a kernel keeps the generators (R104, R105) -/

@[simp] theorem generators_setSg (cx h : Nat) (d : SgDesc) : (s.setSg cx h d).generators = s.generators := rfl

@[simp] theorem generators_sgWriteBack (cx h : Nat) : (s.sgWriteBack cx h).generators = s.generators := by
  unfold State.sgWriteBack
  split
  · rfl
  · rw [generators_requestAt, generators_devPut]
    exact foldl_keeps State.generators _ (fun s i => generators_devPut s cx _ _) _ s

@[simp] theorem generators_sgDrop (cx h : Nat) : (s.sgDrop cx h).generators = s.generators := by
  unfold State.sgDrop
  split
  · rfl
  · exact foldl_keeps State.generators (fun s vp => s.releasePage cx vp) (fun _ _ => rfl) _ s

@[simp] theorem generators_sgWriteArrays (cx h : Nat) : (s.sgWriteArrays cx h).generators = s.generators := by
  unfold State.sgWriteArrays
  split
  · rfl
  · dsimp only
    split
    · rfl
    · exact generators_devPutAll ..

@[simp] theorem generators_sgDeliver (cx h : Nat) (b : Bool) (ga : Option W32) : (s.sgDeliver cx h b ga).generators = s.generators := by
  unfold State.sgDeliver
  split
  · rfl
  · refine Eq.trans (generators_of_mapGroups rfl rfl fun e => ?_)
      (foldl_keeps State.generators (fun s c => s.raisePts c s.devNow) (fun _ _ => rfl) (s.slackCores cx h) s)
    dsimp only
    split
    · exact ⟨rfl, rfl⟩
    · split
      · split
        · split
          · exact ⟨rfl, gens_slackReturn ..⟩
          · exact ⟨rfl, rfl⟩
        · exact ⟨rfl, gens_slackReturn ..⟩
      · exact ⟨rfl, gens_slackReturn ..⟩

@[simp] theorem generators_parkObservers (key : Nat) : (s.parkObservers key).generators = s.generators := by
  refine generators_of_mapGroups rfl rfl fun e => ?_
  dsimp only
  split
  · refine ⟨rfl, gens_mapStrands (fun u => ?_) e.2.strands⟩
    rw [Strand.gens, Strand.gens, List.map_map]
    refine List.map_congr_left fun l _ => ?_
    rw [Function.comp_apply]
    split <;> rfl
  · exact ⟨rfl, rfl⟩

theorem generators_sgAbort (kid : Nat) : (s.sgAbort kid State.parkObservers).generators = s.generators := by
  refine foldl_keeps State.generators _ (fun s x => ?_) s.sgs s
  obtain ⟨key, d⟩ := x
  dsimp only
  split
  · rfl
  · split <;> simp

theorem generators_modBar (b : BarRef) (f : Bar → Bar) : (s.modBar b f).generators = s.generators := by
  cases b with
  | wg w k => exact generators_modWg ..
  | die | pkg | pod => rfl

theorem generators_unwait (ag : Agent) : (s.unwait ag).generators = s.generators := by
  unfold State.unwait
  split
  · refine (foldl_keeps State.generators _ (fun s m => ?_) _ _).trans
      (foldl_keeps State.generators _ (fun s b => generators_modBar ..) _ s)
    split
    · exact generators_modBar ..
    · rfl
  · rfl

theorem generators_endGroup (gid : Nat) : (s.endGroup gid).generators = s.generators := by
  unfold State.endGroup
  split
  · rfl
  · refine (generators_modGroup _ (fun x => ?_) gid).trans (foldl_keeps State.generators State.unwait generators_unwait _ s)
    refine gens_mapStrands (fun u => ?_) x.strands
    exact gens_exitLanes u u.liveMask

theorem generators_endCt (w : Nat) : (s.endCt w).generators = s.generators := by
  unfold State.endCt
  refine (generators_modCt _ (fun c => ?_) w).trans (generators_unwait s (.ctl w))
  exact gens_exitLanes c.unit c.unit.liveMask

theorem generators_releaseLeases (kid : Nat) : (s.releaseLeases kid).generators = s.generators := by
  unfold State.releaseLeases
  split
  · rfl
  · next k _ =>
    exact (generators_modKernel ..).trans (foldl_keeps State.generators (fun s vp => s.releasePage k.cx vp) (fun _ _ => rfl) k.leased s)

theorem generators_complete (qid : Nat) (r : CRec) : (s.complete qid r).generators = s.generators := by
  show ((State.devPut _ _ _ _).requestAt _ _ _ _).generators = s.generators
  rw [generators_requestAt, generators_devPut, generators_devPut]

theorem generators_ctxIdle (cx : Nat) : (s.ctxIdle cx).generators = s.generators := by
  unfold State.ctxIdle
  split <;> rfl

theorem generators_finishKernel (kid : Nat) : (s.finishKernel kid).generators = s.generators := by
  have hbegun (f : Kernel → Kernel) : ((s.releaseLeases kid).modKernel kid f).generators = s.generators :=
    (generators_modKernel ..).trans (generators_releaseLeases s kid)
  unfold State.finishKernel
  split
  · rfl
  · rw [generators_ctxIdle]
    split
    · exact hbegun _
    · exact (generators_complete ..).trans (hbegun _)

theorem generators_abortKernel (kid : Nat) (ed : Ending) : (s.abortKernel kid ed).generators = s.generators := by
  have hfinish (f : Kernel → Kernel) : ((s.modKernel kid f).finishKernel kid).generators = s.generators :=
    (generators_finishKernel ..).trans (generators_modKernel ..)
  have hstop (gs ws vs : List Nat) (f : Nat → Workgroup → Workgroup) : (vs.foldl (fun s w => s.modWg w (f w))
      ((ws.foldl State.endCt (gs.foldl State.endGroup (s.sgAbort kid State.parkObservers))).discardWork kid)).generators = s.generators := by
    rw [foldl_keeps State.generators _ fun s w => generators_modWg s w _]
    show (List.foldl State.endCt _ _).generators = _
    rw [foldl_keeps State.generators _ generators_endCt, foldl_keeps State.generators _ generators_endGroup, generators_sgAbort]
  unfold State.abortKernel
  cases hk : s.kernel? kid with
  | none => rfl
  | some k =>
    dsimp only
    split
    · rfl
    · rfl
    · exact hfinish _
    · exact hfinish _
    · exact hfinish _
    · exact (generators_modKernel ..).trans rfl
    · exact (generators_modKernel ..).trans (hstop ..)

/-! ### The entry of handlers keeps the generators (R47 to R49) -/

theorem generators_ctxFail (cx : Nat) (c : Cause) : (s.ctxFail cx c).generators = s.generators :=
  foldl_keeps State.generators _ (fun s k => generators_abortKernel s k _) _ _

theorem gens_entered (cx : Nat) (u : Strand) : (s.entered cx u).gens = u.gens := by
  refine gens_mapLanes ?_ u
  exact fun _ _ => rfl

theorem generators_enterTrap (ag : Agent) : (s.enterTrap ag).generators = s.generators := by
  unfold State.enterTrap
  split
  next u kid hu _ =>
    dsimp only
    split
    · rfl
    · split
      · exact generators_abortKernel ..
      · split
        · exact generators_ctxFail ..
        · have hentered := modUnit_congr hu (f := fun _ => s.entered (s.cxOf ag) u) (g := s.entered (s.cxOf ag)) rfl
          show (s.modUnit ag fun _ => s.entered (s.cxOf ag) u).generators = s.generators
          rw [hentered]
          exact generators_modUnit s (gens_entered s (s.cxOf ag)) ag
  next => rfl

theorem generators_resettle (ag : Agent) (p : Nat) (parked : Bool) : (s.resettle ag p parked).generators = s.generators := by
  unfold State.resettle
  rw [generators_modUnit _ (fun u => gens_settle u p)]
  split
  · rw [generators_enterTrap, generators_modUnit _ (f := Strand.parkPath) fun _ => rfl]
  · rfl

theorem generators_issued (e : Env) : (s.issued e).generators = s.generators := by
  unfold State.issued
  dsimp only
  split <;> exact generators_modUnit s (f := fun u => u.noted e s.clk) (fun _ => rfl) e.ag

theorem generators_putAll (ag : Agent) (long : Bool) (o : LaneOut) : (s.putAll ag long o).generators = s.generators := by
  rw [putAll_eq_foldl_put]
  exact foldl_keeps State.generators _ (fun s r => generators_put s ag o.lane r) _ s

end Generators

/-! ### The generators after a word (R296, R297) -/

theorem outOf_mapOuts {f : LaneOut → LaneOut} (hlane : ∀ o, (f o).lane = o.lane) (outs : List LaneOut) (l : Nat) :
    outOf (outs.map f) l = (outOf outs l).map f := by
  simp only [outOf, List.find?_map, Function.comp_def, hlane]

/-- The choice of g results leaves every lane its generator (R120, R296). -/
theorem gen_outOf_gResolve (outs : List LaneOut) (l : Nat) : (outOf (gResolve outs) l).bind LaneOut.gen = (outOf outs l).bind LaneOut.gen := by
  cases hfind : outs.find? fun o => o.cause.isNone || o.late with
  | none =>
    unfold gResolve
    rw [hfind]
  | some o =>
    rw [gResolve_of_find hfind, outOf_mapOuts, Option.bind_map]
    · refine congrArg _ (funext fun x => ?_)
      rw [Function.comp_apply]
      split <;> rfl
    · intro x
      split <;> rfl

theorem gen_after (l : Lane) (o : Option LaneOut) (next : Nat × Bool) : (l.after o next).gen = (o.bind LaneOut.gen).getD l.gen := by
  cases o with
  | none => rfl
  | some o =>
    have hgen : (match o.gen with | some g => { l with gen := g } | none => l).gen = o.gen.getD l.gen := by cases o.gen <;> rfl
    rw [Option.bind_some, ← hgen]
    unfold Lane.after
    dsimp only
    split
    · rfl
    · split <;> rfl

/-- After a word the generators are those of the strand with the lanes of the path gone on: results, traps and the end of a kernel set none. -/
theorem generators_finish (s : State) (e : Env) (outs : List LaneOut) (long : Bool) : ∃ t : State, t.generators = s.generators ∧
    (s.finish e outs long).generators = (t.modUnit e.ag fun u => u.goesOn e (gResolve outs)).generators := by
  refine ⟨_, ?_, (generators_resettle ..).trans (generators_issued ..)⟩
  split
  · exact foldl_keeps State.generators _ (fun s o => generators_putAll s e.ag long o) _ s
  · exact foldl_keeps State.generators _ (fun s o => generators_putAll s e.ag long o) _ s

/-- After a word each lane of the path has the generator of its outcome; no other lane has stepped. -/
theorem gen_finish {s : State} {e : Env} {outs : List LaneOut} {long : Bool} {u v : Strand} (hu : s.unit? e.ag = some u)
    (hv : (s.finish e outs long).unit? e.ag = some v) (hpath : ∀ l, inMask e.path l = true → l < u.lanes.length) (l : Nat) :
    (v.lane l).gen = if inMask e.path l then ((outOf outs l).bind LaneOut.gen).getD (u.lane l).gen else (u.lane l).gen := by
  obtain ⟨t, ht, hfinish⟩ := generators_finish s e outs long
  obtain ⟨x, hx, hgens⟩ := exists_unit_of_generators ht hu
  have hlen : x.lanes.length = u.lanes.length := by simpa [Strand.gens] using congrArg List.length hgens
  have hgen : (x.lane l).gen = (u.lane l).gen := gen_lane_congr hgens l
  have hgo : (v.lane l).gen = ((x.goesOn e (gResolve outs)).lane l).gen :=
    gen_lane_congr (generators_of_unit hfinish (unit_modUnit hx _) hv) l
  rw [hgo]
  by_cases hl : inMask e.path l = true
  · obtain ⟨c, hseen⟩ := seen_eq e l (x.lane l)
    have hlane : (x.goesOn e (gResolve outs)).lane l = (e.seen l (x.lane l)).after (outOf (gResolve outs) l) (e.cl.next (e.u.lane l)) :=
      (lane_mapLanes x _ _ (hlen ▸ hpath l hl)).trans (if_pos hl)
    rw [if_pos hl, hlane, gen_after, gen_outOf_gResolve, hseen, ← hgen]
  · rw [if_neg hl, ← hgen]
    exact congrArg Lane.gen (lane_mapLanes_of_not x _ (Bool.eq_false_iff.mpr hl))

/-! ### The lanes of a word that issues -/

theorem maskOf_congr {p q : Nat → Bool} (h : ∀ l, l < 8 → p l = q l) : maskOf p = maskOf q := by
  have hrange : List.range 8 = [0, 1, 2, 3, 4, 5, 6, 7] := rfl
  simp only [maskOf, hrange, List.foldl_cons, List.foldl_nil, h 0 (by decide), h 1 (by decide), h 2 (by decide), h 3 (by decide),
    h 4 (by decide), h 5 (by decide), h 6 (by decide), h 7 (by decide)]

theorem inMask_maskOf (p : Nat → Bool) (l : Nat) : inMask (maskOf p) l = (decide (l < 8) && p l) := by
  have hbits : ∃ m : BitVec 8, ∀ k, k < 8 → p k = inMask m k := by
    refine ⟨(BitVec.ofBoolListLE ((List.range 8).map p)).cast (by simp only [List.length_map, List.length_range]), fun k hk => ?_⟩
    rw [inMask, BitVec.getLsbD_cast, BitVec.getLsbD_ofBoolListLE, List.getD_eq_getElem?_getD, List.getElem?_map, List.getElem?_range hk]
    rfl
  obtain ⟨m, hm⟩ := hbits
  rw [maskOf_congr hm, maskOf_inMask]
  by_cases hl : l < 8
  · rw [decide_eq_true hl, Bool.true_and, hm l hl]
  · rw [decide_eq_false hl, Bool.false_and]
    exact BitVec.getLsbD_of_ge m l (Nat.le_of_not_lt hl)

theorem lt_length_of_path {u : Strand} {l : Nat} (h : inMask u.path l = true) : l < u.lanes.length := by
  rw [Strand.path, inMask_maskOf, Bool.and_eq_true, Bool.and_eq_true] at h
  obtain ⟨-, -, hruns⟩ := h
  refine Nat.not_le.mp fun hl => ?_
  simp [Strand.lane, nth, List.getElem?_eq_none hl, Lane.init, Lane.runs] at hruns

/-- What an agent's issue sees is its strand and the strand's path, whose lanes that pass the guard are active (R112, R114). -/
theorem unit_of_env {s : State} {ag : Agent} {gd : Guard} {rdClk : Bool} {e : Env} (h : s.env? ag gd rdClk = some e) :
    s.unit? e.ag = some e.u ∧ e.path = e.u.path ∧ ∀ l, inMask e.act l = true → inMask e.path l = true := by
  unfold State.env? at h
  split at h
  next u wid hu _ =>
    split at h
    · cases h
    · split at h
      · dsimp only at h
        obtain ⟨-, h⟩ := Option.ite_none_right_eq_some.mp h
        cases h
        refine ⟨hu, rfl, fun l hl => ?_⟩
        rw [inMask_maskOf, Bool.and_eq_true, Bool.and_eq_true] at hl
        obtain ⟨-, hpath, -⟩ := hl
        exact hpath
      · cases h
  next => cases h

theorem unit_of_issueOf {s t : State} {i : Instr} {e : Env} (h : s.issueOf? i = some (e, t)) :
    t.unit? e.ag = some e.u ∧ e.path = e.u.path ∧ ∀ l, inMask e.act l = true → inMask e.path l = true := by
  unfold State.issueOf? at h
  split at h
  · dsimp only at h
    split at h
    · cases h
    · next e' he =>
      obtain ⟨-, h⟩ := Option.ite_none_right_eq_some.mp h
      cases h
      exact unit_of_env he
  · cases h

/-- After a word that issues each active lane has the generator of its outcome, and no other lane has stepped. -/
theorem gen_of_laneResults {s t u : State} {i : Instr} {f : Env → Nat → LaneOut} {e : Env} {v : Strand} (h : LaneResults i f)
    (hlane : ∀ l, (f e l).lane = l) (hi : s.issueOf? i = some (e, t)) (hexec : exec i s = .next u) (hv : u.unit? e.ag = some v) (l : Nat) :
    (v.lane l).gen = if inMask e.act l then (f e l).gen.getD (e.u.lane l).gen else (e.u.lane l).gen := by
  obtain ⟨hunit, hpath, hact⟩ := unit_of_issueOf hi
  rw [h s e t hi] at hexec
  cases hexec
  rw [gen_finish hunit hv (fun l hl => lt_length_of_path (hpath ▸ hl)) l, outOf_map hlane]
  by_cases hl : inMask e.act l = true
  · rw [if_pos (hact l hl), if_pos hl, if_pos (mem_lanesOf.mpr hl), Option.bind_some]
  · rw [if_neg hl, if_neg fun hmem => hl (mem_lanesOf.mp hmem)]
    exact ite_self _

/-- The product of R296 modulo 2^32. -/
theorem rseed_eq (x : W32) (i : Nat) : rseed x i =
    if x ^^^ BitVec.ofNat 32 (0x9E3779B9 * (i + 1)) = 0 then 1 else x ^^^ BitVec.ofNat 32 (0x9E3779B9 * (i + 1)) := by
  rw [BitVec.ofNat_mul]
  rfl

/-- Settles O9: the step is three xors with a shift, each of which takes only zero to zero; a word's outcomes alone set generators. -/
theorem generatorWordsFollowTheirStep : Obligations.GeneratorWordsFollowTheirStep := by
  unfold Obligations.GeneratorWordsFollowTheirStep
  have hrnd (gd : Guard) (d : Dst) : LaneResults (.rnd gd d) fun e l =>
      { LaneOut.reg l d .i32 (ofW (rndStep (e.u.lane l).gen)) with gen := some (rndStep (e.u.lane l).gen) } :=
    laneResults_of_lanewise fun _ => rfl
  refine ⟨hrnd, fun gd a => laneResults_of_lanewise fun s => ?seed, fun x => rndStep_ne_zero, fun gd d s e t hi u hexec v hv => ?lanes⟩
  case seed =>
    simp only [← rseed_eq]
    rfl
  case lanes =>
    have hgen := gen_of_laneResults (hrnd gd d) (fun _ => rfl) hi hexec hv
    exact ⟨fun l hl => (hgen l).trans (if_pos hl), fun l hl => (hgen l).trans (if_neg (Bool.eq_false_iff.mp hl))⟩

end Sys2Proof.Machine

/-!
SUPPORT. The encoding of instruction words (R312 to R331): what each field of a word holds, and what the decoder finds in the fields of a
well-formed instruction, one lemma for each row of the opcode map.
-/
namespace Sys2Proof
set_option Elab.async false

/-! ### Modifier codes -/

/-- A code is read back as what it stands for where the reader inverts the writer. -/
theorem eq_some_iff_of_codes {α : Type} {toCode : α → Nat} {ofCode : Nat → Option α} (left : ∀ x, ofCode (toCode x) = some x)
    (right : ∀ n x, ofCode n = some x → n = toCode x) {n : Nat} {x : α} : ofCode n = some x ↔ n = toCode x :=
  ⟨right n x, fun h => h ▸ left x⟩

theorem SatMode.toBits_lt (x : SatMode) : x.toBits < 4 := by cases x <;> decide
theorem ICond.toBits_lt (x : ICond) : x.toBits < 8 := by cases x <;> decide
theorem FCond.toBits_lt (x : FCond) : x.toBits < 8 := by cases x <;> decide
theorem ShfMode.toBits_lt (x : ShfMode) : x.toBits < 4 := by cases x <;> decide
theorem ExtWidth.toBits_lt (x : ExtWidth) : x.toBits < 4 := by cases x <;> decide
theorem Rm.toBits_lt (x : Rm) : x.toBits < 8 := by cases x <;> decide
theorem CvtFSrc.toBits_lt (x : CvtFSrc) : x.toBits < 8 := by cases x <;> decide
theorem CvtIDst.toBits_lt (x : CvtIDst) : x.toBits < 4 := by cases x <;> decide
theorem CvtDSrc.toBits_lt (x : CvtDSrc) : x.toBits < 8 := by cases x <;> decide
theorem F8To.toBits_lt (x : F8To) : x.toBits < 4 := by cases x <;> decide
theorem F8From.toBits_lt (x : F8From) : x.toBits < 4 := by cases x <;> decide
theorem MxFmt.toBits_lt (x : MxFmt) : x.toBits < 4 := by cases x <;> decide
theorem ShflMode.toBits_lt (x : ShflMode) : x.toBits < 4 := by cases x <;> decide
theorem VoteMode.toBits_lt (x : VoteMode) : x.toBits < 4 := by cases x <;> decide
theorem ReduxOp.toBits_lt (x : ReduxOp) : x.toBits < 8 := by cases x <;> decide
theorem FReduxOp.toBits_lt (x : FReduxOp) : x.toBits < 4 := by cases x <;> decide
theorem BraCond.toBits_lt (x : BraCond) : x.toBits < 8 := by cases x <;> decide
theorem BarqSel.toBits_lt (x : BarqSel) : x.toBits < 4 := by cases x <;> decide
theorem HScope.toBits_lt (x : HScope) : x.toBits < 8 := by cases x <;> decide
theorem Scope.toBits_lt (x : Scope) : x.toBits < 8 := by cases x <;> decide
theorem MemSize.toBits_lt (x : MemSize) : x.toBits < 8 := by cases x <;> decide
theorem FragEl.toBits_lt (x : FragEl) : x.toBits < 4 := by cases x <;> decide
theorem AtomOp.toBits_lt (x : AtomOp) : x.toBits < 16 := by cases x <;> decide

@[simp] theorem SatMode.ofBits_eq_some {n : Nat} {x : SatMode} : SatMode.ofBits n = some x ↔ n = x.toBits :=
  eq_some_iff_of_codes (fun x => by cases x <;> rfl) fun n x h => by
    unfold SatMode.ofBits at h
    split at h <;> cases h <;> rfl

@[simp] theorem ICond.ofBits_eq_some {n : Nat} {x : ICond} : ICond.ofBits n = some x ↔ n = x.toBits :=
  eq_some_iff_of_codes (fun x => by cases x <;> rfl) fun n x h => by
    unfold ICond.ofBits at h
    split at h <;> cases h <;> rfl

@[simp] theorem FCond.ofBits_eq_some {n : Nat} {x : FCond} : FCond.ofBits n = some x ↔ n = x.toBits :=
  eq_some_iff_of_codes (fun x => by cases x <;> rfl) fun n x h => by
    unfold FCond.ofBits at h
    split at h <;> cases h <;> rfl

@[simp] theorem ShfMode.ofBits_eq_some {n : Nat} {x : ShfMode} : ShfMode.ofBits n = some x ↔ n = x.toBits :=
  eq_some_iff_of_codes (fun x => by cases x <;> rfl) fun n x h => by
    unfold ShfMode.ofBits at h
    split at h <;> cases h <;> rfl

@[simp] theorem ExtWidth.ofBits_eq_some {n : Nat} {x : ExtWidth} : ExtWidth.ofBits n = some x ↔ n = x.toBits :=
  eq_some_iff_of_codes (fun x => by cases x <;> rfl) fun n x h => by
    unfold ExtWidth.ofBits at h
    split at h <;> cases h <;> rfl

@[simp] theorem Rm.ofBits_eq_some {n : Nat} {x : Rm} : Rm.ofBits n = some x ↔ n = x.toBits :=
  eq_some_iff_of_codes (fun x => by cases x <;> rfl) fun n x h => by
    unfold Rm.ofBits at h
    split at h <;> cases h <;> rfl

@[simp] theorem CvtFSrc.ofBits_eq_some {n : Nat} {x : CvtFSrc} : CvtFSrc.ofBits n = some x ↔ n = x.toBits :=
  eq_some_iff_of_codes (fun x => by cases x <;> rfl) fun n x h => by
    unfold CvtFSrc.ofBits at h
    split at h <;> cases h <;> rfl

@[simp] theorem CvtIDst.ofBits_eq_some {n : Nat} {x : CvtIDst} : CvtIDst.ofBits n = some x ↔ n = x.toBits :=
  eq_some_iff_of_codes (fun x => by cases x <;> rfl) fun n x h => by
    unfold CvtIDst.ofBits at h
    split at h <;> cases h <;> rfl

@[simp] theorem CvtDSrc.ofBits_eq_some {n : Nat} {x : CvtDSrc} : CvtDSrc.ofBits n = some x ↔ n = x.toBits :=
  eq_some_iff_of_codes (fun x => by cases x <;> rfl) fun n x h => by
    unfold CvtDSrc.ofBits at h
    split at h <;> cases h <;> rfl

@[simp] theorem F8To.ofBits_eq_some {n : Nat} {x : F8To} : F8To.ofBits n = some x ↔ n = x.toBits :=
  eq_some_iff_of_codes (fun x => by cases x <;> rfl) fun n x h => by
    unfold F8To.ofBits at h
    split at h <;> cases h <;> rfl

@[simp] theorem F8From.ofBits_eq_some {n : Nat} {x : F8From} : F8From.ofBits n = some x ↔ n = x.toBits :=
  eq_some_iff_of_codes (fun x => by cases x <;> rfl) fun n x h => by
    unfold F8From.ofBits at h
    split at h <;> cases h <;> rfl

@[simp] theorem MxFmt.ofBits_eq_some {n : Nat} {x : MxFmt} : MxFmt.ofBits n = some x ↔ n = x.toBits :=
  eq_some_iff_of_codes (fun x => by cases x <;> rfl) fun n x h => by
    unfold MxFmt.ofBits at h
    split at h <;> cases h <;> rfl

@[simp] theorem ShflMode.ofBits_eq_some {n : Nat} {x : ShflMode} : ShflMode.ofBits n = some x ↔ n = x.toBits :=
  eq_some_iff_of_codes (fun x => by cases x <;> rfl) fun n x h => by
    unfold ShflMode.ofBits at h
    split at h <;> cases h <;> rfl

@[simp] theorem VoteMode.ofBits_eq_some {n : Nat} {x : VoteMode} : VoteMode.ofBits n = some x ↔ n = x.toBits :=
  eq_some_iff_of_codes (fun x => by cases x <;> rfl) fun n x h => by
    unfold VoteMode.ofBits at h
    split at h <;> cases h <;> rfl

@[simp] theorem ReduxOp.ofBits_eq_some {n : Nat} {x : ReduxOp} : ReduxOp.ofBits n = some x ↔ n = x.toBits :=
  eq_some_iff_of_codes (fun x => by cases x <;> rfl) fun n x h => by
    unfold ReduxOp.ofBits at h
    split at h <;> cases h <;> rfl

@[simp] theorem FReduxOp.ofBits_eq_some {n : Nat} {x : FReduxOp} : FReduxOp.ofBits n = some x ↔ n = x.toBits :=
  eq_some_iff_of_codes (fun x => by cases x <;> rfl) fun n x h => by
    unfold FReduxOp.ofBits at h
    split at h <;> cases h <;> rfl

@[simp] theorem BraCond.ofBits_eq_some {n : Nat} {x : BraCond} : BraCond.ofBits n = some x ↔ n = x.toBits :=
  eq_some_iff_of_codes (fun x => by cases x <;> rfl) fun n x h => by
    unfold BraCond.ofBits at h
    split at h <;> cases h <;> rfl

@[simp] theorem BarqSel.ofBits_eq_some {n : Nat} {x : BarqSel} : BarqSel.ofBits n = some x ↔ n = x.toBits :=
  eq_some_iff_of_codes (fun x => by cases x <;> rfl) fun n x h => by
    unfold BarqSel.ofBits at h
    split at h <;> cases h <;> rfl

@[simp] theorem HScope.ofBits_eq_some {n : Nat} {x : HScope} : HScope.ofBits n = some x ↔ n = x.toBits :=
  eq_some_iff_of_codes (fun x => by cases x <;> rfl) fun n x h => by
    unfold HScope.ofBits at h
    split at h <;> cases h <;> rfl

@[simp] theorem Scope.ofBits_eq_some {n : Nat} {x : Scope} : Scope.ofBits n = some x ↔ n = x.toBits :=
  eq_some_iff_of_codes (fun x => by cases x <;> rfl) fun n x h => by
    unfold Scope.ofBits at h
    split at h <;> cases h <;> rfl

@[simp] theorem MemSize.ofBits_eq_some {n : Nat} {x : MemSize} : MemSize.ofBits n = some x ↔ n = x.toBits :=
  eq_some_iff_of_codes (fun x => by cases x <;> rfl) fun n x h => by
    unfold MemSize.ofBits at h
    split at h <;> cases h <;> rfl

@[simp] theorem FragEl.ofBits_eq_some {n : Nat} {x : FragEl} : FragEl.ofBits n = some x ↔ n = x.toBits :=
  eq_some_iff_of_codes (fun x => by cases x <;> rfl) fun n x h => by
    unfold FragEl.ofBits at h
    split at h <;> cases h <;> rfl

@[simp] theorem AtomOp.ofBits_eq_some {n : Nat} {x : AtomOp} : AtomOp.ofBits n = some x ↔ n = x.toBits :=
  eq_some_iff_of_codes (fun x => by cases x <;> rfl) fun n x h => by
    unfold AtomOp.ofBits at h
    split at h <;> cases h <;> rfl

/-! ### Fields of operands -/

theorem bit_lt (b : Bool) : bit b < 2 := by cases b <;> decide

/-- One bit of a flag, in the form whose bound `omega` knows. -/
theorem bit_eq_toNat (b : Bool) : bit b = (BitVec.ofBool b).toNat := by cases b <;> rfl

theorem optBit_eq_toNat (o : Option Nat) : optBit o = (BitVec.ofBool o.isSome).toNat := by cases o <;> rfl

theorem optLt_succ {o : Option Nat} {n : Nat} : optLt o (n + 1) = true ↔ o.getD 0 < n + 1 := by
  cases o <;> simp [optLt]

@[simp] theorem mod_two_beq_one {n : Nat} {b : Bool} : (n % 2 == 1) = b ↔ n % 2 = bit b := by
  cases b <;> simp [bit]

@[simp] theorem optOf_eq {n : Nat} {o : Option Nat} : optOf (n % 2) (o.getD 0) = o ↔ n % 2 = optBit o := by
  cases o <;> simp [optOf, optBit]

@[simp] theorem Src.toField_lt {a : Src} (h : a.wf = true) : a.toField < 1024 := by
  cases a with
  | lat r hi =>
    have := bit_lt hi
    simp only [Src.wf, Src.toField, decide_eq_true_eq] at h ⊢
    omega
  | _ =>
    simp only [Src.wf, Src.toField, Bool.and_eq_true, decide_eq_true_eq] at h ⊢
    omega

@[simp] theorem Src.ofField_toField {a : Src} (h : a.wf = true) : Src.ofField a.toField = a := by
  cases a <;> simp only [Src.wf, Src.toField, Bool.and_eq_true, decide_eq_true_eq] at h ⊢
  case reg n => simp [ofField, show n / 256 = 0 by omega, h]
  case spec n => simp [ofField, show n / 256 = 0 by omega, h]
  case g n => simp [ofField, show (256 + n) / 256 = 1 by omega]
  case lat r hi =>
    have := bit_lt hi
    simp only [ofField, show (512 + r + 4 * bit hi) / 256 = 2 by omega]
    cases hi <;> simp [bit] <;> omega
  case const k => simp [ofField, show (768 + k) / 256 = 3 by omega, show 768 + k < 800 by omega]
  case lit j => simp [ofField, show (800 + j) / 256 = 3 by omega]

@[simp] theorem Guard.toField_lt {gd : Guard} (h : gd.wf = true) : gd.toField < 128 := by
  cases gd <;> simp only [Guard.wf, Guard.toField, decide_eq_true_eq] at h ⊢ <;> omega

@[simp] theorem Guard.negBit_le (gd : Guard) : gd.negBit ≤ 1 := by
  cases gd <;> simp [Guard.negBit]

@[simp] theorem Guard.toField_always_lt : Guard.always.toField < 128 := by decide

@[simp] theorem guardOf_toField {gd : Guard} (h : gd.wf = true) (opc dst nwb a b c md : Nat) :
    guardOf ⟨opc, dst, nwb, gd.toField, gd.negBit, a, b, c, md⟩ = gd := by
  cases gd <;> simp [Guard.wf, guardOf, Guard.toField, Guard.negBit] at h ⊢ <;> omega

@[simp] theorem guardOf_always (opc dst nwb a b c md : Nat) :
    guardOf ⟨opc, dst, nwb, Guard.always.toField, Guard.always.negBit, a, b, c, md⟩ = .always := rfl

@[simp] theorem Dst.idx_lt {d : Dst} (h : d.wf = true) : d.idx < 256 := by
  cases d <;> simp [Dst.wf, Dst.idx] at h ⊢ <;> omega

@[simp] theorem Dst.nwb_le (d : Dst) : d.nwb ≤ 1 := by
  cases d <;> simp [Dst.nwb]

theorem Dst.dg_lt (d : Dst) : d.dg < 2 := by
  cases d <;> simp [Dst.dg]

theorem dstOf_eq (d : Dst) {opc g n a b c md : Nat} (h : md / 256 = d.dg) : dstOf ⟨opc, d.idx, d.nwb, g, n, a, b, c, md⟩ = d := by
  cases d <;> simp_all [dstOf, Dst.idx, Dst.nwb, Dst.dg] <;> omega

@[simp] theorem PDst.idx_lt {d : PDst} (h : d.wf = true) : d.idx < 256 := by
  cases d <;> simp [PDst.wf, PDst.idx] at h ⊢ <;> omega

@[simp] theorem PDst.nwb_le (p : PDst) : p.nwb ≤ 1 := by
  cases p <;> simp [PDst.nwb]

@[simp] theorem pdstOf_idx (p : PDst) (opc g n a b c md : Nat) : pdstOf ⟨opc, p.idx, p.nwb, g, n, a, b, c, md⟩ = p := by
  cases p <;> rfl

@[simp] theorem UnpkSel.mk_src_eq {b : UnpkSel} {r : Rm} : UnpkSel.mk b.src r = b ↔ r = b.rm := by
  cases b
  simp

/-! ### Opcodes that several words share: what MOD says which -/

@[simp] theorem Dst.dg_mul_add_mod_four (d : Dst) (n : Nat) : (d.dg * 256 + n) % 4 = n % 4 := by omega

@[simp] theorem Scope.toBits_div_eight (sc : Scope) : sc.toBits / 8 = 0 := by cases sc <;> rfl

@[simp] theorem HScope.toBits_div_eight (sc : HScope) : sc.toBits / 8 = 0 := by cases sc <;> rfl

@[simp] theorem HScope.arr_op (sc : HScope) : (8 + sc.toBits) / 8 = 1 := by cases sc <;> rfl

@[simp] theorem HScope.wait_op (n : Nat) (sc : HScope) : (n * 32 + 16 + sc.toBits) / 8 % 4 = 2 := by
  have := sc.toBits_lt
  omega

@[simp] theorem HScope.q_op (n : Nat) (sc : HScope) : (n * 64 + 24 + sc.toBits) / 8 % 4 = 3 := by
  have := sc.toBits_lt
  omega

@[simp] theorem cbarQ_op (n : Nat) : (n * 16 + 4) % 8 = 4 := by omega

/-! ### Words and fields -/

/-- Each field lies within its bits of the word (R312). -/
structure Fields.Bounded (f : Fields) : Prop where
  opc : f.opc < 256
  dst : f.dst < 256
  nwb : f.nwb < 2
  guard : f.guard < 128
  neg : f.neg < 2
  a : f.a < 1024
  b : f.b < 1024
  c : f.c < 1024
  md : f.md < 512

theorem Fields.bounded_iff (f : Fields) : f.Bounded ↔ f.opc < 256 ∧ f.dst < 256 ∧ f.nwb < 2 ∧ f.guard < 128 ∧ f.neg < 2 ∧
    f.a < 1024 ∧ f.b < 1024 ∧ f.c < 1024 ∧ f.md < 512 :=
  ⟨fun ⟨hopc, hdst, hnwb, hguard, hneg, ha, hb, hc, hmd⟩ => ⟨hopc, hdst, hnwb, hguard, hneg, ha, hb, hc, hmd⟩,
    fun ⟨hopc, hdst, hnwb, hguard, hneg, ha, hb, hc, hmd⟩ => ⟨hopc, hdst, hnwb, hguard, hneg, ha, hb, hc, hmd⟩⟩

/-- Fields within their bits are those of their word. -/
theorem Fields.ofWord_toWord {f : Fields} (h : f.Bounded) : Fields.ofWord f.toWord = f := by
  obtain ⟨opc, dst, nwb, guard, neg, a, b, c, md⟩ := f
  obtain ⟨hopc, hdst, hnwb, hguard, hneg, ha, hb, hc, hmd⟩ := h
  dsimp only at *
  simp only [ofWord, toWord, BitVec.toNat_ofNat, Fields.mk.injEq]
  omega

/-- A word is that of its fields: they leave out no bit. -/
theorem Fields.toWord_ofWord (w : W64) : (Fields.ofWord w).toWord = w := by
  apply BitVec.eq_of_toNat_eq
  have := w.isLt
  simp only [ofWord, toWord, BitVec.toNat_ofNat]
  omega

theorem Fields.ofWord_opc (w : W64) : (Fields.ofWord w).opc = w.toNat / 2 ^ 56 := by
  have := w.isLt
  simp only [ofWord]
  omega

theorem Fields.ofWord_md (w : W64) : (Fields.ofWord w).md = w.toNat % 512 := rfl

theorem Fields.toWord_mod (f : Fields) : f.toWord.toNat % 512 = f.md % 512 := by
  simp only [toWord, BitVec.toNat_ofNat]
  omega

theorem mod_of_encode {i : Instr} {w : W64} {f : Fields} (h : encode i = some w) (hf : i.fields? = some f) : w.toNat % 512 = f.md % 512 := by
  rw [encode, hf, Option.map_some, Option.some.injEq] at h
  rw [← h, Fields.toWord_mod]

/-! ### The decoder on the fields of an instruction -/

theorem Instr.row_of_fields {i : Instr} {f : Fields} (hf : i.fields? = some f) :
    f.opc / 16 ∈ [0, 1, 2, 3, 4, 5, 7, 9, 10, 11, 13, 14, 15] := by
  cases i <;> cases hf <;> dsimp only <;> decide

theorem Instr.isWord_of_fields {i : Instr} {f : Fields} (hf : i.fields? = some f) : i.isWord = true := by
  cases i <;> cases hf <;> rfl

theorem Instr.fields_of_isWord {i : Instr} (h : i.isWord = true) : ∃ f, i.fields? = some f := by
  cases hf : i.fields? with
  | some f => exact ⟨f, rfl⟩
  | none => cases i <;> cases hf <;> cases h

/-- The fields lie within their bits and have an assigned opcode, and the decoder finds instruction `i` in them. -/
def Fields.Names (f : Fields) (i : Instr) : Prop := f.Bounded ∧ unassigned f.opc = false ∧ candidate f = some i

theorem Fields.names_iff (f : Fields) (i : Instr) : f.Names i ↔
    (f.opc < 256 ∧ f.dst < 256 ∧ f.nwb < 2 ∧ f.guard < 128 ∧ f.neg < 2 ∧ f.a < 1024 ∧ f.b < 1024 ∧ f.c < 1024 ∧ f.md < 512) ∧
      unassigned f.opc = false ∧ candidate f = some i := by
  rw [Fields.Names, Fields.bounded_iff]

section Rows

variable {i : Instr} {f : Fields} (hw : i.wf = true) (hf : i.fields? = some f)
include hw hf

theorem names_row0 (hk : f.opc / 16 = 0) : f.Names i := by
  rw [Fields.names_iff]
  cases i
  all_goals cases hf
  all_goals try (dsimp only at hk; cases hk; done)
  all_goals simp only [Instr.wf, Bool.and_eq_true] at hw
  all_goals simp [candidate, candidate0, unassigned, Option.bind_eq_some_iff, hw]
  all_goals try have := Dst.dg_lt ‹Dst›
  all_goals try have := SatMode.toBits_lt ‹SatMode›
  all_goals try rw [dstOf_eq]
  all_goals try simp only [bit_eq_toNat, true_and, and_true]
  all_goals omega

theorem names_row1 (hk : f.opc / 16 = 1) : f.Names i := by
  rw [Fields.names_iff]
  cases i
  all_goals cases hf
  all_goals try (dsimp only at hk; cases hk; done)
  all_goals simp only [Instr.wf, Bool.and_eq_true, decide_eq_true_eq] at hw
  all_goals simp [candidate, candidate1, unassigned, Option.bind_eq_some_iff, hw]
  all_goals try have := Dst.dg_lt ‹Dst›
  all_goals try have := ICond.toBits_lt ‹ICond›
  all_goals try rw [dstOf_eq]
  all_goals try simp only [bit_eq_toNat, true_and, and_true]
  all_goals omega

theorem names_row2 (hk : f.opc / 16 = 2) : f.Names i := by
  rw [Fields.names_iff]
  cases i
  all_goals cases hf
  all_goals try (dsimp only at hk; cases hk; done)
  all_goals simp only [Instr.wf, Bool.and_eq_true, decide_eq_true_eq] at hw
  all_goals simp [candidate, candidate2, unassigned, Option.bind_eq_some_iff, hw]
  all_goals try have := Dst.dg_lt ‹Dst›
  all_goals try have := ShfMode.toBits_lt ‹ShfMode›
  all_goals try have := ExtWidth.toBits_lt ‹ExtWidth›
  all_goals try rw [dstOf_eq]
  all_goals try simp only [bit_eq_toNat, true_and, and_true]
  all_goals omega

theorem names_row3 (hk : f.opc / 16 = 3) : f.Names i := by
  rw [Fields.names_iff]
  cases i
  all_goals cases hf
  all_goals try (dsimp only at hk; cases hk; done)
  all_goals simp only [Instr.wf, Bool.and_eq_true] at hw
  all_goals simp [candidate, candidate3, unassigned, Option.bind_eq_some_iff, hw]
  all_goals try have := Dst.dg_lt ‹Dst›
  all_goals try have := Rm.toBits_lt ‹Rm›
  all_goals try have := FCond.toBits_lt ‹FCond›
  all_goals try rw [dstOf_eq]
  all_goals try simp only [bit_eq_toNat, true_and, and_true]
  all_goals omega

theorem names_row4 (hk : f.opc / 16 = 4) : f.Names i := by
  rw [Fields.names_iff]
  cases i
  all_goals cases hf
  all_goals try (dsimp only at hk; cases hk; done)
  all_goals simp only [Instr.wf, Bool.and_eq_true, decide_eq_true_eq, optLt_succ] at hw
  all_goals simp [candidate, candidate4, unassigned, Option.bind_eq_some_iff, hw]
  all_goals try have := Dst.dg_lt ‹Dst›
  all_goals try have := Rm.toBits_lt ‹Rm›
  all_goals try have := FCond.toBits_lt ‹FCond›
  all_goals try have := CvtFSrc.toBits_lt ‹CvtFSrc›
  all_goals try rw [dstOf_eq]
  all_goals try simp only [bit_eq_toNat, optBit_eq_toNat, true_and, and_true]
  all_goals omega

theorem names_row5 (hk : f.opc / 16 = 5) : f.Names i := by
  rw [Fields.names_iff]
  cases i
  all_goals cases hf
  all_goals try (dsimp only at hk; cases hk; done)
  all_goals simp only [Instr.wf, Bool.and_eq_true, decide_eq_true_eq, optLt_succ] at hw
  all_goals simp [candidate, candidate5, unassigned, Option.bind_eq_some_iff, hw]
  all_goals try have := Dst.dg_lt ‹Dst›
  all_goals try have := Rm.toBits_lt ‹Rm›
  all_goals try have := CvtIDst.toBits_lt ‹CvtIDst›
  all_goals try have := CvtDSrc.toBits_lt ‹CvtDSrc›
  all_goals try have := F8To.toBits_lt ‹F8To›
  all_goals try have := F8From.toBits_lt ‹F8From›
  all_goals try have := MxFmt.toBits_lt ‹MxFmt›
  all_goals try have := Rm.toBits_lt (‹UnpkSel›).rm
  all_goals try rw [dstOf_eq]
  all_goals try simp only [bit_eq_toNat, optBit_eq_toNat, true_and, and_true]
  all_goals omega

theorem names_row7 (hk : f.opc / 16 = 7) : f.Names i := by
  rw [Fields.names_iff]
  cases i
  all_goals cases hf
  all_goals try (dsimp only at hk; cases hk; done)
  all_goals simp only [Instr.wf, Bool.and_eq_true, decide_eq_true_eq] at hw
  all_goals simp [candidate, candidate7, unassigned, Option.bind_eq_some_iff, hw]
  all_goals try have := Dst.dg_lt ‹Dst›
  all_goals try have := ShflMode.toBits_lt ‹ShflMode›
  all_goals try have := VoteMode.toBits_lt ‹VoteMode›
  all_goals try have := ReduxOp.toBits_lt ‹ReduxOp›
  all_goals try have := FReduxOp.toBits_lt ‹FReduxOp›
  all_goals try rw [dstOf_eq]
  all_goals try simp only [bit_eq_toNat, true_and, and_true]
  all_goals omega

theorem names_row9 (hk : f.opc / 16 = 9) : f.Names i := by
  rw [Fields.names_iff]
  cases i
  all_goals cases hf
  all_goals try (dsimp only at hk; cases hk; done)
  all_goals simp only [Instr.wf, Bool.and_eq_true, decide_eq_true_eq] at hw
  all_goals simp [candidate, candidate9, unassigned, Option.bind_eq_some_iff, hw]
  all_goals try have := BraCond.toBits_lt ‹BraCond›
  all_goals try simp only [bit_eq_toNat]
  all_goals omega

theorem names_rowA (hk : f.opc / 16 = 10) : f.Names i := by
  rw [Fields.names_iff]
  cases i
  all_goals cases hf
  all_goals try (dsimp only at hk; cases hk; done)
  all_goals simp only [Instr.wf, Bool.and_eq_true, decide_eq_true_eq, optLt_succ] at hw
  all_goals simp [candidate, candidateA, unassigned, Option.bind_eq_some_iff, hw]
  all_goals try have := Dst.dg_lt ‹Dst›
  all_goals try have := BarqSel.toBits_lt ‹BarqSel›
  all_goals try have := HScope.toBits_lt ‹HScope›
  all_goals try rw [dstOf_eq]
  all_goals try simp only [bit_eq_toNat, optBit_eq_toNat, and_true]
  all_goals omega

theorem names_rowB (hk : f.opc / 16 = 11) : f.Names i := by
  rw [Fields.names_iff]
  cases i
  all_goals cases hf
  all_goals try (dsimp only at hk; cases hk; done)
  all_goals simp only [Instr.wf, Bool.and_eq_true, decide_eq_true_eq, optLt_succ] at hw
  all_goals simp [candidate, candidateB, unassigned, Option.bind_eq_some_iff, hw]
  all_goals try have := Dst.dg_lt ‹Dst›
  all_goals try have := MemSize.toBits_lt ‹MemSize›
  all_goals try have := FragEl.toBits_lt ‹FragEl›
  all_goals try have := Scope.toBits_lt ‹Scope›
  all_goals try have := AtomOp.toBits_lt ‹AtomOp›
  all_goals try rw [dstOf_eq]
  all_goals try simp only [bit_eq_toNat, optBit_eq_toNat, true_and]
  all_goals omega

theorem names_rowD (hk : f.opc / 16 = 13) : f.Names i := by
  rw [Fields.names_iff]
  cases i
  all_goals cases hf
  all_goals try (dsimp only at hk; cases hk; done)
  all_goals simp only [Instr.wf, Bool.and_eq_true, decide_eq_true_eq, optLt_succ] at hw
  all_goals simp [candidate, candidateD, unassigned, hw]
  all_goals try simp only [bit_eq_toNat, optBit_eq_toNat]
  all_goals omega

theorem names_rowE (hk : f.opc / 16 = 14) : f.Names i := by
  rw [Fields.names_iff]
  cases i
  all_goals cases hf
  all_goals try (dsimp only at hk; cases hk; done)
  all_goals simp only [Instr.wf, Bool.and_eq_true, decide_eq_true_eq] at hw
  all_goals simp [candidate, candidateE, unassigned, hw]
  all_goals try simp only [bit_eq_toNat]
  all_goals omega

theorem names_rowF (hk : f.opc / 16 = 15) : f.Names i := by
  rw [Fields.names_iff]
  cases i
  all_goals cases hf
  all_goals try (dsimp only at hk; cases hk; done)
  all_goals simp only [Instr.wf, Bool.and_eq_true, decide_eq_true_eq] at hw
  all_goals simp [candidate, candidateF, unassigned, hw]
  all_goals try have := Dst.dg_lt ‹Dst›
  all_goals try rw [dstOf_eq]
  all_goals try simp only [true_and, and_true]
  all_goals omega

/-- The decoder finds every well-formed instruction word in its fields. -/
theorem names_of_fields : f.Names i := by
  have hrow := Instr.row_of_fields hf
  simp only [List.mem_cons, List.not_mem_nil, or_false] at hrow
  rcases hrow with h | h | h | h | h | h | h | h | h | h | h | h | h
  · exact names_row0 hw hf h
  · exact names_row1 hw hf h
  · exact names_row2 hw hf h
  · exact names_row3 hw hf h
  · exact names_row4 hw hf h
  · exact names_row5 hw hf h
  · exact names_row7 hw hf h
  · exact names_row9 hw hf h
  · exact names_rowA hw hf h
  · exact names_rowB hw hf h
  · exact names_rowD hw hf h
  · exact names_rowE hw hf h
  · exact names_rowF hw hf h

end Rows

theorem decodeFields_of_names {f : Fields} {i : Instr} (hw : i.wf = true) (hf : i.fields? = some f) (h : f.Names i) : decodeFields f = .ok i := by
  obtain ⟨-, hu, hc⟩ := h
  simp [decodeFields, hu, hc, hw, hf]

/-- What the decoder accepts has the fields it read (R312). -/
theorem decodeFields_ok {f : Fields} {i : Instr} (h : decodeFields f = .ok i) : i.wf = true ∧ i.fields? = some f := by
  unfold decodeFields at h
  split at h
  · cases h
  · split at h
    · cases h
    · split at h
      next hok =>
        cases h
        simpa using hok
      · cases h

/-- The decoder refuses an assigned opcode with one cause alone (R323). -/
theorem decodeFields_error {f : Fields} {c : Cause} (hu : unassigned f.opc = false) (h : decodeFields f = .error c) : c = .illegalEncoding := by
  unfold decodeFields at h
  rw [if_neg (by simp [hu])] at h
  split at h
  · cases h
    rfl
  · split at h <;> cases h
    rfl

/-- Settles O50: the decoder finds the instruction in its fields, which are the fields of its word. -/
theorem encodedInstructionsDecodeToThemselves : Obligations.EncodedInstructionsDecodeToThemselves := by
  unfold Obligations.EncodedInstructionsDecodeToThemselves
  intro i hi hw
  obtain ⟨f, hf⟩ := Instr.fields_of_isWord hi
  have hn := names_of_fields hw hf
  refine ⟨f.toWord, by rw [encode, hf, Option.map_some], ?_⟩
  rw [decode, Fields.ofWord_toWord hn.1]
  exact decodeFields_of_names hw hf hn

theorem encode_of_decode {w : W64} {i : Instr} (h : decode w = .ok i) : encode i = some w := by
  rw [encode, (decodeFields_ok h).2, Option.map_some, Fields.toWord_ofWord]

/-- Settles O51: the decoder compares the fields of what it finds with those it read, and they are the whole word. -/
theorem decodedWordsAreTheEncodingOfTheirInstruction : Obligations.DecodedWordsAreTheEncodingOfTheirInstruction := by
  unfold Obligations.DecodedWordsAreTheEncodingOfTheirInstruction
  refine ⟨fun w i h => ?_, fun w v i hw hv => ?_, fun w hu => ?_, fun w c hu h => ?_⟩
  · exact ⟨(decodeFields_ok h).1, Instr.isWord_of_fields (decodeFields_ok h).2, encode_of_decode h⟩
  · exact Option.some.inj ((encode_of_decode hw).symm.trans (encode_of_decode hv))
  · rw [← Fields.ofWord_opc] at hu
    exact if_pos hu
  · rw [← Fields.ofWord_opc] at hu
    exact decodeFields_error hu h

/-! ### Scope codes -/

theorem HScope.ofBits_eq_none {n : Nat} (h : n < 3 ∨ 6 ≤ n) : HScope.ofBits n = none :=
  Option.eq_none_iff_forall_ne_some.mpr fun x hx => by
    have := HScope.ofBits_eq_some.mp hx
    cases x <;> simp only [HScope.toBits] at this <;> omega

theorem Scope.ofBits_eq_none {n : Nat} (h : 6 ≤ n) : Scope.ofBits n = none :=
  Option.eq_none_iff_forall_ne_some.mpr fun x hx => by
    have := Scope.ofBits_eq_some.mp hx
    cases x <;> simp only [Scope.toBits] at this <;> omega

theorem decodeFields_of_none {f : Fields} (hu : unassigned f.opc = false) (hc : candidate f = none) : decodeFields f = .error .illegalEncoding := by
  simp [decodeFields, hu, hc]

theorem decodeFields_hbar {f : Fields} (ho : f.opc = 0xA6) (hs : f.md % 8 < 3 ∨ 6 ≤ f.md % 8) : decodeFields f = .error .illegalEncoding := by
  refine decodeFields_of_none (by rw [ho]; rfl) ?_
  have hn := HScope.ofBits_eq_none hs
  simp only [candidate, candidateA, ho, Nat.reduceDiv, Nat.reduceMod, Nat.div_one, hn]
  split <;> rfl

/-- A fence with code 6 or 7 is no `fence`, and no `fenceTc` either, whose code is 0. -/
theorem decodeFields_fence {f : Fields} (ho : f.opc = 0xB9) (hs : 6 ≤ f.md % 8) : decodeFields f = .error .illegalEncoding := by
  have hn := Scope.ofBits_eq_none hs
  by_cases hm : f.md / 8 % 2 = 0
  · refine decodeFields_of_none (by rw [ho]; rfl) ?_
    simp [candidate, candidateB, ho, hm, hn]
  · have hc : candidate f = some (.fenceTc (guardOf f)) := by
      simp [candidate, candidateB, ho, show f.md / 8 % 2 = 1 by omega]
    have hf : ((Instr.fenceTc (guardOf f)).fields? == some f) = false := by
      refine beq_eq_false_iff_ne.mpr fun h => ?_
      have hmd : 8 = f.md := congrArg Fields.md (Option.some.inj h)
      omega
    simp [decodeFields, ho, hc, hf, unassigned]

theorem decodeFields_atom {f : Fields} (ho : f.opc = 0xB6 ∨ f.opc = 0xB7) (hs : 6 ≤ f.md / 32 % 8) : decodeFields f = .error .illegalEncoding := by
  have hn := Scope.ofBits_eq_none hs
  rcases ho with ho | ho <;> refine decodeFields_of_none (by rw [ho]; rfl) ?_ <;> simp [candidate, candidateB, ho, hn]

/-- Settles O52: the code stands in MOD, which is the low nine bits of the word; a code with no scope leaves the decoder with no instruction, or with one whose fields differ. -/
theorem scopeCodesStandInTheirField : Obligations.ScopeCodesStandInTheirField := by
  unfold Obligations.ScopeCodesStandInTheirField
  refine ⟨fun gd sc w h => ?fence, fun gd i n sc w h => ?init, fun gd i sc w h => ?arr, fun gd p i ph sc w h => ?wait,
    fun gd d i bc sc w h => ?query, fun gd d a b sc w64 op w h => ?atom, fun gd d a x y sc w64 w h => ?cas, fun w ho hs => ?code,
    fun w ho hs => ?atomCode, fun w ho hs => ?below⟩
  case code =>
    rw [← Fields.ofWord_opc] at ho
    rcases ho with ho | ho
    · exact decodeFields_hbar ho (.inr (by rw [Fields.ofWord_md]; omega))
    · exact decodeFields_fence ho (by rw [Fields.ofWord_md]; omega)
  case atomCode =>
    rw [← Fields.ofWord_opc] at ho
    exact decodeFields_atom ho (by rw [Fields.ofWord_md]; omega)
  case below =>
    rw [← Fields.ofWord_opc] at ho
    exact decodeFields_hbar ho (.inl (by rw [Fields.ofWord_md]; omega))
  case atom =>
    have hm := mod_of_encode h rfl
    have := sc.toBits_lt
    have := op.toBits_lt
    have := bit_lt w64
    dsimp only at hm
    omega
  case cas =>
    have hm := mod_of_encode h rfl
    have := sc.toBits_lt
    have := bit_lt w64
    dsimp only at hm
    omega
  all_goals
    have hm := mod_of_encode h rfl
    have := sc.toBits_lt
    dsimp only at hm
    omega

/-- Settles O53, by decoding the four words. -/
theorem wordsOfTheManualDecodeAsItSays : Obligations.WordsOfTheManualDecodeAsItSays := by
  unfold Obligations.WordsOfTheManualDecodeAsItSays
  exact ⟨by decide, by decide, by decide, by decide⟩

end Sys2Proof

/-!
SUPPORT. Results of words on 32-bit operands (R345): a sum, difference, minimum or sign change of the integers two words stand for, reduced to
32 bits, is the operation of `BitVec` on the words.
-/
namespace Sys2Proof.Machine
set_option Elab.async false

/-! ### Results -/

theorem regResults_of {i : Instr} {d : Dst} {ty : Ty} {v v' : Env → Nat → W64} (h : ∀ s, exec i s = s.alu i d ty v)
    (hv : ∀ e l, v e l = v' e l) : RegResults i d ty v' := by
  have : v = v' := funext fun e => funext (hv e)
  exact regResults_of_alu (this ▸ h)

theorem mulResults_of {i : Instr} {d : Dst} {ty : Ty} {v v' : Env → Nat → W64} (h : ∀ s, exec i s = s.mul i d ty v)
    (hv : ∀ e l, v e l = v' e l) : MulResults i d ty v' := by
  have : v = v' := funext fun e => funext (hv e)
  exact mulResults_of_mul (this ▸ h)

theorem laneResults_of {i : Instr} {f f' : Env → Nat → LaneOut} (h : ∀ s, exec i s = s.lanewise i f) (hf : ∀ e l, f e l = f' e l) :
    LaneResults i f' := by
  have : f = f' := funext fun e => funext (hf e)
  exact laneResults_of_lanewise (this ▸ h)

/-! ### Operands as words -/

/-- A word read as unsigned or as signed. -/
def asInt {n : Nat} (u : Bool) (x : BitVec n) : Int := if u then x.toNat else x.toInt

theorem toInt_eq_sgn {n : Nat} (x : BitVec (n + 1)) : sgn (n + 1) x.toNat = x.toInt := by
  have hmod : (x.toNat : Int) % 2 ^ (n + 1) = x.toNat := by exact_mod_cast Nat.mod_eq_of_lt x.isLt
  rw [sgn, hmod, BitVec.toInt_eq_toNat_cond, Nat.mod_eq_of_lt x.isLt, Nat.add_sub_cancel, Nat.pow_succ]
  split <;> split <;> try omega
  all_goals push_cast; rfl

section Operands

variable (e : Env) (a : Src) (l : Nat) (u : Bool)

@[simp] theorem src_i32 : e.src .i32 a l = ofW (e.w a l) := by
  apply BitVec.eq_of_toNat_eq
  rw [ofW, BitVec.toNat_setWidth_of_le (by decide), toNat_w]
  rfl

@[simp] theorem src_i64 : e.src .i64 a l = e.d a l := rfl

@[simp] theorem n_i32 : e.n .i32 a l = (e.w a l).toNat := (toNat_w e a l).symm

@[simp] theorem n_i64 : e.n .i64 a l = (e.d a l).toNat := rfl

@[simp] theorem i_i32 : e.i .i32 a l = (e.w a l).toInt := by
  rw [Env.i, n_i32]
  exact toInt_eq_sgn _

@[simp] theorem i_i64 : e.i .i64 a l = (e.d a l).toInt := by
  rw [Env.i, n_i64]
  exact toInt_eq_sgn _

@[simp] theorem su_i32 : e.su u .i32 a l = asInt u (e.w a l) := by
  rw [Env.su, i_i32, n_i32]
  rfl

@[simp] theorem su_i64 : e.su u .i64 a l = asInt u (e.d a l) := by
  rw [Env.su, i_i64, n_i64]
  rfl

end Operands

/-! ### Integers as words -/

theorem wrap_eq_toNat (n : Nat) (x : Int) : wrap n x = (BitVec.ofInt n x).toNat := by
  rw [wrap, BitVec.toNat_ofInt]
  norm_cast

theorem w32_eq_ofW (x : Int) : w32 x = ofW (BitVec.ofInt 32 x) := by
  apply BitVec.eq_of_toNat_eq
  have := (BitVec.ofInt 32 x).isLt
  rw [w32, wrap_eq_toNat, ofW, BitVec.toNat_setWidth_of_le (by decide), BitVec.toNat_ofNat]
  omega

theorem ofInt_sub (n : Nat) (x y : Int) : BitVec.ofInt n (x - y) = BitVec.ofInt n x - BitVec.ofInt n y := by
  rw [Int.sub_eq_add_neg, BitVec.ofInt_add, BitVec.ofInt_neg, BitVec.sub_eq_add_neg]

theorem ofInt_asInt {n : Nat} (u : Bool) (x : BitVec n) : BitVec.ofInt n (asInt u x) = x := by
  cases u
  · exact BitVec.ofInt_toInt
  · rw [asInt, if_pos rfl, BitVec.ofInt_natCast, BitVec.ofNat_toNat, BitVec.setWidth_eq]

theorem asInt_lt_iff {n : Nat} (u : Bool) (x y : BitVec n) : asInt u x < asInt u y ↔ (if u then x.ult y else x.slt y) = true := by
  cases u
  · simp [asInt, BitVec.slt]
  · simp [asInt, BitVec.ult]

section Words

variable (x y : W32)

@[simp] theorem w32_asInt (u : Bool) : w32 (asInt u x) = ofW x := by rw [w32_eq_ofW, ofInt_asInt]

@[simp] theorem w32_toInt : w32 x.toInt = ofW x := w32_asInt x false

@[simp] theorem w32_toNat : w32 (x.toNat : Int) = ofW x := w32_asInt x true

theorem toInt_bounds : -2147483648 ≤ x.toInt ∧ x.toInt < 2147483648 := ⟨BitVec.le_toInt x, BitVec.toInt_lt⟩

theorem w32_add : w32 (x.toInt + y.toInt) = ofW (x + y) := by
  rw [w32_eq_ofW, BitVec.ofInt_add, BitVec.ofInt_toInt, BitVec.ofInt_toInt]

theorem w32_sub : w32 (x.toInt - y.toInt) = ofW (x - y) := by
  rw [w32_eq_ofW, ofInt_sub, BitVec.ofInt_toInt, BitVec.ofInt_toInt]

theorem w32_clampS (z : Int) : w32 (clampS z) = if 2147483648 ≤ z then ofW (.intMax 32) else if z < -2147483648 then ofW (.intMin 32) else w32 z := by
  rw [clampS]
  split
  · rw [show max (-(2 ^ 31)) (min z (2 ^ 31 - 1)) = 2147483647 by omega]
    rfl
  · split
    · rw [show max (-(2 ^ 31)) (min z (2 ^ 31 - 1)) = -2147483648 by omega]
      rfl
    · rw [show max (-(2 ^ 31)) (min z (2 ^ 31 - 1)) = z by omega]

theorem w32_clampU (z : Int) : w32 (clampU z) = if 4294967296 ≤ z then ofW (.allOnes 32) else if z < 0 then ofW 0 else w32 z := by
  rw [clampU]
  split
  · rw [show max 0 (min z (2 ^ 32 - 1)) = 4294967295 by omega]
    rfl
  · split
    · rw [show max 0 (min z (2 ^ 32 - 1)) = 0 by omega]
      rfl
    · rw [show max 0 (min z (2 ^ 32 - 1)) = z by omega]

/-- A sum beyond the signed range has the sign of its first term. -/
theorem w32_clampS_add : w32 (clampS (x.toInt + y.toInt)) =
    ofW (if x.saddOverflow y then if x.msb then .intMin 32 else .intMax 32 else x + y) := by
  have hx := toInt_bounds x
  have hy := toInt_bounds y
  rw [w32_clampS, w32_add]
  simp only [BitVec.saddOverflow, Bool.or_eq_true, decide_eq_true_eq, BitVec.msb_eq_toInt]
  norm_num
  split_ifs <;> try omega
  all_goals rfl

theorem w32_clampS_sub : w32 (clampS (x.toInt - y.toInt)) =
    ofW (if x.ssubOverflow y then if x.msb then .intMin 32 else .intMax 32 else x - y) := by
  have hx := toInt_bounds x
  have hy := toInt_bounds y
  rw [w32_clampS, w32_sub]
  simp only [BitVec.ssubOverflow, Bool.or_eq_true, decide_eq_true_eq, BitVec.msb_eq_toInt]
  norm_num
  split_ifs <;> try omega
  all_goals rfl

theorem w32_clampU_add : w32 (clampU (x.toNat + y.toNat)) = ofW (if x.uaddOverflow y then .allOnes 32 else x + y) := by
  rw [w32_clampU, w32_eq_ofW, BitVec.ofInt_add]
  simp only [BitVec.ofInt_natCast, BitVec.ofNat_toNat, BitVec.setWidth_eq, BitVec.uaddOverflow, decide_eq_true_eq]
  split_ifs <;> try omega
  all_goals rfl

theorem w32_clampU_sub : w32 (clampU ((x.toNat : Int) - y.toNat)) = ofW (if x.ult y then 0 else x - y) := by
  rw [w32_clampU, w32_eq_ofW, ofInt_sub]
  simp only [BitVec.ofInt_natCast, BitVec.ofNat_toNat, BitVec.setWidth_eq, BitVec.ult, decide_eq_true_eq]
  split_ifs <;> try omega
  all_goals rfl

theorem w32_min (u : Bool) : w32 (min (asInt u x) (asInt u y)) = ofW (if (if u then x.ult y else x.slt y) then x else y) := by
  simp only [← asInt_lt_iff]
  split_ifs with h
  · rw [min_eq_left h.le, w32_asInt]
  · rw [min_eq_right (not_lt.mp h), w32_asInt]

theorem w32_max (u : Bool) : w32 (max (asInt u x) (asInt u y)) = ofW (if (if u then x.ult y else x.slt y) then y else x) := by
  simp only [← asInt_lt_iff]
  split_ifs with h
  · rw [max_eq_right h.le, w32_asInt]
  · rw [max_eq_left (not_lt.mp h), w32_asInt]

theorem toInt_eq_min_iff : x.toInt = -2147483648 ↔ x = .intMin 32 :=
  ⟨fun h => BitVec.eq_of_toInt_eq (h.trans (by decide)), fun h => h ▸ by decide⟩

theorem w32_neg : w32 (-x.toInt) = ofW (-x) := by
  rw [w32_eq_ofW, BitVec.ofInt_neg, BitVec.ofInt_toInt]

theorem w32_natAbs : w32 x.toInt.natAbs = ofW x.abs := by
  rw [BitVec.abs, BitVec.msb_eq_toInt]
  split_ifs with h
  · rw [show ((x.toInt.natAbs : Nat) : Int) = -x.toInt by simp at h; omega, w32_neg]
    rfl
  · rw [show ((x.toInt.natAbs : Nat) : Int) = x.toInt by simp at h; omega, w32_toInt]

theorem ssatIf_neg (sat : Bool) : ssatIf sat (-x.toInt) = ofW (if sat && x == .intMin 32 then .intMax 32 else -x) := by
  have hx := toInt_bounds x
  have hm := toInt_eq_min_iff x
  cases sat
  · exact w32_neg x
  · simp only [ssatIf, if_pos, w32_clampS, w32_neg, Bool.true_and, beq_iff_eq, ← hm]
    split_ifs <;> try omega
    all_goals rfl

theorem ssatIf_natAbs (sat : Bool) : ssatIf sat x.toInt.natAbs = ofW (if sat && x == .intMin 32 then .intMax 32 else x.abs) := by
  have hx := toInt_bounds x
  have hm := toInt_eq_min_iff x
  cases sat
  · exact w32_natAbs x
  · simp only [ssatIf, if_pos, w32_clampS, w32_natAbs, Bool.true_and, beq_iff_eq, ← hm]
    split_ifs <;> try omega
    all_goals rfl

end Words

/-! ### Results of which the low word counts -/

@[simp] theorem lo32_ofW (x : W32) : lo32 (ofW x) = x := BitVec.setWidth_setWidth_of_le x (by decide)

@[simp] theorem lo32_w32 (z : Int) : lo32 (w32 z) = BitVec.ofInt 32 z := by rw [w32_eq_ofW, lo32_ofW]

@[simp] theorem lo32_w64 (z : Int) : lo32 (w64 z) = BitVec.ofInt 32 z := by
  apply BitVec.eq_of_toNat_eq
  simp only [lo32, w64, BitVec.toNat_setWidth, BitVec.toNat_ofInt, Nat.reducePow]
  omega

theorem lo32_ofNat (n : Nat) : lo32 (BitVec.ofNat 64 n) = BitVec.ofNat 32 n := BitVec.setWidth_ofNat_of_le (by decide) n

theorem reg_of_lo32 {v v' : W64} (h : lo32 v = lo32 v') (l : Nat) (d : Dst) : LaneOut.reg l d .i32 v = LaneOut.reg l d .i32 v' := by
  show LaneOut.ok l [.d32 d (lo32 v)] _ = _
  rw [h]
  rfl

theorem regResults_of_lo32 {i : Instr} {d : Dst} {v v' : Env → Nat → W64} (h : ∀ s, exec i s = s.alu i d .i32 v)
    (hv : ∀ e l, lo32 (v e l) = lo32 (v' e l)) : RegResults i d .i32 v' := by
  have : (fun e l => LaneOut.reg l d .i32 (v e l)) = fun e l => .reg l d .i32 (v' e l) :=
    funext fun e => funext fun l => reg_of_lo32 (hv e l) l d
  have hreg := regResults_of_alu h
  rw [RegResults, this] at hreg
  exact hreg

theorem mulResults_of_lo32 {i : Instr} {d : Dst} {v v' : Env → Nat → W64} (h : ∀ s, exec i s = s.mul i d .i32 v)
    (hv : ∀ e l, lo32 (v e l) = lo32 (v' e l)) : MulResults i d .i32 v' := by
  intro s e t hi hup
  rw [mulResults_of_mul h s e t hi hup, List.map_congr_left fun l _ => reg_of_lo32 (hv e l) l d]

/-- Settles O1: each word is the integer operation on its operands read as integers, reduced to 32 bits. -/
theorem integerSumWordsGiveTheirResults : Obligations.IntegerSumWordsGiveTheirResults := by
  unfold Obligations.IntegerSumWordsGiveTheirResults
  refine ⟨fun gd d a b => ?_, fun gd d a b => ?_, fun gd d a b => ?_, fun gd d a b => ?_, fun gd d a b => ?_, fun gd d a b => ?_,
    fun gd d a b u => ?_, fun gd d a b u => ?_, fun gd d a sat => ?_, fun gd d a sat => ?_⟩
  all_goals refine regResults_of (fun _ => rfl) fun e l => ?_
  all_goals simp only [satMode, i_i32, n_i32, su_i32]
  · exact w32_add _ _
  · exact w32_clampS_add _ _
  · exact w32_clampU_add _ _
  · exact w32_sub _ _
  · exact w32_clampS_sub _ _
  · exact w32_clampU_sub _ _
  · exact w32_min _ _ u
  · exact w32_max _ _ u
  · exact ssatIf_natAbs _ sat
  · exact ssatIf_neg _ sat

end Sys2Proof.Machine

/-!
SUPPORT. Logic, shifts, rotates, bit fields and counts (R345) on bit vectors.
-/
namespace Sys2Proof.Machine
set_option Elab.async false

/-! ### Bits of a number -/

theorem bitAt_eq_testBit (n k : Nat) : bitAt n k = n.testBit k := by
  rw [bitAt, Nat.testBit_eq_decide_div_mod_eq]
  rfl

@[simp] theorem bitAt_toNat_eq {n : Nat} (x : BitVec n) (k : Nat) : bitAt x.toNat k = x.getLsbD k := bitAt_eq_testBit _ _

theorem w32_ofNat (n : Nat) : w32 (n : Int) = ofW (BitVec.ofNat 32 n) := by rw [w32_eq_ofW, BitVec.ofInt_natCast]

theorem w32_of_lt {n : Nat} (h : n < 2 ^ 32) : w32 (n : Int) = BitVec.ofNat 64 n := by
  apply BitVec.eq_of_toNat_eq
  rw [w32_ofNat, ofW, BitVec.toNat_setWidth_of_le (by decide), BitVec.toNat_ofNat, BitVec.toNat_ofNat]
  omega

theorem sshiftRight_eq_ofInt {n : Nat} (x : BitVec n) (k : Nat) : x.sshiftRight k = BitVec.ofInt n (x.toInt / 2 ^ k) := by
  rw [BitVec.sshiftRight, Int.shiftRight_eq_div_pow]
  norm_cast

/-- A shift by more than the place of the sign bit leaves the sign alone. -/
theorem div_two_pow_min {n : Nat} {x : Int} (h1 : -2 ^ n ≤ x) (h2 : x < 2 ^ n) (k : Nat) : x / 2 ^ min k n = x / 2 ^ k := by
  rcases Nat.le_total k n with h | h
  · rw [Nat.min_eq_left h]
  · have hpow : (2 : Int) ^ n ≤ 2 ^ k := by exact_mod_cast Nat.pow_le_pow_right (by decide) h
    have hn : (0 : Int) < 2 ^ n := by positivity
    rw [Nat.min_eq_right h]
    rcases Int.lt_or_le x 0 with hx | hx
    · rw [Int.ediv_eq_neg_one_of_neg_of_le hx (by omega), Int.ediv_eq_neg_one_of_neg_of_le hx (by omega)]
    · rw [Int.ediv_eq_zero_of_lt hx h2, Int.ediv_eq_zero_of_lt hx (by omega)]

theorem rotateLeft_eq_ofNat {n : Nat} (x : BitVec n) {k : Nat} (hk : k < n) :
    x.rotateLeft k = BitVec.ofNat n (x.toNat * 2 ^ k + x.toNat / 2 ^ (n - k)) := by
  have hpow : 2 ^ n = 2 ^ k * 2 ^ (n - k) := by rw [← Nat.pow_add, Nat.add_sub_cancel' hk.le]
  have hlow : x.toNat / 2 ^ (n - k) < 2 ^ k := Nat.div_lt_of_lt_mul (by rw [Nat.mul_comm, ← hpow]; exact x.isLt)
  have hhigh : x.toNat * 2 ^ k % 2 ^ n = 2 ^ k * (x.toNat % 2 ^ (n - k)) := by rw [hpow, Nat.mul_comm, Nat.mul_mod_mul_left]
  have hlt : 2 ^ k * (x.toNat % 2 ^ (n - k)) + x.toNat / 2 ^ (n - k) < 2 ^ n := by
    have := Nat.mod_lt x.toNat (Nat.two_pow_pos (n - k))
    calc 2 ^ k * (x.toNat % 2 ^ (n - k)) + x.toNat / 2 ^ (n - k) < 2 ^ k * (x.toNat % 2 ^ (n - k)) + 2 ^ k := by omega
      _ = 2 ^ k * (x.toNat % 2 ^ (n - k) + 1) := by ring
      _ ≤ 2 ^ k * 2 ^ (n - k) := Nat.mul_le_mul_left _ this
      _ = 2 ^ n := hpow.symm
  have hsum : (x.toNat * 2 ^ k + x.toNat / 2 ^ (n - k)) % 2 ^ n = 2 ^ k * (x.toNat % 2 ^ (n - k)) + x.toNat / 2 ^ (n - k) := by
    rw [Nat.add_mod, hhigh, Nat.mod_eq_of_lt (lt_of_lt_of_le hlow (Nat.pow_le_pow_right (by decide) hk.le)), Nat.mod_eq_of_lt hlt]
  apply BitVec.eq_of_toNat_eq
  rw [BitVec.toNat_rotateLeft, Nat.mod_eq_of_lt hk, Nat.shiftLeft_eq, Nat.shiftRight_eq_div_pow, hhigh, ← Nat.two_pow_add_eq_or_of_lt hlow,
    BitVec.toNat_ofNat, hsum]

theorem shiftLeft_eq_ofNat {n : Nat} (x : BitVec n) (k : Nat) : x <<< k = BitVec.ofNat n (x.toNat * 2 ^ k) := by
  apply BitVec.eq_of_toNat_eq
  rw [BitVec.toNat_ofNat, BitVec.toNat_shiftLeft, Nat.shiftLeft_eq]

theorem ofInt_shiftLeft (n : Nat) (z : Int) (k : Nat) : BitVec.ofInt n z <<< k = BitVec.ofInt n (z * 2 ^ k) := by
  have htwo : BitVec.twoPow n k = BitVec.ofInt n (2 ^ k) := by
    apply BitVec.eq_of_toNat_eq
    rw [BitVec.toNat_twoPow, show (2 : Int) ^ k = ((2 ^ k : Nat) : Int) by push_cast; rfl, BitVec.ofInt_natCast, BitVec.toNat_ofNat]
  rw [BitVec.shiftLeft_eq_mul_twoPow, htwo, BitVec.ofInt_mul]

theorem shl_eq {n : Nat} (x : BitVec n) (k : Nat) : (if k < n then BitVec.ofNat n (x.toNat * 2 ^ k) else 0) = x <<< k := by
  split
  next h => exact (shiftLeft_eq_ofNat x k).symm
  next h => exact (BitVec.shiftLeft_eq_zero (by omega)).symm

theorem shr_eq {n : Nat} (x : BitVec n) (k : Nat) : (if k < n then BitVec.ofNat n (x.toNat / 2 ^ k) else 0) = x >>> k := by
  split
  next h =>
    apply BitVec.eq_of_toNat_eq
    rw [BitVec.toNat_ofNat, BitVec.toNat_ushiftRight, Nat.shiftRight_eq_div_pow, Nat.mod_eq_of_lt (lt_of_le_of_lt (Nat.div_le_self _ _) x.isLt)]
  next h => exact (BitVec.ushiftRight_eq_zero (by omega)).symm

theorem sar_eq {n : Nat} (x : BitVec (n + 1)) (k : Nat) : BitVec.ofInt (n + 1) (x.toInt / 2 ^ min k n) = x.sshiftRight k := by
  have hlo : -2 ^ n ≤ x.toInt := BitVec.le_toInt x
  have hhi : x.toInt < 2 ^ n := BitVec.toInt_lt
  rw [sshiftRight_eq_ofInt, div_two_pow_min hlo hhi]

section Words

variable (x y : W32) (n : Nat)

theorem popCount_eq_length : popCount x.toNat n = ((List.range n).filter fun k => x.getLsbD k).length := by
  induction n with
  | zero => rfl
  | succ n ih =>
    rw [popCount, ih, bitAt_toNat_eq, List.range_succ, List.filter_append, List.length_append]
    cases h : x.getLsbD n <;> simp [h]

theorem leadZeros_eq_clz : leadZeros x.toNat = x.clz.toNat := by
  unfold leadZeros
  split
  next h =>
    have hx : x = 0 := BitVec.eq_of_toNat_eq h
    subst hx
    rfl
  next h =>
    have hx : x ≠ 0 := fun hx => h (by rw [hx]; rfl)
    have hlo := BitVec.two_pow_sub_clz_le_toNat_of_ne_zero (by decide) hx
    have hhi := BitVec.toNat_lt_two_pow_sub_clz (x := x)
    have hlt : x.clz.toNat < 32 := by simpa [BitVec.lt_def] using BitVec.clz_lt_iff_ne_zero.mpr hx
    rw [(Nat.log2_eq_iff h).mpr ⟨hlo, by rwa [show 32 - 1 - x.clz.toNat + 1 = 32 - x.clz.toNat by omega]⟩]
    omega

theorem trailZeros_of_clear {x n k : Nat} (h : ∀ j, k ≤ j → j < k + n → bitAt x j = false) : trailZeros x n k = k + n := by
  induction n generalizing k with
  | zero => rfl
  | succ n ih =>
    rw [trailZeros, h k (Nat.le_refl k) (by omega), if_neg Bool.false_ne_true, ih fun j hj hlt => h j (by omega) (by omega)]
    omega

theorem trailZeros_of_first {x n k m : Nat} (hk : k ≤ m) (hm : m < k + n) (hset : bitAt x m = true) (hclear : ∀ j < m, bitAt x j = false) :
    trailZeros x n k = m := by
  induction n generalizing k with
  | zero => omega
  | succ n ih =>
    rw [trailZeros]
    split
    next h =>
      by_contra hne
      rw [hclear k (by omega)] at h
      cases h
    next h => exact ih (by rcases Nat.eq_or_lt_of_le hk with rfl | hlt; exacts [absurd hset h, hlt]) (by omega)

theorem trailZeros_eq_ctz : trailZeros x.toNat 32 0 = x.ctz.toNat := by
  by_cases hx : x = 0
  · subst hx
    have hrev : (0 : W32).reverse = 0 := BitVec.reverse_eq_zero_iff.mpr rfl
    rw [BitVec.ctz_eq_reverse_clz, hrev]
    exact trailZeros_of_clear fun j _ _ => by rw [bitAt_eq_testBit]; exact Nat.zero_testBit j
  · have hlt : x.ctz.toNat < 32 := by simpa [BitVec.lt_def] using BitVec.ctz_lt_iff_ne_zero.mpr hx
    refine trailZeros_of_first (Nat.zero_le _) (by omega) ?_ fun j hj => ?_
    · rw [bitAt_toNat_eq, BitVec.getLsbD_true_ctz_of_ne_zero hx]
    · rw [bitAt_toNat_eq, BitVec.getLsbD_false_of_lt_ctz hj]

theorem revBits_eq (x n : Nat) : revBits x (n + 1) = 2 ^ n * (x % 2) + revBits (x / 2) n := by
  rw [revBits, bitAt_eq_testBit, Nat.testBit_zero]
  rcases Nat.mod_two_eq_zero_or_one x with h | h <;> simp [h]

theorem revBits_lt (x n : Nat) : revBits x n < 2 ^ n := by
  induction n generalizing x with
  | zero => exact Nat.one_pos
  | succ n ih =>
    have := ih (x / 2)
    rw [revBits_eq, Nat.pow_succ]
    rcases Nat.mod_two_eq_zero_or_one x with h | h <;> rw [h] <;> omega

theorem testBit_revBits (x n k : Nat) : (revBits x n).testBit k = (decide (k < n) && x.testBit (n - 1 - k)) := by
  induction n generalizing x with
  | zero => simp [revBits]
  | succ n ih =>
    rw [revBits_eq, Nat.testBit_two_pow_mul_add _ (revBits_lt _ _), ih, Nat.testBit_div_two]
    split
    next h => rw [decide_eq_true h, decide_eq_true (show k < n + 1 by omega), show n - 1 - k + 1 = n + 1 - 1 - k by omega]
    next h =>
      rcases Nat.eq_or_lt_of_le (Nat.not_lt.mp h) with rfl | h
      · simp [Nat.testBit_zero]
      · rw [decide_eq_false (show ¬k < n + 1 by omega), Bool.false_and]
        refine Nat.testBit_lt_two_pow (lt_of_lt_of_le (Nat.mod_lt _ (by decide)) ?_)
        calc 2 = 2 ^ 1 := rfl
          _ ≤ 2 ^ (k - n) := Nat.pow_le_pow_right (by decide) (by omega)

theorem revBits_toNat {n : Nat} (x : BitVec n) : revBits x.toNat n = x.reverse.toNat := by
  refine Nat.eq_of_testBit_eq fun k => ?_
  rw [testBit_revBits, ← BitVec.getLsbD, ← BitVec.getLsbD, BitVec.getLsbD_reverse, BitVec.getMsbD]

end Words

/-! ### Bit fields -/

theorem bits_zero (n hi : Nat) : bits n hi 0 = n % 2 ^ (hi + 1) := by simp [bits]

theorem wrap_natCast (n m : Nat) : wrap n (m : Int) = m % 2 ^ n := by
  rw [wrap_eq_toNat, BitVec.ofInt_natCast, BitVec.toNat_ofNat]

theorem bfe_eq (x : W32) (pos : Nat) {len : Nat} (hlen : len ≤ 32) :
    (if len = 0 then 0 else BitVec.ofNat 32 (wrap len ((x.toNat : Int) / 2 ^ pos))) = (x >>> pos) &&& BitVec.ofNat 32 (2 ^ len - 1) := by
  have hpow : 2 ^ len ≤ 2 ^ 32 := Nat.pow_le_pow_right (by decide) hlen
  have hpos := Nat.two_pow_pos len
  have hwrap : wrap len ((x.toNat : Int) / 2 ^ pos) = x.toNat / 2 ^ pos % 2 ^ len := by
    rw [← wrap_natCast]
    norm_cast
  have hand : (x >>> pos) &&& BitVec.ofNat 32 (2 ^ len - 1) = BitVec.ofNat 32 (x.toNat / 2 ^ pos % 2 ^ len) := by
    apply BitVec.eq_of_toNat_eq
    rw [BitVec.toNat_and, BitVec.toNat_ushiftRight, BitVec.toNat_ofNat, BitVec.toNat_ofNat, Nat.mod_eq_of_lt (by omega : 2 ^ len - 1 < 2 ^ 32),
      Nat.and_two_pow_sub_one_eq_mod, Nat.shiftRight_eq_div_pow, Nat.mod_eq_of_lt (lt_of_lt_of_le (Nat.mod_lt _ hpos) hpow)]
  rw [hwrap, hand]
  split
  next h =>
    subst h
    rw [Nat.pow_zero, Nat.mod_one]
    rfl
  next => rfl

/-- The signed reading of the low bits is the remainder nearest to zero. -/
theorem sgn_wrap {n : Nat} (hn : n ≠ 0) (z : Int) : sgn n (wrap n z) = z.bmod (2 ^ n) := by
  obtain ⟨n, rfl⟩ := Nat.exists_eq_succ_of_ne_zero hn
  have hw : wrap (n + 1) z = (BitVec.ofInt (n + 1) z).toNat := wrap_eq_toNat _ _
  rw [Nat.succ_eq_add_one, hw, toInt_eq_sgn, BitVec.toInt_ofInt]

theorem bmod_mul_two_pow (z : Int) (k m : Nat) : (z * 2 ^ k).bmod (2 ^ (m + 1 + k)) = z.bmod (2 ^ (m + 1)) * 2 ^ k := by
  have hk : (0 : Int) < 2 ^ k := by positivity
  have hmod : z * 2 ^ k % (2 ^ (m + 1) * 2 ^ k) = z % 2 ^ (m + 1) * 2 ^ k := by
    rw [mul_comm z, mul_comm _ ((2 : Int) ^ k), Int.mul_emod_mul_of_pos _ _ hk, mul_comm]
  have hhalf : ((2 : Int) ^ (m + 1) * 2 ^ k + 1) / 2 = 2 ^ m * 2 ^ k := by rw [pow_succ, mul_right_comm]; omega
  have hhalf' : ((2 : Int) ^ (m + 1) + 1) / 2 = 2 ^ m := by rw [pow_succ]; omega
  simp only [Int.bmod_def, pow_add _ (m + 1)]
  push_cast
  rw [hmod, hhalf, hhalf']
  simp only [mul_lt_mul_iff_left₀ hk]
  split <;> ring

theorem bfe_signed_eq (x : W32) (pos : Nat) {len : Nat} (hlen : len ≤ 32) :
    (if len = 0 then 0 else BitVec.ofInt 32 (sgn len (wrap len (x.toInt / 2 ^ pos)))) =
      ((x.sshiftRight pos) <<< (32 - len)).sshiftRight (32 - len) := by
  split
  next h =>
    subst h
    rw [BitVec.shiftLeft_eq_zero (Nat.le_refl _), BitVec.zero_sshiftRight]
    rfl
  next h =>
    obtain ⟨m, rfl⟩ := Nat.exists_eq_add_one_of_ne_zero h
    have hb := bmod_mul_two_pow (x.toInt / 2 ^ pos) (32 - (m + 1)) m
    rw [Nat.add_sub_cancel' hlen] at hb
    rw [sshiftRight_eq_ofInt x, ofInt_shiftLeft, sshiftRight_eq_ofInt, BitVec.toInt_ofInt, hb, Int.mul_ediv_cancel _ (by positivity), sgn_wrap h]

theorem bfi_eq (x y : W32) (pos len : Nat) :
    (y &&& ~~~BitVec.ofNat 32 ((2 ^ len - 1) * 2 ^ pos)) ||| (BitVec.ofNat 32 (x.toNat * 2 ^ pos) &&& BitVec.ofNat 32 ((2 ^ len - 1) * 2 ^ pos)) =
      (y &&& ~~~(BitVec.ofNat 32 (2 ^ len - 1) <<< pos)) ||| ((x <<< pos) &&& (BitVec.ofNat 32 (2 ^ len - 1) <<< pos)) := by
  have hmask : BitVec.ofNat 32 ((2 ^ len - 1) * 2 ^ pos) = BitVec.ofNat 32 (2 ^ len - 1) <<< pos := by
    rw [shiftLeft_eq_ofNat, BitVec.toNat_ofNat]
    apply BitVec.eq_of_toNat_eq
    rw [BitVec.toNat_ofNat, BitVec.toNat_ofNat, Nat.mod_mul_mod]
  rw [hmask, ← shiftLeft_eq_ofNat]

/-! ### The words -/

section Words

variable (e : Env) (a : Src) (l : Nat)

@[simp] theorem lo32_src : lo32 (e.src .i32 a l) = e.w a l := rfl

@[simp] theorem lo32_zero : lo32 0 = 0 := rfl

@[simp] theorem lo32_and (x y : W64) : lo32 (x &&& y) = lo32 x &&& lo32 y := BitVec.setWidth_and

@[simp] theorem lo32_or (x y : W64) : lo32 (x ||| y) = lo32 x ||| lo32 y := BitVec.setWidth_or

@[simp] theorem lo32_xor (x y : W64) : lo32 (x ^^^ y) = lo32 x ^^^ lo32 y := BitVec.setWidth_xor

@[simp] theorem lo32_not (x : W64) : lo32 (~~~x) = ~~~(lo32 x) := BitVec.setWidth_not (by decide)

@[simp] theorem lo32_ite (c : Prop) [Decidable c] (x y : W64) : lo32 (if c then x else y) = if c then lo32 x else lo32 y := apply_ite ..

end Words

/-- Settles O2: each word's low 32 bits are the operation of `BitVec` on its operands. -/
theorem logicAndShiftWordsGiveTheirResults : Obligations.LogicAndShiftWordsGiveTheirResults := by
  unfold Obligations.LogicAndShiftWordsGiveTheirResults
  refine ⟨fun gd => laneResults_of (fun _ => rfl) fun e l => rfl, fun gd d a => ?mov, fun gd d a => regResults_of (fun _ => rfl) fun e l => rfl,
    fun gd d a b => ?and, fun gd d a b => ?or, fun gd d a b => ?xor, fun gd d a b => ?andn, fun gd d a => ?not, fun gd d a b => ?shl,
    fun gd d a b => ?shr, fun gd d a b => ?sar, fun gd d a b => ?rotl, fun gd d a b => ?bfe, fun gd d a b => ?bfes, fun gd d a b c => ?bfi,
    fun gd d a => ?popc, fun gd d a => ?clz, fun gd d a => ?ctz, fun gd d a => ?brev⟩
  all_goals refine regResults_of_lo32 (fun _ => rfl) fun e l => ?_
  all_goals simp only [n_i32, i_i32, su_i32, lo32_src, lo32_ofW, lo32_w32, lo32_and, lo32_or, lo32_xor, lo32_not, lo32_ite, lo32_zero,
    BitVec.ofInt_natCast]
  case mov => rfl
  case shl => exact shl_eq _ _
  case shr => exact shr_eq _ _
  case sar => exact sar_eq _ _
  case rotl => exact (rotateLeft_eq_ofNat _ (Nat.mod_lt _ (by decide))).symm
  case bfe => exact bfe_eq _ _ (Nat.min_le_right _ _)
  case bfes => exact bfe_signed_eq _ _ (Nat.min_le_right _ _)
  case bfi => exact (lo32_ofW _).trans (bfi_eq _ _ _ _)
  case popc => rw [popCount_eq_length, lo32_ofNat]
  case clz => rw [leadZeros_eq_clz, BitVec.ofNat_toNat, BitVec.setWidth_eq]
  case ctz => rw [trailZeros_eq_ctz, BitVec.ofNat_toNat, BitVec.setWidth_eq]
  case brev => rw [revBits_toNat, BitVec.ofNat_toNat, BitVec.setWidth_eq]

end Sys2Proof.Machine

/-!
SUPPORT. Division, 64-bit integers and extensions (R346, R347) on bit vectors.
-/
namespace Sys2Proof.Machine
set_option Elab.async false

@[simp] theorem wide_false : wide false = .i32 := rfl

@[simp] theorem wide_true : wide true = .i64 := rfl

/-! ### Division (R346) -/

section Division

variable {n : Nat} (x y : BitVec n)

theorem toInt_eq_zero_iff : x.toInt = 0 ↔ x = 0 := ⟨fun h => BitVec.eq_of_toInt_eq (by rw [h]; exact BitVec.toInt_zero.symm), fun h => h ▸ BitVec.toInt_zero⟩

theorem toNat_eq_zero_iff : (x.toNat : Int) = 0 ↔ x = 0 :=
  ⟨fun h => BitVec.eq_of_toNat_eq (by rw [Int.natCast_eq_zero.mp h]; exact BitVec.toNat_zero.symm), fun h => by rw [h]; exact congrArg _ BitVec.toNat_zero⟩

theorem ofInt_neg_one : BitVec.ofInt n (-1) = .allOnes n := by rw [BitVec.ofInt_neg, ← BitVec.neg_one_eq_allOnes]; rfl

theorem quotient_signed : BitVec.ofInt n (divRem x.toInt y.toInt).1 = if y = 0 then .allOnes n else x.sdiv y := by
  rw [divRem]
  simp only [toInt_eq_zero_iff, apply_ite Prod.fst, apply_ite (BitVec.ofInt n), ofInt_neg_one]
  refine ite_congr rfl (fun _ => rfl) fun _ => BitVec.eq_of_toInt_eq ?_
  rw [BitVec.toInt_ofInt, BitVec.toInt_sdiv]

theorem quotient_unsigned : BitVec.ofInt n (divRem x.toNat y.toNat).1 = if y = 0 then .allOnes n else x / y := by
  rw [divRem]
  simp only [toNat_eq_zero_iff, apply_ite Prod.fst, apply_ite (BitVec.ofInt n), ofInt_neg_one]
  refine ite_congr rfl (fun _ => rfl) fun _ => BitVec.eq_of_toNat_eq ?_
  rw [← Int.ofNat_tdiv, BitVec.ofInt_natCast, ← BitVec.toNat_udiv, BitVec.ofNat_toNat, BitVec.setWidth_eq]

theorem divRem_snd (x y : Int) : (divRem x y).2 = x.tmod y := by
  rw [divRem]
  split
  next h => rw [h, Int.tmod_zero]
  next => rfl

theorem remainder_signed : BitVec.ofInt n (divRem x.toInt y.toInt).2 = x.srem y := by
  rw [divRem_snd, ← BitVec.toInt_srem, BitVec.ofInt_toInt]

theorem remainder_unsigned : BitVec.ofInt n (divRem x.toNat y.toNat).2 = x % y := by
  rw [divRem_snd, ← Int.ofNat_tmod, ← BitVec.toNat_umod, BitVec.ofInt_natCast, BitVec.ofNat_toNat, BitVec.setWidth_eq]

end Division

/-! ### Extensions (R347) -/

theorem sgn_eq_toInt (n k : Nat) : sgn (n + 1) k = (BitVec.ofNat (n + 1) k).toInt := by
  rw [← toInt_eq_sgn, BitVec.toNat_ofNat, sgn, sgn]
  norm_cast
  rw [Nat.mod_mod]

theorem w64_asInt (u : Bool) (x : W32) : w64 (asInt u x) = if u then ofW x else x.signExtend 64 := by
  cases u
  · rfl
  · rw [asInt, if_pos rfl, w64, BitVec.ofInt_natCast, BitVec.ofNat_toNat]
    rfl

theorem w64_sgn (n : Nat) (x : W32) : w64 (sgn (n + 1) x.toNat) = (x.setWidth (n + 1)).signExtend 64 := by
  rw [sgn_eq_toInt, BitVec.ofNat_toNat]
  rfl

theorem w64_mod (n : Nat) (x : W32) : w64 ((x.toNat % 2 ^ n : Nat) : Int) = (x.setWidth n).setWidth 64 := by
  rw [w64, BitVec.ofInt_natCast, ← BitVec.toNat_setWidth, BitVec.ofNat_toNat]

/-- Settles O3: each word is the operation of `BitVec` at its width. -/
theorem divisionAndWideWordsGiveTheirResults : Obligations.DivisionAndWideWordsGiveTheirResults := by
  unfold Obligations.DivisionAndWideWordsGiveTheirResults
  refine ⟨fun gd d a b => ?div, fun gd d a b => ?udiv, fun gd d a b => ?div64, fun gd d a b => ?udiv64, fun gd d a b => ?rem, fun gd d a b => ?urem,
    fun gd d a b => ?rem64, fun gd d a b => ?urem64, fun gd d a b p w => regResults_of (fun _ => rfl) fun e l => rfl,
    fun gd d a b => regResults_of (fun _ => rfl) fun e l => rfl, fun gd d a b => regResults_of (fun _ => rfl) fun e l => rfl,
    fun gd d a b => ?shl, fun gd d a b => ?shr, fun gd d a b => ?sar, fun gd d a b => ?rot, fun gd d a b u sh => ?lea,
    fun gd d a w => ?ext8, fun gd d a w => ?sext8, fun gd d a w => ?ext16, fun gd d a w => ?sext16, fun gd d a w => ?ext32, fun gd d a w => ?sext32⟩
  case div =>
    refine regResults_of_lo32 (fun _ => rfl) fun e l => ?_
    rw [lo32_w64, lo32_ofW, ← quotient_signed, wide_false, su_i32, su_i32]
    rfl
  case udiv =>
    refine regResults_of_lo32 (fun _ => rfl) fun e l => ?_
    rw [lo32_w64, lo32_ofW, ← quotient_unsigned, wide_false, su_i32, su_i32]
    rfl
  case rem =>
    refine regResults_of_lo32 (fun _ => rfl) fun e l => ?_
    rw [lo32_w64, lo32_ofW, ← remainder_signed, wide_false, su_i32, su_i32]
    rfl
  case urem =>
    refine regResults_of_lo32 (fun _ => rfl) fun e l => ?_
    rw [lo32_w64, lo32_ofW, ← remainder_unsigned, wide_false, su_i32, su_i32]
    rfl
  all_goals refine regResults_of (fun _ => rfl) fun e l => ?_
  all_goals simp only [wide_true, su_i64, su_i32, n_i64, i_i64, n_i32]
  case div64 => exact quotient_signed _ _
  case udiv64 => exact quotient_unsigned _ _
  case rem64 => exact remainder_signed _ _
  case urem64 => exact remainder_unsigned _ _
  case shl => exact (ite_congr rfl (fun _ => BitVec.ofInt_natCast _ _) fun _ => rfl).trans (shl_eq _ _)
  case shr => exact (ite_congr rfl (fun _ => BitVec.ofInt_natCast _ _) fun _ => rfl).trans (shr_eq _ _)
  case sar => exact sar_eq _ _
  case rot => exact (BitVec.ofInt_natCast _ _).trans (rotateLeft_eq_ofNat _ (Nat.mod_lt _ (by decide))).symm
  case lea => rw [← w64_asInt, w64, w64, BitVec.ofInt_add, BitVec.ofInt_toInt, ofInt_shiftLeft]
  case ext8 => exact w64_mod 8 _
  case sext8 => exact w64_sgn 7 _
  case ext16 => exact w64_mod 16 _
  case sext16 => exact w64_sgn 15 _
  case ext32 => exact (w64_mod 32 _).trans (by rw [BitVec.setWidth_eq])
  case sext32 => exact (w64_sgn 31 _).trans (by rw [BitVec.setWidth_eq])

end Sys2Proof.Machine

/-!
SUPPORT. Compares, carries, truth tables and merged bytes (R347, R348).
-/
namespace Sys2Proof.Machine
set_option Elab.async false

/-! ### Compares -/

theorem asInt_inj {n : Nat} (u : Bool) {x y : BitVec n} : asInt u x = asInt u y ↔ x = y :=
  ⟨fun h => by rw [← ofInt_asInt u x, h, ofInt_asInt], fun h => h ▸ rfl⟩

theorem asInt_le_iff {n : Nat} (u : Bool) (x y : BitVec n) : asInt u x ≤ asInt u y ↔ (if u then x.ule y else x.sle y) = true := by
  cases u
  · simp [asInt, BitVec.sle]
  · simp [asInt, BitVec.ule]

theorem icond_asInt {n : Nat} (c : ICond) (u : Bool) (x y : BitVec n) : icond c (asInt u x) (asInt u y) = holdsOn c u x y := by
  cases c with
  | eq => exact Bool.eq_iff_iff.mpr (by simp only [icond, holdsOn, beq_iff_eq, asInt_inj])
  | ne => exact Bool.eq_iff_iff.mpr (by simp only [icond, holdsOn, bne_iff_ne, ne_eq, asInt_inj])
  | lt => exact Bool.eq_iff_iff.mpr (by simp only [icond, holdsOn, decide_eq_true_eq, asInt_lt_iff])
  | le => exact Bool.eq_iff_iff.mpr (by simp only [icond, holdsOn, decide_eq_true_eq, asInt_le_iff])
  | gt => exact Bool.eq_iff_iff.mpr (by simp only [icond, holdsOn, decide_eq_true_eq, asInt_lt_iff])
  | ge => exact Bool.eq_iff_iff.mpr (by simp only [icond, holdsOn, decide_eq_true_eq, asInt_le_iff])

/-! ### Carries -/

theorem addCarry_fst (x y : W32) (c : Bool) : (addCarry x.toNat y.toNat c).1 = x + y + (if c then 1 else 0) := by
  rw [addCarry]
  simp only [BitVec.ofNat_add, BitVec.ofNat_toNat, BitVec.setWidth_eq]
  cases c <;> rfl

theorem subBorrow_fst (x y : W32) (c : Bool) : (subBorrow x.toNat y.toNat c).1 = x - y - (if c then 1 else 0) := by
  rw [subBorrow]
  simp only [ofInt_sub, BitVec.ofInt_natCast, BitVec.ofNat_toNat, BitVec.setWidth_eq]
  cases c <;> rfl

theorem subBorrow_snd (x y : W32) (c : Bool) :
    (subBorrow x.toNat y.toNat c).2 = decide (x.toNat < y.toNat + (if c then 1 else 0)) := by
  rw [subBorrow]
  refine decide_eq_decide.mpr ?_
  cases c <;> simp
  omega

/-! ### Truth tables -/

/-- The place in the table of `lop3` that bit `k` of three words selects. -/
def lopIndex (a b c k : Nat) : Nat := 4 * (a / 2 ^ k % 2) + 2 * (b / 2 ^ k % 2) + c / 2 ^ k % 2

theorem lop3Bits_succ (t a b c n : Nat) :
    lop3Bits t a b c (n + 1) = lop3Bits t a b c n + (if bitAt t (lopIndex a b c n) then 2 ^ n else 0) := rfl

theorem lop3Bits_lt (t a b c n : Nat) : lop3Bits t a b c n < 2 ^ n := by
  induction n with
  | zero => exact Nat.one_pos
  | succ n ih =>
    rw [lop3Bits_succ, Nat.pow_succ]
    split <;> omega

theorem testBit_lop3Bits (t a b c n k : Nat) (h : k < n) : (lop3Bits t a b c n).testBit k = bitAt t (lopIndex a b c k) := by
  induction n with
  | zero => omega
  | succ n ih =>
    have hlt := lop3Bits_lt t a b c n
    rw [lop3Bits_succ]
    rcases Nat.eq_or_lt_of_le (Nat.lt_succ_iff.mp h) with rfl | h
    · cases hb : bitAt t (lopIndex a b c k)
      · rw [if_neg Bool.false_ne_true, Nat.add_zero, Nat.testBit_lt_two_pow hlt]
      · rw [if_pos rfl, Nat.add_comm, Nat.testBit_two_pow_add_eq, Nat.testBit_lt_two_pow hlt]
        rfl
    · split
      · rw [Nat.add_comm, Nat.testBit_two_pow_add_gt h, ih h]
      · rw [Nat.add_zero, ih h]

theorem div_two_pow_mod_two (x : W32) (k : Nat) : x.toNat / 2 ^ k % 2 = bit (x.getLsbD k) := by
  have h := bitAt_toNat_eq x k
  rw [← h, bitAt, bit]
  rcases Nat.mod_two_eq_zero_or_one (x.toNat / 2 ^ k) with h | h <;> rw [h] <;> rfl

theorem getLsbD_lop3 (t : Nat) (x y z : W32) {k : Nat} (h : k < 32) :
    (BitVec.ofNat 32 (lop3Bits t x.toNat y.toNat z.toNat 32)).getLsbD k =
      bitAt t (4 * bit (x.getLsbD k) + 2 * bit (y.getLsbD k) + bit (z.getLsbD k)) := by
  rw [BitVec.getLsbD_ofNat, decide_eq_true h, Bool.true_and, testBit_lop3Bits _ _ _ _ _ _ h, lopIndex]
  simp only [div_two_pow_mod_two]

/-! ### Merged bytes -/

/-- The byte that `bmrg` takes from a double word under a control byte. -/
def mergedByte (y : W64) (f : Nat) : Byte :=
  let z0 : Byte := (y >>> (8 * (f % 8))).setWidth 8
  let z1 := if bitAt f 3 then z0.reverse else z0
  let z := if bitAt f 4 then ~~~z1 else z1
  match f / 32 % 4 with
  | 0 => z
  | 1 => 0
  | 2 => 255
  | _ => if z.getLsbD 0 then 255 else 0

theorem mergeByte_eq (y : W64) (f : Nat) : mergeByte y.toNat f = (mergedByte y f).toNat := by
  have h0 : y.toNat / 2 ^ (8 * (f % 8)) % 256 = ((y >>> (8 * (f % 8))).setWidth 8).toNat := by
    rw [BitVec.toNat_setWidth, BitVec.toNat_ushiftRight, Nat.shiftRight_eq_div_pow]
  have h1 (c : Bool) (z : Byte) : (if c then revBits z.toNat 8 else z.toNat) = (if c then z.reverse else z).toNat := by
    rw [revBits_toNat, apply_ite BitVec.toNat]
  have h2 (c : Bool) (z : Byte) : (if c then 255 - z.toNat else z.toNat) = (if c then ~~~z else z).toNat := by
    rw [apply_ite BitVec.toNat, BitVec.toNat_not]
  have h3 (c : Bool) : (if c then 255 else 0) = (if c then (255 : Byte) else 0).toNat := by cases c <;> rfl
  rw [mergeByte, mergedByte]
  simp only [h0, h1, h2, bitAt_toNat_eq]
  rw [show bits f 6 5 = f / 32 % 4 from rfl]
  generalize f / 32 % 4 = m
  rcases m with _ | _ | _ | m
  · rfl
  · rfl
  · rfl
  · exact h3 _

theorem mergedByte_mod (y : W64) (f : Nat) : mergedByte y (f % 256) = mergedByte y f := by
  have h3 : bitAt (f % 256) 3 = bitAt f 3 := by rw [bitAt, bitAt, show f % 256 / 2 ^ 3 % 2 = f / 2 ^ 3 % 2 by omega]
  have h4 : bitAt (f % 256) 4 = bitAt f 4 := by rw [bitAt, bitAt, show f % 256 / 2 ^ 4 % 2 = f / 2 ^ 4 % 2 by omega]
  rw [mergedByte, mergedByte, h3, h4, show f % 256 % 8 = f % 8 by omega, show f % 256 / 32 % 4 = f / 32 % 4 by omega]

/-- Four bytes as one word, the first the lowest. -/
def fourBytes (b : Nat → Byte) : W32 :=
  BitVec.ofNat 32 ((b 0).toNat + (b 1).toNat * 256 + (b 2).toNat * 65536 + (b 3).toNat * 16777216)

theorem foldl_four (g : Nat → Nat) : ([0, 1, 2, 3].map g).foldl (· + ·) 0 = g 0 + g 1 + g 2 + g 3 := by
  rw [List.map_cons, List.map_cons, List.map_cons, List.map_cons, List.map_nil, List.foldl_cons, List.foldl_cons, List.foldl_cons,
    List.foldl_cons, List.foldl_nil, Nat.zero_add]

theorem foldl_bytes (g : Nat → Nat) :
    ([0, 1, 2, 3].map fun k => g k * 2 ^ (8 * k)).foldl (· + ·) 0 = g 0 + g 1 * 256 + g 2 * 65536 + g 3 * 16777216 := by
  rw [foldl_four]
  norm_num

theorem fourBytes_byte (b : Nat → Byte) {k : Nat} (h : k < 4) : (fourBytes b >>> (8 * k)).setWidth 8 = b k := by
  have h0 := (b 0).isLt
  have h1 := (b 1).isLt
  have h2 := (b 2).isLt
  have h3 := (b 3).isLt
  apply BitVec.eq_of_toNat_eq
  rw [BitVec.toNat_setWidth, BitVec.toNat_ushiftRight, fourBytes, BitVec.toNat_ofNat, Nat.shiftRight_eq_div_pow]
  interval_cases k <;> norm_num <;> omega

theorem toNat_cat32 (h l : W32) : (cat32 h l).toNat = h.toNat * 2 ^ 32 + l.toNat := by
  rw [cat32, BitVec.setWidth_eq, BitVec.toNat_append, Nat.shiftLeft_eq, Nat.mul_comm, ← Nat.two_pow_add_eq_or_of_lt l.isLt, Nat.mul_comm]

/-- The word `bmrg` makes from a double word and a control word. -/
def mergedWord (y : W64) (c : W32) : W32 := fourBytes fun k => mergedByte y (c >>> (8 * k)).toNat

theorem mergedWord_eq {h l c : W32} {x y z : Nat} (hx : x = h.toNat) (hy : y = l.toNat) (hz : z = c.toNat) :
    lo32 (w32 (([0, 1, 2, 3].map fun k => mergeByte (x * 2 ^ 32 + y) (z / 2 ^ (8 * k) % 256) * 2 ^ (8 * k)).foldl (· + ·) 0 : Nat)) =
      mergedWord (cat32 h l) c := by
  subst hx hy hz
  rw [foldl_bytes, ← toNat_cat32, lo32_w32, BitVec.ofInt_natCast]
  simp only [mergeByte_eq, mergedByte_mod, mergedWord, fourBytes, BitVec.toNat_ushiftRight, Nat.shiftRight_eq_div_pow]

/-- Settles O4: compares, carries, the bits of a truth table and the bytes of a merge, one at a time. -/
theorem compareCarryAndTableWordsGiveTheirResults : Obligations.CompareCarryAndTableWordsGiveTheirResults := by
  unfold Obligations.CompareCarryAndTableWordsGiveTheirResults
  refine ⟨fun gd p a b u c => laneResults_of (fun _ => rfl) fun e l => ?icmp, fun gd p a b u c => laneResults_of (fun _ => rfl) fun e l => ?icmp64,
    fun gd d a b p => laneResults_of (fun _ => rfl) fun e l => ?addc, fun gd d a b p => laneResults_of (fun _ => rfl) fun e l => ?subb,
    fun gd d a b c t => ⟨fun e l => BitVec.ofNat 32 (lop3Bits t (e.w a l).toNat (e.w b l).toNat (e.w c l).toNat 32),
      regResults_of_lo32 (fun _ => rfl) fun e l => ?lop, fun e l k hk => getLsbD_lop3 t _ _ _ hk⟩,
    fun gd d a b c sw => ⟨fun e l => mergedWord (if sw then cat32 (e.w a l) (e.w b l) else cat32 (e.w b l) (e.w a l)) (e.w c l),
      regResults_of_lo32 (fun _ => rfl) fun e l => ?bmrg, fun e l k hk => fourBytes_byte _ hk⟩⟩
  case icmp => rw [wide_false, su_i32, su_i32, icond_asInt]
  case icmp64 => rw [wide_true, su_i64, su_i64, icond_asInt]
  case addc =>
    simp only [n_i32, ← addCarry_fst]
    rfl
  case subb =>
    simp only [n_i32, ← subBorrow_fst, ← subBorrow_snd]
    rfl
  case lop => simp only [n_i32, lo32_w32, lo32_ofW, BitVec.ofInt_natCast]
  case bmrg =>
    rw [lo32_ofW]
    cases sw
    · exact mergedWord_eq (n_i32 e b l) (n_i32 e a l) (n_i32 e c l)
    · exact mergedWord_eq (n_i32 e a l) (n_i32 e b l) (n_i32 e c l)

end Sys2Proof.Machine

/-!
SUPPORT. The integer multiplications (R345, R347, R348): products of integers reduced to a width.
-/
namespace Sys2Proof.Machine
set_option Elab.async false

/-! ### Products -/

theorem lo32_ushiftRight (z : Int) : lo32 (w64 z >>> 32) = BitVec.ofInt 32 (z / 2 ^ 32) := by
  apply BitVec.eq_of_toNat_eq
  simp only [lo32, w64, BitVec.toNat_setWidth, BitVec.toNat_ushiftRight, BitVec.toNat_ofInt, Nat.reducePow, Int.reducePow, Nat.shiftRight_eq_div_pow]
  omega

theorem w64_mul_asInt (u : Bool) (x y : W32) : w64 (asInt u x * asInt u y) =
    (if u then ofW x else x.signExtend 64) * (if u then ofW y else y.signExtend 64) := by
  rw [← w64_asInt, ← w64_asInt]
  exact BitVec.ofInt_mul _ _

/-- A byte of a word as the integer that `dot4` multiplies. -/
def byteInt (u : Bool) (x k : Nat) : Int := if u then ((x / 2 ^ (8 * k) % 256 : Nat) : Int) else sgn 8 (x / 2 ^ (8 * k))

theorem ofInt_byteInt (u : Bool) (x : W32) (k : Nat) : BitVec.ofInt 32 (byteInt u x.toNat k) =
    if u then ((x >>> (8 * k)).setWidth 8).setWidth 32 else ((x >>> (8 * k)).setWidth 8).signExtend 32 := by
  have hbyte : BitVec.ofNat 8 (x.toNat / 2 ^ (8 * k)) = (x >>> (8 * k)).setWidth 8 := by
    rw [← Nat.shiftRight_eq_div_pow, ← BitVec.toNat_ushiftRight, BitVec.ofNat_toNat]
  cases u
  · rw [byteInt, if_neg Bool.false_ne_true, if_neg Bool.false_ne_true, sgn_eq_toInt, hbyte]
    rfl
  · rw [byteInt, if_pos rfl, if_pos rfl, BitVec.ofInt_natCast, ← hbyte, ← BitVec.ofNat_toNat, BitVec.toNat_ofNat]

/-- Settles O5: products reduced to their width. -/
theorem integerMultiplicationsGiveTheirResults : Obligations.IntegerMultiplicationsGiveTheirResults := by
  unfold Obligations.IntegerMultiplicationsGiveTheirResults
  refine ⟨fun gd d a b => mulResults_of_lo32 (fun _ => rfl) fun e l => ?mul, fun gd d a b => mulResults_of_lo32 (fun _ => rfl) fun e l => ?mulh,
    fun gd d a b => mulResults_of_lo32 (fun _ => rfl) fun e l => ?umulh, fun gd d a b c => mulResults_of_lo32 (fun _ => rfl) fun e l => ?mad,
    fun gd d a b c => mulResults_of (fun _ => rfl) fun e l => ?mad64, fun gd d a b c => mulResults_of (fun _ => rfl) fun e l => ?umad64,
    fun gd d a b c ub ua => mulResults_of_lo32 (fun _ => rfl) fun e l => ?dot⟩
  all_goals simp only [i_i32, su_i32, n_i32, i_i64, lo32_w32, lo32_ofW]
  case mul => rw [BitVec.ofInt_mul, BitVec.ofInt_toInt, BitVec.ofInt_toInt]
  case mulh => rw [← lo32_ushiftRight, w64_mul_asInt]; rfl
  case umulh => rw [← lo32_ushiftRight, w64_mul_asInt]; rfl
  case mad => rw [BitVec.ofInt_add, BitVec.ofInt_mul, BitVec.ofInt_toInt, BitVec.ofInt_toInt, BitVec.ofInt_toInt]
  case mad64 => rw [w64, BitVec.ofInt_add, ← w64, w64_mul_asInt, BitVec.ofInt_toInt]; rfl
  case umad64 => rw [w64, BitVec.ofInt_add, ← w64, w64_mul_asInt, BitVec.ofInt_toInt]; rfl
  case dot =>
    show BitVec.ofInt 32 ((e.w c l).toInt + byteInt ua (e.w a l).toNat 0 * byteInt ub (e.w b l).toNat 0
      + byteInt ua (e.w a l).toNat 1 * byteInt ub (e.w b l).toNat 1 + byteInt ua (e.w a l).toNat 2 * byteInt ub (e.w b l).toNat 2
      + byteInt ua (e.w a l).toNat 3 * byteInt ub (e.w b l).toNat 3) = _
    simp only [BitVec.ofInt_add, BitVec.ofInt_mul, BitVec.ofInt_toInt, ofInt_byteInt]

end Sys2Proof.Machine

/-!
SUPPORT. Floating-point words and conversions (R350 to R356): where the model's value and the stated one are written differently.
-/
namespace Sys2Proof.Machine
set_option Elab.async false

/-! ### Single words -/

theorem bitAt_n (e : Env) (b : Src) (l n : Nat) : bitAt (e.n .i32 b l) n = (e.w b l).getLsbD n := by rw [n_i32, bitAt_toNat_eq]

theorem fclass_out (e : Env) (p : PDst) (b : Src) (l n : Nat) : LaneOut.pd l p (bitAt (e.n .i32 b l) n) = .pd l p ((e.w b l).getLsbD n) :=
  congrArg (LaneOut.pd l p) (bitAt_n e b l n)

/-- Settles O6: each word is defined by its one rounding; `fclass` reads a bit of its mask. -/
theorem singleWordsRoundExactResultsOnce : Obligations.SingleWordsRoundExactResultsOnce := by
  unfold Obligations.SingleWordsRoundExactResultsOnce
  refine ⟨fun gd d a b sat rm => regResults_of_alu fun _ => rfl, fun gd d a b sat rm => regResults_of_alu fun _ => rfl,
    fun gd d a b sat rm => mulResults_of_mul fun _ => rfl, fun gd d a b c sat rm => mulResults_of_mul fun _ => rfl,
    fun gd d a b => regResults_of_alu fun _ => rfl, fun gd d a b => regResults_of_alu fun _ => rfl,
    fun gd p a b c => laneResults_of_lanewise fun _ => rfl, fun gd p a b => laneResults_of (fun _ => rfl) fun e l => fclass_out e p b l _,
    fun gd p a b => laneResults_of (fun _ => rfl) fun e l => fclass_out e p b l _, fun gd d a sat rm => regResults_of_alu fun _ => rfl,
    fun gd d a rm => regResults_of_alu fun _ => rfl, fun gd d a rm => regResults_of_alu fun _ => rfl,
    fun gd d a b c bf sat rm => mulResults_of_mul fun _ => rfl, ?_, ?_, ?_, ?_, ?_, ?_⟩
  all_goals exact fun gd d a => regResults_of_alu fun _ => rfl

/-! ### Double words and packed halves -/

theorem flag_pair (b c : Bool) : flag b + 2 * flag c = (if b then 1 else 0) + (if c then 2 else 0) := by cases b <;> cases c <;> rfl

/-- Settles O7: each word is defined by its one rounding of each element. -/
theorem doubleAndHalfWordsRoundExactResultsOnce : Obligations.DoubleAndHalfWordsRoundExactResultsOnce := by
  unfold Obligations.DoubleAndHalfWordsRoundExactResultsOnce
  refine ⟨fun gd d a b sat rm => regResults_of_alu fun _ => rfl, fun gd d a b sat rm => regResults_of_alu fun _ => rfl,
    fun gd d a b sat rm => mulResults_of_mul fun _ => rfl, fun gd d a b c sat rm => mulResults_of_mul fun _ => rfl,
    fun gd d a b => regResults_of_alu fun _ => rfl, fun gd d a b => regResults_of_alu fun _ => rfl,
    fun gd p a b c => laneResults_of_lanewise fun _ => rfl, fun gd d a sat rm => regResults_of_alu fun _ => rfl,
    fun gd d a rm => regResults_of_alu fun _ => rfl, fun gd d a b bf sat rm => regResults_of_alu fun _ => rfl,
    fun gd d a b bf sat rm => mulResults_of_mul fun _ => rfl, fun gd d a b c bf sat rm => mulResults_of_mul fun _ => rfl,
    fun gd d a b bf => regResults_of_alu fun _ => rfl, fun gd d a b bf => regResults_of_alu fun _ => rfl,
    fun gd p a b bf c => laneResults_of (fun _ => rfl) fun e l => ?_⟩
  simp only [flag_pair]

/-! ### Conversions -/

theorem n_mod_two (e : Env) (b : Src) (l : Nat) : e.n .i32 b l % 2 = if (e.w b l).getLsbD 0 then 1 else 0 := by
  have h := div_two_pow_mod_two (e.w b l) 0
  rwa [pow_zero, Nat.div_one, ← n_i32] at h

/-- Settles O8: each conversion is `State.convert` with its elements; `unpk16` takes the half that bit 0 of its selector names. -/
theorem conversionWordsGiveTheirResults : Obligations.ConversionWordsGiveTheirResults := by
  unfold Obligations.ConversionWordsGiveTheirResults
  refine ⟨fun gd d a cnt src sat rm => convResults_of_convert fun _ => rfl, fun gd d a cnt tgt sat rm => convResults_of_convert fun _ => rfl,
    fun gd d a cnt tgt sat rm => convResults_of_convert fun _ => rfl, fun gd d a src rm => convResults_of_convert fun _ => rfl,
    fun gd d a b cnt bf sat rm => convResults_of_convert fun _ => rfl, fun gd d a b bf => regResults_of (fun _ => rfl) fun e l => ?_,
    fun gd d a b cnt tgt x1 sat rm => convResults_of_convert fun _ => rfl, fun gd d a b src => regResults_of_alu fun _ => rfl,
    fun gd d a b cnt x1 sat rm => convResults_of_convert fun _ => rfl, fun gd d a b => regResults_of_alu fun _ => rfl,
    fun gd d a r cnt fmt b1 sat rm => convResults_of_convert fun _ => rfl⟩
  rw [n_mod_two]

end Sys2Proof.Machine

/-!
SUPPORT. Predicate forms (R375): masks as numbers, bit by bit.
-/
namespace Sys2Proof.Machine
set_option Elab.async false

/-! ### Masks as numbers -/

theorem maskNat_append (l : List Nat) (k : Nat) : maskNat (l ++ [k]) = maskNat l + 2 ^ k := by
  rw [maskNat, List.foldl_append]
  rfl

theorem maskNat_filter_succ (p : Nat → Bool) (n : Nat) :
    maskNat ((List.range (n + 1)).filter p) = maskNat ((List.range n).filter p) + if p n then 2 ^ n else 0 := by
  rw [List.range_succ, List.filter_append]
  cases h : p n
  · simp [h]
  · simp [h, maskNat_append]

theorem maskNat_filter_lt (p : Nat → Bool) (n : Nat) : maskNat ((List.range n).filter p) < 2 ^ n := by
  induction n with
  | zero => exact Nat.one_pos
  | succ n ih =>
    rw [maskNat_filter_succ, Nat.pow_succ]
    split <;> omega

theorem testBit_maskNat_filter (p : Nat → Bool) (n k : Nat) : (maskNat ((List.range n).filter p)).testBit k = (decide (k < n) && p k) := by
  induction n with
  | zero => simp [maskNat]
  | succ n ih =>
    have hlt := maskNat_filter_lt p n
    rw [maskNat_filter_succ]
    rcases Nat.lt_trichotomy k n with h | rfl | h
    · rw [decide_eq_true (show k < n + 1 by omega), ← decide_eq_true h, ← ih]
      split
      · rw [Nat.add_comm, Nat.testBit_two_pow_add_gt h]
      · rw [Nat.add_zero]
    · rw [decide_eq_true (Nat.lt_succ_self k), Bool.true_and]
      cases hp : p k
      · rw [if_neg Bool.false_ne_true, Nat.add_zero, Nat.testBit_lt_two_pow hlt]
      · rw [if_pos rfl, Nat.add_comm, Nat.testBit_two_pow_add_eq, Nat.testBit_lt_two_pow hlt]
        rfl
    · rw [decide_eq_false (show ¬k < n + 1 by omega), Bool.false_and]
      refine Nat.testBit_lt_two_pow (lt_of_lt_of_le ?_ (Nat.pow_le_pow_right (by decide) h))
      rw [Nat.pow_succ]
      split <;> omega

theorem getLsbD_maskNat (p : Nat → Bool) {k : Nat} (h : k < 32) :
    (BitVec.ofNat 32 (maskNat ((List.range 32).filter p))).getLsbD k = p k := by
  rw [BitVec.getLsbD_ofNat, testBit_maskNat_filter, decide_eq_true h, Bool.true_and, Bool.true_and]

theorem filter_lt_range (n m : Nat) : (List.range n).filter (fun k => decide (k < m)) = List.range (min n m) := by
  induction n with
  | zero => simp
  | succ n ih =>
    rw [List.range_succ, List.filter_append, ih]
    by_cases h : n < m
    · rw [Nat.min_eq_left (by omega), Nat.min_eq_left (by omega), List.range_succ]
      simp [h]
    · rw [Nat.min_eq_right (by omega), Nat.min_eq_right (by omega)]
      simp [h]

/-! ### Predicate forms -/

/-- The predicates from `p` on that a word of bits sets. -/
def predBits (p : Nat) (x : W32) : W32 := BitVec.ofNat 32 (maskNat ((List.range 32).filter fun k => decide (p + k < 96) && x.getLsbD k))

theorem getLsbD_predBits (p : Nat) (x : W32) (k : Nat) : (predBits p x).getLsbD k = (decide (p + k < 96) && x.getLsbD k) := by
  by_cases h : k < 32
  · exact getLsbD_maskNat _ h
  · rw [BitVec.getLsbD_of_ge _ _ (by omega), BitVec.getLsbD_of_ge _ _ (by omega), Bool.and_false]

theorem ofW_predBits (p : Nat) (x : W32) :
    ofW (predBits p x) = BitVec.ofNat 64 (maskNat (((List.range 32).filter fun k => decide (p + k < 96)).filter fun k => x.getLsbD k)) := by
  have hlt := maskNat_filter_lt (fun k => decide (p + k < 96) && x.getLsbD k) 32
  have hfilter : (((List.range 32).filter fun k => decide (p + k < 96)).filter fun k => x.getLsbD k) =
      (List.range 32).filter fun k => decide (p + k < 96) && x.getLsbD k := by
    rw [List.filter_filter]
    exact List.filter_congr fun k _ => Bool.and_comm _ _
  rw [hfilter, predBits, ofW, ← w32_of_lt hlt, w32_ofNat, ofW]

theorem filter_below (p : Nat) : ((List.range 32).filter fun k => decide (p + k < 96)) = List.range (min 32 (96 - p)) := by
  rw [← filter_lt_range]
  exact List.filter_congr fun k _ => decide_eq_decide.mpr (by omega)

/-- Settles O13: each predicate form is an operation on the predicates of the lane; `pmov.get` and `pmov.set` bit by bit. -/
theorem predicateWordsGiveTheirResults : Obligations.PredicateWordsGiveTheirResults := by
  unfold Obligations.PredicateWordsGiveTheirResults
  refine ⟨fun gd p q r nb na => laneResults_of_lanewise fun _ => rfl, fun gd p q r nb na => laneResults_of_lanewise fun _ => rfl,
    fun gd p q r nb na => laneResults_of_lanewise fun _ => rfl, fun gd p q => laneResults_of_lanewise fun _ => rfl,
    fun gd p q => laneResults_of_lanewise fun _ => rfl,
    fun gd d q => ⟨fun e l => BitVec.ofNat 32 (maskNat ((List.range 32).filter fun k => decide (q + k < 96) && e.psrc (q + k) l)),
      regResults_of_lo32 (fun _ => rfl) fun e l => by rw [lo32_ofW, lo32_ofNat], fun e l k hk => getLsbD_maskNat _ hk⟩,
    fun gd p a => ⟨fun e l => predBits p (e.w a l), fun e l k => getLsbD_predBits p _ k, laneResults_of (fun _ => rfl) fun e l => ?_⟩⟩
  simp only [bitAt_n, ofW_predBits, filter_below]

end Sys2Proof.Machine

/-!
SUPPORT. Cross-lane words (R366 to R374): what a group of 8 lanes gathers, and what the words compute from it.
-/
namespace Sys2Proof.Machine
set_option Elab.async false

/-! ### Groups of 8 lanes -/

/-- What a word has gathered in a group of 8 lanes (R368). -/
def Env.narrow (e : Env) (i : Instr) : Gathered := gathered 8 [{ contribOf i e with strand := 0 }]

section Narrow

variable {s t : State} {e : Env} {i : Instr}

theorem lt_of_inMask {m : BitVec 8} {l : Nat} (h : inMask m l = true) : l < 8 := List.mem_range.mp (List.mem_filter.mp (mem_lanesOf.mpr h)).1

theorem inMask_of_ge {m : BitVec 8} {l : Nat} (h : 8 ≤ l) : inMask m l = false := BitVec.getLsbD_of_ge m l h

/-- The strand that contributes for lane `l`. -/
theorem find_narrow (m : BitVec 8) (v : List (List W64)) (l : Nat) :
    [Contrib.mk 0 m v].find? (fun c : Contrib => c.strand == l / 8) = if l < 8 then some ⟨0, m, v⟩ else none := by
  split
  next h => rw [List.find?_cons_of_pos (by simp only [Nat.div_eq_of_lt h, beq_self_eq_true])]
  next h =>
    have hne : (0 : Nat) ≠ l / 8 := by omega
    rw [List.find?_cons_of_neg (by simpa only [beq_iff_eq] using hne), List.find?_nil]

theorem narrow_act : (e.narrow i).act = inMask e.act := by
  funext l
  simp only [Env.narrow, contribOf, gathered, find_narrow]
  by_cases hl : l < 8
  · simp only [if_pos hl, Nat.mod_eq_of_lt hl]
  · simp only [if_neg hl, inMask_of_ge (Nat.not_lt.mp hl)]

theorem narrow_v {n l : Nat} (h : l < 8) : (e.narrow i).v n l = nth (gatherVals i e l) n 0 := by
  simp only [Env.narrow, contribOf, gathered, find_narrow, if_pos h, Nat.mod_eq_of_lt h, nth, List.getElem?_map, List.getElem?_range h, Option.map_some,
    Option.getD_some]

theorem narrow_v_of_ge {n l : Nat} (h : ¬l < 8) : (e.narrow i).v n l = 0 := by
  simp only [Env.narrow, contribOf, gathered, find_narrow, if_neg h]

theorem narrow_w : (e.narrow i).w = 8 := rfl

theorem narrow_lanes : (e.narrow i).lanes = lanesOf e.act := by rw [Gathered.lanes, narrow_act, narrow_w, lanesOf]

theorem groupScope_of_narrow (hw : e.grp.width = 8) : t.groupScope i e [] = t.finish e ((lanesOf e.act).map (gatherCalc i (e.narrow i))) := by
  have hact : (maskOf fun l => inMask e.act l && !(([] : List LaneOut).any fun b => b.lane == l)) = e.act := maskOf_act_of fun _ _ => rfl
  simp only [State.groupScope, hact, if_pos hw]
  rfl

/-- In a group of 8 the outcome of a word at an active lane is what it computes from the group. -/
theorem narrowResults_of {c : Env → Prop} {f : Env → Nat → LaneOut}
    (h : ∀ s e t, s.issueOf? i = some (e, t) → e.grp.width = 8 → c e → exec i s = .next (t.groupScope i e []))
    (hf : ∀ e, c e → ∀ l, l < 8 → inMask e.act l = true → gatherCalc i (e.narrow i) l = f e l) : NarrowResults i c f := by
  intro s e t hi hw hc
  have hmap : (lanesOf e.act).map (gatherCalc i (e.narrow i)) = (lanesOf e.act).map (f e) :=
    List.map_congr_left fun l hl => hf e hc l (lt_of_inMask (inMask_of_mem hl)) (inMask_of_mem hl)
  rw [h s e t hi hw hc, groupScope_of_narrow hw, hmap]

theorem narrowResults_of_word {f : Env → Nat → LaneOut} (h : ∀ s, exec i s = s.word i fun e s => .next (s.groupScope i e []))
    (hf : ∀ e l, l < 8 → inMask e.act l = true → gatherCalc i (e.narrow i) l = f e l) : NarrowResults i (fun _ => True) f :=
  narrowResults_of (fun s e t hi _ _ => by rw [h, word_of_issueOf hi]) fun e _ l hl hact => hf e l hl hact

end Narrow

/-! ### Cross-lane words -/

section Words

variable (e : Env)

theorem maskOut_eq (l : Nat) (d : Dst) (m64 : Bool) (m : Nat) : maskOut l d m64 m = .reg l d (wide m64) (BitVec.ofNat 64 m) := by
  cases m64
  · refine reg_of_lo32 ?_ l d
    rw [if_neg Bool.false_ne_true, lo32_ofNat, lo32_ofNat]
    exact BitVec.eq_of_toNat_eq (by rw [BitVec.toNat_ofNat, BitVec.toNat_ofNat, Nat.mod_mod])
  · rfl

/-- A predicate source, gathered as a number. -/
theorem predicate_ne_zero (b : Bool) : ((if b then (1 : W64) else 0).toNat != 0) = b := by cases b <;> rfl

theorem maskOut_filter {p q : Nat → Bool} (l : Nat) (d : Dst) (m64 : Bool) (h : ∀ j, inMask e.act j = true → p j = q j) :
    maskOut l d m64 (maskNat ((lanesOf e.act).filter p)) = .reg l d (wide m64) (laneMask e q) := by
  rw [maskOut_eq, List.filter_congr fun j hj => h j (inMask_of_mem hj)]
  rfl

theorem freduxVal_congr (op : FReduxOp) {g g' : Gathered} (hw : g.w = g'.w) (hact : g.act = g'.act) (hv : ∀ i, g.act i = true → g.v 0 i = g'.v 0 i) :
    freduxVal op g = freduxVal op g' := by
  have hx (id : Nat) : (fun i => if g.act i then (g.v 0 i).toNat else id) = fun i => if g'.act i then (g'.v 0 i).toNat else id := by
    funext i
    rw [← hact]
    split
    next h => rw [hv i h]
    next => rfl
  cases op
  · simp only [freduxVal, hw]
    exact congrArg (fun x : Nat → Nat => reduxTree x g'.w 6 0) (hx negZero)
  · simp only [freduxVal, hw]
    exact congrArg (fun x : Nat → Nat => (List.range g'.w).foldl (fun a i => Fmt.f32.extreme true a (x i)) 0xFF800000) (hx 0xFF800000)
  · simp only [freduxVal, hw]
    exact congrArg (fun x : Nat → Nat => (List.range g'.w).foldl (fun a i => Fmt.f32.extreme false a (x i)) 0x7F800000) (hx 0x7F800000)

theorem scanTo_congr (f : Bool) {g g' : Gathered} (hact : g.act = g'.act) (hv : ∀ i, g.act i = true → g.v 0 i = g'.v 0 i) (n : Nat) :
    scanTo f g n = scanTo f g' n := by
  have hx (i : Nat) : (if g.act i then (g.v 0 i).toNat else if f then negZero else 0) = if g'.act i then (g'.v 0 i).toNat else if f then negZero else 0 := by
    rw [← hact]
    split
    next h => rw [hv i h]
    next => rfl
  induction n with
  | zero => exact hx 0
  | succ n ih => simp only [scanTo, ih, hx]

theorem scanVal_congr (f excl : Bool) {g g' : Gathered} (hact : g.act = g'.act) (hv : ∀ i, g.act i = true → g.v 0 i = g'.v 0 i) (n : Nat) :
    scanVal f excl g n = scanVal f excl g' n := by
  cases excl
  · exact scanTo_congr f hact hv n
  · cases n
    · rfl
    · exact scanTo_congr f hact hv _

theorem head_lanesOf {l : Nat} (h : inMask e.act l = true) : ((lanesOf e.act).head? == some l) = (l == e.low) := by
  cases hl : lanesOf e.act with
  | nil =>
    have := mem_lanesOf.mpr h
    rw [hl] at this
    cases this
  | cons x xs =>
    rw [Env.low, hl]
    exact Bool.beq_comm

end Words

end Sys2Proof.Machine

/-!
SUPPORT. The outcome of each cross-lane word in a group of 8 lanes (R370 to R374), and its start in a wider one (R368).
-/
namespace Sys2Proof.Machine
set_option Elab.async false

section Words

variable (e : Env)

/-- A mask of at most 3 bits leaves a lane number below 8. -/
theorem xor_lt_eight {l m : Nat} (hl : l < 8) (hm : m < 8) : l ^^^ m < 8 := Nat.xor_lt_two_pow (n := 3) hl hm

theorem all_congr {p q : Nat → Bool} (h : ∀ j, inMask e.act j = true → p j = q j) : (lanesOf e.act).all p = (lanesOf e.act).all q := by
  rw [List.all_eq, List.all_eq]
  exact decide_eq_decide.mpr (forall₂_congr fun j hj => by rw [h j (inMask_of_mem hj)])

theorem any_eq_not_all (l : List Nat) (p : Nat → Bool) : l.any p = !l.all fun j => !p j := by rw [List.not_all_eq_any_not]; simp

theorem shfl_out {gd : Guard} {d : Dst} {a b : Src} {w : Bool} {sg : Nat} {mode : ShflMode} {l : Nat} (hl : l < 8) :
    gatherCalc (.shfl gd d a b w sg mode) (e.narrow (.shfl gd d a b w sg mode)) l =
      .reg l d (wide w) (let j := shflSrc 8 sg mode l (e.w b l).toNat; if j < 8 then e.src (wide w) a j else 0) := by
  simp only [gatherCalc, narrow_v hl, narrow_w, Nat.mod_eq_of_lt hl, toNat_w]
  congr 1
  split
  next h => exact narrow_v h
  next h => exact narrow_v_of_ge h

theorem bfly_out {gd : Guard} {x y : Nat} {m : Src} {l k : Nat} (hk : k ∈ [1, 2, 4]) (hm : e.n .i32 m l = k) (hl : l < 8) :
    gatherCalc (.bfly gd x y m) (e.narrow (.bfly gd x y m)) l =
      if l / k % 2 = 0 then .ok l [.d32 (.reg x) (e.vreg x l), .d32 (.reg y) (e.vreg x (l ^^^ k))] (ofW (e.vreg x l))
      else .ok l [.d32 (.reg x) (e.vreg y (l ^^^ k)), .d32 (.reg y) (e.vreg y l)] (ofW (e.vreg y (l ^^^ k))) := by
  have hlt : k < 8 := by
    simp only [List.mem_cons, List.not_mem_nil, or_false] at hk
    omega
  have hj := xor_lt_eight hl hlt
  have hn : ((e.narrow (.bfly gd x y m)).v 2 l).toNat = k := by
    rw [narrow_v hl]
    exact hm
  have h0 {j : Nat} (h : j < 8) : (e.narrow (.bfly gd x y m)).v 0 j = ofW (e.vreg x j) := narrow_v h
  have h1 {j : Nat} (h : j < 8) : (e.narrow (.bfly gd x y m)).v 1 j = ofW (e.vreg y j) := narrow_v h
  simp only [gatherCalc, hn, h0 hl, h0 hj, h1 hl, h1 hj, Nat.mod_eq_of_lt hl]
  split
  · simp only [lo32_ofW]
  · simp only [lo32_ofW]

theorem bcast_out {gd : Guard} {d : Dst} {a b : Src} {w : Bool} {l : Nat} (hl : l < 8) :
    gatherCalc (.bcast gd d a b w) (e.narrow (.bcast gd d a b w)) l =
      .reg l d (wide w) (e.src (wide w) a (if (e.w b l).toNat < 8 then (e.w b l).toNat else l)) := by
  have hn : ((e.narrow (.bcast gd d a b w)).v 1 l).toNat = (e.w b l).toNat := by
    rw [narrow_v hl, toNat_w]
    rfl
  simp only [gatherCalc, hn, narrow_w, Nat.mod_eq_of_lt hl]
  congr 1
  split
  next h => exact narrow_v h
  next => exact narrow_v hl

theorem vote_out {gd : Guard} {p : PDst} {q : Nat} {mode : VoteMode} {l : Nat} (hl : l < 8) :
    gatherCalc (.vote gd p q mode) (e.narrow (.vote gd p q mode)) l =
      .pd l p (match mode with
        | .all => (lanesOf e.act).all (e.psrc q)
        | .any => !(lanesOf e.act).all fun j => !e.psrc q j
        | .uni => (lanesOf e.act).all (e.psrc q) || (lanesOf e.act).all fun j => !e.psrc q j) := by
  have hset (j : Nat) (hj : inMask e.act j = true) : (((e.narrow (.vote gd p q mode)).v 0 j).toNat != 0) = e.psrc q j := by
    rw [narrow_v (lt_of_inMask hj)]
    exact predicate_ne_zero _
  simp only [gatherCalc, narrow_lanes, Nat.mod_eq_of_lt hl, any_eq_not_all, all_congr e hset,
    all_congr e (q := fun j => !e.psrc q j) fun j hj => congrArg not (hset j hj)] <;>
    (cases mode <;> rfl)

theorem ballot_out {gd : Guard} {d : Dst} {q : Nat} {m64 : Bool} {l : Nat} (hl : l < 8) :
    gatherCalc (.ballot gd d q m64) (e.narrow (.ballot gd d q m64)) l = .reg l d (wide m64) (laneMask e (e.psrc q)) := by
  simp only [gatherCalc, narrow_lanes, Nat.mod_eq_of_lt hl]
  refine maskOut_filter e l d m64 fun j hj => ?_
  rw [narrow_v (lt_of_inMask hj)]
  exact predicate_ne_zero _

theorem matchv_out {gd : Guard} {d : Dst} {a : Src} {m64 w : Bool} {l : Nat} (hl : l < 8) :
    gatherCalc (.matchv gd d a m64 w) (e.narrow (.matchv gd d a m64 w)) l =
      .reg l d (wide m64) (laneMask e fun j => e.src (wide w) a j == e.src (wide w) a l) := by
  simp only [gatherCalc, narrow_lanes, Nat.mod_eq_of_lt hl]
  refine maskOut_filter e l d m64 fun j hj => ?_
  rw [narrow_v (lt_of_inMask hj), narrow_v hl]
  exact Bool.eq_iff_iff.mpr (by simp only [beq_iff_eq, BitVec.toNat_inj]; rfl)

theorem redux_out {gd : Guard} {d : Dst} {a : Src} {op : ReduxOp} {l : Nat} (hl : l < 8) :
    gatherCalc (.redux gd d a op) (e.narrow (.redux gd d a op)) l =
      .reg l d .i32 (BitVec.ofNat 64 (reduxVal op ((lanesOf e.act).map fun j => (e.w a j).toNat))) := by
  have hmap : (lanesOf e.act).map (fun j => ((e.narrow (.redux gd d a op)).v 0 j).toNat) = (lanesOf e.act).map fun j => (e.w a j).toNat :=
    List.map_congr_left fun j hj => by
      rw [narrow_v (lt_of_inMask (inMask_of_mem hj)), toNat_w]
      rfl
  simp only [gatherCalc, narrow_lanes, Nat.mod_eq_of_lt hl, hmap]

/-- The values gathered of one source of a group of 8. -/
theorem narrow_v_values {i : Instr} {v : Nat → W64} (h : ∀ l, gatherVals i e l = [v l]) {j : Nat} (hj : (e.narrow i).act j = true) :
    (e.narrow i).v 0 j = (values e v).v 0 j := by
  rw [narrow_act] at hj
  rw [narrow_v (lt_of_inMask hj), h]
  rfl

theorem fredux_out {gd : Guard} {d : Dst} {a : Src} {op : FReduxOp} {l : Nat} (hl : l < 8) :
    gatherCalc (.fredux gd d a op) (e.narrow (.fredux gd d a op)) l =
      .reg l d .i32 (BitVec.ofNat 64 (freduxVal op (values e (e.src .f32 a)))) := by
  have hval : freduxVal op (e.narrow (.fredux gd d a op)) = freduxVal op (values e (e.src .f32 a)) :=
    freduxVal_congr op rfl narrow_act fun j hj => narrow_v_values e (fun _ => rfl) hj
  simp only [gatherCalc, hval, Nat.mod_eq_of_lt hl]

theorem scan_out {gd : Guard} {d : Dst} {a : Src} {excl f : Bool} {l : Nat} (hl : l < 8) :
    gatherCalc (.scan gd d a excl f) (e.narrow (.scan gd d a excl f)) l =
      .reg l d .i32 (BitVec.ofNat 64 (scanVal f excl (values e (e.src (if f then .f32 else .i32) a)) l)) := by
  have hval := scanVal_congr f excl (g := e.narrow (.scan gd d a excl f)) (g' := values e (e.src (if f then .f32 else .i32) a)) narrow_act
    (fun j hj => narrow_v_values e (fun _ => rfl) hj) l
  simp only [gatherCalc, hval, Nat.mod_eq_of_lt hl]

theorem pcnt_out {gd : Guard} {d : Dst} {q : Nat} {l : Nat} (hl : l < 8) :
    gatherCalc (.pcnt gd d q) (e.narrow (.pcnt gd d q)) l =
      .reg l d .i32 (BitVec.ofNat 64 ((lanesOf e.act).filter (e.psrc q)).length) := by
  have hfilter : (lanesOf e.act).filter (fun j => ((e.narrow (.pcnt gd d q)).v 0 j).toNat != 0) = (lanesOf e.act).filter (e.psrc q) :=
    List.filter_congr fun j hj => by
      rw [narrow_v (lt_of_inMask (inMask_of_mem hj))]
      exact predicate_ne_zero _
  simp only [gatherCalc, narrow_lanes, hfilter, Nat.mod_eq_of_lt hl]

theorem elect_out {gd : Guard} {p : PDst} {l : Nat} (hl : l < 8) (hact : inMask e.act l = true) :
    gatherCalc (.elect gd p) (e.narrow (.elect gd p)) l = .pd l p (l == e.low) := by
  simp only [gatherCalc, narrow_lanes, head_lanesOf e hact, Nat.mod_eq_of_lt hl]

end Words

theorem bfly_of_narrow {s t : State} {e : Env} {gd : Guard} {x y : Nat} {m : Src} (hi : s.issueOf? (.bfly gd x y m) = some (e, t))
    (hw : e.grp.width = 8) (hm : e.n .i32 m 0 ∈ [1, 2, 4]) : exec (.bfly gd x y m) s = .next (t.groupScope (.bfly gd x y m) e []) := by
  have hlt : ¬(e.act ≠ 0 ∧ e.grp.width ≤ e.n .i32 m 0) := by
    simp only [List.mem_cons, List.not_mem_nil, or_false] at hm
    omega
  simp only [exec, execBfly, word_of_issueOf hi, if_neg hlt]

theorem bcast_of_agree {s t : State} {e : Env} {gd : Guard} {d : Dst} {a b : Src} {w : Bool} (hi : s.issueOf? (.bcast gd d a b w) = some (e, t))
    (ha : e.agree fun l => [e.src .i32 b l]) : exec (.bcast gd d a b w) s = .next (t.groupScope (.bcast gd d a b w) e []) := by
  simp only [exec, execBcast, word_of_issueOf hi, uniform_of_agree ha]

/-- Settles O11: each word computes from the sources its one strand has gathered. -/
theorem crossLaneWordsOfNarrowGroupsGiveTheirResults : Obligations.CrossLaneWordsOfNarrowGroupsGiveTheirResults := by
  unfold Obligations.CrossLaneWordsOfNarrowGroupsGiveTheirResults
  exact ⟨fun gd d a b w sg mode => narrowResults_of_word (fun _ => rfl) fun e l hl _ => shfl_out e hl,
    fun gd x y m => narrowResults_of (fun s e t hi hw hc => bfly_of_narrow hi hw hc.1) fun e hc l hl _ => bfly_out e hc.1 (hc.2 l hl) hl,
    fun gd d a b w => narrowResults_of (fun s e t hi _ hc => bcast_of_agree hi hc) fun e _ l hl _ => bcast_out e hl,
    fun gd p q mode => narrowResults_of_word (fun _ => rfl) fun e l hl _ => vote_out e hl,
    fun gd d q m64 => narrowResults_of_word (fun _ => rfl) fun e l hl _ => ballot_out e hl,
    fun gd d a m64 w => narrowResults_of_word (fun _ => rfl) fun e l hl _ => matchv_out e hl,
    fun gd d a op => narrowResults_of_word (fun _ => rfl) fun e l hl _ => redux_out e hl,
    fun gd d a op => narrowResults_of_word (fun _ => rfl) fun e l hl _ => fredux_out e hl,
    fun gd d a excl f => narrowResults_of_word (fun _ => rfl) fun e l hl _ => scan_out e hl,
    fun gd d q => narrowResults_of_word (fun _ => rfl) fun e l hl _ => pcnt_out e hl,
    fun gd p => narrowResults_of_word (fun _ => rfl) fun e l hl hact => elect_out e hl hact⟩

/-! ### Wider groups -/

theorem groupScope_of_first {t : State} {e : Env} {i : Instr} (hw : 8 < e.grp.width) (hg : e.grp.gather = none) :
    t.groupScope i e [] = ((t.holdPath e .gather).modGroup e.gid fun g =>
      { g with gather := some ⟨e.lane0.pc, i, e.cl.lits, [contribOf i e]⟩ }).gatherCheck e.gid e := by
  have hact : (maskOf fun l => inMask e.act l && !(([] : List LaneOut).any fun b => b.lane == l)) = e.act := maskOf_act_of fun _ _ => rfl
  simp only [State.groupScope, hact, if_neg (Nat.ne_of_gt hw), hg]
  rfl

/-- Settles O12: the first strand of a wider group is kept in a gather. -/
theorem crossLaneWordsOfWideGroupsGather : Obligations.CrossLaneWordsOfWideGroupsGather := by
  unfold Obligations.CrossLaneWordsOfWideGroupsGather
  intro i s e t hi hw hg hform
  have hexec (h : ∀ s, exec i s = s.word i fun e s => .next (s.groupScope i e [])) :
      exec i s = .next (((t.holdPath e .gather).modGroup e.gid fun g =>
        { g with gather := some ⟨e.lane0.pc, i, e.cl.lits, [contribOf i e]⟩ }).gatherCheck e.gid e) := by
    rw [h, word_of_issueOf hi, groupScope_of_first hw hg]
  split at hform
  case h_10 => exact hform.elim
  all_goals exact hexec fun _ => rfl

end Sys2Proof.Machine

/-!
SUPPORT. Transfers of control (R377): conditions and targets on bit vectors.
-/
namespace Sys2Proof.Machine
set_option Elab.async false

/-! ### Transfers -/

theorem braTaken_toInt {n : Nat} (c : BraCond) (x : BitVec n) : braTaken c x.toInt = branches c x := by
  cases c with
  | always => rfl
  | z => exact Bool.eq_iff_iff.mpr (by simp only [braTaken, branches, beq_iff_eq, toInt_eq_zero_iff])
  | nz => exact Bool.eq_iff_iff.mpr (by simp only [braTaken, branches, bne_iff_ne, ne_eq, toInt_eq_zero_iff])
  | neg => exact (BitVec.msb_eq_toInt).symm
  | nneg =>
    rw [braTaken, branches, BitVec.msb_eq_toInt, ← decide_not]
    exact decide_eq_decide.mpr not_lt.symm

section Transfers

variable (e : Env) (l : Nat)

theorem braTaken_condVal (c : BraCond) (a : Src) :
    braTaken c (e.condVal a l) = if e.ctl then branches c (e.d a l) else branches c (e.w a l) := by
  rw [Env.condVal]
  split
  · exact (congrArg (braTaken c) (i_i64 e a l)).trans (braTaken_toInt c _)
  · exact (congrArg (braTaken c) (i_i32 e a l)).trans (braTaken_toInt c _)

theorem target_eq (a : Src) : e.n .i32 a l % 2 ^ 32 = (e.w a l).toNat := by rw [n_i32, Nat.mod_eq_of_lt (e.w a l).isLt]

theorem indexed_target_eq (a b : Src) : (e.n .i32 a l % 2 ^ 32 + 8 * (e.n .i32 b l % 2 ^ 32)) % 2 ^ 32 = (e.w a l + 8 * e.w b l).toNat := by
  rw [target_eq, target_eq, BitVec.toNat_add, BitVec.toNat_mul, Nat.add_mod_mod]
  rfl

/-- What a transfer writes at a lane: the link, where it has one. -/
def linkOut (link : Option Nat) : LaneOut :=
  match link with
  | some d => .reg l (.reg d) .i32 e.linkVal
  | none => .ok l [] 0

/-- A transfer to aligned targets raises no cause. -/
theorem transfer_of_aligned (t : State) {taken : Nat → Bool} {target : Nat → Nat} (h : ∀ l, inMask e.act l = true → target l % 8 = 0)
    (link : Option Nat) : t.transfer e taken target link =
      .next (t.finishTo e ((lanesOf e.act).map fun l => linkOut e l link) false (goesTo e taken target)) := by
  have hmap : (lanesOf e.act).map (fun l => if taken l && target l % 8 != 0 then .bad l .align (BitVec.ofNat 64 (e.kern.code + target l))
      else linkOut e l link) = (lanesOf e.act).map fun l => linkOut e l link :=
    List.map_congr_left fun l hl => if_neg (by rw [h l (inMask_of_mem hl), bne_self_eq_false, Bool.and_false]; exact Bool.false_ne_true)
  rw [← hmap]
  rfl

end Transfers

/-- Settles O14: the conditions and targets of the model are those of words. -/
theorem transfersGoToTheirTargets : Obligations.TransfersGoToTheirTargets := by
  unfold Obligations.TransfersGoToTheirTargets
  refine ⟨fun gd tgt a c s e t hi hal => ?bra, fun gd a b s e t hi hal => ?brx, fun gd d a x s e t hi hal => ?call, fun gd a s e t hi hal => ?ret⟩
  case bra =>
    simp only [exec, execBra, word_of_issueOf hi, braTaken_condVal, n_i32]
    exact transfer_of_aligned e t hal none
  case brx =>
    simp only [exec, execBrx, word_of_issueOf hi, indexed_target_eq]
    exact transfer_of_aligned e t hal none
  case call =>
    simp only [exec, execCall, word_of_issueOf hi, target_eq]
    exact transfer_of_aligned e t hal (some d)
  case ret =>
    simp only [exec, execRet, word_of_issueOf hi, target_eq]
    exact transfer_of_aligned e t hal none

end Sys2Proof.Machine

/-!
SUPPORT. Loads and atomics (R397, R399, R402, R409 to R416): what a word does whose accesses pass their checks and wait for nothing.
-/
namespace Sys2Proof.Machine
set_option Elab.async false

section Loads

variable {s t u v : State} {e : Env} {tlbs : List Nat} {plans : List (Nat × List Plan)} {good : List (Nat × List Spot)} {pre : List LaneOut}
  {f : Nat → List (List Byte) → LaneOut} {gd : Guard} {a b o p h x y : Src}

theorem loads_of_spots (hc : v.clear? e = some s) (h : s.spots? e tlbs Need.load .load plans = some (good, u)) :
    v.loads e tlbs pre plans f = .next (u.loaded e pre f good) := by
  obtain ⟨hlocate, hnone⟩ := spots?_eq_some h
  simp only [State.loads, afterStores_of_clear hc, hlocate, splitLanes_of_none_waiting hnone, List.isEmpty_nil, Bool.not_true, Bool.false_eq_true,
    if_false, List.append_nil]
  rfl

theorem ld_of_spots {d : Dst} {sx : Bool} {size : MemSize} (hi : s.clearOf? (.ld gd d a o sx size) = some (e, t))
    (hspots : t.spots? e e.tlbs Need.load .load
      ((lanesOf e.act).map fun l => (l, [⟨(e.d a l + (e.w o l).signExtend 64).toNat, memBytes size, memBytes size⟩])) = some (good, u)) :
    exec (.ld gd d a o sx size) s = .next (u.loaded e [] (fun l bs => loadOut l d (memBytes size) sx bs.flatten) good) := by
  obtain ⟨w, hw, hclear⟩ := clearOf_iff.mp hi
  simp only [toNat_ea] at hspots
  simp only [exec, execLd, word_of_issueOf hw, loads_of_spots hclear hspots]

theorem ldt_of_spots {d n : Nat} {sx : Bool} {r : ShapeRec} {t1 t2 : State} (hi : s.issueOf? (.ldt gd d h n sx) = some (e, t))
    (ha : e.agree fun l => [e.src .i32 h l]) (hshape : t.shape? e h = some (r, t1)) (heven : r.size = 8 → d % 2 = 0)
    (hbeyond : e.regsBeyond [(n, r.rank), (d, if r.size = 8 then 2 else 1)] = false)
    (hwait : t1.regsWait e [(n, r.rank), (d, if r.size = 8 then 2 else 1)] = false) (hclear : t1.clear? e = some t2)
    (hspots : t2.spots? e [walkerOf e.core] Need.load .load
      (((lanesOf e.act).filter fun l => !r.clipped (e.coords n r.rank l)).map fun l => (l, [⟨r.addr (e.coords n r.rank l), r.size, r.size⟩]))
      = some (good, u)) :
    exec (.ldt gd d h n sx) s = .next (u.loaded e
      (((lanesOf e.act).filter fun l => r.clipped (e.coords n r.rank l)).map fun l => loadOut l (.reg d) r.size sx r.fillBytes)
      (fun l bs => loadOut l (.reg d) r.size sx bs.flatten) good) := by
  have hpair : (r.size == 8 && d % 2 == 1) = false := by
    by_cases h8 : r.size = 8
    · simp [heven h8]
    · simp [h8]
  simp only [exec, execLdt, word_of_issueOf hi, withShape_of_shape ha hshape, hpair, hbeyond, hwait, Bool.or_self, Bool.false_eq_true, if_false,
    List.partition_eq_filter_filter, Function.comp_def, List.nil_append]
  exact loads_of_spots hclear hspots

theorem ldfr_of_spots {d : Nat} {tr : Bool} {el : FragEl} (hi : s.clearOf? (.ldfr gd d a p tr el) = some (e, t))
    (ha : e.agree fun l => [e.src .i64 a l, e.src .i32 p l])
    (haligned : let q := if tr then fragBits el / 8 else 16; q = 0 ∨ ((e.d a e.low).toNat % q = 0 ∧ (e.w p e.low).toNat % q = 0))
    (hspots : t.spots? e e.tlbs Need.load .load ((lanesOf e.act).map fun l =>
      (l, fragPlans tr (fragBits el) (e.d a e.low).toNat (e.w p e.low).toNat (8 * e.k + l))) = some (good, u)) :
    exec (.ldfr gd d a p tr el) s = .next (u.loaded e [] (fun l bs =>
      .ok l ((List.range 8).map fun r => .d32 (.reg (d + r))
        (BitVec.ofNat 32 (fragWord tr (fragBits el) (8 * e.k + l) bs / 2 ^ (32 * r)))) 0) good) := by
  obtain ⟨w, hw, hclear⟩ := clearOf_iff.mp hi
  simp only [exec, execLdfr, word_of_issueOf hw, fragment_of_aligned ha haligned, loads_of_spots hclear hspots]

/-! ### Atomics -/

theorem atomics_of_spots {n : Nat} {use : BlockUse} {f : Nat → Nat → Option Nat} {out : Nat → Nat → LaneOut} (hc : v.clear? e = some s)
    (h : s.spots? e e.tlbs Need.rmw use ((lanesOf e.act).map fun l => (l, [⟨(e.d a l).toNat, n, n⟩])) = some (good, u)) :
    v.atomics e n a use f out = .next ((u.atomLanes e n f good).2.finish e
      ((lanesServed e.u.part (u.atomLanes e n f good).1).map fun x => out x.1 (leNat x.2.flatten)) true) := by
  obtain ⟨hlocate, hnone⟩ := spots?_eq_some h
  simp only [toNat_d] at hlocate
  simp only [State.atomics, afterStores_of_clear hc, hlocate, splitLanes_of_none_waiting hnone, List.isEmpty_nil, Bool.not_true, Bool.false_eq_true,
    if_false, List.append_nil]

theorem atom_of_spots {d : Nat} {sc : Scope} {w : Bool} {op : AtomOp} (hi : s.clearOf? (.atom gd d a b sc w op) = some (e, t))
    (hspots : t.spots? e e.tlbs Need.rmw (if op = .max then .max else .other)
      ((lanesOf e.act).map fun l => (l, [⟨(e.d a l).toNat, if w then 8 else 4, if w then 8 else 4⟩])) = some (good, u)) :
    let r := u.atomLanes e (if w then 8 else 4) (fun l old => some (atomNew (regOp op (e.n .i64 a l)) w old (e.n (op.ty w) b l))) good
    exec (.atom gd d a b sc w op) s = .next
      (r.2.finish e ((lanesServed e.u.part r.1).map fun x => atomOut d w x.1 (leNat x.2.flatten)) true) := by
  obtain ⟨z, hz, hclear⟩ := clearOf_iff.mp hi
  simp only [exec, execAtom, word_of_issueOf hz]
  exact atomics_of_spots hclear hspots

theorem cas_of_spots {d : Nat} {sc : Scope} {w : Bool} (hi : s.clearOf? (.cas gd d a x y sc w) = some (e, t))
    (hspots : t.spots? e e.tlbs Need.rmw .other
      ((lanesOf e.act).map fun l => (l, [⟨(e.d a l).toNat, if w then 8 else 4, if w then 8 else 4⟩])) = some (good, u)) :
    let r := u.atomLanes e (if w then 8 else 4)
      (fun l old => if old = (e.src (wide w) x l).toNat then some (e.src (wide w) y l).toNat else none) good
    exec (.cas gd d a x y sc w) s = .next
      (r.2.finish e ((lanesServed e.u.part r.1).map fun x => atomOut d w x.1 (leNat x.2.flatten)) true) := by
  obtain ⟨z, hz, hclear⟩ := clearOf_iff.mp hi
  simp only [exec, execCas, word_of_issueOf hz]
  exact atomics_of_spots hclear hspots

/-! ### Remote atomics -/

/-- A remote atomic that fails at no lane is sent by every lane. -/
theorem ratom_of_checked {d : Nat} {w : Bool} {op : AtomOp} (hi : s.issueOf? (.ratom gd d a b w op) = some (e, t))
    (hgood : ∀ l, inMask e.act l = true → t.ratomCheck e (e.d a l).toNat (if w then 8 else 4) = none) :
    exec (.ratom gd d a b w op) s = .next
      ((((lanesOf e.act).foldl (fun s l => s.ratomSend e d (e.d a l).toNat w op (e.src (op.ty w) b l) l) t).finish e (done e.act)).owe
        e.ag t.nextId) := by
  have hnone (l : Nat) (hl : l ∈ lanesOf e.act) : (t.ratomCheck e (e.n .i64 a l) (if w then 8 else 4)).isSome = false := by
    rw [← toNat_d, hgood l (inMask_of_mem hl)]
    rfl
  have hbad : (lanesOf e.act).filter (fun l => (t.ratomCheck e (e.n .i64 a l) (if w then 8 else 4)).isSome) = [] :=
    List.filter_eq_nil_iff.mpr fun l hl => Bool.eq_false_iff.mp (hnone l hl)
  have hall : (lanesOf e.act).filter (fun l => !(t.ratomCheck e (e.n .i64 a l) (if w then 8 else 4)).isSome) = lanesOf e.act :=
    List.filter_eq_self.mpr fun l hl => by rw [hnone l hl]; rfl
  simp only [exec, execRatom, word_of_issueOf hi, List.partition_eq_filter_filter, Function.comp_def, hbad, hall, List.filterMap_nil, List.append_nil]
  rfl

end Loads

/-- Settles O21: a lemma for each word, all of them by the loads of lanes whose accesses pass their checks. -/
theorem loadWordsReadTheirBytes : Obligations.LoadWordsReadTheirBytes := by
  unfold Obligations.LoadWordsReadTheirBytes
  exact ⟨fun gd d a o sx size s e t good u => ld_of_spots, fun gd d h x sx s e t r t1 t2 good u => ldt_of_spots,
    fun gd d a p tr el s e t good u => ldfr_of_spots⟩

/-- Settles O23: a lemma for each word, `atom` and `cas` by the atomics of lanes whose accesses pass their checks. -/
theorem atomicWordsReadAndReplace : Obligations.AtomicWordsReadAndReplace := by
  unfold Obligations.AtomicWordsReadAndReplace
  exact ⟨fun gd d a b sc w op s e t good u => atom_of_spots, fun gd d a x y sc w s e t good u => cas_of_spots,
    fun gd d a b w op s e t => ratom_of_checked⟩

end Sys2Proof.Machine

/-!
SUPPORT. Words of the matrix unit (R428 to R438): what each does that passes its checks.
-/
namespace Sys2Proof.Machine
set_option Elab.async false

section Matrix

variable {s t : State} {e : Env} {a b sv w c k : Src} {n i : Nat}

/-- An mma on tile `i` of core `x` is queued; behind operations that are held, it is held as they are (R431, R434). -/
def State.queueMma (t : State) (e : Env) (x i : Nat) (a b sv : Src) : State :=
  { t with
    nextId := t.nextId + 1
    mmas := t.mmas ++
      [⟨t.nextId, e.wid, x, i, e.d a 0, e.d b 0, e.d sv 0, e.lane0.pc, e.lane0.hdr, t.mmas.any fun m => m.wg == e.wid && m.heldBy⟩] }

theorem mma_of_bound (hi : s.issueOf? (.mma n a b sv false) = some (e, t))
    (hcheck : t.mmaCheck e (e.d a 0).toNat (e.d b 0).toNat (e.d sv 0).toNat = none) (hroom : t.mmaWaiting e.wid (e.coreIn (e.d a 0).toNat) < 4)
    (htile : t.tileOf e.wid (e.coreIn (e.d a 0).toNat) n = some i) (hst : (t.acc (e.coreIn (e.d a 0).toNat) i).st ≠ .draining) :
    exec (.mma n a b sv false) s = .next ((t.queueMma e (e.coreIn (e.d a 0).toNat) i a b sv).finish e (done e.act)) := by
  rw [toNat_d] at *
  simp only [toNat_d] at hcheck
  simp only [exec, execMma, word_of_issueOf hi, hcheck, if_neg (Nat.not_le.mpr hroom), Bool.false_eq_true, if_false, htile, beq_false_of_ne hst]
  rfl

/-- Operations that are held stay so where a tile is unbound: at most their tile changes. -/
theorem held_unbindAcc (t : State) (wid core n : Nat) :
    ((t.unbindAcc wid core n).mmas.any fun m => m.wg == wid && m.heldBy) = t.mmas.any fun m => m.wg == wid && m.heldBy := by
  unfold State.unbindAcc
  split
  · rfl
  · dsimp only
    split
    · rw [List.any_map]
      refine congrArg (List.any t.mmas) (funext fun m => ?_)
      simp only [Function.comp]
      split <;> rfl
    · rfl

theorem mma_of_free {new : Bool} (hi : s.issueOf? (.mma n a b sv new) = some (e, t))
    (hcheck : t.mmaCheck e (e.d a 0).toNat (e.d b 0).toNat (e.d sv 0).toNat = none) (hroom : t.mmaWaiting e.wid (e.coreIn (e.d a 0).toNat) < 4)
    (hnew : new = true ∨ t.tileOf e.wid (e.coreIn (e.d a 0).toNat) n = none) (hspare : t.spareTile (e.coreIn (e.d a 0).toNat) = some i) :
    exec (.mma n a b sv new) s = .next
      ((((t.unbindAcc e.wid (e.coreIn (e.d a 0).toNat) n).modAcc (e.coreIn (e.d a 0).toNat) i fun _ => ⟨.bound, 0, e.wid, n, []⟩).queueMma e
        (e.coreIn (e.d a 0).toNat) i a b sv).finish e (done e.act)) := by
  have htile : (if new = true then none else t.tileOf e.wid (e.coreIn (e.n .i64 a 0)) n) = none := by
    rcases hnew with rfl | hnone
    · rfl
    · rw [← toNat_d, hnone, ite_self]
  rw [toNat_d] at *
  simp only [toNat_d] at hcheck
  have hheld := held_unbindAcc t e.wid (e.coreIn (e.n .i64 a 0)) n
  simp only [exec, execMma, word_of_issueOf hi, hcheck, if_neg (Nat.not_le.mpr hroom), htile, hspare, ← hheld]
  rfl

/-! ### Drains -/

theorem accdrain_of_checked {f : Fmt} {rm : Rm} {sat : Bool} {sc : Int} {gid : Nat} {g : Group} (hi : s.issueOf? (.accdrain n w c) = some (e, t))
    (hconv : convWord (e.d c 0).toNat = some (f, rm, sat, sc)) (hal : (e.d w 0).toNat % 8 = 0)
    (hcheck : t.regUseCheck e (e.coreIn (e.d w 0).toNat) [e.regUse (e.d w 0).toNat (32 / perReg f)] = none)
    (hgroup : t.groupOn e.wid (e.coreIn (e.d w 0).toNat) (bits (e.d w 0).toNat 43 32) = some (gid, g))
    (hfree : t.rangeHit (e.coreIn (e.d w 0).toNat) (g.base + 4 * ((e.d w 0).toNat % 256) * g.width)
      (g.base + 4 * ((e.d w 0).toNat % 256 + 32 / perReg f) * g.width) = false) (hroom : t.rangesFull (e.coreIn (e.d w 0).toNat) = false) :
    exec (.accdrain n w c) s = .next ((t.acceptDrain e (e.coreIn (e.d w 0).toNat) n (.regs gid ((e.d w 0).toNat % 256)) (e.d c 0)
      (some (g.base + 4 * ((e.d w 0).toNat % 256) * g.width, g.base + 4 * ((e.d w 0).toNat % 256 + 32 / perReg f) * g.width))).finish e
        (done e.act)) := by
  simp only [toNat_d] at *
  simp only [exec, execAccdrain, word_of_issueOf hi, hconv, if_neg (not_not.mpr hal), hcheck, hgroup, State.issueDrain, hfree, hroom, Bool.or_self,
    Bool.false_eq_true, if_false]
  rfl

theorem accst_of_checked {f : Fmt} {rm : Rm} {sat : Bool} {sc : Int} {base r : Nat} (hi : s.issueOf? (.accst n w c) = some (e, t))
    (hconv : convWord (e.d c 0).toNat = some (f, rm, sat, sc)) (hoff : (e.d w 0).toNat % 2 ^ 20 % 16 = 0)
    (hpitch : bits (e.d w 0).toNat 51 32 % 16 = 0) (hrow : 32 * (f.width / 8) ≤ bits (e.d w 0).toNat 51 32)
    (hbase : e.wg.runOn (e.coreIn (e.d w 0).toNat) = some base)
    (harea : e.kern.area ((e.d w 0).toNat % 2 ^ 20) (31 * bits (e.d w 0).toNat 51 32 + 32 * (f.width / 8)) = some (.awin, r))
    (hfree : t.rangeHit (e.coreIn (e.d w 0).toNat) (base + r) (base + r + (31 * bits (e.d w 0).toNat 51 32 + 32 * (f.width / 8))) = false)
    (hroom : t.rangesFull (e.coreIn (e.d w 0).toNat) = false) :
    exec (.accst n w c) s = .next ((t.acceptDrain e (e.coreIn (e.d w 0).toNat) n
      (.window ((e.d w 0).toNat % 2 ^ 20) (bits (e.d w 0).toNat 51 32)) (e.d c 0)
      (some (base + r, base + r + (31 * bits (e.d w 0).toNat 51 32 + 32 * (f.width / 8))))).finish e (done e.act)) := by
  have hal : ¬((e.d w 0).toNat % 2 ^ 20 % 16 ≠ 0 ∨ bits (e.d w 0).toNat 51 32 % 16 ≠ 0 ∨ bits (e.d w 0).toNat 51 32 < 32 * (f.width / 8)) :=
    fun h => h.elim (· hoff) fun h => h.elim (· hpitch) fun h => Nat.not_le.mpr h hrow
  simp only [toNat_d] at *
  simp only [exec, execAccst, word_of_issueOf hi, hconv, if_neg hal, hbase, harea, State.issueDrain, hfree, hroom, Bool.or_self,
    Bool.false_eq_true, if_false]
  rfl

theorem acctx_of_checked (hi : s.issueOf? (.acctx n w) = some (e, t))
    (hcx : (t.tile (e.coreIn (e.d w 0).toNat / 256) ((e.d w 0).toNat % 4096)).cx = e.cx)
    (hst : (t.tile (e.coreIn (e.d w 0).toNat / 256) ((e.d w 0).toNat % 4096)).st = .armed)
    (hkind : (t.tile (e.coreIn (e.d w 0).toNat / 256) ((e.d w 0).toNat % 4096)).skind = false)
    (hview : t.inView e (t.ownVa (t.tile (e.coreIn (e.d w 0).toNat / 256) ((e.d w 0).toNat % 4096)).roff)
      (t.tile (e.coreIn (e.d w 0).toNat / 256) ((e.d w 0).toNat % 4096)).len = true)
    (hlost : (t.tile (e.coreIn (e.d w 0).toNat / 256) ((e.d w 0).toNat % 4096)).lost t.fab.lostmap.toNat = false)
    (hfull : t.tileFull (e.coreIn (e.d w 0).toNat / 256) (t.tile (e.coreIn (e.d w 0).toNat / 256) ((e.d w 0).toNat % 4096)) = false)
    (hroom : (t.drains.filter fun (y : DrainOp) => y.core / 256 == e.coreIn (e.d w 0).toNat / 256 &&
      (match y.kind with | .entry _ => true | _ => false)).length < 64) :
    exec (.acctx n w) s = .next ((t.acceptDrain e (e.coreIn (e.d w 0).toNat) n (.entry ((e.d w 0).toNat % 4096)) 0 none).finish e
      (done e.act)) := by
  simp only [toNat_d] at *
  simp only [exec, execAcctx, word_of_issueOf hi, hcx, hst, hkind, hview, hlost, hfull, bne_self_eq_false, Bool.not_true, Bool.or_self,
    Bool.false_eq_true, if_false]
  exact if_neg (Nat.not_le.mpr hroom)

theorem accwait_of_complete {one : Bool} (hi : s.issueOf? (.accwait n k one) = some (e, t))
    (h : ∀ d ∈ t.drains, d.wg = e.wid → one = true ∧ ¬(d.acc = n ∧ d.core = e.coreIn (e.d k 0).toNat)) :
    exec (.accwait n k one) s = .next (t.finish e (done e.act)) := by
  have hnone : (t.drains.any fun d => d.wg == e.wid && (!one || (d.acc == n && d.core == e.coreIn (e.n .i64 k 0)))) = false := by
    refine List.any_eq_false.mpr fun d hd => ?_
    by_cases hwg : d.wg = e.wid
    · obtain ⟨hone, hother⟩ := h d hd hwg
      rw [toNat_d] at hother
      simpa [hwg, hone] using hother
    · simp [hwg]
  simp only [exec, execAccwait, word_of_issueOf hi, hnone, Bool.false_eq_true, if_false]

theorem accfree_of_issueOf (hi : s.issueOf? (.accfree n k) = some (e, t)) :
    exec (.accfree n k) s = .next ((t.unbindAcc e.wid (e.coreIn (e.d k 0).toNat) n).finish e (done e.act)) := by
  simp only [exec, execAccfree, word_of_issueOf hi, toNat_d]

end Matrix

/-- Settles O25: a lemma for each word. -/
theorem matrixWordsAreAccepted : Obligations.MatrixWordsAreAccepted := by
  unfold Obligations.MatrixWordsAreAccepted
  exact ⟨fun n a b sv s e t i => mma_of_bound, fun n a b sv new s e t i => mma_of_free,
    fun n w c s e t f rm sat sc gid g hi hconv hal hcheck hgroup => accdrain_of_checked hi hconv hal hcheck hgroup,
    fun n w c s e t f rm sat sc base r => accst_of_checked, fun n w s e t => acctx_of_checked, fun n k one s e t => accwait_of_complete,
    fun n k s e t => accfree_of_issueOf⟩

end Sys2Proof.Machine

/-!
SUPPORT. Copies (R443 to R447): what a copy-class word does that has a source and passes its checks.
-/
namespace Sys2Proof.Machine
set_option Elab.async false

section Copies

variable {s t u v : State} {e : Env} {r dr : ShapeRec} {xs : List Int} {i : Instr} {h x d : Nat} {gd : Guard}

/-! ### Sources -/

/-- What a word finds that has a source (R443, R444): its group has the copy role, and after its stores the record of the source can be had. -/
theorem copySource?_eq_some (hsrc : t.copySource? e h x d = some (r, xs, u)) : ∃ w, t.clear? e = some w ∧ e.act ≠ 0 ∧ e.grp.copyRole = true ∧
    (w.recordHeld e (e.greg h).toNat || w.recordHeld e (e.greg d).toNat) = false ∧ w.engineRec e (e.greg h).toNat shapeOf = (.ok r, u) ∧
    x + r.rank - 1 ≤ 63 ∧ u.gregsWait e x r.rank = false ∧ xs = (List.range r.rank).map fun d => sgn 32 (e.greg (x + d)).toNat := by
  unfold State.copySource? at hsrc
  split at hsrc
  · cases hsrc
  next hrole =>
    obtain ⟨w, hw, hsrc⟩ := Option.bind_eq_some_iff.mp hsrc
    split at hsrc
    · cases hsrc
    next hheld =>
      split at hsrc
      next r' u' hrec =>
        split at hsrc
        · cases hsrc
        next hwait =>
          cases hsrc
          simp only [Bool.or_eq_true, decide_eq_true_eq, Bool.not_eq_true', not_or, Bool.not_eq_false] at hrole
          simp only [Bool.or_eq_true, decide_eq_true_eq, not_or, Bool.not_eq_true] at hwait
          exact ⟨w, hw, hrole.1, hrole.2, Bool.eq_false_iff.mpr hheld, hrec, Nat.not_lt.mp hwait.1, hwait.2, rfl⟩
      · cases hsrc

/-- A copy-class word that has a source and no other illegal field does its work with it. -/
theorem copyWord_of_source {bad : Env → Except Found ShapeRec → State → Bool} {body : Env → Except Found ShapeRec → List Int → State → Out}
    (hi : s.issueOf? i = some (e, t)) (hsrc : t.copySource? e h x d = some (r, xs, u)) (hbad : bad e (.ok r) u = false) :
    s.copyWord i h d x bad body = body e (.ok r) xs u := by
  obtain ⟨w, hclear, hact, hrole, hheld, hrec, hregs, hwait, rfl⟩ := copySource?_eq_some hsrc
  have hlegal : (illegalRec (Except.ok (ε := Found) r) (fun r => decide (63 < x + r.rank - 1)) || bad e (.ok r) u) = false := by
    simp only [illegalRec, decide_eq_false (Nat.not_lt.mpr hregs), hbad, Bool.or_self]
  simp only [State.copyWord, word_of_issueOf hi, if_neg hact, afterStores_of_clear hclear, hheld, hrec, hlegal, hrole, hwait, Bool.false_eq_true,
    if_false, Bool.not_true]

theorem sources_found_nil (h : v.sourcesGood e r xs) : (sources r xs).flatMap (fun a => v.sourceCheck e a r.size) = [] :=
  List.flatMap_eq_nil_iff.mpr h

/-! ### Copies to buffers -/

theorem badBuffer_of_ok {bf : BufRec} (h : u.engineRec e (e.greg d).toNat bufOf = (.ok bf, v)) : u.badBuffer e d = false := by
  simp only [State.badBuffer, h]

theorem copy_of_checked {b : Nat} {bf : BufRec} (hi : s.issueOf? (.copy gd b h x d) = some (e, t))
    (hsrc : t.copySource? e h x d = some (r, xs, u)) (hbuf : u.engineRec e (e.greg d).toNat bufOf = (.ok bf, v)) (hgood : v.sourcesGood e r xs)
    (hdst : ∃ sp, spaceOf v.fab bf.view = some sp ∧
      v.oneSpace sp (bf.view + 64 * (e.greg (d + 1)).toNat) (r.size * r.count) = true ∧
      match sp with
      | .other k _ => bitAt v.fab.lostmap.toNat k = false
      | .own _ => e.kern.leases true (bf.view + 64 * (e.greg (d + 1)).toNat) (r.size * r.count) = true
      | .ctl => e.kern.leases true (bf.view + 64 * (e.greg (d + 1)).toNat) (r.size * r.count) = true
      | _ => False)
    (hlen : 64 * (e.greg (d + 1)).toNat + r.size * r.count ≤ bf.len) (hroom : v.engineFull e [.wg e.wid b] = false) :
    exec (.copy gd b h x d) s = .next
      ((v.acceptCopy e r xs (.buffer bf (64 * (e.greg (d + 1)).toNat)) (some (.wg e.wid b)) [.wg e.wid b] []).finish e (done e.act)) := by
  obtain ⟨sp, hsp, hone, hallowed⟩ := hdst
  have hfull : v.engineFull e [e.bar b] = false := hroom
  rw [show exec (.copy gd b h x d) s = execCopy gd b h x d s from rfl, execCopy, copyWord_of_source hi hsrc (badBuffer_of_ok hbuf)]
  cases sp with
  | own o =>
    simp only [hbuf, foundIn, sources_found_nil hgood, hsp, hone, hallowed, if_neg (Nat.not_lt.mpr hlen), Bool.not_true, Bool.false_eq_true,
      if_false, if_true, List.append_nil, leastFound, hfull]
    rfl
  | ctl =>
    simp only [hbuf, foundIn, sources_found_nil hgood, hsp, hone, hallowed, if_neg (Nat.not_lt.mpr hlen), Bool.not_true, Bool.false_eq_true,
      if_false, if_true, List.append_nil, leastFound, hfull]
    rfl
  | other k o =>
    simp only [hbuf, foundIn, sources_found_nil hgood, hsp, hone, hallowed, if_neg (Nat.not_lt.mpr hlen), Bool.not_true, Bool.false_eq_true,
      if_false, List.append_nil, leastFound, hfull]
    rfl
  | window => exact hallowed.elim
  | block => exact hallowed.elim

/-! ### Copies to windows -/

/-- The checks that are left once a window copy's destinations are known pass (R206, R444). -/
theorem issueWindow_of_good {dst : CopyDst} {bar : Option BarRef} {bars : List BarRef} {rs : List (Nat × Nat × Nat)} (hne : rs ≠ [])
    (hgood : v.sourcesGood e r xs) (hranges : v.rangesGood e r xs rs) (hapart : v.rangesApart rs) (hroom : v.engineFull e bars = false) :
    v.issueWindow e r xs dst bar bars rs [] = .next ((v.acceptCopy e r xs dst bar bars rs).finish e (done e.act)) := by
  have hclash : (((sources r xs).filterMap fun a => v.sourceStore e a r.size).any fun p => rs.any fun q =>
      p.1 == q.1 && decide (p.2.1 < q.2.2) && decide (q.2.1 < p.2.2)) = false := by
    refine List.any_eq_false.mpr fun p hp => ?_
    obtain ⟨a, ha, hstore⟩ := List.mem_filterMap.mp hp
    simp only [Bool.not_eq_true]
    refine List.any_eq_false.mpr fun q hq => ?_
    have hno := hranges.1 a ha p.1 p.2.1 p.2.2 hstore q hq
    simpa using hno
  have hfull : ((List.range rs.length).any fun i => match rs[i]? with
      | none => false
      | some (c, lo, hi) =>
        let before := (rs.take i).filter fun x => x.1 == c
        (before.any fun x => decide (lo < x.2.2) && decide (x.2.1 < hi)) ||
          decide (64 ≤ (v.ranges.filter fun r => r.core == c && !r.saved).length + before.length)) = false := by
    refine List.any_eq_false.mpr fun i _ => ?_
    cases hi : rs[i]? with
    | none => exact Bool.false_ne_true
    | some p =>
      obtain ⟨hsep, hcount⟩ := hapart i p hi
      simp only [Bool.not_eq_true, Bool.or_eq_false_iff, decide_eq_false_iff_not, Nat.not_le]
      refine ⟨List.any_eq_false.mpr fun y hy => ?_, hcount⟩
      obtain ⟨hy, hcore⟩ := List.mem_filter.mp hy
      simpa using hsep y hy (eq_of_beq hcore)
  have hfree : (rs.any fun p => v.rangeHit p.1 p.2.1 p.2.2 || v.rangesFull p.1) = false :=
    List.any_eq_false.mpr fun p hp => by simp [hranges.2 p hp]
  have hnonempty : rs.isEmpty = false := by simpa using hne
  have hwait {a b c : Bool} (ha : a = false) (hb : b = false) (hc : c = false) : ¬(a || b || c) = true := by simp [ha, hb, hc]
  have hfound {c : Bool} (hc : c = false) : leastFound ((sources r xs).flatMap (fun a => v.sourceCheck e a r.size) ++ [] ++
      if c then [(Cause.permission, 0)] else []) = none := by
    rw [sources_found_nil hgood, hc]
    rfl
  simp only [State.issueWindow]
  rw [hfound hclash]
  exact (if_neg (hwait hroom hfull hfree)).trans (if_neg (Bool.eq_false_iff.mp hnonempty))

theorem misfit_of_ok (hdst : u.engineRec e (e.greg d).toNat shapeOf = (.ok dr, v)) (hrank : dr.rank = r.rank) (hsize : dr.size = r.size) :
    u.misfit e d (.ok r) = false := by
  simp [State.misfit, hdst, hrank, hsize]

theorem copyw_of_checked {b sel peer o : Nat} {rg : Nat × Nat × Nat} (hi : s.issueOf? (.copyw gd b h x d) = some (e, t))
    (hsrc : t.copySource? e h x d = some (r, xs, u)) (hdst : u.engineRec e (e.greg d).toNat shapeOf = (.ok dr, v)) (hrank : dr.rank = r.rank)
    (hsize : dr.size = r.size) (hsp : spaceOf v.fab dr.base = some (.window sel peer o))
    (hrange : windowDest e.wg e.kern (windowCore e.core sel peer) r dr = .ok (some rg)) (hgood : v.sourcesGood e r xs)
    (hranges : v.rangesGood e r xs [rg]) (hroom : v.engineFull e [.wg e.wid b] = false) :
    exec (.copyw gd b h x d) s = .next ((v.acceptCopy e r xs (.window (windowCore e.core sel peer) e.wid dr) (some (.wg e.wid b))
      [.wg e.wid b] [rg]).finish e (done e.act)) := by
  have hbase : v.baseFound dr = [] := by simp only [State.baseFound, hsp]
  have hcore : v.rangesFull rg.1 = false := (hranges.2 rg (List.mem_singleton_self rg)).2
  have hapart : v.rangesApart [rg] := by
    intro i p hp
    obtain ⟨rfl, rfl⟩ : i = 0 ∧ rg = p := by
      cases i with
      | zero => exact ⟨rfl, Option.some.inj hp⟩
      | succ i => cases hp
    exact ⟨fun y hy => absurd hy List.not_mem_nil, by simpa [State.rangesFull] using hcore⟩
  rw [show exec (.copyw gd b h x d) s = execCopyw gd b h x d s from rfl, execCopyw, copyWord_of_source hi hsrc (misfit_of_ok hdst hrank hsize)]
  simp only [hdst, hbase, hsp, List.isEmpty_nil, if_true, hrange]
  exact issueWindow_of_good (List.cons_ne_nil rg []) hgood hranges hapart hroom

/-! ### Multicasts -/

theorem eraseDups_of_nodup {l : List Nat} (h : l.Nodup) : l.eraseDups = l := by
  induction l with
  | nil => rfl
  | cons a l ih =>
    obtain ⟨hmem, hl⟩ := List.nodup_cons.mp h
    have hkeep : l.filter (fun b => !b == a) = l := List.filter_eq_self.mpr fun b hb => by
      simp only [Bool.not_eq_true', beq_eq_false_iff_ne]
      exact fun hba => hmem (hba ▸ hb)
    rw [List.eraseDups_cons, hkeep, ih hl]

theorem copymc_of_checked {l m peer o : Nat} {good : List (Nat × Nat × Nat × Option (Nat × Nat × Nat))}
    (hi : s.issueOf? (.copymc gd l h x d m) = some (e, t)) (hsrc : t.copySource? e h x d = some (r, xs, u))
    (hdst : u.engineRec e (e.greg d).toNat shapeOf = (.ok dr, v)) (hrank : dr.rank = r.rank) (hsize : dr.size = r.size)
    (hnodup : (((List.range (m + 1)).map fun j => (e.greg (l + j)).toNat).map fun h => h / 16).Nodup)
    (hsp : spaceOf v.fab dr.base = some (.window 0 peer o))
    (hreceivers : ((List.range (m + 1)).map fun j => (e.greg (l + j)).toNat).map (v.receiver e r dr) = good.map .ok)
    (hne : (good.filterMap fun w => w.2.2.2) ≠ []) (hgood : v.sourcesGood e r xs)
    (hranges : v.rangesGood e r xs (good.filterMap fun w => w.2.2.2)) (hapart : v.rangesApart (good.filterMap fun w => w.2.2.2))
    (hroom : v.engineFull e (good.map fun w => .wg w.2.1 w.2.2.1) = false) :
    exec (.copymc gd l h x d m) s = .next ((v.acceptCopy e r xs (.multi dr (good.map fun w => (w.1, w.2.1, w.2.2.1))) none
      (good.map fun w => .wg w.2.1 w.2.2.1) (good.filterMap fun w => w.2.2.2)).finish e (done e.act)) := by
  have hbase : v.baseFound dr = [] := by simp only [State.baseFound, hsp]
  have hsame : e.sameHandles l m = false := by
    rw [List.map_map] at hnodup
    simp only [Env.sameHandles]
    rw [show ((List.range (m + 1)).map fun j => (e.greg (l + j)).toNat / 16).eraseDups = (List.range (m + 1)).map fun j => (e.greg (l + j)).toNat / 16
      from eraseDups_of_nodup hnodup]
    exact bne_self_eq_false _
  have hnone : good.filterMap (fun _ => (none : Option Found)) = [] := List.filterMap_eq_nil_iff.mpr fun _ _ => rfl
  rw [show exec (.copymc gd l h x d m) s = execCopymc gd l h x d m s from rfl, execCopymc,
    copyWord_of_source hi hsrc (by rw [misfit_of_ok hdst hrank hsize, hsame, Bool.or_self])]
  simp only [hdst, hbase, hsp, hreceivers, if_true, List.append_nil, List.isEmpty_nil, List.filterMap_map, Function.comp_def,
    List.filterMap_some, hnone]
  exact issueWindow_of_good hne hgood hranges hapart hroom

end Copies

/-- Settles O28: a lemma for each word, the window copies by the checks they share. -/
theorem copyWordsAreAccepted : Obligations.CopyWordsAreAccepted := by
  unfold Obligations.CopyWordsAreAccepted
  exact ⟨fun gd b h x d s e t r xs u bf v => copy_of_checked, fun gd b h x d s e t r xs u dr v sel peer o rg => copyw_of_checked,
    fun gd l h x d m s e t r xs u dr v peer o good => copymc_of_checked⟩

end Sys2Proof.Machine

/-!
SUPPORT. What leaves memory as it is (SPEC.md, log 1): for each such function of the model, its result's memory is the memory it was given. The
lemmas follow the model's order.
-/
namespace Sys2Proof.Machine
set_option Elab.async false

@[simp] theorem ite_mem (c : Prop) [Decidable c] (s t : State) : (if c then s else t).mem = if c then s.mem else t.mem := apply_ite ..

@[simp] theorem free_mem (s : State) : s.free.2.mem = s.mem := by
  rfl

@[simp] theorem setPage_mem (s : State) (p : PageInfo) : (s.setPage p).mem = s.mem := by
  rfl

@[simp] theorem tlbFill_mem (s : State) (u cx va : Nat) (l : Leaf) : (s.tlbFill u cx va l).mem = s.mem := by
  rfl

@[simp] theorem blockTime_mem (s : State) (u : Nat) : (s.blockTime u).mem = s.mem := by
  rfl

@[simp] theorem setFloor_mem (s : State) (a n : Nat) (t : W64) : (s.setFloor a n t).mem = s.mem := by
  rfl

@[simp] theorem publicAt_mem (s : State) (a n : Nat) (t : W64) : (s.publicAt a n t).mem = s.mem := by
  rfl

@[simp] theorem served_mem (s : State) (i : Nat) (due : W64) : (s.served i due).mem = s.mem := by
  simp [State.served]

@[simp] theorem request_mem (s : State) (who cls a : Nat) : (s.request who cls a).mem = s.mem := by
  rfl

@[simp] theorem requestAt_mem (s : State) (who cls cx va : Nat) : (s.requestAt who cls cx va).mem = s.mem := by
  unfold State.requestAt
  split <;> rfl

@[simp] theorem translate_mem (s : State) (us : List Nat) (filler cx va : Nat) : (s.translate us filler cx va).2.mem = s.mem := by
  unfold State.translate
  split
  · exact classify_mem _ _ _ _ _
  · split
    · rfl
    · exact (classify_mem _ _ _ _ _).trans (foldl_mem (fun s u => tlbFill_mem s u cx va _) us s)

@[simp] theorem walkRequest_mem (s : State) (who : Nat) (us : List Nat) (cx va : Nat) : (s.walkRequest who us cx va).mem = s.mem := by
  grind [State.walkRequest, request_mem]

@[simp] theorem tlbDrop_mem (s : State) (us : List Nat) (cx va : Nat) : (s.tlbDrop us cx va).mem = s.mem := by
  rfl

@[simp] theorem touch_mem (s : State) (a : Nat) : (s.touch a).mem = s.mem := by
  unfold State.touch
  split <;> rfl

@[simp] theorem readTime_mem (s s0 : State) (c a : Nat) (shared : Bool) : (s.readTime s0 c a shared).mem = s.mem := by
  grind [State.readTime, raisePts_mem]

@[simp] theorem loadAt_mem (s : State) (c a n : Nat) (shared : Bool) : (s.loadAt c a n shared).2.mem = s.mem := by
  simp [State.loadAt]

@[simp] theorem holdDirty_mem (s : State) (c a : Nat) : (s.holdDirty c a).mem = s.mem := by
  simp [State.holdDirty]

@[simp] theorem ctxIdle_mem (s : State) (cx : Nat) : (s.ctxIdle cx).mem = s.mem := by
  simp [State.ctxIdle]

@[simp] theorem releasePage_mem (s : State) (cx vp : Nat) : (s.releasePage cx vp).mem = s.mem := by
  rfl

@[simp] theorem releaseLeases_mem (s : State) (kid : Nat) : (s.releaseLeases kid).mem = s.mem := by
  unfold State.releaseLeases
  split <;> simp [foldl_mem]

@[simp] theorem codeSees_mem (s : State) (a n : Nat) : (s.codeSees a n).mem = s.mem := by
  rfl

@[simp] theorem sgDrop_mem (s : State) (cx h : Nat) : (s.sgDrop cx h).mem = s.mem := by
  unfold State.sgDrop
  split <;> simp [foldl_mem]

@[simp] theorem unitLoad_mem (s : State) (cx va : Nat) : (s.unitLoad cx va).mem = s.mem := by
  unfold State.unitLoad
  split <;> simp [classify_mem, raisePts_mem]

@[simp] theorem sgLoad_mem (s : State) (cx h : Nat) : (s.sgLoad cx h).mem = s.mem := by
  simp [State.sgLoad]

@[simp] theorem sgSeen_mem (s : State) (u cx h : Nat) : (s.sgSeen u cx h).mem = s.mem := by
  simp [State.sgSeen, raisePts_mem]

@[simp] theorem sgDeliver_mem (s : State) (cx h : Nat) (toSiblings : Bool) (ga : Option W32) : (s.sgDeliver cx h toSiblings ga).mem = s.mem := by
  unfold State.sgDeliver
  split
  · rfl
  · exact foldl_mem (fun s c => raisePts_mem s c _) _ s

theorem noEvent_mem (s : State) {t : State} (h : s.noEvent = .next t) : t.mem = s.mem := by
  grind [State.noEvent]

@[simp] theorem modBar_mem (s : State) (b : BarRef) (f : Bar → Bar) : (s.modBar b f).mem = s.mem := by
  unfold State.modBar
  split <;> simp

@[simp] theorem unwait_mem (s : State) (ag : Agent) : (s.unwait ag).mem = s.mem := by
  unfold State.unwait
  split <;> simp [foldl_mem]

@[simp] theorem endGroup_mem (s : State) (gid : Nat) : (s.endGroup gid).mem = s.mem := by
  unfold State.endGroup
  split <;> simp [foldl_mem]

@[simp] theorem endCt_mem (s : State) (w : Nat) : (s.endCt w).mem = s.mem := by
  simp [State.endCt]

@[simp] theorem wgEnd_mem (s : State) (w : Nat) : (s.wgEnd w).mem = s.mem := by
  unfold State.wgEnd
  split <;> simp

@[simp] theorem parkObservers_mem (s : State) (key : Nat) : (s.parkObservers key).mem = s.mem := by
  rfl

@[simp] theorem discardWork_mem (s : State) (kid : Nat) : (s.discardWork kid).mem = s.mem := by
  rfl

@[simp] theorem landWrites_mem (s : State) (ag : Agent) (ws : List RegWrite) : (s.landWrites ag ws).mem = s.mem := by
  unfold State.landWrites
  split <;> simp

@[simp] theorem landReady_mem (s : State) (ag : Agent) : (s.landReady ag).mem = s.mem := by
  simp [State.landReady, foldl_mem]

@[simp] theorem put_mem (s : State) (ag : Agent) (l : Nat) (r : Res) : (s.put ag l r).mem = s.mem := by
  unfold State.put
  split <;> simp

@[simp] theorem stallTick_mem (s : State) (n : Nat) : (s.stallTick n).mem = s.mem := by
  rfl

@[simp] theorem putAll_mem (s : State) (ag : Agent) (long : Bool) (o : LaneOut) : (s.putAll ag long o).mem = s.mem := by
  refine foldl_mem (fun s r => ?_) o.res s
  split
  · exact put_mem _ _ _ _
  · split
    · rfl
    · exact put_mem _ _ _ _

@[simp] theorem paged_mem (s : State) (e : Env) (tlbs : List Nat) (va n : Nat) (need : Need) : (s.paged e tlbs va n need).2.mem = s.mem := by
  grind [State.paged, tlbDrop_mem, translate_mem, walkRequest_mem]

@[simp] theorem locate_mem (s : State) (e : Env) (tlbs : List Nat) (va n align : Nat) (need : Need) :
    (s.locate e tlbs va n align need).2.mem = s.mem := by
  grind [State.locate, paged_mem]

@[simp] theorem setDir_mem (s : State) (die x : Nat) (m : Moesi) : (s.setDir die x m).mem = s.mem := by
  rfl

@[simp] theorem noLease_mem (s : State) (die x : Nat) : (s.noLease die x).mem = s.mem := by
  simp [State.noLease]

@[simp] theorem askAgents_mem (s : State) (die a : Nat) (write : Bool) : (s.askAgents die a write).mem = s.mem := by
  simp [State.askAgents, foldl_mem]

@[simp] theorem ctlShare_mem (s : State) (die a : Nat) : (s.ctlShare die a).mem = s.mem := by
  unfold State.ctlShare
  dsimp only
  split
  · rfl
  · split <;> (refine foldl_mem (fun s d => ?_) _ s; split <;> rfl)

@[simp] theorem ctlOwn_mem (s : State) (die a : Nat) : (s.ctlOwn die a).mem = s.mem := by
  simp [State.ctlOwn, foldl_mem]

@[simp] theorem wakeLoc_mem (s : State) (e : Env) (need : Need) (l : Loc) : (s.wakeLoc e need l).mem = s.mem := by
  unfold State.wakeLoc
  split <;> simp [wakeFor_mem]

@[simp] theorem timePhys_mem (s s0 : State) (u a : Nat) (shared : Bool) (repl : Option Nat) : (s.timePhys s0 u a shared repl).mem = s.mem := by
  unfold State.timePhys
  split <;> simp [raisePts_mem]

@[simp] theorem loadPhys_mem (s : State) (u a n : Nat) (shared : Bool) (repl : Option Nat) : (s.loadPhys u a n shared repl).2.mem = s.mem := by
  simp [State.loadPhys]

@[simp] theorem servedAt_mem (s : State) (due : Option (Nat × W64)) : (s.servedAt due).mem = s.mem := by
  unfold State.servedAt
  split <;> simp

@[simp] theorem homeSend_mem (s : State) (ag : Option Agent) (cx core : Nat) (shared : Bool) (parts : List StorePart) (issued : W64)
    (due : Option (Nat × W64)) (byPage : Bool) : (s.homeSend ag cx core shared parts issued due byPage).2.mem = s.mem := by
  rfl

@[simp] theorem homeAsk_mem (s : State) (h : HomeW) : (s.homeAsk h).mem = s.mem := by
  simp [State.homeAsk, foldl_mem]

@[simp] theorem popStore_mem (s : State) (ag : Agent) : (s.popStore ag).mem = s.mem := by
  simp [State.popStore]

@[simp] theorem storeAsk_mem (s : State) (ag : Agent) (q : QStore) : (s.storeAsk ag q).mem = s.mem := by
  simp [State.storeAsk, wakeFor_mem]

@[simp] theorem preWake_mem (s : State) (cx : Nat) : (s.preWake cx).mem = s.mem := by
  simp [State.preWake, foldl_mem, wakeSeg_mem]

@[simp] theorem setPhase_mem (s : State) (cx v : Nat) : (s.setPhase cx v).mem = s.mem := by
  rfl

@[simp] theorem poolOn_mem (s : State) : s.poolOn.mem = s.mem :=
  foldl_mem (fun s g => modSeg_mem s g _) _ s

@[simp] theorem segOn_mem (s : State) (g : Nat) : (s.segOn g).mem = s.mem := by
  simp [State.segOn, wakeSeg_mem]

@[simp] theorem tideRefused_mem (s : State) : s.tideRefused.mem = s.mem := by
  rfl

@[simp] theorem holdPath_mem (s : State) (e : Env) (w : Wait) : (s.holdPath e w).mem = s.mem := by
  simp [State.holdPath]

@[simp] theorem pendUp_mem (s : State) (b : BarRef) : (s.pendUp b).mem = s.mem := by
  simp [State.pendUp]

@[simp] theorem postArrival_mem (s : State) (b : BarRef) (ag : Option Agent) (n : Nat) (engine : Bool) (err : Option Cause) :
    (s.postArrival b ag n engine err).mem = s.mem := by
  rfl

@[simp] theorem holdBar_mem (s : State) (e : Env) (k : Nat) (ph : Bool) (pd : Option Nat) (m : BitVec 8) : (s.holdBar e k ph pd m).mem = s.mem := by
  simp [State.holdBar]

@[simp] theorem modMsg_mem (s : State) (id : Nat) (f : HMsg → HMsg) : (s.modMsg id f).mem = s.mem := by
  rfl

@[simp] theorem farReply_mem (s : State) (m : HMsg) : (s.farReply m).mem = s.mem := by
  simp [State.farReply]

@[simp] theorem podMirror_mem (s : State) (cx k : Nat) (b : Bar) : (s.podMirror cx k b).mem = s.mem := by
  simp [State.podMirror]

@[simp] theorem icRead_mem (s : State) (core a : Nat) : (s.icRead core a).2.mem = s.mem := by
  unfold State.icRead
  split <;> rfl

@[simp] theorem fetchWord_mem (s : State) (k : Kernel) (core va : Nat) : (s.fetchWord k core va).2.mem = s.mem := by
  grind [State.fetchWord, icRead_mem, tlbDrop_mem, translate_mem, walkRequest_mem]

@[simp] theorem fetchWords_mem (s : State) (k : Kernel) (core va n : Nat) : (s.fetchWords k core va n).2.mem = s.mem := by
  fun_induction State.fetchWords s k core va n <;> grind [fetchWord_mem]

@[simp] theorem fetchClause_mem (s : State) (k : Kernel) (core hdr : Nat) : (s.fetchClause k core hdr).2.mem = s.mem := by
  grind [State.fetchClause, fetchWord_mem, fetchWords_mem]

@[simp] theorem testIdle_mem (s : State) (qid : Nat) : (s.testIdle qid).mem = s.mem := by
  grind [State.testIdle, modQueue_mem]

@[simp] theorem noteHead_mem (s : State) (qid : Nat) : (s.noteHead qid).mem = s.mem := by
  simp [State.noteHead]

@[simp] theorem testArmed_mem (s : State) (qid : Nat) : (s.testArmed qid).mem = s.mem := by
  grind [State.testArmed, modQueue_mem, noteHead_mem]

@[simp] theorem testBlocked_mem (s : State) (qid : Nat) : (s.testBlocked qid).mem = s.mem := by
  unfold State.testBlocked
  (repeat' split) <;> simp

theorem choose_mem (s : State) (qid : Nat) {t : State} (h : s.choose qid = .next t) : t.mem = s.mem := by
  grind [State.choose, modQueue_mem, noEvent_mem, requestAt_mem]

@[simp] theorem takeHead_mem (s : State) (qid typ : Nat) : (s.takeHead qid typ).mem = s.mem := by
  rfl

@[simp] theorem takeError_mem (s : State) (qid : Nat) (c : SCause) (typ : Nat) : (s.takeError qid c typ).mem = s.mem := by
  rfl

@[simp] theorem enableQ_mem (s : State) (qid : Nat) : (s.enableQ qid).mem = s.mem := by
  rfl

@[simp] theorem segsUse_mem (s : State) (cx : Nat) (gs : List Nat) : (s.segsUse cx gs).mem = s.mem := by
  simp [State.segsUse, foldl_mem]

@[simp] theorem placePage_mem (s : State) (kid : Nat) (x : Nat × Nat × Leaf) : (s.placePage kid x).mem = s.mem := by
  unfold State.placePage
  split <;> simp

@[simp] theorem place_mem (s : State) (kid : Nat) : (s.place kid).mem = s.mem := by
  unfold State.place
  split <;> simp [foldl_mem]

@[simp] theorem newFrame_mem (s : State) (a n : Nat) : (s.newFrame a n).mem = s.mem := by
  rfl

@[simp] theorem mapLeaf_mem (s old : State) (cx : Nat) (x : Nat × Leaf) : (s.mapLeaf old cx x).mem = s.mem := by
  simp [State.mapLeaf]

@[simp] theorem leasePage_mem (s : State) (cx : Nat) (x : Nat × Leaf) : (s.leasePage cx x).mem = s.mem := by
  rfl

theorem addGroup_mem (s : State) (g : Group) {t : State} (h : s.addGroup g = some t) : t.mem = s.mem := by
  grind [State.addGroup, modWg_mem]

theorem addGroups_mem (s : State) (k : Kernel) (wid : Nat) (w : Workgroup) (l : List (GClass × Nat × Nat)) (n m : Nat) (xs : List Nat) {t : State}
    (h : s.addGroups k wid w l n m xs = some t) : t.mem = s.mem := by
  fun_induction State.addGroups s k wid w l n m xs <;> grind [addGroup_mem]

theorem addWg_mem (s : State) (k : Kernel) (w : Workgroup) (p : Place) (ct : Option CThread) {y : Nat} {t : State}
    (h : s.addWg k w p ct = some (y, t)) : t.mem = s.mem := by
  grind [State.addWg]

@[simp] theorem loadGroup_mem (s : State) (g : Nat) : (s.loadGroup g).mem = s.mem := by
  grind [State.loadGroup, modGroup_mem]

@[simp] theorem wideDone_mem (s : State) (gid : Nat) (pd : Option (Nat × Bool)) : (s.wideDone gid pd).mem = s.mem := by
  simp [State.wideDone]

@[simp] theorem switchRole_mem (s : State) (gid : Nat) (k : Kernel) (p w : Nat) : (s.switchRole gid k p w).mem = s.mem := by
  simp [State.switchRole, foldl_mem]

theorem growOr_mem {s : State} {gid n : Nat} {done : State → State} (hd : ∀ s, (done s).mem = s.mem) :
    (s.growOr gid n done).mem = s.mem := by
  unfold State.growOr
  split
  · exact (hd _).trans (modGroup_mem ..)
  · exact modGroup_mem ..

@[simp] theorem granted_mem (s : State) (gid : Nat) (k : Kernel) : (s.granted gid k).mem = s.mem := by
  unfold State.granted
  (repeat' split) <;> simp

@[simp] theorem growDeny_mem (s : State) (core : Nat) : (s.growDeny core).mem = s.mem := by
  grind [State.growDeny, wideDone_mem]

@[simp] theorem regGrow_mem (s : State) (gid p n : Nat) : (s.regGrow gid p n).mem = s.mem := by
  unfold State.regGrow
  split
  · rfl
  · split
    · simp
    · simp [growOr_mem]

@[simp] theorem regShrink_mem (s : State) (gid n : Nat) : (s.regShrink gid n).mem = s.mem := by
  simp [State.regShrink]

@[simp] theorem holdWide_mem (s : State) (e : Env) (bads : List LaneOut) : (s.holdWide e bads).mem = s.mem := by
  simp [State.holdWide]

@[simp] theorem widePass_mem (s : State) (e : Env) : (s.widePass e).mem = s.mem := by
  simp [State.widePass]

@[simp] theorem handleBytes_mem (s : State) (kid cx core h : Nat) : (s.handleBytes kid cx core h).2.mem = s.mem := by
  grind [State.handleBytes, tlbDrop_mem, translate_mem, walkRequest_mem]

@[simp] theorem record_mem {α : Type} (s : State) (kid cx core h : Nat) (parse : List Byte → Option α) :
    (s.record kid cx core h parse).2.mem = s.mem := by
  grind [State.record, handleBytes_mem, modKernel_mem]

@[simp] theorem armArrival_mem (s : State) (d i v : Nat) (before : TileEntry) : (s.armArrival d i v before).mem = s.mem := by
  simp [State.armArrival]

@[simp] theorem tileStore_mem (s : State) (d i : Nat) (hi : Bool) (v : Nat) (dev : Bool) : (s.tileStore d i hi v dev).mem = s.mem := by
  simp [State.tileStore]

@[simp] theorem rangeWake_mem (s : State) (cx va n : Nat) (shadow : Bool) : (s.rangeWake cx va n shadow).mem = s.mem := by
  simp [State.rangeWake, foldl_mem, wakeFor_mem]

@[simp] theorem devTick_mem (s : State) : s.devTick.mem = s.mem := by
  rfl

@[simp] theorem engineRead_mem (s : State) (us : List Nat) (cx va n : Nat) : (s.engineRead us cx va n).2.mem = s.mem := by
  grind [State.engineRead, devTick_mem, readTime_mem, touch_mem, translate_mem]

@[simp] theorem engineReads_mem (s : State) (us : List Nat) (cx va n m : Nat) : (s.engineReads us cx va n m).2.mem = s.mem := by
  fun_induction State.engineReads s us cx va n m <;> grind [engineRead_mem]

@[simp] theorem tileFail_mem (s : State) (d i : Nat) (c : Cause) : (s.tileFail d i c).mem = s.mem := by
  simp [State.tileFail]

@[simp] theorem tileFire_mem (s : State) (d i kid : Nat) (own : List W32) : (s.tileFire d i kid own).mem = s.mem := by
  grind [State.tileFire, modTile_mem, pendUp_mem, tileFail_mem]

@[simp] theorem tileReady_mem (s : State) (d i kid : Nat) : (s.tileReady d i kid).mem = s.mem := by
  unfold State.tileReady
  dsimp only
  split
  · simp
  · split
    · simp
    · split
      · simp
      · split <;> next heq => simpa using (congrArg (·.2.mem) heq).symm.trans (engineReads_mem ..)

@[simp] theorem refusedBy_mem (s : State) (d i : Nat) (perm : Bool) : (s.refusedBy d i perm).mem = s.mem := by
  simp [State.refusedBy]

@[simp] theorem packetResult_mem (s : State) (q : Packet) (res : Option (List W32)) : (s.packetResult q res).mem = s.mem := by
  unfold State.packetResult
  split <;> simp

@[simp] theorem setBudget_mem (s : State) (cx v : Nat) : (s.setBudget cx v).mem = s.mem := by
  rfl

@[simp] theorem commit_mem (s : State) (cx : Nat) : (s.commit cx).mem = s.mem := by
  rfl

@[simp] theorem build_mem (s : State) (cx : Nat) : (s.build cx).mem = s.mem := by
  rfl

theorem portStep_mem (port : Nat) (s : State) (ok : Port → Bool) (f : Port → Port) {t : State} (h : portStep port s ok f = .next t) :
    t.mem = s.mem := by
  grind [portStep, modPort_mem, noEvent_mem]

theorem flitSend_mem (s : State) (port src dest vc : Nat) (data : List Byte) {t : State} (h : s.flitSend port src dest vc data = .next t) :
    t.mem = s.mem := by
  grind [State.flitSend, modPort_mem, noEvent_mem]

@[simp] theorem loadImage_mem (s : State) : s.loadImage.mem = s.mem := by
  simp [State.loadImage]

theorem hbmTrained_mem (s : State) (dies : Byte) {t : State} (h : s.hbmTrained dies = .next t) : t.mem = s.mem := by
  grind [State.hbmTrained, modFab_mem, modMgmt_mem, noEvent_mem]

@[simp] theorem cutBudget_mem (s : State) (cx : Nat) : (s.cutBudget cx).mem = s.mem := by
  simp [State.cutBudget]

@[simp] theorem sgEnd_mem (s : State) (gid : Nat) : (s.sgEnd gid).mem = s.mem := by
  unfold State.sgEnd
  split <;> simp

@[simp] theorem stopWaits_mem (s : State) (ag : Agent) : (s.stopWaits ag).mem = s.mem := by
  unfold State.stopWaits
  split <;> simp [foldl_mem]

@[simp] theorem saveWg_mem (s : State) (wid : Nat) : (s.saveWg wid).mem = s.mem := by
  unfold State.saveWg
  (repeat' split) <;> simp

@[simp] theorem markRanges_mem (s : State) (cx : Nat) (saved : Bool) : (s.markRanges cx saved).mem = s.mem := by
  rfl

@[simp] theorem noteWaits_mem (s : State) : s.noteWaits.mem = s.mem := by
  simp [State.noteWaits, foldl_mem]

@[simp] theorem rebind_mem (s : State) (wid : Nat) (l : List (Nat × Nat × Tab W32)) : (s.rebind wid l).mem = s.mem := by
  fun_induction State.rebind s wid l <;> grind [modAcc_mem]

@[simp] theorem remapMmas_mem (s : State) (wid : Nat) : (s.remapMmas wid).mem = s.mem := by
  rfl

@[simp] theorem restoreRegs_mem (s : State) (sec : Nat → Nat → Nat → Nat) (wid : Nat) (w : Workgroup) (k : Kernel) (es : List (Nat × List Byte)) :
    (s.restoreRegs sec wid w k es).mem = s.mem := by
  unfold State.restoreRegs
  dsimp only
  split <;> simp [foldl_mem]

@[simp] theorem dropWays_mem (s : State) (cx : Nat) : (s.dropWays cx).mem = s.mem := by
  rfl

@[simp] theorem fabricWrite_mem (s : State) (off : Nat) (v : W64) : (s.fabricWrite off v).mem = s.mem := by
  simp [State.fabricWrite]

@[simp] theorem blockLoad_mem (s : State) (a n : Nat) : (s.blockLoad a n).2.mem = s.mem := by
  grind [State.blockLoad, free_mem]

@[simp] theorem queueMonitors_mem (s old : State) : (s.queueMonitors old).mem = s.mem := by
  simp [State.queueMonitors, foldl_mem, fireMonitors_mem]

@[simp] theorem spotOf_mem (s : State) (e : Env) (tlbs : List Nat) (need : Need) (use : BlockUse) (l : Nat) (p : Plan) :
    (s.spotOf e tlbs need use l p).2.mem = s.mem := by
  grind [State.spotOf, locate_mem]

@[simp] theorem spotsOf_mem (s : State) (e : Env) (tlbs : List Nat) (need : Need) (use : BlockUse) (l : Nat) (xs : List Plan) :
    (s.spotsOf e tlbs need use l xs).2.mem = s.mem := by
  fun_induction State.spotsOf s e tlbs need use l xs <;> grind [spotOf_mem]

@[simp] theorem locateLanes_mem (s : State) (e : Env) (tlbs : List Nat) (need : Need) (use : BlockUse) (l : List (Nat × List Plan)) :
    (s.locateLanes e tlbs need use l).2.mem = s.mem := by
  fun_induction State.locateLanes s e tlbs need use l <;> grind [spotsOf_mem]

@[simp] theorem spotStall_mem (s : State) (e : Env) (need : Need) (held : List (Nat × List Spot)) (got : List (Nat × List (List Byte))) :
    (s.spotStall e need held got).mem = s.mem := by
  simp [State.spotStall, foldl_mem]

@[simp] theorem readSpot_mem (s s0 : State) (e : Env) (x : Spot) : (s.readSpot s0 e x).2.mem = s.mem := by
  unfold State.readSpot
  split <;> simp

@[simp] theorem readSpots_mem (s s0 : State) (e : Env) (l : List Spot) : (s.readSpots s0 e l).2.mem = s.mem := by
  fun_induction State.readSpots s s0 e l <;> grind [readSpot_mem]

@[simp] theorem readAll_mem (s s0 : State) (e : Env) (l : List (Nat × List Spot)) : (s.readAll s0 e l).2.mem = s.mem := by
  fun_induction State.readAll s s0 e l <;> grind [readSpots_mem]

@[simp] theorem timeSpot_mem (s s0 : State) (e : Env) (x : Spot) : (s.timeSpot s0 e x).mem = s.mem := by
  unfold State.timeSpot
  split <;> simp [noteMiss_mem]

@[simp] theorem readLanes_mem (s : State) (e : Env) (good : List (Nat × List Spot)) : (s.readLanes e good).2.mem = s.mem := by
  simp [State.readLanes, foldl_mem]

@[simp] theorem atomRead_mem (s : State) (e : Env) (x : Spot) : (s.atomRead e x).2.mem = s.mem := by
  unfold State.atomRead
  split <;> simp

@[simp] theorem atomPass_mem (s : State) (e : Env) (x : Spot) : (s.atomPass e x).mem = s.mem := by
  unfold State.atomPass
  split <;> simp [storeTime_mem]

@[simp] theorem ratomSend_mem (s : State) (e : Env) (d va : Nat) (w64 : Bool) (op : AtomOp) (v : W64) (l : Nat) :
    (s.ratomSend e d va w64 op v l).mem = s.mem := by
  rfl

@[simp] theorem owe_mem (s : State) (ag : Agent) (from_ : Nat) : (s.owe ag from_).mem = s.mem := by
  simp [State.owe, foldl_mem]

@[simp] theorem dropFails_mem (s : State) (fs : List RatomFail) : (s.dropFails fs).mem = s.mem := by
  simp [State.dropFails, foldl_mem]

@[simp] theorem noteDone_mem (s old : State) (ag : Agent) : (s.noteDone old ag).mem = s.mem := by
  simp [State.noteDone]

@[simp] theorem modRatom_mem (s : State) (id : Nat) (f : RatomOp → RatomOp) : (s.modRatom id f).mem = s.mem := by
  rfl

@[simp] theorem ratomThere_mem (s : State) (r : RatomOp) : (s.ratomThere r).mem = s.mem := by
  rfl

@[simp] theorem swapFront_mem (s : State) (cx view len : Nat) : (s.swapFront cx view len).mem = s.mem := by
  refine (foldl_mem (fun s r => ?_) _ _).trans ((foldl_mem (fun s r => ?_) _ _).trans (foldl_mem (fun s r => ?_) _ _)) <;>
    obtain ⟨va, _ | l⟩ := r
  · rfl
  · exact fireMonitors_mem ..
  · rfl
  · exact fireMonitors_mem ..
  · rfl
  · exact (homeWrites_mem ..).trans ((homeWrites_mem ..).trans (classify_mem ..))

@[simp] theorem afterSwap_mem (s : State) (ag : Agent) : (s.afterSwap ag).mem = s.mem := by
  rfl

@[simp] theorem monTime_mem (s : State) (e : Env) (x : Spot) : (s.monTime e x).mem = s.mem := by
  unfold State.monTime
  split <;> simp [raisePts_mem]

@[simp] theorem wakeRange_mem (s : State) (cx va len : Nat) : (s.wakeRange cx va len).mem = s.mem := by
  simp [State.wakeRange, foldl_mem, wakeSeg_mem]

@[simp] theorem lifetime_mem (s : State) (ag : Agent) (die : Nat) (spans : List (Nat × Nat)) (after : List Nat) :
    (s.lifetime ag die spans after).mem = s.mem := by
  simp [State.lifetime]

@[simp] theorem freeBytes_mem (s : State) (n : Nat) : (s.freeBytes n).2.mem = s.mem := by
  fun_induction State.freeBytes s n <;> grind [free_mem]

@[simp] theorem sourceLine_mem (s : State) (c : CopyOp) (line : Nat) : (s.sourceLine c line).2.mem = s.mem := by
  grind [State.sourceLine, engineRead_mem, freeBytes_mem, free_mem, walkRequest_mem]

@[simp] theorem fetchAll_mem (s : State) (c : CopyOp) (l : List Nat) : (s.fetchAll c l).2.2.mem = s.mem := by
  fun_induction State.fetchAll s c l <;> grind [sourceLine_mem]

@[simp] theorem wakeLines_mem (s : State) (cx : Nat) (ls : List Nat) : (s.wakeLines cx ls).mem = s.mem := by
  simp [State.wakeLines, foldl_mem]

@[simp] theorem dropReceiver_mem (s : State) (c : CopyOp) (i : Nat) : (s.dropReceiver c i).mem = s.mem := by
  unfold State.dropReceiver
  split <;> simp

@[simp] theorem engineRec_mem {α : Type} (s : State) (e : Env) (h : Nat) (parse : List Byte → Option α) : (s.engineRec e h parse).2.mem = s.mem := by
  grind [State.engineRec, record_mem]

@[simp] theorem acceptCopy_mem (s : State) (e : Env) (r : ShapeRec) (x : List Int) (dst : CopyDst) (bar : Option BarRef) (bars : List BarRef)
    (rs : List (Nat × Nat × Nat)) : (s.acceptCopy e r x dst bar bars rs).mem = s.mem := by
  simp [State.acceptCopy, foldl_mem]

@[simp] theorem dropResults_mem (s : State) (ag : Agent) (m : BitVec 8) : (s.dropResults ag m).mem = s.mem := by
  rfl

@[simp] theorem exitFails_mem (s : State) (ag : Agent) (m : BitVec 8) (kid : Nat) : (s.exitFails ag m kid).mem = s.mem := by
  grind [State.exitFails, modKernel_mem]

@[simp] theorem releaseHeld_mem (s : State) (w : Nat) (retry : Bool) : (s.releaseHeld w retry).mem = s.mem := by
  unfold State.releaseHeld
  (repeat' split) <;> simp

@[simp] theorem dropCode_mem (s : State) (cx va len : Nat) : (s.dropCode cx va len).mem = s.mem := by
  rfl

@[simp] theorem modIcinv_mem (s : State) (id : Nat) (f : IcinvOp → IcinvOp) : (s.modIcinv id f).mem = s.mem := by
  rfl

@[simp] theorem loadList_mem (s : State) (e : Env) (va n : Nat) : (s.loadList e va n).2.mem = s.mem := by
  fun_induction State.loadList s e va n <;> grind [loadPhys_mem, locate_mem]

@[simp] theorem ckptBufs_mem (s : State) (e : Env) (l : List Nat) : (s.ckptBufs e l).2.mem = s.mem := by
  fun_induction State.ckptBufs s e l <;> grind [record_mem]

@[simp] theorem mark_mem (s : State) (cx kid : Nat) (bs : List (Nat × BufRec × Nat)) (epoch : W32) : (s.mark cx kid bs epoch).mem = s.mem := by
  simp [State.mark, foldl_mem]

@[simp] theorem ckptFail_mem (s : State) (cx h : Nat) : (s.ckptFail cx h).mem = s.mem := by
  rfl

@[simp] theorem fillL1_mem (s : State) (m : Miss) : (s.fillL1 m).mem = s.mem := by
  simp [State.fillL1, raisePts_mem]

@[simp] theorem podTaken_mem (s : State) (t : Nat) : (s.podTaken t).mem = s.mem := by
  simp [State.podTaken]

@[simp] theorem reply_mem (s : State) (h : Nat) (bus : Bool) (v : Nat) : (s.reply h bus v).mem = s.mem := by
  rfl

@[simp] theorem sharePhys_mem (s : State) (a : Nat) : (s.sharePhys a).mem = s.mem := by
  refine foldl_mem (fun s p => ?_) _ s
  dsimp only
  split
  · split
    · exact classify_mem _ _ _ _ _
    · rfl
  · rfl

@[simp] theorem rejectIn_mem (s : State) (b : Block) : (s.rejectIn b).mem = s.mem := by
  unfold State.rejectIn
  split <;> rfl

@[simp] theorem hostFills_mem (s : State) (map : Option Nat) (a : Nat) : (s.hostFills map a).mem = s.mem := by
  unfold State.hostFills
  split
  · rfl
  · split
    · exact classify_mem _ _ _ _ _
    · rfl

@[simp] theorem unbindAcc_mem (s : State) (wid core n : Nat) : (s.unbindAcc wid core n).mem = s.mem := by
  unfold State.unbindAcc
  split <;> simp

@[simp] theorem freeTab_mem (s : State) (n m : Nat) : (s.freeTab n m).2.mem = s.mem := by
  fun_induction State.freeTab s n m <;> grind [free_mem]

@[simp] theorem acceptDrain_mem (s : State) (e : Env) (x n : Nat) (kind : DrainKind) (cc : W64) (range : Option (Nat × Nat)) :
    (s.acceptDrain e x n kind cc range).mem = s.mem := by
  grind [State.acceptDrain, modAcc_mem]

@[simp] theorem passTicks_mem (s : State) (n : Nat) : (s.passTicks n).mem = s.mem := by
  rfl

@[simp] theorem passTime_mem (s old : State) : (s.passTime old).mem = s.mem := by
  simp [State.passTime]

@[simp] theorem keepWake_mem (s old : State) : (s.keepWake old).mem = s.mem := by
  simp [State.keepWake, foldl_mem]

@[simp] theorem peerRead_mem (s : State) (cx va n : Nat) : (s.peerRead cx va n).mem = s.mem := by
  unfold State.peerRead
  (repeat' split) <;> simp

theorem serve_mem (s : State) (i : Nat) {t : State} (h : s.serve i = .next t) : t.mem = s.mem := by
  grind [State.serve, noEvent_mem, served_mem]

end Sys2Proof.Machine

/-!
SUPPORT. An outcome whose memory is in canonical form, and the shapes that the steps of events share: what is kept by what they call is kept by
them.
-/
namespace Sys2Proof.Machine
set_option Elab.async false

theorem mem_of_eq_pair {β : Type} {x : β × State} {b : β} {t : State} (hx : x = (b, t)) : t.mem = x.2.mem := by
  rw [hx]

theorem wf_tick {s : State} (h : Memory.wf s.mem = true) : Memory.wf s.tick.mem = true := by
  rw [tick_mem]
  exact h

theorem wf_ite {c : Prop} [Decidable c] {s t : State} (hs : Memory.wf s.mem = true) (ht : Memory.wf t.mem = true) :
    Memory.wf (if c then s else t).mem = true := by
  split
  · exact hs
  · exact ht

theorem wf_foldl_snd {α β : Type} {f : β × State → α → β × State} (hf : ∀ x a, Memory.wf x.2.mem = true → Memory.wf (f x a).2.mem = true)
    (l : List α) {x : β × State} (h : Memory.wf x.2.mem = true) : Memory.wf (l.foldl f x).2.mem = true := by
  induction l generalizing x with
  | nil => exact h
  | cons a l ih => exact ih (hf x a h)

/-- An outcome that leaves memory in canonical form, where it goes on at all. -/
structure Canon (o : Out) : Prop where
  next : ∀ t, o = .next t → Memory.wf t.mem = true

@[simp] theorem canon_next_iff {t : State} : Canon (.next t) ↔ Memory.wf t.mem = true := by
  refine ⟨fun h => h.next t rfl, fun h => ⟨fun u hu => ?_⟩⟩
  injection hu with hu
  exact hu ▸ h

theorem canon_next {t : State} (h : Memory.wf t.mem = true) : Canon (.next t) := canon_next_iff.mpr h

@[simp] theorem canon_fault (f : Fault) : Canon (.fault f) := ⟨fun _ h => by cases h⟩

@[simp] theorem canon_refused (r : Refusal) : Canon (.refused r) := ⟨fun _ h => by cases h⟩

@[simp] theorem canon_noEvent_iff {s : State} : Canon s.noEvent ↔ Memory.wf s.mem = true := by
  unfold State.noEvent
  exact canon_next_iff

theorem canon_ite {c : Prop} [Decidable c] {a b : Out} (ha : Canon a) (hb : Canon b) : Canon (if c then a else b) := by
  split
  · exact ha
  · exact hb

/-- A change made after an outcome keeps what it keeps. -/
theorem canon_mapNext {o : Out} (ho : Canon o) {f : State → State} (hf : ∀ s, Memory.wf s.mem = true → Memory.wf (f s).mem = true) :
    Canon (mapNext f o) := by
  refine ⟨fun t ht => ?_⟩
  obtain ⟨u, hu, rfl⟩ := mapNext_next ht
  exact hf u (ho.next u hu)

theorem wf_wideCheck {s : State} (h : Memory.wf s.mem = true) (gid : Nat) {apply : State → Nat → State}
    (ha : ∀ s n, Memory.wf s.mem = true → Memory.wf (apply s n).mem = true) : Memory.wf (s.wideCheck gid apply).mem = true := by
  unfold State.wideCheck
  split
  · exact h
  · split
    · exact h
    · split
      · exact ha _ _ h
      · exact h

theorem canon_dispatchRec {s : State} (h : Memory.wf s.mem = true) (q typ : Nat) {act : List Byte → State}
    (ha : ∀ rec, Memory.wf (act rec).mem = true) : Canon (s.dispatchRec q typ act) := by
  refine ⟨fun t ht => ?_⟩
  rcases dispatchRec_next ht with rfl | ⟨-, ⟨-, rfl⟩ | ⟨rec, c, -, -, rfl⟩ | ⟨rec, -, -, -, rfl⟩⟩
  · exact h
  · simpa using h
  · simpa using h
  · exact ha rec

theorem canon_queueStep {s : State} (h : Memory.wf s.mem = true) (q : Nat) {f : State → State} (hf : Memory.wf (f s).mem = true) :
    Canon (queueStep q f s) := by
  refine ⟨fun t ht => ?_⟩
  rcases queueStep_next ht with ⟨-, rfl⟩ | ⟨-, rfl⟩
  · exact hf
  · exact h

theorem canon_xStep {s : State} (h : Memory.wf s.mem = true) (cx : Nat) {f : State → State} (hf : Memory.wf (f s).mem = true) :
    Canon (xStep cx f s) := by
  refine ⟨fun t ht => ?_⟩
  rcases xStep_next ht with ⟨-, rfl⟩ | ⟨-, rfl⟩
  · exact hf
  · exact h

theorem canon_ctxStep {s : State} (h : Memory.wf s.mem = true) (cx : Nat) {f : State → State} (hf : Memory.wf (f s).mem = true) :
    Canon (ctxStep cx f s) := by
  refine ⟨fun t ht => ?_⟩
  rcases ctxStep_next ht with ⟨-, rfl⟩ | ⟨-, rfl⟩
  · exact hf
  · exact h

theorem canon_ctxCommand {s : State} (h : Memory.wf s.mem = true) (cx : Nat) {f : State → State} (hf : Memory.wf (f s).mem = true) :
    Canon (ctxCommand cx f s) := by
  refine ⟨fun t ht => ?_⟩
  rcases ctxCommand_next ht with ⟨-, ⟨-, rfl⟩ | ⟨-, rfl⟩⟩ | ⟨-, rfl⟩
  · exact hf
  · simpa using h
  · exact h

theorem canon_tileStep {s : State} (h : Memory.wf s.mem = true) (d i : Nat) {f : State → State} (hf : Memory.wf (f s).mem = true) :
    Canon (tileStep d i f s) := by
  refine ⟨fun t ht => ?_⟩
  rcases tileStep_next ht with ⟨-, rfl⟩ | ⟨-, rfl⟩
  · exact hf
  · exact h

theorem canon_portStep {s : State} (h : Memory.wf s.mem = true) (port : Nat) (ok : Port → Bool) (f : Port → Port) :
    Canon (portStep port s ok f) := by
  refine ⟨fun t ht => ?_⟩
  rcases portStep_next ht with ⟨-, rfl⟩ | ⟨-, rfl⟩
  · simpa using h
  · exact h

/-- An outcome that leaves memory as it is keeps it canonical. -/
theorem canon_of_mem {s : State} (h : Memory.wf s.mem = true) {o : Out} (ho : ∀ t, o = .next t → t.mem = s.mem) : Canon o :=
  ⟨fun t ht => ho t ht ▸ h⟩

end Sys2Proof.Machine

/-!
SUPPORT. The functions that write memory, or call one that does, keep it in canonical form. A write goes through `memWrite`, `memMove` or a
filter of the listed bytes; the rest is by what each function calls. The lemmas follow the model's order.
-/
namespace Sys2Proof.Machine
set_option Elab.async false

theorem wf_setMem {s : State} (h : Memory.wf s.mem = true) (a : Nat) (bs : List Byte) : Memory.wf (s.setMem a bs).mem = true :=
  wf_memWrite h a bs

theorem wf_devPoke {s : State} (h : Memory.wf s.mem = true) (cx a : Nat) (bs : List Byte) : Memory.wf (s.devPoke cx a bs).mem = true := by
  simp [State.devPoke, wf_poke, homeWrites_mem, h]

theorem wf_devWrite {s : State} (h : Memory.wf s.mem = true) (cx va : Nat) (bs : List Byte) {t : State} (heq : s.devWrite cx va bs = some t) :
    Memory.wf t.mem = true := by
  grind [State.devWrite, wf_devPoke, classify_mem]

theorem wf_devPutAll {s : State} (h : Memory.wf s.mem = true) (cx a : Nat) (bs : List Byte) (n : Nat) :
    Memory.wf (s.devPutAll cx a bs n).mem = true := by
  fun_induction State.devPutAll s cx a bs n <;> simp_all [wf_devPut]

theorem wf_complete {s : State} (h : Memory.wf s.mem = true) (qid : Nat) (r : CRec) : Memory.wf (s.complete qid r).mem = true := by
  simp [State.complete, wf_devPut, h]

theorem wf_finishKernel {s : State} (h : Memory.wf s.mem = true) (kid : Nat) : Memory.wf (s.finishKernel kid).mem = true := by
  unfold State.finishKernel
  (repeat' split) <;> simp [wf_complete, h]

theorem wf_report {s : State} (h : Memory.wf s.mem = true) (kind : Nat) (data : List Byte) : Memory.wf (s.report kind data).mem = true := by
  grind [State.report, wf_devPoke, codeSees_mem, request_mem]

theorem wf_mailbox {s : State} (h : Memory.wf s.mem = true) (cx : Nat) (v : W32) : Memory.wf (s.mailbox cx v).mem = true := by
  simp [State.mailbox, wf_report, h]

theorem wf_sgWriteBack {s : State} (hs : Memory.wf s.mem = true) (cx h : Nat) : Memory.wf (s.sgWriteBack cx h).mem = true := by
  unfold State.sgWriteBack
  split
  · exact hs
  · extract_lets a t
    rw [requestAt_mem]
    exact wf_devPut (wf_foldl (fun s i h => wf_devPut h ..) _ hs) ..

theorem wf_sgWriteArrays {s : State} (hs : Memory.wf s.mem = true) (cx h : Nat) : Memory.wf (s.sgWriteArrays cx h).mem = true := by
  unfold State.sgWriteArrays
  (repeat' split) <;> simp [wf_devPutAll, hs]

theorem wf_sgAbort {s : State} (h : Memory.wf s.mem = true) (kid : Nat) {park : State → Nat → State}
    (hp : ∀ s n, Memory.wf s.mem = true → Memory.wf (park s n).mem = true) : Memory.wf (s.sgAbort kid park).mem = true := by
  refine wf_foldl (fun s x h => wf_ite h ?_) _ h
  split
  · exact hp _ _ (by simpa using wf_sgWriteBack (by simpa using h) ..)
  · simpa using wf_sgWriteBack (wf_sgWriteArrays (by simpa using h) ..) ..
  · simpa using wf_sgWriteBack (wf_sgWriteArrays (by simpa using h) ..) ..
  · simpa using wf_sgWriteBack (by simpa using h) ..

theorem wf_abortKernel {s : State} (h : Memory.wf s.mem = true) (kid : Nat) (e : Ending) : Memory.wf (s.abortKernel kid e).mem = true := by
  unfold State.abortKernel
  split
  · exact h
  · split
    · exact h
    · exact h
    · exact wf_finishKernel (by simpa using h) _
    · exact wf_finishKernel (by simpa using h) _
    · exact wf_finishKernel (by simpa using h) _
    · simpa using h
    · dsimp only
      rw [modKernel_mem, foldl_mem fun s w => modWg_mem s .., discardWork_mem, foldl_mem endCt_mem, foldl_mem endGroup_mem]
      exact wf_sgAbort h kid fun s n h => by simpa using h

theorem wf_ctxFail {s : State} (h : Memory.wf s.mem = true) (cx : Nat) (c : Cause) : Memory.wf (s.ctxFail cx c).mem = true := by
  simp +contextual [State.ctxFail, wf_abortKernel, h, wf_foldl]

theorem wf_enterTrap {s : State} (h : Memory.wf s.mem = true) (ag : Agent) : Memory.wf (s.enterTrap ag).mem = true := by
  grind [State.enterTrap, wf_abortKernel, wf_ctxFail, modUnit_mem]

theorem wf_trapStep {s : State} (h : Memory.wf s.mem = true) (ag : Agent) : Memory.wf (s.trapStep ag).mem = true := by
  simp [State.trapStep, wf_enterTrap, h]

theorem wf_resettle {s : State} (h : Memory.wf s.mem = true) (ag : Agent) (p : Nat) (parked : Bool) :
    Memory.wf (s.resettle ag p parked).mem = true := by
  unfold State.resettle
  split <;> simp [wf_enterTrap, h]

theorem wf_raise {s : State} (h : Memory.wf s.mem = true) (ag : Agent) (cs : List (Nat × Cause × W64 × Byte)) :
    Memory.wf (s.raise ag cs).mem = true := by
  unfold State.raise
  split <;> simp [wf_resettle, h]

theorem wf_finishTo {s : State} (h : Memory.wf s.mem = true) (e : Env) (outs : List LaneOut) (long : Bool) (next : Nat → Nat × Bool) :
    Memory.wf (s.finishTo e outs long next).mem = true := by
  simp [State.finishTo, wf_resettle, h, wf_foldl]

theorem wf_finish {s : State} (h : Memory.wf s.mem = true) (e : Env) (outs : List LaneOut) (long : Bool) :
    Memory.wf (s.finish e outs long).mem = true := by
  simp [State.finish, wf_finishTo, h]

theorem wf_raisePath {s : State} (h : Memory.wf s.mem = true) (e : Env) (c : Cause) : Memory.wf (s.raisePath e c).mem = true := by
  simp [State.raisePath, wf_finish, h]

theorem wf_raiseAct {s : State} (h : Memory.wf s.mem = true) (e : Env) (c : Cause) (taddr : W64) : Memory.wf (s.raiseAct e c taddr).mem = true := by
  simp [State.raiseAct, wf_finish, h]

theorem canon_word {s : State} (h : Memory.wf s.mem = true) {i : Instr} {body : Env → State → Out}
    (hb : ∀ e s, Memory.wf s.mem = true → Canon (body e s)) : Canon (s.word i body) := by
  refine ⟨fun t ht => ?_⟩
  obtain ⟨ag, f, e, -, -, -, ht⟩ := word_next ht
  have hl : Memory.wf (s.landReady ag).mem = true := by simpa using h
  rcases ht with rfl | ⟨c, -, rfl⟩ | ⟨-, -, rfl | rfl | ⟨-, rfl⟩ | ⟨-, rfl⟩ | ht⟩
  · simpa using hl
  · exact wf_raisePath hl ..
  · simpa using hl
  · simpa using hl
  · exact wf_raiseAct hl ..
  · exact wf_finish hl ..
  · exact (hb e _ hl).next t ht

theorem canon_lanewise {s : State} (h : Memory.wf s.mem = true) (i : Instr) (f : Env → Nat → LaneOut) : Canon (s.lanewise i f) :=
  canon_word h fun _ _ h => canon_next (wf_finish h ..)

theorem canon_alu {s : State} (h : Memory.wf s.mem = true) (i : Instr) (d : Dst) (ty : Ty) (f : Env → Nat → W64) : Canon (s.alu i d ty f) :=
  canon_lanewise h ..

theorem wf_mismatch {s : State} (h : Memory.wf s.mem = true) (core n : Nat) : Memory.wf (s.mismatch core n).mem = true := by
  fun_induction State.mismatch s core n <;> grind [wf_report]

theorem canon_checked {s : State} (h : Memory.wf s.mem = true) (i : Instr) (f : Env → Nat → LaneOut) : Canon (s.checked i f) :=
  canon_word h fun e s h => canon_next (wf_finish (wf_mismatch (by exact h) ..) ..)

theorem canon_mul {s : State} (h : Memory.wf s.mem = true) (i : Instr) (d : Dst) (ty : Ty) (f : Env → Nat → W64) : Canon (s.mul i d ty f) :=
  canon_checked h ..

theorem wf_storePhysBytes {s : State} (h : Memory.wf s.mem = true) (cx c a : Nat) (bs : List Byte) (shared : Bool) :
    Memory.wf (s.storePhysBytes cx c a bs shared).mem = true := by
  simp [State.storePhysBytes, wf_poke, storeTime_mem, h]

theorem wf_homeLand {s : State} (hs : Memory.wf s.mem = true) (h : HomeW) : Memory.wf (s.homeLand h).mem = true := by
  simp +contextual [State.homeLand, wf_storePhysBytes, hs, wf_foldl]

theorem wf_homeApply {s : State} (hs : Memory.wf s.mem = true) (h : HomeW) : Memory.wf (s.homeApply h).mem = true := by
  unfold State.homeApply
  split <;> simp [wf_homeLand, hs]

theorem wf_homesFrom {s : State} (h : Memory.wf s.mem = true) (l : List HomeW) : Memory.wf (s.homesFrom l).mem = true := by
  fun_induction State.homesFrom s l <;> simp_all [wf_homeApply]

theorem wf_homesOf {s : State} (h : Memory.wf s.mem = true) (ag : Agent) : Memory.wf (s.homesOf ag).mem = true := by
  simp [State.homesOf, wf_homesFrom, h]

theorem wf_mergeFail {s : State} (h : Memory.wf s.mem = true) (ag : Agent) (kid : Nat) (q : QStore) :
    Memory.wf (s.mergeFail ag kid q).mem = true := by
  simp [State.mergeFail, wf_abortKernel, h]

theorem wf_performStore {s : State} (h : Memory.wf s.mem = true) (ag : Agent) : Memory.wf (s.performStore ag).mem = true := by
  unfold State.performStore
  split
  · dsimp only
    split
    · exact wf_homeApply (by simpa using h) ..
    · split
      · exact wf_mergeFail (by simpa using h) ..
      · exact wf_foldl (fun s p h => wf_storePhysBytes h ..) _ (by simpa using h)
  · exact h

theorem wf_drainFor {s : State} (h : Memory.wf s.mem = true) (ag : Agent) (n : Nat) : Memory.wf (s.drainFor ag n).mem = true := by
  fun_induction State.drainFor s ag n <;> simp_all [wf_performStore]

theorem wf_drain {s : State} (h : Memory.wf s.mem = true) (ag : Agent) : Memory.wf (s.drain ag).mem = true := by
  grind [State.drain, wf_drainFor, wf_homesOf]

theorem canon_afterStores {s : State} (h : Memory.wf s.mem = true) (e : Env) {k : State → Out}
    (hk : ∀ s, Memory.wf s.mem = true → Canon (k s)) : Canon (s.afterStores e k) := by
  refine ⟨fun t ht => ?_⟩
  rcases afterStores_next ht with rfl | ht
  · simpa using wf_drain h ..
  · exact (hk _ (wf_drain h ..)).next t ht

theorem wf_segOff {s : State} (h : Memory.wf s.mem = true) (g : Nat) : Memory.wf (s.segOff g).mem = true :=
  wf_ite h (wf_ite h (wf_filter h _))

theorem wf_tideCmd {s : State} (h : Memory.wf s.mem = true) (v : Nat) : Memory.wf (s.tideCmd v).mem = true := by
  unfold State.tideCmd
  (repeat' split) <;> simp [wf_segOff, h]

theorem wf_launch {s : State} (h : Memory.wf s.mem = true) (p : Kernel × Option (Nat × Cause)) : Memory.wf (s.launch p).mem = true := by
  unfold State.launch
  split <;> simp [wf_finishKernel, h]

theorem wf_gatherEnd {s : State} (h : Memory.wf s.mem = true) (gid : Nat) (c : Contrib) (outs : List LaneOut) :
    Memory.wf (s.gatherEnd gid c outs).mem = true := by
  simp [State.gatherEnd, wf_resettle, h, wf_foldl]

theorem wf_gatherCheck {s : State} (h : Memory.wf s.mem = true) (gid : Nat) (e : Env) : Memory.wf (s.gatherCheck gid e).mem = true := by
  unfold State.gatherCheck
  split
  · exact h
  · split
    · exact h
    · dsimp only
      split
      · exact h
      · refine wf_foldl (fun s c h => ?_) _ (by simpa using h)
        split
        · exact wf_gatherEnd h ..
        · exact h

theorem wf_holdSome {s : State} (h : Memory.wf s.mem = true) (e : Env) (w : Wait) (bads : List LaneOut) :
    Memory.wf (s.holdSome e w bads).mem = true := by
  unfold State.holdSome
  split <;> simp [wf_raise, h]

theorem wf_groupScope {s : State} (h : Memory.wf s.mem = true) (i : Instr) (e : Env) (bads : List LaneOut) :
    Memory.wf (s.groupScope i e bads).mem = true := by
  grind [State.groupScope, wf_finish, wf_gatherCheck, wf_holdSome, modGroup_mem]

theorem canon_predForm {s : State} (h : Memory.wf s.mem = true) (i : Instr) (p : PDst) (f : Env → Nat → Bool) : Canon (s.predForm i p f) :=
  canon_lanewise h ..

theorem wf_returnWaits {s : State} (h : Memory.wf s.mem = true) (ag : Agent) (w : Wait → Option (Option Nat)) (st : Bool) (c : Option Cause) (t : W64)
    : Memory.wf (s.returnWaits ag w st c t).mem = true := by
  unfold State.returnWaits
  split
  · exact h
  · dsimp only
    split
    · exact h
    · refine wf_trapStep ?_ _
      rw [raisePts_mem, modUnit_mem]
      refine wf_foldl (fun s k h => ?_) _ h
      split
      · split
        · exact h
        · simpa using h
      · exact h

theorem wf_releaseBar {s : State} (h : Memory.wf s.mem = true) (b : BarRef) : Memory.wf (s.releaseBar b).mem = true := by
  unfold State.releaseBar
  (repeat' split) <;> simp +contextual [wf_returnWaits, h, wf_foldl]

theorem wf_arriveAt {s : State} (h : Memory.wf s.mem = true) (b : BarRef) (n : Nat) (engine : Bool) (err : Option Cause) :
    Memory.wf (s.arriveAt b n engine err).mem = true := by
  unfold State.arriveAt
  (repeat' split) <;> simp [wf_releaseBar, h]

theorem wf_invalBar {s : State} (h : Memory.wf s.mem = true) (b : BarRef) : Memory.wf (s.invalBar b).mem = true := by
  unfold State.invalBar
  split <;> simp [wf_releaseBar, h]

theorem canon_strandWord {s : State} (h : Memory.wf s.mem = true) (e : Env) (mb : BitVec 8 × List LaneOut) {work : State → State × List LaneOut}
    (hw : ∀ s, Memory.wf s.mem = true → Memory.wf (work s).1.mem = true) : Canon (s.strandWord e mb work) := by
  unfold State.strandWord
  split
  · exact canon_next (wf_finish h ..)
  · exact canon_afterStores h e fun s h => canon_next (wf_finish (hw s h) ..)

theorem canon_barWait {s : State} (h : Memory.wf s.mem = true) (e : Env) (k : Nat) (ph : Bool) (pd : Option Nat) : Canon (s.barWait e k ph pd) := by
  unfold State.barWait
  grind [canon_afterStores, wf_finish, holdBar_mem, raisePts_mem, canon_next_iff]

theorem canon_hbarSend {s : State} (h : Memory.wf s.mem = true) (e : Env) (sc : HScope) (i : Src) (vals : Nat → List W64) (illegal : Nat → Bool)
    (needU holds : Bool) (op val : Nat) (pd : Option Nat) (d : Nat) (bc : Bool) :
    Canon (s.hbarSend e sc i vals illegal needU holds op val pd d bc) := by
  unfold State.hbarSend
  grind [canon_afterStores, wf_finish, wf_raise, holdPath_mem, canon_next_iff]

theorem wf_podMessage {s : State} (h : Memory.wf s.mem = true) (cx k op val : Nat) : Memory.wf (s.podMessage cx k op val).mem = true := by
  unfold State.podMessage
  (repeat' split) <;> simp [wf_arriveAt, h]

theorem wf_revComplete {s : State} (h : Memory.wf s.mem = true) (qid : Nat) (r : Reverse) (e : Option (Ending × Nat)) (skip : Bool) :
    Memory.wf (s.revComplete qid r e skip).mem = true := by
  simp [State.revComplete, wf_complete, h]

theorem wf_revError {s : State} (h : Memory.wf s.mem = true) (qid : Nat) (r : Reverse) (c : SCause) : Memory.wf (s.revError qid r c).mem = true := by
  unfold State.revError
  split <;> simp [wf_revComplete, h]

theorem wf_revStep {s : State} (h : Memory.wf s.mem = true) (qid : Nat) : Memory.wf (s.revStep qid).mem = true := by
  unfold State.revStep
  dsimp only
  (repeat' split) <;> simp [wf_revError, wf_revComplete, h]

theorem wf_wakeQueue {s : State} (h : Memory.wf s.mem = true) (qid : Nat) : Memory.wf (s.wakeQueue qid).mem = true := by
  grind [State.wakeQueue, wf_revStep, testArmed_mem, testBlocked_mem, testIdle_mem]

theorem wf_wakeQueues {s : State} (h : Memory.wf s.mem = true) : Memory.wf s.wakeQueues.mem = true := by
  simp +contextual [State.wakeQueues, wf_wakeQueue, h, wf_foldl]

theorem wf_takeDone {s : State} (h : Memory.wf s.mem = true) (qid typ : Nat) : Memory.wf (s.takeDone qid typ).mem = true := by
  simp [State.takeDone, wf_complete, h]

theorem wf_takeLaunch {s : State} (h : Memory.wf s.mem = true) (q : Nat) (rec : List Byte) : Memory.wf (s.takeLaunch q rec).mem = true := by
  simp [State.takeLaunch, wf_launch, h]

theorem wf_launchTape {s : State} (h : Memory.wf s.mem = true) (qid : Nat) (r : Reverse) (i : Nat) : Memory.wf (s.launchTape qid r i).mem = true := by
  grind [State.launchTape, wf_launch, wf_revError, modQueue_mem, requestAt_mem]

theorem wf_takeReverse {s : State} (h : Memory.wf s.mem = true) (q : Nat) : Memory.wf (s.takeReverse q).mem = true := by
  grind [State.takeReverse, wf_revComplete, wf_revError, modQueue_mem, takeHead_mem]

theorem wf_takeMark {s : State} (h : Memory.wf s.mem = true) (q : Nat) (rec : List Byte) : Memory.wf (s.takeMark q rec).mem = true := by
  unfold State.takeMark
  dsimp only
  split
  · exact wf_takeDone (by simpa using h) ..
  · split
    · simpa using h
    next hw =>
      split
      · simpa using h
      next hw' => exact wf_takeDone (by simpa using wf_devWrite (wf_devWrite h _ _ _ hw) _ _ _ hw') ..

theorem wf_takeWait {s : State} (h : Memory.wf s.mem = true) (q : Nat) (rec : List Byte) : Memory.wf (s.takeWait q rec).mem = true := by
  unfold State.takeWait
  split <;> simp [wf_takeDone, h]

theorem wf_takeSignal {s : State} (h : Memory.wf s.mem = true) (q : Nat) (rec : List Byte) : Memory.wf (s.takeSignal q rec).mem = true := by
  grind [State.takeSignal, wf_devWrite, wf_takeDone, modQueue_mem, takeError_mem]

theorem wf_takePhase {s : State} (h : Memory.wf s.mem = true) (q : Nat) (rec : List Byte) : Memory.wf (s.takePhase q rec).mem = true := by
  simp [State.takePhase, wf_takeDone, h]

theorem wf_takeNow {s : State} (h : Memory.wf s.mem = true) (q : Nat) : Memory.wf (s.takeNow q).mem = true := by
  unfold State.takeNow
  (repeat' split) <;> simp [wf_takeDone, wf_takeLaunch, wf_takeMark, wf_takePhase, wf_takeReverse, wf_takeSignal, wf_takeWait, h]

theorem wf_drainQueue {s : State} (h : Memory.wf s.mem = true) (qid : Nat) : Memory.wf (s.drainQueue qid).mem = true := by
  grind [State.drainQueue, wf_revComplete, modQueue_mem]

theorem wf_disable {s : State} (h : Memory.wf s.mem = true) (qid : Nat) : Memory.wf (s.disable qid).mem = true := by
  unfold State.disable
  split <;> simp [wf_drainQueue, wf_takeNow, h]

theorem wf_resumeQ {s : State} (h : Memory.wf s.mem = true) (qid : Nat) : Memory.wf (s.resumeQ qid).mem = true := by
  grind [State.resumeQ, wf_revComplete, wf_revError, modQueue_mem]

theorem wf_skipQ {s : State} (h : Memory.wf s.mem = true) (qid : Nat) : Memory.wf (s.skipQ qid).mem = true := by
  grind [State.skipQ, wf_complete, wf_revComplete, modQueue_mem]

theorem wf_queueCmd {s : State} (h : Memory.wf s.mem = true) (qid v : Nat) : Memory.wf (s.queueCmd qid v).mem = true := by
  unfold State.queueCmd
  (repeat' split) <;> simp [wf_disable, wf_resumeQ, wf_skipQ, h]

theorem wf_queueWrite {s : State} (h : Memory.wf s.mem = true) (qid off : Nat) (v : W64) : Memory.wf (s.queueWrite qid off v).mem = true := by
  unfold State.queueWrite
  split <;> simp [wf_queueCmd, h]

theorem wf_refuseKernel {s : State} (h : Memory.wf s.mem = true) (kid : Nat) : Memory.wf (s.refuseKernel kid).mem = true := by
  unfold State.refuseKernel
  (repeat' split) <;> simp [wf_abortKernel, h]

theorem wf_faultFor {s : State} (h : Memory.wf s.mem = true) (kid va kind acc : Nat) : Memory.wf (s.faultFor kid va kind acc).mem = true := by
  grind [State.faultFor, wf_devPut, wf_refuseKernel, modCtx_mem]

theorem wf_rangeWalk {s : State} (h : Memory.wf s.mem = true) (kid : Nat) : Memory.wf (s.rangeWalk kid).mem = true := by
  unfold State.rangeWalk
  split
  · exact h
  · refine wf_foldl (fun s r h => wf_foldl (fun s x h => ?_) _ h) _ h
    obtain ⟨va, _ | l⟩ := x
    · exact wf_faultFor h ..
    · exact h

theorem wf_rewalk {s : State} (h : Memory.wf s.mem = true) (cx : Nat) (ks : List Nat) : Memory.wf (s.rewalk cx ks).mem = true := by
  simp +contextual [State.rewalk, wf_rangeWalk, h, wf_foldl]

theorem wf_verdict {s : State} (h : Memory.wf s.mem = true) (cx seq : Nat) (ok : Bool) : Memory.wf (s.verdict cx seq ok).mem = true := by
  unfold State.verdict
  (repeat' split) <;> simp +contextual [wf_refuseKernel, wf_rewalk, h, wf_foldl]

theorem wf_raiseXfhead {s : State} (h : Memory.wf s.mem = true) (cx : Nat) (v : W64) : Memory.wf (s.raiseXfhead cx v).mem = true := by
  unfold State.raiseXfhead
  split <;> simp [wf_rewalk, h]

theorem wf_mapPte {s : State} (h : Memory.wf s.mem = true) (l : Leaf) (f : Nat → Nat) : Memory.wf (s.mapPte l f).mem = true := by
  simp +contextual [State.mapPte, wf_devPoke, h, wf_foldl]

theorem wf_xcommand {s : State} (h : Memory.wf s.mem = true) (cx op page : Nat) : Memory.wf (s.xcommand cx op page).mem = true := by
  grind [State.xcommand, wf_mapPte, modCtx_mem]

theorem wf_zeroBytes {s : State} (h : Memory.wf s.mem = true) (cx a n : Nat) : Memory.wf (s.zeroBytes cx a n).mem = true := by
  unfold State.zeroBytes
  simpa [homeWrites_mem, fireMonitors_mem, setKeys_mem] using wf_filter h _

theorem wf_rangeOn {s : State} (h : Memory.wf s.mem = true) (kid : Nat) : Memory.wf (s.rangeOn kid).mem = true := by
  unfold State.rangeOn
  have hr : Memory.wf ((s.rangeWalk kid).place kid).mem = true := by simpa using wf_rangeWalk h kid
  dsimp only
  split
  · exact hr
  · split
    · rw [foldl_mem wakeSeg_mem]
      exact hr
    · exact hr

theorem wf_moveData {s : State} (h : Memory.wf s.mem = true) (a b n : Nat) : Memory.wf (s.moveData a b n).mem = true := by
  unfold State.moveData
  simpa [homeWrites_mem] using wf_memMove h a b n

theorem wf_ownFields {s : State} (h : Memory.wf s.mem = true) (cx : Nat) (x : Nat × Leaf) : Memory.wf (s.ownFields cx x).mem = true :=
  wf_ite h (wf_devPoke h ..)

theorem wf_foldl_const {α β : Type} {g : State → β → α → State} (hg : ∀ s b a, Memory.wf s.mem = true → Memory.wf (g s b a).mem = true)
    (b : β) (l : List α) {s : State} (h : Memory.wf s.mem = true) : Memory.wf (l.foldl (fun s a => g s b a) s).mem = true :=
  wf_foldl (fun s a h => hg s b a h) l h

theorem wf_pteSync {s : State} (h : Memory.wf s.mem = true) (old : State) (cx : Nat) : Memory.wf (s.pteSync old cx).mem = true := by
  refine wf_foldl_const (g := State.ownFields) (fun s cx x h => wf_ownFields h cx x) cx _ ?_
  rw [foldl_mem fun s x => mapLeaf_mem s old cx x]
  exact h

theorem wf_tableSync {s : State} (h : Memory.wf s.mem = true) (old : State) : Memory.wf (s.tableSync old).mem = true := by
  unfold State.tableSync
  dsimp only
  split
  · exact h
  · exact wf_foldl (fun s cx h => wf_pteSync h old cx) _ h

theorem wf_xwrite {s : State} (h : Memory.wf s.mem = true) (cx off : Nat) (v : W64) : Memory.wf (s.xwrite cx off v).mem = true := by
  unfold State.xwrite
  (repeat' split) <;> simp [wf_raiseXfhead, wf_verdict, wf_xcommand, h]

theorem wf_wideTrap {s : State} (h : Memory.wf s.mem = true) (gid : Nat) (c : Cause) (taddr : W64) :
    Memory.wf (s.wideTrap gid c taddr).mem = true := by
  unfold State.wideTrap
  (repeat' split) <;> simp +contextual [wf_raise, h, wf_foldl]

theorem wf_activeTrap {s : State} (h : Memory.wf s.mem = true) (gid : Nat) (c : Cause) (taddr : W64) :
    Memory.wf (s.activeTrap gid c taddr).mem = true := by
  simp +contextual [State.activeTrap, wf_raise, h, wf_foldl]

theorem wf_roleSwitch {s : State} (h : Memory.wf s.mem = true) (gid p w : Nat) : Memory.wf (s.roleSwitch gid p w).mem = true := by
  unfold State.roleSwitch
  split
  · dsimp only
    split
    · exact wf_wideTrap h ..
    · split
      · exact wf_wideTrap h ..
      · split
        · rw [growDeny_mem, growOr_mem fun s => switchRole_mem s ..]
          exact h
        · simpa using h
  · exact h

theorem canon_wideWord {s : State} (h : Memory.wf s.mem = true) (e : Env) (i : Instr) (vals : Nat → List W64) {apply : State → Nat → State}
    (ha : ∀ s n, Memory.wf s.mem = true → Memory.wf (apply s n).mem = true) : Canon (s.wideWord e i vals apply) := by
  unfold State.wideWord
  dsimp only
  split
  · exact canon_next (wf_finish h ..)
  refine canon_afterStores h e fun s h => ?_
  split
  · split
    · exact canon_next (wf_finish h ..)
    · split
      · exact canon_next (wf_finish h ..)
      · exact canon_next (by simpa using wf_wideCheck (wf_raise (by simpa using h) ..) _ ha)
  · exact canon_next (by simpa using wf_wideCheck (wf_raise (by simpa using h) ..) _ ha)

theorem wf_shadowWrite {s : State} (h : Memory.wf s.mem = true) (us : List Nat) (l2 : Bool) (cx va : Nat) (bs : List Byte) :
    Memory.wf (s.shadowWrite us l2 cx va bs).2.mem = true := by
  grind [State.shadowWrite, wf_setMem, markDirty_mem, setKeys_mem, touch_mem, translate_mem]

theorem wf_shadowWrites {s : State} (h : Memory.wf s.mem = true) (us : List Nat) (l2 : Bool) (cx va : Nat) (bs : List Byte) (n : Nat) :
    Memory.wf (s.shadowWrites us l2 cx va bs n).2.mem = true := by
  fun_induction State.shadowWrites s us l2 cx va bs n <;> grind [wf_shadowWrite]

theorem wf_rcombApply {s : State} (h : Memory.wf s.mem = true) (gid d a : Nat) (vals : List W64) :
    Memory.wf (s.rcombApply gid d a vals).mem = true := by
  unfold State.rcombApply
  split
  · split
    · exact h
    · dsimp only
      (repeat' split) <;> simp [wf_activeTrap, h]
  · exact h

theorem wf_roundStores {s : State} (h : Memory.wf s.mem = true) (o : Round) (rstate : Nat) (miss : Option Nat) :
    Memory.wf (s.roundStores o rstate miss).mem = true := by
  unfold State.roundStores
  dsimp only
  rw [requestAt_mem]
  refine wf_devPut (wf_devPut ?_ ..) ..
  split
  · exact wf_devPut (wf_devPut h ..) ..
  · exact wf_devPut h ..

theorem wf_endRound {s : State} (h : Memory.wf s.mem = true) (o : Round) (res : Option (List W32)) (miss : Option Nat) :
    Memory.wf (s.endRound o res miss).mem = true := by
  unfold State.endRound
  dsimp only
  rw [foldl_mem fun s p => postArrival_mem s .., foldl_mem fun s q => packetResult_mem s ..]
  exact wf_roundStores (by exact h) ..

theorem wf_endKernels {s : State} (h : Memory.wf s.mem = true) (ks : List Nat) (c : Byte) : Memory.wf (s.endKernels ks c).mem = true := by
  simp +contextual [State.endKernels, wf_abortKernel, h, wf_foldl]

theorem wf_drainQueues {s : State} (h : Memory.wf s.mem = true) (cx : Nat) : Memory.wf (s.drainQueues cx).mem = true := by
  simp +contextual [State.drainQueues, wf_drainQueue, h, wf_foldl]

theorem wf_drainCtx {s : State} (h : Memory.wf s.mem = true) (cx : Nat) (ks : List Nat) : Memory.wf (s.drainCtx cx ks).mem = true := by
  simp [State.drainCtx, wf_drainQueues, wf_endKernels, h]

theorem wf_destroy {s : State} (h : Memory.wf s.mem = true) (cx : Nat) : Memory.wf (s.destroy cx).mem = true := by
  unfold State.destroy
  split <;> simp [wf_drainCtx, h]

theorem wf_clear {s : State} (h : Memory.wf s.mem = true) (cx : Nat) : Memory.wf (s.clear cx).mem = true := by
  unfold State.clear
  split <;> simp [wf_endKernels, h]

theorem canon_convert {s : State} (h : Memory.wf s.mem = true) (i : Instr) (cnt : Option Nat) (f : Env → Nat → LaneOut × Nat) :
    Canon (s.convert i cnt f) := by
  refine canon_word h fun e s h => ?_
  dsimp only
  split
  · exact canon_next (wf_finish h ..)
  · exact canon_next (wf_finish (by simpa using h) ..)

theorem wf_packageReset {s : State} (h : Memory.wf s.mem = true) : Memory.wf s.packageReset.mem = true :=
  wf_filter h _

theorem wf_resetCmd {s : State} (h : Memory.wf s.mem = true) (v : Nat) : Memory.wf (s.resetCmd v).mem = true := by
  unfold State.resetCmd
  split <;> simp [wf_packageReset, h]

theorem wf_fwcmd {s : State} (h : Memory.wf s.mem = true) (v : Nat) : Memory.wf (s.fwcmd v).mem = true := by
  unfold State.fwcmd
  split <;> simp [wf_resetCmd, h]

theorem wf_sgFinish {s : State} (hs : Memory.wf s.mem = true) (cx h : Nat) (d : SgDesc) : Memory.wf (s.sgFinish cx h d).mem = true := by
  simp [State.sgFinish, wf_sgWriteArrays, wf_sgWriteBack, hs]

theorem wf_sgState {s : State} (hs : Memory.wf s.mem = true) (cx h : Nat) (d : SgDesc) : Memory.wf (s.sgState cx h d).mem = true := by
  simp [State.sgState, wf_sgWriteBack, hs]

theorem wf_sgTrigger {s : State} (hs : Memory.wf s.mem = true) (cx h : Nat) : Memory.wf (s.sgTrigger cx h).mem = true := by
  grind [State.sgTrigger, wf_sgFinish, wf_sgState]

theorem wf_sgLeave {s : State} (h : Memory.wf s.mem = true) (gid : Nat) : Memory.wf (s.sgLeave gid).mem = true := by
  grind [State.sgLeave, wf_sgTrigger, setSg_mem]

theorem wf_forkApply {s : State} (h : Memory.wf s.mem = true) (gid p : Nat) (vals : List W64) : Memory.wf (s.forkApply gid p vals).mem = true := by
  unfold State.forkApply
  split
  · dsimp only
    split
    · exact h
    · split
      · exact wf_wideTrap h ..
      · have hs (g : Group) (cx n : Nat) : Memory.wf (s.sgSeen g.core cx n).mem = true := by simpa using h
        split
        · exact wf_wideTrap (hs ..) ..
        · split
          · exact wf_wideTrap (hs ..) ..
          · refine wf_foldl (fun s vp h => ?_) _ (wf_sgState (by simpa using h) ..)
            split
            · simpa using h
            · exact h
  · exact h

theorem wf_placeSibling {s : State} (hs : Memory.wf s.mem = true) (kid : Nat) (k : Kernel) (h i : Nat) (parent : Group) (pw : Workgroup) (entry : Nat)
    (p : Place) {y : Nat} {t : State} (heq : s.placeSibling kid k h i parent pw entry p = some (y, t)) : Memory.wf t.mem = true := by
  unfold State.placeSibling at heq
  dsimp only at heq
  split at heq
  · cases heq
  · split at heq
    · cases heq
    next ha =>
      split at heq
      · cases heq
      · split at heq
        · cases heq
        next hg =>
          split at heq
          · cases heq
            rw [addGroup_mem _ _ hg]
            exact wf_filter (by rw [addWg_mem _ _ _ _ _ ha]; exact hs) _
          · cases heq

theorem wf_placeSiblings {s : State} (hs : Memory.wf s.mem = true) (kid : Nat) (k : Kernel) (h : Nat) (parent : Group) (pw : Workgroup) (entry : Nat)
    (l : List Place) (n : Nat) {y : List Nat} {t : State} (heq : s.placeSiblings kid k h parent pw entry l n = some (y, t)) :
    Memory.wf t.mem = true := by
  fun_induction State.placeSiblings s kid k h parent pw entry l n generalizing y t <;> grind [wf_placeSibling]

theorem wf_sgUnform {s : State} (hs : Memory.wf s.mem = true) (cx h : Nat) (d : SgDesc) : Memory.wf (s.sgUnform cx h d).mem = true := by
  simp [State.sgUnform, wf_sgState, hs]

theorem wf_trapAll {s : State} (h : Memory.wf s.mem = true) (cx : Nat) : Memory.wf (s.trapAll cx).mem = true := by
  refine wf_foldl (fun s g h => ?_) _ h
  dsimp only
  split
  · refine wf_foldl (fun s k h => ?_) _ h
    split
    · exact h
    · exact wf_trapStep h _
  · exact h

theorem wf_rewardApply {s : State} (h : Memory.wf s.mem = true) (gid : Nat) (vals : List W64) : Memory.wf (s.rewardApply gid vals).mem = true := by
  grind [State.rewardApply, wf_wideTrap, setSg_mem, sgSeen_mem, wideDone_mem]

theorem wf_slackApply {s : State} (h : Memory.wf s.mem = true) (gid da ds : Nat) (vals : List W64) :
    Memory.wf (s.slackApply gid da ds vals).mem = true := by
  grind [State.slackApply, wf_sgTrigger, wf_wideTrap, modGroup_mem, setSg_mem, sgSeen_mem]

theorem wf_sgCancel {s : State} (hs : Memory.wf s.mem = true) (cx h i : Nat) : Memory.wf (s.sgCancel cx h i).mem = true := by
  grind [State.sgCancel, wf_devPut, wf_sgTrigger, setSg_mem, sgEnd_mem]

theorem wf_stopCtx {s : State} (h : Memory.wf s.mem = true) (cx : Nat) : Memory.wf (s.stopCtx cx).mem = true := by
  unfold State.stopCtx
  dsimp only
  rw [foldl_mem fun s k => modKernel_mem s ..]
  refine wf_foldl (fun s g h => wf_sgUnform h ..) _ ?_
  rw [foldl_mem stopWaits_mem]
  refine wf_foldl (fun s ag h => wf_drain h ag) _ ?_
  rw [foldl_mem loadGroup_mem]
  exact h

theorem wf_preemptBy {s : State} (h : Memory.wf s.mem = true) (cx : Nat) (sched : Bool) : Memory.wf (s.preemptBy cx sched).mem = true := by
  simp [State.preemptBy, wf_stopCtx, h]

theorem wf_preempt {s : State} (h : Memory.wf s.mem = true) (cx : Nat) : Memory.wf (s.preempt cx).mem = true := by
  unfold State.preempt
  split <;> simp [wf_preemptBy, h]

theorem wf_savePut {s : State} (h : Memory.wf s.mem = true) (cx va : Nat) (bs : List Byte) (n : Nat) {t : State} (heq : s.savePut cx va bs n = .ok t)
    : Memory.wf t.mem = true := by
  fun_induction State.savePut s cx va bs n <;> simp_all [wf_poke]

theorem wf_savePieces {s : State} (h : Memory.wf s.mem = true) (cx : Nat) (l : List (Nat × List Byte)) {t : State} (heq : s.savePieces cx l = .ok t) :
    Memory.wf t.mem = true := by
  fun_induction State.savePieces s cx l <;> grind [wf_savePut]

theorem wf_saveStore {s : State} (h : Memory.wf s.mem = true) (cx va c o n : Nat) {t : State} (heq : s.saveStore cx va c o n = .ok t) :
    Memory.wf t.mem = true := by
  induction n generalizing s va o with
  | zero => cases heq; exact h
  | succ n ih =>
    unfold State.saveStore at heq
    split at heq
    · cases heq
    · exact ih (by simpa [homeWrites_mem, fireMonitors_mem, setKeys_mem] using wf_memMove h _ _ _) _ _ heq

theorem wf_saveStores {s : State} (h : Memory.wf s.mem = true) (cx : Nat) (l : List Nat) {t : State} (heq : s.saveStores cx l = .ok t) :
    Memory.wf t.mem = true := by
  fun_induction State.saveStores s cx l with
  | case1 => cases heq; exact h
  | case2 => cases heq
  | case3 => cases heq
  | case4 s c l o s1 h1 wins s2 h2 ih => exact ih (wf_savePieces (wf_saveStore h _ _ _ _ _ h1) _ _ h2) heq

theorem wf_writeImage {s : State} (h : Memory.wf s.mem = true) (cx : Nat) {t : State} (heq : s.writeImage cx = .ok t) : Memory.wf t.mem = true := by
  unfold State.writeImage at heq
  split at heq
  · exact wf_savePieces h _ _ heq
  · split at heq
    · cases heq
    next hs => exact wf_savePieces (wf_saveStores h _ _ hs) _ _ heq

theorem wf_restoreWg {s : State} (h : Memory.wf s.mem = true) (cx : Nat) (sec : Nat → Nat → Nat → Nat) (wid : Nat) {t : State}
    (heq : s.restoreWg cx sec wid = .ok t) : Memory.wf t.mem = true := by
  unfold State.restoreWg at heq
  split at heq
  · split at heq
    · cases heq
    · cases heq
    next hr =>
      dsimp only at heq
      split at heq
      · cases heq
      · cases heq
        rw [foldl_mem fun s g => modGroup_mem s ..]
        simpa using wf_restoreRuns _ h hr
  · cases heq
    exact h

theorem wf_restoreWgs {s : State} (h : Memory.wf s.mem = true) (cx : Nat) (sec : Nat → Nat → Nat → Nat) (l : List Nat) {t : State}
    (heq : s.restoreWgs cx sec l = .ok t) : Memory.wf t.mem = true := by
  fun_induction State.restoreWgs s cx sec l <;> grind [wf_restoreWg]

theorem wf_ctxCmd {s : State} (h : Memory.wf s.mem = true) (cx v : Nat) : Memory.wf (s.ctxCmd cx v).mem = true := by
  unfold State.ctxCmd
  (repeat' split) <;> simp [wf_clear, wf_destroy, wf_preempt, h]

theorem wf_ctxWrite {s : State} (h : Memory.wf s.mem = true) (cx off : Nat) (v : W64) : Memory.wf (s.ctxWrite cx off v).mem = true := by
  unfold State.ctxWrite
  split <;> simp [wf_ctxCmd, h]

theorem wf_memBlockWrite {s : State} (h : Memory.wf s.mem = true) (off : Nat) (v : W64) : Memory.wf (s.memBlockWrite off v).mem = true := by
  unfold State.memBlockWrite
  (repeat' split) <;> simp [wf_tideCmd, h]

theorem wf_mgmtWrite {s : State} (h : Memory.wf s.mem = true) (off : Nat) (v : W64) : Memory.wf (s.mgmtWrite off v).mem = true := by
  unfold State.mgmtWrite
  split <;> simp [wf_fwcmd, h]

theorem wf_regWrite {s : State} (h : Memory.wf s.mem = true) (b : Block) (v : W64) (dev : Bool) : Memory.wf (s.regWrite b v dev).mem = true := by
  unfold State.regWrite
  split <;> simp [wf_ctxWrite, wf_memBlockWrite, wf_mgmtWrite, wf_queueWrite, wf_xwrite, h]

theorem wf_blockPut {s : State} (h : Memory.wf s.mem = true) (a n v : Nat) (dev : Bool) : Memory.wf (s.blockPut a n v dev).mem = true := by
  unfold State.blockPut
  split <;> simp [wf_regWrite, fireMonitors_mem, h]

theorem wf_blockStore {s : State} (h : Memory.wf s.mem = true) (a : Nat) (bs : List Byte) (dev : Bool) :
    Memory.wf (s.blockStore a bs dev).mem = true := by
  grind [State.blockStore, wf_blockPut]

theorem canon_loads {s : State} (h : Memory.wf s.mem = true) (e : Env) (tlbs : List Nat) (pre : List LaneOut) (plans : List (Nat × List Plan))
    (f : Nat → List (List Byte) → LaneOut) : Canon (s.loads e tlbs pre plans f) := by
  unfold State.loads
  grind [canon_afterStores, wf_finish, locateLanes_mem, readLanes_mem, spotStall_mem, canon_next_iff]

theorem wf_directStore {s : State} (h : Memory.wf s.mem = true) (e : Env) (x : Spot) (bs : List Byte) :
    Memory.wf (s.directStore e x bs).mem = true := by
  unfold State.directStore
  split <;> simp [wf_blockStore, fireMonitors_mem, h]

theorem wf_makeStores {s : State} (h : Memory.wf s.mem = true) (e : Env) (ws : List (Spot × List Byte)) :
    Memory.wf (s.makeStores e ws).mem = true := by
  simp +contextual [State.makeStores, wf_directStore, h, wf_foldl]

theorem canon_storeLanes {s : State} (h : Memory.wf s.mem = true) (e : Env) (tlbs : List Nat) (pre : List LaneOut) (plans : List (Nat × List Plan))
    (data : Nat → List (List Byte)) : Canon (s.storeLanes e tlbs pre plans data) := by
  unfold State.storeLanes
  grind [canon_afterStores, wf_finish, wf_makeStores, locateLanes_mem, spotStall_mem, canon_next_iff]

theorem canon_afterRecord {s : State} (h : Memory.wf s.mem = true) (e : Env) (n : Nat) {k : State → Out}
    (hk : ∀ s, Memory.wf s.mem = true → Canon (k s)) : Canon (s.afterRecord e n k) := by
  unfold State.afterRecord
  split
  · exact hk s h
  · refine canon_afterStores h e fun s h => ?_
    split
    · exact canon_next (by simpa using h)
    · exact hk s h

theorem canon_withShape {s : State} (h : Memory.wf s.mem = true) (e : Env) (hd : Src) {body : ShapeRec → BitVec 8 → List LaneOut → State → Out}
    (hb : ∀ r m bads s, Memory.wf s.mem = true → Canon (body r m bads s)) : Canon (s.withShape e hd body) := by
  unfold State.withShape
  dsimp only
  split
  · exact canon_next (wf_finish h ..)
  · refine canon_afterRecord h e _ fun s h => ?_
    have hr := record_mem s e.kid e.cx e.core (e.n .i32 hd e.low) shapeOf
    split
    next hx =>
      rw [hx] at hr
      exact canon_next (wf_finish (by rw [hr]; exact h) ..)
    next hx =>
      rw [hx] at hr
      exact hb _ _ _ _ (by rw [hr]; exact h)

theorem canon_fragment {s : State} (h : Memory.wf s.mem = true) (e : Env) (a p : Src) (t : Bool) (el : FragEl)
    {body : List LaneOut → List (Nat × List Plan) → State → Out}
    (hb : ∀ bads ps s, Memory.wf s.mem = true → Canon (body bads ps s)) : Canon (s.fragment e a p t el body) := by
  unfold State.fragment
  dsimp only
  exact canon_ite (canon_next (wf_finish h ..)) (canon_ite (canon_next (wf_finish h ..)) (hb _ _ s h))

theorem wf_repSettle {s : State} (h : Memory.wf s.mem = true) (r : RepUpdate) : Memory.wf (s.repSettle r).mem = true := by
  unfold State.repSettle
  split <;> simp [wf_poke, h]

theorem wf_repUpdate {s : State} (h : Memory.wf s.mem = true) (ag : Option Agent) (cx u va a : Nat) (bs : List Byte) (home : Bool) (issued : W64)
    (due : Option (Nat × W64)) : Memory.wf (s.repUpdate ag cx u va a bs home issued due).mem = true := by
  simp [State.repUpdate, wf_repSettle, h]

theorem wf_atomWrite {s : State} (h : Memory.wf s.mem = true) (e : Env) (x : Spot) (bs : List Byte) : Memory.wf (s.atomWrite e x bs).mem = true := by
  unfold State.atomWrite
  split <;> simp [wf_directStore, wf_repUpdate, wf_storePhysBytes, h]

theorem wf_atomLanes {s : State} (h : Memory.wf s.mem = true) (e : Env) (n : Nat) (f : Nat → Nat → Option Nat) (l : List (Nat × List Spot)) :
    Memory.wf (s.atomLanes e n f l).2.mem = true := by
  fun_induction State.atomLanes s e n f l <;> grind [wf_atomWrite, atomPass_mem, atomRead_mem]

theorem canon_atomics {s : State} (h : Memory.wf s.mem = true) (e : Env) (n : Nat) (a : Src) (use : BlockUse) (f : Nat → Nat → Option Nat)
    (out : Nat → Nat → LaneOut) : Canon (s.atomics e n a use f out) := by
  unfold State.atomics
  grind [canon_afterStores, wf_atomLanes, wf_finish, locateLanes_mem, spotStall_mem, canon_next_iff]

theorem wf_fenceEnd {s : State} (h : Memory.wf s.mem = true) (e : Env) (sc : Nat) : Memory.wf (s.fenceEnd e sc).mem = true := by
  simp [State.fenceEnd, wf_finish, raisePts_mem, h]

theorem wf_ratomAt {s : State} (h : Memory.wf s.mem = true) (cx : Nat) (ag : Option Agent) (va : Nat) (w64 : Bool) (op : AtomOp) (val : W64) :
    Memory.wf (s.ratomAt cx ag va w64 op val).2.mem = true := by
  grind [State.ratomAt, wf_repUpdate, wf_storePhysBytes, devTick_mem, translate_mem, wakeFor_mem]

theorem wf_ratomHere {s : State} (h : Memory.wf s.mem = true) (r : RatomOp) : Memory.wf (s.ratomHere r).mem = true := by
  grind [State.ratomHere, wf_ratomAt, modRatom_mem]

theorem wf_writeGen {s : State} (hs : Memory.wf s.mem = true) (cx h : Nat) (sel : Bool) : Memory.wf (s.writeGen cx h sel).mem = true := by
  simp [State.writeGen, wf_devPut, hs]

theorem wf_genSync {s : State} (h : Memory.wf s.mem = true) (old : State) : Memory.wf (s.genSync old).mem = true := by
  unfold State.genSync
  split
  · exact h
  · refine wf_foldl (fun s g h => ?_) _ h
    dsimp only
    split
    · split
      · exact wf_devPut h ..
      · exact h
    · exact h

theorem wf_unstall {s : State} (h : Memory.wf s.mem = true) (ag : Agent) (act : BitVec 8) (c : Option Cause) (taddr : W64) :
    Memory.wf (s.unstall ag act c taddr).mem = true := by
  simp [State.unstall, wf_resettle, h]

theorem wf_publishHere {s : State} (hs : Memory.wf s.mem = true) (cx h : Nat) (b : BufRec) : Memory.wf (s.publishHere cx h b).mem = true := by
  simp [State.publishHere, wf_writeGen, hs]

theorem wf_holdMwait {s : State} (h : Memory.wf s.mem = true) (e : Env) (m : BitVec 8) (bads : List LaneOut) (pd : Option Nat) :
    Memory.wf (s.holdMwait e m bads pd).mem = true := by
  simp [State.holdMwait, wf_raise, h]

theorem canon_tier {s : State} (h : Memory.wf s.mem = true) (i : Instr) (b : Nat) (hbmDst : Bool) (d sv n : Src) : Canon (s.tier i b hbmDst d sv n) :=
  canon_word h fun _ _ h => by grind [canon_strandWord, wf_raiseAct, pendUp_mem, postArrival_mem, tick_mem, wakeRange_mem, canon_next_iff]

theorem wf_tierLine {s : State} (h : Memory.wf s.mem = true) (t : TierOp) (o : Nat) {t1 : State} (heq : s.tierLine t o = .ok t1) :
    Memory.wf t1.mem = true := by
  grind [State.tierLine, wf_shadowWrite, engineRead_mem, walkRequest_mem]

theorem wf_tierLines {s : State} (h : Memory.wf s.mem = true) (t : TierOp) (o n : Nat) : Memory.wf (s.tierLines t o n).2.mem = true := by
  fun_induction State.tierLines s t o n <;> grind [wf_tierLine]

theorem wf_dropLine {s : State} (h : Memory.wf s.mem = true) (d : Dirty) : Memory.wf (s.dropLine d).mem = true := by
  grind [State.dropLine, wf_setMem, homeWrites_mem]

theorem wf_copyShadow {s : State} (h : Memory.wf s.mem = true) (c : CopyOp) (b : BufRec) (off : Nat) :
    Memory.wf (s.copyShadow c b off).2.mem = true := by
  unfold State.copyShadow
  split
  · exact h
  · refine wf_foldl_snd (fun x r h => ?_) _ (x := (none, s)) h
    exact wf_shadowWrites h ..

theorem wf_windowWrite {s : State} (h : Memory.wf s.mem = true) (c : CopyOp) (rec_ : ShapeRec) (core wg : Nat) :
    Memory.wf (s.windowWrite c rec_ core wg).mem = true := by
  unfold State.windowWrite
  split
  · exact h
  · exact wf_foldl (fun s p h => wf_setMem h ..) _ h

theorem canon_retireCopy {s : State} (h : Memory.wf s.mem = true) (c : CopyOp) (r : RangeEntry) : Canon (s.retireCopy c r) := by
  unfold State.retireCopy
  refine canon_ite (canon_next h) (canon_ite (canon_next (by simpa using h)) ?_)
  split
  next err c' s' hf =>
    have hm : Memory.wf s'.mem = true := by
      rw [← show (s.fetchAll c c.lines).2.2 = s' from congrArg (·.2.2) hf, fetchAll_mem]
      exact h
    extract_lets i n
    split
    · exact canon_noEvent_iff.mpr h
    · extract_lets s1 s2 s3 s4 s5
      have h5 : s5.mem = s1.mem := (dropReceiver_mem ..).trans <| (fireMonitors_mem ..).trans <| (count_mem ..).trans <|
        (homeWrites_mem ..).trans (served_mem s2 ..)
      have h1 : Memory.wf s5.mem = true := by
        rw [h5]
        exact wf_windowWrite hm ..
      refine canon_next ?_
      clear_value s5
      split
      · rw [postArrival_mem]
        exact h1
      · exact h1

theorem canon_engineTrap {s : State} (h : Memory.wf s.mem = true) (e : Env) (f : Found) : Canon (s.engineTrap e f) := by
  unfold State.engineTrap
  simp [wf_raiseAct, h]

theorem canon_copyWord {s : State} (h : Memory.wf s.mem = true) (i : Instr) (hd d x : Nat) (bad : Env → Except Found ShapeRec → State → Bool)
    {body : Env → Except Found ShapeRec → List Int → State → Out}
    (hb : ∀ e r xs s, Memory.wf s.mem = true → Canon (body e r xs s)) : Canon (s.copyWord i hd d x bad body) := by
  refine canon_word h fun e s h => canon_ite (canon_next (wf_finish h ..)) (canon_afterStores h e fun s h => ?_)
  dsimp only
  have hr : Memory.wf (s.engineRec e (e.greg hd).toNat shapeOf).2.mem = true := by simpa using h
  exact canon_ite (canon_next (by simpa using h)) (canon_ite (canon_next (wf_raiseAct hr ..)) (canon_ite (canon_next (wf_raiseAct hr ..))
    (canon_ite (canon_next (by simpa using hr)) (hb _ _ _ _ hr))))

theorem canon_recordTrap {s : State} (h : Memory.wf s.mem = true) (e : Env) (found : List Found) : Canon (s.recordTrap e found) := by
  unfold State.recordTrap
  (repeat' split) <;> simp [canon_engineTrap, wf_finish, h]

theorem canon_issueWindow {s : State} (h : Memory.wf s.mem = true) (e : Env) (r : ShapeRec) (xs : List Int) (dst : CopyDst) (bar : Option BarRef)
    (bars : List BarRef) (rs : List (Nat × Nat × Nat)) (found : List Found) : Canon (s.issueWindow e r xs dst bar bars rs found) := by
  unfold State.issueWindow
  dsimp only
  split
  · exact canon_engineTrap h ..
  · refine canon_ite (canon_next (by simpa using h)) (canon_ite (canon_next (wf_finish ?_ ..)) (canon_next (wf_finish (by simpa using h) ..)))
    rw [foldl_mem fun s b => (postArrival_mem ..).trans (pendUp_mem ..)]
    exact h

theorem wf_engineFetch {s : State} (h : Memory.wf s.mem = true) (id line : Nat) : Memory.wf (s.engineFetch id line).mem = true := by
  grind [State.engineFetch, wf_tierLine, sourceLine_mem]

theorem wf_pushTape {s : State} (h : Memory.wf s.mem = true) (qid l p : Nat) (upd : Bool) {t : State} (heq : s.pushTape qid l p upd = some t) :
    Memory.wf t.mem = true := by
  unfold State.pushTape at heq
  obtain ⟨u, hu, rfl⟩ := Option.map_eq_some_iff.mp heq
  simpa using wf_devWrite h _ _ _ hu

theorem wf_launchInto {s : State} (h : Memory.wf s.mem = true) (cx a qid : Nat) {y : Bool} {t : State} (heq : s.launchInto cx a qid = some (y, t)) :
    Memory.wf t.mem = true := by
  unfold State.launchInto at heq
  dsimp only at heq
  split at heq
  · cases heq
  · split at heq
    · cases heq
      exact h
    · split at heq
      · cases heq
      next h1 =>
        split at heq
        · cases heq
        next h2 =>
          cases heq
          simpa using wf_devWrite (wf_devWrite h _ _ _ h1) _ _ _ h2

theorem wf_gwApply {s : State} (h : Memory.wf s.mem = true) (gid : Nat) : Memory.wf (gwApply s gid).mem = true := by
  grind [gwApply, wf_forkApply, wf_rcombApply, wf_rewardApply, wf_roleSwitch, wf_slackApply, wf_wideTrap, regGrow_mem, regShrink_mem]

theorem wf_wideRetry {s : State} (h : Memory.wf s.mem = true) : Memory.wf s.wideRetry.mem = true :=
  wf_foldl (fun _ gid h => wf_wideCheck h gid fun _ n h => wf_gwApply h n) _ h

theorem wf_refuseWide {s : State} (h : Memory.wf s.mem = true) (e : Env) : Memory.wf (s.refuseWide e).mem = true := by
  simp [State.refuseWide, wf_wideTrap, h]

theorem canon_transfer {s : State} (h : Memory.wf s.mem = true) (e : Env) (taken : Nat → Bool) (t : Nat → Nat) (link : Option Nat) :
    Canon (s.transfer e taken t link) := by
  unfold State.transfer
  simp [wf_finishTo, h]

theorem wf_afterExit {s : State} (h : Memory.wf s.mem = true) (e : Env) : Memory.wf (s.afterExit e).mem = true := by
  grind [State.afterExit, wf_gatherCheck, wf_gwApply, wf_sgLeave, wf_wideCheck, endCt_mem, endGroup_mem, wgEnd_mem]

theorem canon_returns {s : State} (h : Memory.wf s.mem = true) (i : Instr) (retry : Bool) : Canon (s.returns i retry) := by
  refine canon_word h fun e s h => ?_
  dsimp only
  (repeat' split) <;> simp [wf_finish, wf_resettle, h]

theorem wf_icinvEnd {s : State} (h : Memory.wf s.mem = true) (id : Nat) : Memory.wf (s.icinvEnd id).mem = true := by
  unfold State.icinvEnd
  (repeat' split) <;> simp [wf_unstall, h]

theorem wf_ckptPart {s : State} (h : Memory.wf s.mem = true) (cx src dst n : Nat) : Memory.wf (s.ckptPart cx src dst n).2.mem = true := by
  grind [State.ckptPart, wf_devWrite, engineRead_mem]

theorem wf_ckptParts {s : State} (h : Memory.wf s.mem = true) (cx src dst n m : Nat) : Memory.wf (s.ckptParts cx src dst n m).2.mem = true := by
  fun_induction State.ckptParts s cx src dst n m <;> grind [wf_ckptPart]

theorem wf_ckptRecord {s : State} (h : Memory.wf s.mem = true) (m : CkptMark) : Memory.wf (s.ckptRecord m).mem = true := by
  grind [State.ckptRecord, wf_devWrite, modCtx_mem]

theorem wf_ckptDone {s : State} (hs : Memory.wf s.mem = true) (cx h : Nat) : Memory.wf (s.ckptDone cx h).mem = true := by
  simp +contextual [State.ckptDone, wf_ckptRecord, hs, wf_foldl]

theorem wf_spareStart {s : State} (h : Memory.wf s.mem = true) (e : SoftError) : Memory.wf (s.spareStart e).mem = true := by
  grind [State.spareStart, wf_report]

theorem wf_softError {s : State} (h : Memory.wf s.mem = true) (e : SoftError) : Memory.wf (s.softError e).mem = true := by
  grind [State.softError, wf_report, wf_spareStart]

theorem wf_inWriteLand {s : State} (h : Memory.wf s.mem = true) (w : InWrite) : Memory.wf (s.inWriteLand w).mem = true := by
  grind [State.inWriteLand, wf_shadowWrites, rangeWake_mem]

theorem wf_engineTurn {s : State} (h : Memory.wf s.mem = true) (id line : Nat) : Memory.wf (s.engineTurn id line).mem = true := by
  unfold State.engineTurn
  split <;> simp [wf_engineFetch, wf_inWriteLand, h]

theorem wf_copyLost {s : State} (h : Memory.wf s.mem = true) (c : CopyOp) : Memory.wf (s.copyLost c).mem = true := by
  unfold State.copyLost
  dsimp only
  split
  · exact h
  · split
    · split <;> simpa using wf_copyShadow h ..
    · refine wf_foldl (fun s x h => ?_) _ h
      have hw := wf_windowWrite h c c.dstRec x.1.1 x.1.2.1
      split <;> simpa [fireMonitors_mem, homeWrites_mem] using hw

theorem wf_endLost {s : State} (h : Memory.wf s.mem = true) (t : Nat) : Memory.wf (s.endLost t).mem = true := by
  unfold State.endLost
  dsimp only
  refine wf_foldl (fun s n h => wf_icinvEnd h n) _ (wf_foldl (fun s p h => wf_unstall h ..) _ ?_)
  rw [foldl_mem fun s e => tileFail_mem s ..]
  rw [foldl_mem fun s c => ckptFail_mem s ..]
  exact wf_foldl (fun s c h => wf_copyLost h c) _ h

theorem wf_podLost {s : State} (h : Memory.wf s.mem = true) : Memory.wf s.podLost.mem = true := by
  refine wf_foldl (fun s c h => wf_foldl (fun s b h => ?_) _ h) _ h
  dsimp only
  split
  · exact wf_releaseBar (by simpa using h) _
  · exact h

theorem wf_mirrorLost {s : State} (h : Memory.wf s.mem = true) (t : Nat) : Memory.wf (s.mirrorLost t).mem = true := by
  simp +contextual [State.mirrorLost, wf_homeLand, h, wf_foldl]

theorem wf_reissue {s : State} (h : Memory.wf s.mem = true) (t : Nat) : Memory.wf (s.reissue t).mem = true := by
  simp +contextual [State.reissue, wf_homeApply, h, wf_foldl]

theorem wf_lose {s : State} (h : Memory.wf s.mem = true) (t : Nat) : Memory.wf (s.lose t).mem = true := by
  grind [State.lose, wf_endLost, wf_mirrorLost, wf_podLost, wf_report, podTaken_mem]

theorem wf_foundLost {s : State} (h : Memory.wf s.mem = true) (t : Nat) : Memory.wf (s.foundLost t).mem = true := by
  unfold State.foundLost
  split <;> simp [wf_lose, h]

theorem wf_hostMemory {s : State} (hs : Memory.wf s.mem = true) (h va a n : Nat) (map : Option Nat) (acc : HostAccess) :
    Memory.wf (s.hostMemory h va a n map acc).mem = true := by
  unfold State.hostMemory
  dsimp only
  (repeat' split) <;> simp [wf_homeApply, wf_storePhysBytes, codeSees_mem, sharePhys_mem, loadAt_mem, ctlShare_mem, homeSend_mem, hs]

theorem wf_hostRegister {s : State} (hs : Memory.wf s.mem = true) (h a n : Nat) (b : Block) (acc : HostAccess) :
    Memory.wf (s.hostRegister h a n b acc).mem = true := by
  grind [State.hostRegister, wf_blockPut, blockTime_mem, rejectIn_mem, reply_mem]

theorem canon_ctlTrap {s : State} (h : Memory.wf s.mem = true) (e : Env) (c : Cause) : Canon (s.ctlTrap e c) := by
  unfold State.ctlTrap
  simp [wf_raiseAct, h]

theorem wf_raiseResidue {s : State} (h : Memory.wf s.mem = true) (wid pc : Nat) : Memory.wf (s.raiseResidue wid pc).mem = true := by
  simp [State.raiseResidue, wf_resettle, h]

theorem canon_issueDrain {s : State} (h : Memory.wf s.mem = true) (e : Env) (x n : Nat) (kind : DrainKind) (cc : W64) (lo hi : Nat) :
    Canon (s.issueDrain e x n kind cc lo hi) := by
  unfold State.issueDrain
  (repeat' split) <;> simp [wf_finish, h]

theorem wf_writeDrain {s : State} (h : Memory.wf s.mem = true) (d : DrainOp) : Memory.wf (s.writeDrain d).mem = true := by
  unfold State.writeDrain
  split
  · exact h
  · split
    · simpa using h
    · split
      · exact h
      · exact wf_foldl (fun s i h => wf_setMem h ..) _ h
    · exact h

theorem wf_retireDrain {s : State} (h : Memory.wf s.mem = true) (d : DrainOp) (r : RangeEntry) : Memory.wf (s.retireDrain d r).mem = true := by
  simp [State.retireDrain, wf_writeDrain, fireMonitors_mem, homeWrites_mem, h]

theorem canon_badWord {s : State} (h : Memory.wf s.mem = true) (ag : Agent) (w : W64) (c : Cause) : Canon (s.badWord ag w c) := by
  unfold State.badWord
  dsimp only
  (repeat' split) <;> simp [wf_raisePath, h]

end Sys2Proof.Machine

/-!
SUPPORT. Every word and every event keeps memory in canonical form, `exec` by cases on the instruction.
-/
namespace Sys2Proof.Machine
set_option Elab.async false

theorem canon_execOff (seg : Nat) {s : State} (h : Memory.wf s.mem = true) : Canon (execOff seg s) := by
  unfold execOff
  (repeat' split) <;> simp [wf_segOff, h]

theorem canon_execOn (seg : Nat) {s : State} (h : Memory.wf s.mem = true) : Canon (execOn seg s) := by
  unfold execOn
  simp [h]

theorem canon_execTidecmdWrite (v : W64) {s : State} (h : Memory.wf s.mem = true) : Canon (execTidecmdWrite v s) := by
  unfold execTidecmdWrite
  simp [wf_tideCmd, h]

theorem canon_execIdleTimeout (seg : Nat) {s : State} (h : Memory.wf s.mem = true) : Canon (execIdleTimeout seg s) := by
  unfold execIdleTimeout
  dsimp only
  (repeat' split) <;> simp [h]

theorem canon_execRetentionTimeout (seg : Nat) {s : State} (h : Memory.wf s.mem = true) : Canon (execRetentionTimeout seg s) := by
  unfold execRetentionTimeout
  dsimp only
  (repeat' split) <;> simp [h]

theorem canon_execSegmentWakeDone (seg : Nat) {s : State} (h : Memory.wf s.mem = true) : Canon (execSegmentWakeDone seg s) := by
  unfold execSegmentWakeDone
  (repeat' split) <;> simp [h]

theorem canon_execSatq (gd : Guard) (d : Dst) (clr : Bool) (k : Nat) {s : State} (h : Memory.wf s.mem = true) : Canon (execSatq gd d clr k s) :=
  canon_word h fun _ _ h => by simp [wf_finish, h]

theorem canon_execBfly (gd : Guard) (x y : Nat) (m : Src) {s : State} (h : Memory.wf s.mem = true) : Canon (execBfly gd x y m s) := by
  refine canon_word h fun e s h => ?_
  (repeat' split) <;> simp [wf_groupScope, wf_raiseAct, h]

theorem canon_execBarinit (gd : Guard) (b : Nat) (n : Src) {s : State} (h : Memory.wf s.mem = true) : Canon (execBarinit gd b n s) :=
  canon_word h fun _ _ h => by grind [canon_strandWord, modBar_mem, canon_next_iff]

theorem canon_execBararr (gd : Guard) (b : Nat) (n : Src) {s : State} (h : Memory.wf s.mem = true) : Canon (execBararr gd b n s) :=
  canon_word h fun _ _ h => by grind [canon_afterStores, wf_arriveAt, wf_finish, canon_next_iff]

theorem canon_execBarwait (gd : Guard) (p : Option Nat) (b : Nat) (ph : Src) {s : State} (h : Memory.wf s.mem = true) :
    Canon (execBarwait gd p b ph s) :=
  canon_word h fun _ _ h => canon_barWait h ..

theorem canon_execBarinval (gd : Guard) (b : Nat) {s : State} (h : Memory.wf s.mem = true) : Canon (execBarinval gd b s) :=
  canon_word h fun _ _ h => by grind [canon_afterStores, wf_finish, wf_invalBar, canon_next_iff]

theorem canon_execBarrarr (gd : Guard) (h n : Src) {s : State} (hs : Memory.wf s.mem = true) : Canon (execBarrarr gd h n s) :=
  canon_word hs fun _ _ h => by grind [canon_strandWord, postArrival_mem, canon_next_iff]

theorem canon_execBarq (gd : Guard) (d : Dst) (b : Nat) (which : BarqSel) {s : State} (h : Memory.wf s.mem = true) :
    Canon (execBarq gd d b which s) :=
  canon_word h fun _ _ h => by simp [canon_strandWord, h]

theorem canon_execRemoteArrival (id : Nat) {s : State} (h : Memory.wf s.mem = true) : Canon (execRemoteArrival id s) := by
  unfold execRemoteArrival
  (repeat' split) <;> simp [wf_arriveAt, h]

theorem canon_execEngineArrival (id : Nat) {s : State} (h : Memory.wf s.mem = true) : Canon (execEngineArrival id s) := by
  unfold execEngineArrival
  (repeat' split) <;> simp [wf_arriveAt, h]

theorem canon_execHbarMessage (id : Nat) {s : State} (h : Memory.wf s.mem = true) : Canon (execHbarMessage id s) := by
  unfold execHbarMessage
  dsimp only
  (repeat' split) <;> simp [wf_arriveAt, h]

theorem canon_execHbarReply (id : Nat) {s : State} (h : Memory.wf s.mem = true) : Canon (execHbarReply id s) := by
  unfold execHbarReply
  split
  · exact canon_noEvent_iff.mpr h
  next m _ =>
    split
    · exact canon_noEvent_iff.mpr h
    next r _ =>
      extract_lets s1 s2 s3
      have h2 : Memory.wf s2.mem = true := by
        refine wf_ite h (wf_foldl (fun s l h => ?_) _ h)
        split <;> simpa using h
      refine canon_next (wf_trapStep ?_ _)
      split <;> simpa [raisePts_mem, s3] using h2

theorem canon_execClauseFetch (ag : Agent) {s : State} (h : Memory.wf s.mem = true) : Canon (execClauseFetch ag s) := by
  unfold execClauseFetch
  split
  · exact canon_noEvent_iff.mpr h
  next u x k _ =>
    split
    · exact canon_noEvent_iff.mpr h
    · refine canon_ite (canon_noEvent_iff.mpr h) (canon_ite (canon_next (by simpa using h)) ?_)
      have hf := fetchClause_mem s k (s.coreOf ag)
      split
      next hx => exact canon_next (by simpa [mem_of_eq_pair hx, hf] using h)
      next hx => exact canon_next (by simpa using wf_raise (by simpa [mem_of_eq_pair hx, hf] using h) ..)

theorem canon_execSwashYield (g k : Nat) {s : State} (h : Memory.wf s.mem = true) : Canon (execSwashYield g k s) := by
  unfold execSwashYield
  (repeat' split) <;> simp [h]

theorem canon_execTrapEntry (ag : Agent) {s : State} (h : Memory.wf s.mem = true) : Canon (execTrapEntry ag s) := by
  unfold execTrapEntry
  (repeat' split) <;> simp [wf_trapStep, h]

theorem canon_execLaunchRecord (q : Nat) {s : State} (h : Memory.wf s.mem = true) : Canon (execLaunchRecord q s) :=
  canon_dispatchRec h (ha := fun _ => by simp [wf_takeLaunch, h]) ..

theorem canon_execReverse (q : Nat) {s : State} (h : Memory.wf s.mem = true) : Canon (execReverse q s) :=
  canon_dispatchRec h (ha := fun _ => by simp [wf_takeReverse, h]) ..

theorem canon_execReverseNextKernel (q : Nat) {s : State} (h : Memory.wf s.mem = true) : Canon (execReverseNextKernel q s) := by
  unfold execReverseNextKernel
  (repeat' split) <;> simp [wf_launchTape, h]

theorem canon_execMark (q : Nat) {s : State} (h : Memory.wf s.mem = true) : Canon (execMark q s) :=
  canon_dispatchRec h (ha := fun _ => by simp [wf_takeMark, h]) ..

theorem canon_execWait (q : Nat) {s : State} (h : Memory.wf s.mem = true) : Canon (execWait q s) :=
  canon_dispatchRec h (ha := fun _ => by simp [wf_takeWait, h]) ..

theorem canon_execSignalRecord (q : Nat) {s : State} (h : Memory.wf s.mem = true) : Canon (execSignalRecord q s) :=
  canon_dispatchRec h (ha := fun _ => by simp [wf_takeSignal, h]) ..

theorem canon_execPhaseRecord (q : Nat) {s : State} (h : Memory.wf s.mem = true) : Canon (execPhaseRecord q s) :=
  canon_dispatchRec h (ha := fun _ => by simp [wf_takePhase, h]) ..

theorem canon_execNopRecord (q : Nat) {s : State} (h : Memory.wf s.mem = true) : Canon (execNopRecord q s) :=
  canon_dispatchRec h (ha := fun _ => by simp [wf_takeDone, h]) ..

theorem canon_execHoldRelease (q : Nat) {s : State} (h : Memory.wf s.mem = true) : Canon (execHoldRelease q s) := by
  unfold execHoldRelease
  (repeat' split) <;> simp [h]

theorem canon_execWaitTimeout (q : Nat) {s : State} (h : Memory.wf s.mem = true) : Canon (execWaitTimeout q s) := by
  unfold execWaitTimeout
  dsimp only
  (repeat' split) <;> simp [h]

theorem canon_execEnable (q : Nat) {s : State} (h : Memory.wf s.mem = true) : Canon (execEnable q s) :=
  canon_queueStep h (hf := by simp [wf_queueCmd, h]) ..

theorem canon_execDisable (q : Nat) {s : State} (h : Memory.wf s.mem = true) : Canon (execDisable q s) :=
  canon_queueStep h (hf := by simp [wf_queueCmd, h]) ..

theorem canon_execResume (q : Nat) {s : State} (h : Memory.wf s.mem = true) : Canon (execResume q s) :=
  canon_queueStep h (hf := by simp [wf_queueCmd, h]) ..

theorem canon_execSkip (q : Nat) {s : State} (h : Memory.wf s.mem = true) : Canon (execSkip q s) :=
  canon_queueStep h (hf := by simp [wf_queueCmd, h]) ..

theorem canon_execTapeclr (q : Nat) {s : State} (h : Memory.wf s.mem = true) : Canon (execTapeclr q s) :=
  canon_queueStep h (hf := by simp [wf_queueCmd, h]) ..

theorem canon_execQtailWrite (q : Nat) (v : W64) {s : State} (h : Memory.wf s.mem = true) : Canon (execQtailWrite q v s) :=
  canon_queueStep h (hf := by simp [h]) ..

theorem canon_execQcheadWrite (q : Nat) (v : W64) {s : State} (h : Memory.wf s.mem = true) : Canon (execQcheadWrite q v s) :=
  canon_queueStep h (hf := by simp [h]) ..

theorem canon_execQwakeWrite (q : Nat) (n : W64) {s : State} (h : Memory.wf s.mem = true) : Canon (execQwakeWrite q n s) :=
  canon_queueStep h (hf := by simp [h]) ..

theorem canon_execQstatWrite (q : Nat) (v : W64) {s : State} (h : Memory.wf s.mem = true) : Canon (execQstatWrite q v s) :=
  canon_queueStep h (hf := by simp [h]) ..

theorem canon_execResolved (cx seq : Nat) {s : State} (h : Memory.wf s.mem = true) : Canon (execResolved cx seq s) := by
  unfold execResolved
  simp [wf_verdict, h]

theorem canon_execRefused (cx seq : Nat) {s : State} (h : Memory.wf s.mem = true) : Canon (execRefused cx seq s) := by
  unfold execRefused
  simp [wf_verdict, h]

theorem canon_execXfheadWrite (cx : Nat) (v : W64) {s : State} (h : Memory.wf s.mem = true) : Canon (execXfheadWrite cx v s) := by
  unfold execXfheadWrite
  simp [wf_raiseXfhead, h]

theorem canon_execUnmap (cx page : Nat) {s : State} (h : Memory.wf s.mem = true) : Canon (execUnmap cx page s) :=
  canon_xStep h (hf := by simp [wf_xcommand, h]) ..

theorem canon_execProtect (cx page : Nat) {s : State} (h : Memory.wf s.mem = true) : Canon (execProtect cx page s) :=
  canon_xStep h (hf := by simp [wf_xcommand, h]) ..

theorem canon_execZero (cx page : Nat) {s : State} (h : Memory.wf s.mem = true) : Canon (execZero cx page s) :=
  canon_xStep h (hf := by simp [wf_xcommand, h]) ..

theorem canon_execTranslationLeaseExpire (cx page : Nat) {s : State} (h : Memory.wf s.mem = true) : Canon (execTranslationLeaseExpire cx page s) := by
  unfold execTranslationLeaseExpire
  (repeat' split) <;> simp [h]

theorem canon_execZeroDone (cx page : Nat) {s : State} (h : Memory.wf s.mem = true) : Canon (execZeroDone cx page s) := by
  unfold execZeroDone
  (repeat' split) <;> simp [wf_zeroBytes, h]

theorem canon_execPageMoveDone (cx page frame : Nat) {s : State} (h : Memory.wf s.mem = true) : Canon (execPageMoveDone cx page frame s) := by
  unfold execPageMoveDone
  dsimp only
  (repeat' split) <;> simp [wf_mapPte, wf_moveData, h]

theorem canon_execReplicaDiscard (cx page : Nat) {s : State} (h : Memory.wf s.mem = true) : Canon (execReplicaDiscard cx page s) := by
  unfold execReplicaDiscard
  dsimp only
  (repeat' split) <;> simp [h]

theorem canon_execKernelAdmit (k : Nat) {s : State} (h : Memory.wf s.mem = true) : Canon (execKernelAdmit k s) := by
  unfold execKernelAdmit
  (repeat' split) <;> simp [wf_finishKernel, wf_rangeOn, h]

theorem canon_execKernelLeased (k : Nat) {s : State} (h : Memory.wf s.mem = true) : Canon (execKernelLeased k s) := by
  unfold execKernelLeased
  split
  · exact canon_noEvent_iff.mpr h
  · split
    · exact canon_noEvent_iff.mpr h
    · extract_lets ls s1 s2
      have h2 : Memory.wf s2.mem = true := by simpa [s2, s1, foldl_mem] using h
      refine canon_ite ?_ (canon_noEvent_iff.mpr h)
      split
      · exact canon_next (wf_abortKernel h2 ..)
      · exact canon_next (by simpa using wf_ite h2 (wf_devPutAll h2 ..))

theorem canon_execLeaseRenewal (k : Nat) {s : State} (h : Memory.wf s.mem = true) : Canon (execLeaseRenewal k s) := by
  unfold execLeaseRenewal
  (repeat' split) <;> simp [h]

theorem canon_execWorkgroupPlaced (k : Nat) (at_ : Place) {s : State} (h : Memory.wf s.mem = true) : Canon (execWorkgroupPlaced k at_ s) := by
  unfold execWorkgroupPlaced
  extract_lets none_
  have hn : Canon none_ := canon_noEvent_iff.mpr h
  split
  · exact hn
  · refine canon_ite hn ?_
    extract_lets w ct
    split
    · exact hn
    next hw =>
      split
      · exact hn
      next hg =>
        refine canon_ite hn (canon_next ?_)
        rw [modKernel_mem, addGroups_mem _ _ _ _ _ _ _ _ hg, addWg_mem _ _ _ _ _ hw]
        exact h

theorem canon_execGroupLoaded (g : Nat) {s : State} (h : Memory.wf s.mem = true) : Canon (execGroupLoaded g s) := by
  unfold execGroupLoaded
  (repeat' split) <;> simp [h]

theorem canon_execKernelQuiet (k : Nat) {s : State} (h : Memory.wf s.mem = true) : Canon (execKernelQuiet k s) := by
  unfold execKernelQuiet
  split
  · refine canon_ite (canon_ite (canon_next ?_) (canon_noEvent_iff.mpr h)) (canon_noEvent_iff.mpr h)
    exact wf_finishKernel (wf_foldl (fun s ag h => wf_drain h ag) _ h) _
  · exact canon_noEvent_iff.mpr h

theorem canon_execGrowGrant (g : Nat) {s : State} (h : Memory.wf s.mem = true) : Canon (execGrowGrant g s) := by
  unfold execGrowGrant
  (repeat' split) <;> simp [h]

theorem canon_execTileArm (d i : Nat) (v : W64) {s : State} (h : Memory.wf s.mem = true) : Canon (execTileArm d i v s) :=
  canon_tileStep h (hf := by simp [h]) ..

theorem canon_execTileDisarm (d i : Nat) (v : W64) {s : State} (h : Memory.wf s.mem = true) : Canon (execTileDisarm d i v s) :=
  canon_tileStep h (hf := by simp [h]) ..

theorem canon_execTileEntryWrite (d i : Nat) (hi : Bool) (v : W64) {s : State} (h : Memory.wf s.mem = true) : Canon (execTileEntryWrite d i hi v s) :=
  canon_tileStep h (hf := by simp [h]) ..

theorem canon_execCollectiveContribution (d i : Nat) (msg : Contribution) {s : State} (h : Memory.wf s.mem = true) :
    Canon (execCollectiveContribution d i msg s) := by
  unfold execCollectiveContribution
  dsimp only
  (repeat' split) <;> simp [h]

theorem canon_execCollectiveResult (d i : Nat) {s : State} (h : Memory.wf s.mem = true) : Canon (execCollectiveResult d i s) := by
  unfold execCollectiveResult
  extract_lets t alive
  split
  next r j _ _ _ =>
    extract_lets out
    have hout : Memory.wf out.2.mem = true := by
      refine wf_foldl_snd (fun x o h => ?_) _ (x := (none, _)) (by simpa using h)
      exact wf_shadowWrites h ..
    have hif : Memory.wf (if alive then out else (some .permission, s)).2.mem = true := by
      split
      · exact hout
      · exact h
    refine canon_ite (canon_next (by simpa using h)) ?_
    split
    next hx => exact canon_next (by simpa [mem_of_eq_pair hx] using hif)
    next hx =>
      refine canon_next (wf_ite ?_ ?_) <;> simpa [mem_of_eq_pair hx] using hif
  · exact canon_noEvent_iff.mpr h

theorem canon_execCollectiveTimeout (d i : Nat) {s : State} (h : Memory.wf s.mem = true) : Canon (execCollectiveTimeout d i s) := by
  unfold execCollectiveTimeout
  (repeat' split) <;> simp [h]

theorem canon_execRcombRoundEnd (die desc : Nat) {s : State} (h : Memory.wf s.mem = true) : Canon (execRcombRoundEnd die desc s) := by
  unfold execRcombRoundEnd
  (repeat' split) <;> simp [wf_endRound, h]

theorem canon_execRcombTimeout (die desc : Nat) {s : State} (h : Memory.wf s.mem = true) : Canon (execRcombTimeout die desc s) := by
  unfold execRcombTimeout
  (repeat' split) <;> simp [wf_endRound, h]

theorem canon_execBuild (cx : Nat) {s : State} (h : Memory.wf s.mem = true) : Canon (execBuild cx s) :=
  canon_ctxCommand h (hf := by simp [h]) ..

theorem canon_execCommit (cx : Nat) {s : State} (h : Memory.wf s.mem = true) : Canon (execCommit cx s) :=
  canon_ctxCommand h (hf := by simp [h]) ..

theorem canon_execDestroy (cx : Nat) {s : State} (h : Memory.wf s.mem = true) : Canon (execDestroy cx s) :=
  canon_ctxCommand h (hf := by simp [wf_destroy, h]) ..

theorem canon_execClear (cx : Nat) {s : State} (h : Memory.wf s.mem = true) : Canon (execClear cx s) :=
  canon_ctxCommand h (hf := by simp [wf_clear, h]) ..

theorem canon_execPhaseWrite (cx : Nat) (v : W64) {s : State} (h : Memory.wf s.mem = true) : Canon (execPhaseWrite cx v s) :=
  canon_ctxStep h (hf := by simp [h]) ..

theorem canon_execBudgetWrite (cx : Nat) (v : W64) {s : State} (h : Memory.wf s.mem = true) : Canon (execBudgetWrite cx v s) :=
  canon_ctxStep h (hf := by simp [h]) ..

theorem canon_execCtxstatWrite (cx : Nat) (v : W64) {s : State} (h : Memory.wf s.mem = true) : Canon (execCtxstatWrite cx v s) :=
  canon_ctxStep h (hf := by simp [h]) ..

theorem canon_execCkptstatWrite (cx : Nat) (v : W64) {s : State} (h : Memory.wf s.mem = true) : Canon (execCkptstatWrite cx v s) :=
  canon_ctxStep h (hf := by simp [h]) ..

theorem canon_execBudgetCurChange (cx : Nat) (v : W16) {s : State} (h : Memory.wf s.mem = true) : Canon (execBudgetCurChange cx v s) := by
  unfold execBudgetCurChange
  dsimp only
  (repeat' split) <;> simp [h]

theorem canon_execContextDrainDone (cx : Nat) {s : State} (h : Memory.wf s.mem = true) : Canon (execContextDrainDone cx s) := by
  unfold execContextDrainDone
  (repeat' split) <;> simp [h]

theorem canon_execCvtd (gd : Guard) (d : Dst) (a : Src) (src : CvtDSrc) (rm : Rm) {s : State} (h : Memory.wf s.mem = true) :
    Canon (execCvtd gd d a src rm s) :=
  canon_convert h ..

theorem canon_execRouteSwitch (dest vc : Nat) {s : State} (h : Memory.wf s.mem = true) : Canon (execRouteSwitch dest vc s) := by
  unfold execRouteSwitch
  dsimp only
  (repeat' split) <;> simp [h]

theorem canon_execRetrain (port : Nat) {s : State} (h : Memory.wf s.mem = true) : Canon (execRetrain port s) :=
  canon_portStep h ..

theorem canon_execLinkDisable (port : Nat) {s : State} (h : Memory.wf s.mem = true) : Canon (execLinkDisable port s) :=
  canon_portStep h ..

theorem canon_execLinkEnable (port : Nat) {s : State} (h : Memory.wf s.mem = true) : Canon (execLinkEnable port s) :=
  canon_portStep h ..

theorem canon_execTrainingResult (port : Nat) (res : TrainResult) {s : State} (h : Memory.wf s.mem = true) : Canon (execTrainingResult port res s) :=
  canon_portStep h ..

theorem canon_execTrainingRetry (port : Nat) {s : State} (h : Memory.wf s.mem = true) : Canon (execTrainingRetry port s) :=
  canon_portStep h ..

theorem canon_execLaneFail (port lane : Nat) {s : State} (h : Memory.wf s.mem = true) : Canon (execLaneFail port lane s) :=
  canon_portStep h ..

theorem canon_execSilence (port : Nat) {s : State} (h : Memory.wf s.mem = true) : Canon (execSilence port s) :=
  canon_portStep h ..

theorem canon_execFlitReceive (port : Nat) (flit : List Byte) {s : State} (h : Memory.wf s.mem = true) : Canon (execFlitReceive port flit s) := by
  unfold execFlitReceive
  dsimp only
  (repeat' split) <;> simp [canon_portStep, h]

theorem canon_execReplayRequest (port ack : Nat) {s : State} (h : Memory.wf s.mem = true) : Canon (execReplayRequest port ack s) :=
  canon_portStep h ..

theorem canon_execCreditReturn (port vc n : Nat) {s : State} (h : Memory.wf s.mem = true) : Canon (execCreditReturn port vc n s) :=
  canon_portStep h ..

theorem canon_execMstatWrite (v : W64) {s : State} (h : Memory.wf s.mem = true) : Canon (execMstatWrite v s) := by
  unfold execMstatWrite
  simp [h]

theorem canon_execMoheadWrite (v : W64) {s : State} (h : Memory.wf s.mem = true) : Canon (execMoheadWrite v s) := by
  unfold execMoheadWrite
  simp [h]

theorem canon_execPowerOn {s : State} : Canon (execPowerOn s) :=
  canon_next reset_memory_wf

theorem canon_execResetInput {s : State} (h : Memory.wf s.mem = true) : Canon (execResetInput s) := by
  unfold execResetInput
  simp [wf_packageReset, h]

theorem canon_execReset (v : W64) {s : State} (h : Memory.wf s.mem = true) : Canon (execReset v s) := by
  unfold execReset
  simp [wf_resetCmd, h]

theorem canon_execLoad {s : State} (h : Memory.wf s.mem = true) : Canon (execLoad s) := by
  unfold execLoad
  simp [h]

theorem canon_execAuthCheckDone (sigOk : Bool) (fuseMin : Nat) {s : State} (h : Memory.wf s.mem = true) :
    Canon (execAuthCheckDone sigOk fuseMin s) := by
  unfold execAuthCheckDone
  dsimp only
  (repeat' split) <;> simp [h]

theorem canon_execFirmwareTrainingDone (res : TrainingOutcome) {s : State} (h : Memory.wf s.mem = true) : Canon (execFirmwareTrainingDone res s) := by
  unfold execFirmwareTrainingDone
  (repeat' split) <;> simp [wf_report, h]

theorem canon_execCoolantOutOfEnvelope (temp flow : Nat) {s : State} (h : Memory.wf s.mem = true) : Canon (execCoolantOutOfEnvelope temp flow s) := by
  refine canon_next (wf_report ?_ ..)
  rw [foldl_mem cutBudget_mem]
  simpa using h

theorem canon_execTemperatureRise {s : State} (h : Memory.wf s.mem = true) : Canon (execTemperatureRise s) := by
  unfold execTemperatureRise
  simp [h]

theorem canon_execConditionCleared {s : State} (h : Memory.wf s.mem = true) : Canon (execConditionCleared s) := by
  unfold execConditionCleared
  simp [h]

theorem canon_execClockChange (mhz : Nat) {s : State} (h : Memory.wf s.mem = true) : Canon (execClockChange mhz s) := by
  unfold execClockChange
  dsimp only
  (repeat' split) <;> simp [h]

theorem canon_execSiblingsPlaced (cx h : Nat) (places : List Place) {s : State} (hs : Memory.wf s.mem = true) :
    Canon (execSiblingsPlaced cx h places s) := by
  unfold execSiblingsPlaced
  split
  · exact canon_noEvent_iff.mpr hs
  · split
    · split
      · exact canon_noEvent_iff.mpr hs
      · refine canon_ite (canon_noEvent_iff.mpr hs) ?_
        split
        · exact canon_noEvent_iff.mpr hs
        next hp =>
          exact canon_next (by simpa using wf_sgState (by simpa using wf_placeSiblings hs _ _ _ _ _ _ _ _ hp) ..)
    · exact canon_noEvent_iff.mpr hs

theorem canon_execForkwaitExpire (cx h : Nat) {s : State} (hs : Memory.wf s.mem = true) : Canon (execForkwaitExpire cx h s) := by
  unfold execForkwaitExpire
  (repeat' split) <;> simp [wf_sgUnform, wf_trapAll, hs]

theorem canon_execSgcancel (gd : Guard) (h i : Src) {s : State} (hs : Memory.wf s.mem = true) : Canon (execSgcancel gd h i s) :=
  canon_word hs fun _ _ h => by grind [canon_afterStores, wf_finish, wf_sgCancel, sgSeen_mem, tick_mem, canon_next_iff]

theorem canon_execSgq (gd : Guard) (d : Nat) (h which : Src) {s : State} (hs : Memory.wf s.mem = true) : Canon (execSgq gd d h which s) := by
  refine canon_word hs fun e s hs => ?_
  refine canon_ite (canon_next (by simpa using hs)) (canon_strandWord hs _ _ fun s hs => ?_)
  split
  · exact hs
  · rw [sgSeen_mem, foldl_mem fun s a => unitLoad_mem s ..]
    exact hs

theorem canon_execSgTimeout (cx h : Nat) {s : State} (hs : Memory.wf s.mem = true) : Canon (execSgTimeout cx h s) := by
  unfold execSgTimeout
  split
  · exact canon_noEvent_iff.mpr hs
  · refine canon_ite (canon_next ?_) (canon_noEvent_iff.mpr hs)
    rw [foldl_mem sgEnd_mem]
    exact wf_ite (wf_sgState hs ..) (wf_sgFinish hs ..)

theorem canon_execSgResult (cx h : Nat) {s : State} (hs : Memory.wf s.mem = true) : Canon (execSgResult cx h s) := by
  unfold execSgResult
  (repeat' split) <;> simp [wf_sgFinish, hs]

theorem canon_execSgDrained (cx h : Nat) {s : State} (hs : Memory.wf s.mem = true) : Canon (execSgDrained cx h s) := by
  unfold execSgDrained
  (repeat' split) <;> simp [wf_sgState, hs]

theorem canon_execPreempt (cx : Nat) {s : State} (h : Memory.wf s.mem = true) : Canon (execPreempt cx s) :=
  canon_ctxCommand h (hf := by simp [wf_preempt, h]) ..

theorem canon_execSaveDone (cx : Nat) (err : Option Cause) {s : State} (h : Memory.wf s.mem = true) : Canon (execSaveDone cx err s) := by
  unfold execSaveDone
  refine canon_ite (canon_noEvent_iff.mpr h) ?_
  split
  · exact canon_ite (canon_next (wf_ctxFail h ..)) (canon_noEvent_iff.mpr h)
  · refine canon_ite (canon_noEvent_iff.mpr h) ?_
    extract_lets s1
    have h1 : Memory.wf s1.mem = true := wf_foldl (fun s x h => wf_sgWriteBack h ..) _ h
    split
    · exact canon_next (wf_ctxFail h1 ..)
    next hw =>
      refine canon_next ?_
      rw [modCtx_mem, foldl_mem fun s w => ?_]
      · simpa using wf_writeImage h1 cx hw
      · split <;> simp

theorem canon_execContextDispatch (cx : Nat) {s : State} (h : Memory.wf s.mem = true) : Canon (execContextDispatch cx s) := by
  unfold execContextDispatch
  (repeat' split) <;> simp [h]

theorem canon_execSchedulerPreempt (cx : Nat) {s : State} (h : Memory.wf s.mem = true) : Canon (execSchedulerPreempt cx s) := by
  unfold execSchedulerPreempt
  (repeat' split) <;> simp [wf_preemptBy, h]

theorem canon_execRestoreDone (cx : Nat) (err : Option Cause) {s : State} (h : Memory.wf s.mem = true) : Canon (execRestoreDone cx err s) := by
  unfold execRestoreDone
  refine canon_ite (canon_noEvent_iff.mpr h) ?_
  split
  · exact canon_ite (canon_next (wf_ctxFail h ..)) (canon_noEvent_iff.mpr h)
  · split
    · exact canon_next (wf_ctxFail h ..)
    next hr =>
      refine canon_next ?_
      simpa [foldl_mem] using wf_restoreWgs h _ _ _ hr

theorem canon_execRegisterWrite (addr : Nat) (v : W64) {s : State} (h : Memory.wf s.mem = true) : Canon (execRegisterWrite addr v s) := by
  unfold execRegisterWrite
  (repeat' split) <;> simp [wf_regWrite, h]

theorem canon_execLd (gd : Guard) (d : Dst) (a o : Src) (sx : Bool) (size : MemSize) {s : State} (h : Memory.wf s.mem = true) :
    Canon (execLd gd d a o sx size s) :=
  canon_word h fun _ _ h => by simp [canon_loads, h]

theorem canon_execSt (gd : Guard) (a o sv : Src) (size : MemSize) {s : State} (h : Memory.wf s.mem = true) : Canon (execSt gd a o sv size s) :=
  canon_word h fun _ _ h => by simp [canon_storeLanes, h]

theorem canon_execLdt (gd : Guard) (d : Nat) (h : Src) (x : Nat) (sx : Bool) {s : State} (hs : Memory.wf s.mem = true) :
    Canon (execLdt gd d h x sx s) :=
  canon_word hs fun _ _ h => by grind [canon_loads, canon_withShape, wf_finish, tick_mem, canon_next_iff]

theorem canon_execStt (gd : Guard) (h : Src) (x : Nat) (sv : Src) {s : State} (hs : Memory.wf s.mem = true) : Canon (execStt gd h x sv s) :=
  canon_word hs fun _ _ h => by grind [canon_storeLanes, canon_withShape, wf_finish, tick_mem, canon_next_iff]

theorem canon_execLdfr (gd : Guard) (d : Nat) (a p : Src) (t : Bool) (el : FragEl) {s : State} (h : Memory.wf s.mem = true) :
    Canon (execLdfr gd d a p t el s) :=
  canon_word h fun _ _ h => by grind [canon_fragment, canon_loads, canon_next_iff]

theorem canon_execStfr (gd : Guard) (a p : Src) (sv : Nat) (t : Bool) (el : FragEl) {s : State} (h : Memory.wf s.mem = true) :
    Canon (execStfr gd a p sv t el s) :=
  canon_word h fun _ _ h => by grind [canon_fragment, canon_storeLanes, canon_next_iff]

theorem canon_execAtom (gd : Guard) (d : Nat) (a b : Src) (sc : Scope) (w64 : Bool) (op : AtomOp) {s : State} (h : Memory.wf s.mem = true) :
    Canon (execAtom gd d a b sc w64 op s) :=
  canon_word h fun _ _ h => by simp [canon_atomics, h]

theorem canon_execCas (gd : Guard) (d : Nat) (a x y : Src) (sc : Scope) (w64 : Bool) {s : State} (h : Memory.wf s.mem = true) :
    Canon (execCas gd d a x y sc w64 s) :=
  canon_word h fun _ _ h => by simp [canon_atomics, h]

theorem canon_execRatom (gd : Guard) (d : Nat) (a b : Src) (w64 : Bool) (op : AtomOp) {s : State} (h : Memory.wf s.mem = true) :
    Canon (execRatom gd d a b w64 op s) := by
  refine canon_word h fun e s h => canon_next ?_
  rw [owe_mem]
  refine wf_finish ?_ ..
  rw [foldl_mem fun s l => ratomSend_mem s ..]
  exact h

theorem canon_execFence (gd : Guard) (sc : Scope) {s : State} (h : Memory.wf s.mem = true) : Canon (execFence gd sc s) := by
  refine canon_word h fun e s h => ?_
  (repeat' split) <;> simp [wf_fenceEnd, wf_finish, h]

theorem canon_execFenceTc (gd : Guard) {s : State} (h : Memory.wf s.mem = true) : Canon (execFenceTc gd s) :=
  canon_word h fun _ _ h => by grind [canon_afterStores, wf_fenceEnd, wf_finish, tick_mem, canon_next_iff]

theorem canon_execRatomApply (id : Nat) {s : State} (h : Memory.wf s.mem = true) : Canon (execRatomApply id s) := by
  unfold execRatomApply
  (repeat' split) <;> simp [wf_ratomHere, h]

theorem canon_execRatomComplete (id : Nat) {s : State} (h : Memory.wf s.mem = true) : Canon (execRatomComplete id s) := by
  unfold execRatomComplete
  dsimp only
  (repeat' split) <;> simp [h]

theorem canon_execPublish (gd : Guard) (h : Src) {s : State} (hs : Memory.wf s.mem = true) : Canon (execPublish gd h s) :=
  canon_word hs fun _ _ h => by grind [canon_afterStores, wf_finish, wf_publishHere, wf_raise, afterSwap_mem, modUnit_mem, record_mem, tick_mem,
    canon_next_iff]

theorem canon_execPublishSwap (id : Nat) {s : State} (h : Memory.wf s.mem = true) : Canon (execPublishSwap id s) := by
  unfold execPublishSwap
  (repeat' split) <;> simp [wf_publishHere, wf_unstall, h]

theorem canon_execPublishAck (id : Nat) {s : State} (h : Memory.wf s.mem = true) : Canon (execPublishAck id s) := by
  unfold execPublishAck
  dsimp only
  (repeat' split) <;> simp [wf_unstall, wf_writeGen, h]

theorem canon_execPublishSwapRequest (rank cx view len : Nat) {s : State} (h : Memory.wf s.mem = true) :
    Canon (execPublishSwapRequest rank cx view len s) := by
  unfold execPublishSwapRequest
  (repeat' split) <;> simp [h]

theorem canon_execMon (gd : Guard) (a : Src) {s : State} (h : Memory.wf s.mem = true) : Canon (execMon gd a s) :=
  canon_word h fun _ _ h => by grind [canon_afterStores, wf_finish, modUnit_mem, monTime_mem, spotOf_mem, spotStall_mem, canon_next_iff]

theorem canon_execMwait (gd : Guard) (p : Option Nat) (t : Src) {s : State} (h : Memory.wf s.mem = true) : Canon (execMwait gd p t s) :=
  canon_word h fun _ _ h => by grind [canon_afterStores, wf_finish, wf_holdMwait, modUnit_mem, raisePts_mem, canon_next_iff]

theorem canon_execMwaitTimeout (ag : Agent) {s : State} (h : Memory.wf s.mem = true) : Canon (execMwaitTimeout ag s) := by
  unfold execMwaitTimeout
  (repeat' split) <;> simp [wf_trapStep, h]

theorem canon_execTierMoveDone (id : Nat) (err : Option Cause) {s : State} (h : Memory.wf s.mem = true) : Canon (execTierMoveDone id err s) := by
  unfold execTierMoveDone
  dsimp only
  (repeat' split) <;> simp [wf_tierLines, h]

theorem canon_execLastuse (gd : Guard) (a n : Src) {s : State} (h : Memory.wf s.mem = true) : Canon (execLastuse gd a n s) := by
  refine canon_word h fun e s h => canon_ite (canon_next (wf_finish h ..)) ?_
  extract_lets av nv
  split
  · exact canon_next (wf_finish h ..)
  · refine canon_next (wf_finish ?_ ..)
    rw [foldl_mem fun s d => lifetime_mem s ..]
    exact wf_drain h _

theorem canon_execLastuseArm (id : Nat) {s : State} (h : Memory.wf s.mem = true) : Canon (execLastuseArm id s) := by
  unfold execLastuseArm
  split
  · exact canon_noEvent_iff.mpr h
  · refine canon_ite (canon_noEvent_iff.mpr h) (canon_ite (canon_noEvent_iff.mpr h) (canon_next ?_))
    exact wf_foldl (fun s d h => wf_dropLine h d) _ (wf_drain h _)

theorem canon_execCopyComplete (id : Nat) (err : Option Cause) {s : State} (h : Memory.wf s.mem = true) : Canon (execCopyComplete id err s) := by
  unfold execCopyComplete
  dsimp only
  (repeat' split) <;> simp [wf_copyShadow, h]

theorem canon_execCopy (gd : Guard) (b h x d : Nat) {s : State} (hs : Memory.wf s.mem = true) : Canon (execCopy gd b h x d s) := by
  unfold execCopy
  grind [canon_copyWord, canon_recordTrap, wf_finish, acceptCopy_mem, engineRec_mem, tick_mem, canon_next_iff]

theorem canon_execCopyw (gd : Guard) (b h x d : Nat) {s : State} (hs : Memory.wf s.mem = true) : Canon (execCopyw gd b h x d s) := by
  unfold execCopyw
  grind [canon_copyWord, canon_issueWindow, canon_recordTrap, engineRec_mem, canon_next_iff]

theorem canon_execCopymc (gd : Guard) (l h x d m : Nat) {s : State} (hs : Memory.wf s.mem = true) : Canon (execCopymc gd l h x d m s) := by
  unfold execCopymc
  grind [canon_copyWord, canon_issueWindow, canon_recordTrap, engineRec_mem, canon_next_iff]

theorem canon_execTready (gd : Guard) (i : Nat) {s : State} (h : Memory.wf s.mem = true) : Canon (execTready gd i s) :=
  canon_word h fun _ _ h => by grind [canon_afterStores, wf_finish, wf_raiseAct, modTile_mem, rangeWake_mem, tick_mem, tileReady_mem, canon_next_iff]

theorem canon_execTapepush (gd : Guard) (p : Nat) (a b : Src) (upd : Bool) {s : State} (h : Memory.wf s.mem = true) :
    Canon (execTapepush gd p a b upd s) :=
  canon_word h fun _ _ h => by grind [canon_strandWord, wf_pushTape, modQueue_mem, canon_next_iff]

theorem canon_execLaunch (gd : Guard) (p : Nat) (a q : Src) {s : State} (h : Memory.wf s.mem = true) : Canon (execLaunch gd p a q s) :=
  canon_word h fun _ _ h => by grind [canon_strandWord, wf_launchInto, canon_next_iff]

theorem canon_execRswitch (gd : Guard) (p : Nat) (a : Src) {s : State} (h : Memory.wf s.mem = true) : Canon (execRswitch gd p a s) :=
  canon_word h fun _ _ h => by grind [canon_wideWord, wf_gwApply, canon_next_iff]

theorem canon_execReggrow (gd : Guard) (p : Nat) (n : Src) {s : State} (h : Memory.wf s.mem = true) : Canon (execReggrow gd p n s) :=
  canon_word h fun _ _ h => by grind [canon_wideWord, wf_gwApply, wf_refuseWide, canon_next_iff]

theorem canon_execRegshrink (gd : Guard) (n : Src) {s : State} (h : Memory.wf s.mem = true) : Canon (execRegshrink gd n s) :=
  canon_word h fun _ _ h => by grind [canon_wideWord, wf_gwApply, wf_refuseWide, canon_next_iff]

theorem canon_execFork (gd : Guard) (p : Nat) (h k en : Src) {s : State} (hs : Memory.wf s.mem = true) : Canon (execFork gd p h k en s) :=
  canon_word hs fun _ _ h => by grind [canon_wideWord, wf_gwApply, wf_refuseWide, canon_next_iff]

theorem canon_execReward (gd : Guard) (h x : Src) {s : State} (hs : Memory.wf s.mem = true) : Canon (execReward gd h x s) :=
  canon_word hs fun _ _ h => by grind [canon_wideWord, wf_gwApply, canon_next_iff]

theorem canon_execSlack (gd : Guard) (d : Nat) (h : Src) (sx : Nat) {s : State} (hs : Memory.wf s.mem = true) : Canon (execSlack gd d h sx s) :=
  canon_word hs fun _ _ h => by grind [canon_wideWord, wf_gwApply, canon_next_iff]

theorem canon_execRcomb (gd : Guard) (d a : Nat) (r : Src) {s : State} (h : Memory.wf s.mem = true) : Canon (execRcomb gd d a r s) :=
  canon_word h fun _ _ h => by grind [canon_wideWord, wf_gwApply, wf_raiseAct, canon_next_iff]

theorem canon_execEnrol (j : Nat) {s : State} (h : Memory.wf s.mem = true) : Canon (execEnrol j s) :=
  canon_word h fun _ _ h => by simp [wf_finish, h]

theorem canon_execRejoin (j : Nat) {s : State} (h : Memory.wf s.mem = true) : Canon (execRejoin j s) := by
  refine canon_word h fun e s h => ?_
  dsimp only
  (repeat' split) <;> simp [wf_finish, h]

theorem canon_execExit (gd : Guard) {s : State} (h : Memory.wf s.mem = true) : Canon (execExit gd s) :=
  canon_word h fun _ _ h => by grind [canon_afterStores, wf_afterExit, wf_finish, dropResults_mem, exitFails_mem, issued_mem, modUnit_mem, tick_mem,
    canon_next_iff]

theorem canon_execYield (gd : Guard) {s : State} (h : Memory.wf s.mem = true) : Canon (execYield gd s) :=
  canon_word h fun _ _ h => by simp [wf_finish, h]

theorem canon_execSignal (gd : Guard) (a b : Src) {s : State} (h : Memory.wf s.mem = true) : Canon (execSignal gd a b s) :=
  canon_word h fun e s h => canon_strandWord h _ _ fun s h => by dsimp only; (repeat' split) <;> simp [h]

theorem canon_execSignalMbox (gd : Guard) (a b : Src) {s : State} (h : Memory.wf s.mem = true) : Canon (execSignalMbox gd a b s) :=
  canon_word h fun e s h => canon_strandWord h _ _ fun s h => by simp [wf_mailbox, h]

theorem canon_execSleep (gd : Guard) (a : Src) {s : State} (h : Memory.wf s.mem = true) : Canon (execSleep gd a s) := by
  refine canon_word h fun e s h => ?_
  (repeat' split) <;> simp [wf_finish, wf_holdSome, h]

theorem canon_execSleepExpire (ag : Agent) {s : State} (h : Memory.wf s.mem = true) : Canon (execSleepExpire ag s) := by
  unfold execSleepExpire
  (repeat' split) <;> simp [h]

theorem canon_execSysrd (gd : Guard) (d : Dst) (idx : Nat) {s : State} (h : Memory.wf s.mem = true) : Canon (execSysrd gd d idx s) :=
  canon_word h fun _ _ h => by simp [wf_finish, h]

theorem canon_execSyswr (gd : Guard) (a : Src) (idx : Nat) {s : State} (h : Memory.wf s.mem = true) : Canon (execSyswr gd a idx s) :=
  canon_word h fun _ _ h => by grind [canon_afterStores, wf_finish, wf_raiseAct, modUnit_mem, setPhase_mem, canon_next_iff]

theorem canon_execDbgmark (gd : Guard) (a : Src) {s : State} (h : Memory.wf s.mem = true) : Canon (execDbgmark gd a s) :=
  canon_word h fun _ _ h => by simp [wf_finish, h]

theorem canon_execPerfc (gd : Guard) (d : Dst) (n : Nat) {s : State} (h : Memory.wf s.mem = true) : Canon (execPerfc gd d n s) :=
  canon_word h fun _ _ h => by simp [wf_finish, h]

theorem canon_execIcinv (gd : Guard) (a n : Src) {s : State} (h : Memory.wf s.mem = true) : Canon (execIcinv gd a n s) :=
  canon_word h fun _ _ h => by grind [canon_afterStores, wf_finish, wf_raise, dropCode_mem, modUnit_mem, tick_mem, canon_next_iff]

theorem canon_execIcinvInvalidate (id : Nat) {s : State} (h : Memory.wf s.mem = true) : Canon (execIcinvInvalidate id s) := by
  unfold execIcinvInvalidate
  (repeat' split) <;> simp [h]

theorem canon_execIcinvAck (id rank : Nat) {s : State} (h : Memory.wf s.mem = true) : Canon (execIcinvAck id rank s) := by
  unfold execIcinvAck
  (repeat' split) <;> simp [wf_icinvEnd, h]

theorem canon_execCkptmark (gd : Guard) (a n ep : Src) {s : State} (h : Memory.wf s.mem = true) : Canon (execCkptmark gd a n ep s) := by
  refine canon_word h fun e s h => canon_ite (canon_next (wf_finish h ..)) ?_
  extract_lets l stop
  have hstop {s : State} (h : Memory.wf s.mem = true) (c : Cause) (x : Nat) : Canon (stop s c x) := canon_next (wf_finish h ..)
  refine canon_ite (hstop h ..) (canon_ite (hstop h ..) (canon_afterStores h e fun s h => ?_))
  split
  next hx => exact hstop (by simpa [mem_of_eq_pair hx] using h) ..
  next hx =>
    refine canon_ite (canon_next ?_) ?_
    · rw [tick_mem, foldl_mem fun s x => wakeLoc_mem s ..]
      exact h
    · split
      next hy => exact hstop (by simpa [mem_of_eq_pair hy, mem_of_eq_pair hx] using h) ..
      next hy =>
        have h2 := h
        rw [← loadList_mem s e l, ← mem_of_eq_pair hx, ← ckptBufs_mem, ← mem_of_eq_pair hy] at h2
        split
        · exact hstop h2 ..
        · exact canon_next (wf_finish (by simpa using h2) ..)

theorem canon_execCheckpointCopyDone (cx h : Nat) {s : State} (hs : Memory.wf s.mem = true) : Canon (execCheckpointCopyDone cx h s) := by
  unfold execCheckpointCopyDone
  split
  · exact canon_noEvent_iff.mpr hs
  · refine canon_ite (canon_next (by simpa using hs)) ?_
    split
    next hx => exact canon_next (by simpa [mem_of_eq_pair hx] using wf_ckptParts hs ..)
    next hx => exact canon_next (by simpa using wf_ckptDone (by simpa [mem_of_eq_pair hx] using wf_ckptParts hs ..) ..)

theorem canon_execCheckpointCopyFail (cx h : Nat) (cause : Cause) {s : State} (hs : Memory.wf s.mem = true) :
    Canon (execCheckpointCopyFail cx h cause s) := by
  unfold execCheckpointCopyFail
  (repeat' split) <;> simp [hs]

theorem canon_execLongLatencyResult (id : Nat) {s : State} (h : Memory.wf s.mem = true) : Canon (execLongLatencyResult id s) := by
  unfold execLongLatencyResult
  (repeat' split) <;> simp [h]

theorem canon_execStorePerform (ag : Agent) {s : State} (h : Memory.wf s.mem = true) : Canon (execStorePerform ag s) := by
  unfold execStorePerform
  dsimp only
  (repeat' split) <;> simp [wf_performStore, h]

theorem canon_execMissFill (id : Nat) (soft : List SoftError) {s : State} (h : Memory.wf s.mem = true) : Canon (execMissFill id soft s) := by
  unfold execMissFill
  split
  · exact canon_noEvent_iff.mpr h
  · refine canon_ite (canon_noEvent_iff.mpr h) (canon_ite (canon_next h) ?_)
    extract_lets s1 s2 s3
    have h3 : Memory.wf s3.mem = true := wf_foldl (fun s x h => wf_softError h x) _ (by simpa [s2, s1] using h)
    exact canon_next (wf_ite (by simpa using h3) h3)

theorem canon_execPtsTick (u : Nat) {s : State} (h : Memory.wf s.mem = true) : Canon (execPtsTick u s) := by
  unfold execPtsTick
  (repeat' split) <;> simp [h]

theorem canon_execInvalidation (die line : Nat) {s : State} (h : Memory.wf s.mem = true) : Canon (execInvalidation die line s) := by
  unfold execInvalidation
  dsimp only
  (repeat' split) <;> simp [h]

theorem canon_execUpgradeRequest (die line : Nat) {s : State} (h : Memory.wf s.mem = true) : Canon (execUpgradeRequest die line s) := by
  unfold execUpgradeRequest
  dsimp only
  (repeat' split) <;> simp [wf_performStore, h]

theorem canon_execHomeWrite (id : Nat) {s : State} (h : Memory.wf s.mem = true) : Canon (execHomeWrite id s) := by
  unfold execHomeWrite
  (repeat' split) <;> simp [wf_homeApply, h]

theorem canon_execMirrorAck (id : Nat) {s : State} (h : Memory.wf s.mem = true) : Canon (execMirrorAck id s) := by
  unfold execMirrorAck
  (repeat' split) <;> simp [wf_homeLand, h]

theorem canon_execReplicaUpdate (ag : Agent) {s : State} (h : Memory.wf s.mem = true) : Canon (execReplicaUpdate ag s) := by
  unfold execReplicaUpdate
  dsimp only
  (repeat' split) <;> simp [wf_mergeFail, wf_repUpdate, wakeFor_mem, h]

theorem canon_execReplicaApply (id die : Nat) {s : State} (h : Memory.wf s.mem = true) : Canon (execReplicaApply id die s) := by
  unfold execReplicaApply
  dsimp only
  (repeat' split) <;> simp [wf_repSettle, wakeFor_mem, h]

theorem canon_execEngineWriteAccept (rank cx ofs : Nat) (data : List Byte) {s : State} (h : Memory.wf s.mem = true) :
    Canon (execEngineWriteAccept rank cx ofs data s) := by
  unfold execEngineWriteAccept
  dsimp only
  (repeat' split) <;> simp [h]

theorem canon_execRowSpareSwitch (id : Nat) {s : State} (h : Memory.wf s.mem = true) : Canon (execRowSpareSwitch id s) := by
  unfold execRowSpareSwitch
  (repeat' split) <;> simp [h]

theorem canon_execEviction (core line : Nat) {s : State} (h : Memory.wf s.mem = true) : Canon (execEviction core line s) := by
  unfold execEviction
  dsimp only
  (repeat' split) <;> simp [h]

theorem canon_execLossDeclaration (rank : Nat) {s : State} (h : Memory.wf s.mem = true) : Canon (execLossDeclaration rank s) := by
  unfold execLossDeclaration
  (repeat' split) <;> simp [wf_lose, h]

theorem canon_execNoRouteTimeout (rank : Nat) {s : State} (h : Memory.wf s.mem = true) : Canon (execNoRouteTimeout rank s) := by
  unfold execNoRouteTimeout
  (repeat' split) <;> simp [wf_foundLost, h]

theorem canon_execPeerFailureReport (rank : Nat) {s : State} (h : Memory.wf s.mem = true) : Canon (execPeerFailureReport rank s) := by
  unfold execPeerFailureReport
  (repeat' split) <;> simp [wf_foundLost, h]

theorem canon_execDirectoryRebuildDone (rank : Nat) {s : State} (h : Memory.wf s.mem = true) : Canon (execDirectoryRebuildDone rank s) := by
  unfold execDirectoryRebuildDone
  (repeat' split) <;> simp [wf_reissue, h]

theorem canon_execHostCoreAccess (c : HostCore) (acc : HostAccess) {s : State} (h : Memory.wf s.mem = true) : Canon (execHostCoreAccess c acc s) := by
  unfold execHostCoreAccess
  dsimp only
  (repeat' split) <;> simp [wf_hostMemory, wf_hostRegister, h]

theorem canon_execMma (n : Nat) (a b sv : Src) (new : Bool) {s : State} (h : Memory.wf s.mem = true) : Canon (execMma n a b sv new s) := by
  refine canon_word h fun e s h => ?_
  dsimp only
  (repeat' split) <;> simp [canon_ctlTrap, wf_finish, h]

theorem canon_execMmaEnd (core : Nat) {s : State} (h : Memory.wf s.mem = true) : Canon (execMmaEnd core s) := by
  unfold execMmaEnd
  split
  · exact canon_noEvent_iff.mpr h
  · extract_lets ga gb ha hb sa sb
    refine canon_ite (canon_noEvent_iff.mpr h) ?_
    split
    next d s' hx =>
      have hs' : Memory.wf s'.mem = true := by
        rw [mem_of_eq_pair hx]
        split
        · exact h
        · rw [freeTab_mem]
          exact h
      extract_lets s1
      have h1 : Memory.wf s1.mem = true := by
        refine wf_ite ?_ hs'
        rw [modAcc_mem]
        exact hs'
      refine canon_next ?_
      rw [count_mem]
      exact h1

theorem canon_execResidueMismatchMma (core : Nat) {s : State} (h : Memory.wf s.mem = true) : Canon (execResidueMismatchMma core s) := by
  unfold execResidueMismatchMma
  dsimp only
  (repeat' split) <;> simp [wf_mismatch, wf_raiseResidue, h]

theorem canon_execAccdrain (n : Nat) (w c : Src) {s : State} (h : Memory.wf s.mem = true) : Canon (execAccdrain n w c s) := by
  refine canon_word h fun e s h => ?_
  dsimp only
  (repeat' split) <;> simp [canon_ctlTrap, canon_issueDrain, h]

theorem canon_execAccst (n : Nat) (w c : Src) {s : State} (h : Memory.wf s.mem = true) : Canon (execAccst n w c s) := by
  refine canon_word h fun e s h => ?_
  dsimp only
  (repeat' split) <;> simp [canon_ctlTrap, canon_issueDrain, h]

theorem canon_execAcctx (n : Nat) (ev : Src) {s : State} (h : Memory.wf s.mem = true) : Canon (execAcctx n ev s) := by
  refine canon_word h fun e s h => ?_
  dsimp only
  (repeat' split) <;> simp [canon_ctlTrap, wf_finish, h]

theorem canon_execDrainSettle (id : Nat) {s : State} (h : Memory.wf s.mem = true) : Canon (execDrainSettle id s) := by
  unfold execDrainSettle
  split
  · exact canon_noEvent_iff.mpr h
  · refine canon_ite (canon_noEvent_iff.mpr h) (canon_next ?_)
    split
    · simpa using h
    · exact h

theorem canon_execRangeRetire (id : Nat) {s : State} (h : Memory.wf s.mem = true) : Canon (execRangeRetire id s) := by
  unfold execRangeRetire
  (repeat' split) <;> simp [canon_retireCopy, wf_retireDrain, h]

theorem canon_execAcctxLand (id : Nat) {s : State} (h : Memory.wf s.mem = true) : Canon (execAcctxLand id s) := by
  unfold execAcctxLand
  dsimp only
  (repeat' split) <;> simp [h]

theorem canon_execAccwait (n : Nat) (k : Src) (one : Bool) {s : State} (h : Memory.wf s.mem = true) : Canon (execAccwait n k one s) := by
  refine canon_word h fun e s h => ?_
  dsimp only
  (repeat' split) <;> simp [wf_finish, h]

theorem canon_execAccfree (n : Nat) (k : Src) {s : State} (h : Memory.wf s.mem = true) : Canon (execAccfree n k s) :=
  canon_word h fun _ _ h => by simp [wf_finish, h]

theorem canon_execCbarArr (b : Nat) {s : State} (h : Memory.wf s.mem = true) : Canon (execCbarArr b s) :=
  canon_word h fun _ _ h => by grind [canon_afterStores, wf_arriveAt, wf_finish, canon_next_iff]

theorem canon_execCbarWait (p : Option Nat) (b : Nat) (ph : Src) {s : State} (h : Memory.wf s.mem = true) : Canon (execCbarWait p b ph s) :=
  canon_word h fun _ _ h => canon_barWait h ..

theorem canon_execCbarInit (b : Nat) (n : Src) {s : State} (h : Memory.wf s.mem = true) : Canon (execCbarInit b n s) :=
  canon_word h fun _ _ h => by grind [canon_afterStores, canon_ctlTrap, wf_finish, modBar_mem, canon_next_iff]

theorem canon_execCbarInval (b : Nat) {s : State} (h : Memory.wf s.mem = true) : Canon (execCbarInval b s) :=
  canon_word h fun _ _ h => by grind [canon_afterStores, wf_finish, wf_invalBar, canon_next_iff]

theorem canon_execCbarQ (d b : Nat) (bc : Bool) {s : State} (h : Memory.wf s.mem = true) : Canon (execCbarQ d b bc s) :=
  canon_word h fun _ _ h => by grind [canon_afterStores, wf_finish, canon_next_iff]

theorem canon_exec (i : Instr) {s : State} (h : Memory.wf s.mem = true) : Canon (exec i s) := by
  cases i with
  | nop | icmp | iaddc | isubb | fcmp | fclass | dcmp | hcmp2 | rnd | rseed | pmovSet => exact canon_lanewise h ..
  | mov | iadd | isub | idiv | irem | imin | imax | iabs | ineg | iand | ior | ixor | inot | iandn | shl | shr | sar | rotl | bfe
  | bfi | popc | clz | ctz | brev | sel | iadd64 | shf64 | lea | ext | bmrg | lop3 | fadd | fsub | fmin | fmax | frcp | frsq
  | fsqrt | fsinpi | fcospi | fexp2 | flog2 | ftanh | frnd | dadd | dmin | dmax | drcp | dsqrt | hadd2 | hmax2 | hmin2 | unpk16
  | unpk8 | unpk4 | pmovGet => exact canon_alu h ..
  | imul | imulh | imad | imad64 | dot4 | fmul | ffma | dmul | dfma | hmul2 | hfma2 | fdot2 => exact canon_mul h ..
  | cvtf | cvti | pk16 | cvt8 | cvt4 | mxsc => exact canon_convert h ..
  | pand | por | pxor | pnot | pmov => exact canon_predForm h ..
  | rte | rteRetry => exact canon_returns h ..
  | tierpf | tierev => exact canon_tier h ..
  | shfl | vote | ballot | redux | fredux | scan | matchv | pcnt | elect | bcast => exact canon_word h fun _ _ h => canon_next (wf_groupScope h ..)
  | bra | brx | call | ret => exact canon_word h fun _ _ h => canon_transfer h ..
  | trap | brk => exact canon_word h fun _ _ h => canon_next (wf_raiseAct h ..)
  | hbarInit | hbarArr | hbarWait | hbarQ => exact canon_word h fun _ _ h => canon_hbarSend h ..
  | cvtd => exact canon_execCvtd (h := h) ..
  | satq => exact canon_execSatq (h := h) ..
  | bfly => exact canon_execBfly (h := h) ..
  | enrol => exact canon_execEnrol (h := h) ..
  | rejoin => exact canon_execRejoin (h := h) ..
  | exit => exact canon_execExit (h := h) ..
  | yield => exact canon_execYield (h := h) ..
  | signal => exact canon_execSignal (h := h) ..
  | signalMbox => exact canon_execSignalMbox (h := h) ..
  | rswitch => exact canon_execRswitch (h := h) ..
  | reggrow => exact canon_execReggrow (h := h) ..
  | regshrink => exact canon_execRegshrink (h := h) ..
  | growGrant => exact canon_execGrowGrant (h := h) ..
  | sleep => exact canon_execSleep (h := h) ..
  | sleepExpire => exact canon_execSleepExpire (h := h) ..
  | barinit => exact canon_execBarinit (h := h) ..
  | bararr => exact canon_execBararr (h := h) ..
  | barwait => exact canon_execBarwait (h := h) ..
  | barinval => exact canon_execBarinval (h := h) ..
  | barrarr => exact canon_execBarrarr (hs := h) ..
  | remoteArrival => exact canon_execRemoteArrival (h := h) ..
  | barq => exact canon_execBarq (h := h) ..
  | hbarMessage => exact canon_execHbarMessage (h := h) ..
  | hbarReply => exact canon_execHbarReply (h := h) ..
  | ld => exact canon_execLd (h := h) ..
  | st => exact canon_execSt (h := h) ..
  | ldt => exact canon_execLdt (hs := h) ..
  | stt => exact canon_execStt (hs := h) ..
  | ldfr => exact canon_execLdfr (h := h) ..
  | stfr => exact canon_execStfr (h := h) ..
  | atom => exact canon_execAtom (h := h) ..
  | cas => exact canon_execCas (h := h) ..
  | ratom => exact canon_execRatom (h := h) ..
  | fence => exact canon_execFence (h := h) ..
  | fenceTc => exact canon_execFenceTc (h := h) ..
  | publish => exact canon_execPublish (hs := h) ..
  | mon => exact canon_execMon (h := h) ..
  | mwait => exact canon_execMwait (h := h) ..
  | mwaitTimeout => exact canon_execMwaitTimeout (h := h) ..
  | lastuse => exact canon_execLastuse (h := h) ..
  | lastuseArm => exact canon_execLastuseArm (h := h) ..
  | mma => exact canon_execMma (h := h) ..
  | mmaEnd => exact canon_execMmaEnd (h := h) ..
  | residueMismatchMma => exact canon_execResidueMismatchMma (h := h) ..
  | accdrain => exact canon_execAccdrain (h := h) ..
  | accst => exact canon_execAccst (h := h) ..
  | acctx => exact canon_execAcctx (h := h) ..
  | acctxLand => exact canon_execAcctxLand (h := h) ..
  | accwait => exact canon_execAccwait (h := h) ..
  | accfree => exact canon_execAccfree (h := h) ..
  | drainSettle => exact canon_execDrainSettle (h := h) ..
  | cbarArr => exact canon_execCbarArr (h := h) ..
  | cbarWait => exact canon_execCbarWait (h := h) ..
  | cbarInit => exact canon_execCbarInit (h := h) ..
  | cbarInval => exact canon_execCbarInval (h := h) ..
  | cbarQ => exact canon_execCbarQ (h := h) ..
  | copy => exact canon_execCopy (hs := h) ..
  | copymc => exact canon_execCopymc (hs := h) ..
  | copyw => exact canon_execCopyw (hs := h) ..
  | copyComplete => exact canon_execCopyComplete (h := h) ..
  | engineArrival => exact canon_execEngineArrival (h := h) ..
  | rangeRetire => exact canon_execRangeRetire (h := h) ..
  | tierMoveDone => exact canon_execTierMoveDone (h := h) ..
  | tready => exact canon_execTready (h := h) ..
  | fork => exact canon_execFork (hs := h) ..
  | siblingsPlaced => exact canon_execSiblingsPlaced (hs := h) ..
  | forkwaitExpire => exact canon_execForkwaitExpire (hs := h) ..
  | reward => exact canon_execReward (hs := h) ..
  | slack => exact canon_execSlack (hs := h) ..
  | sgcancel => exact canon_execSgcancel (hs := h) ..
  | sgq => exact canon_execSgq (hs := h) ..
  | sgTimeout => exact canon_execSgTimeout (hs := h) ..
  | sgResult => exact canon_execSgResult (hs := h) ..
  | sgDrained => exact canon_execSgDrained (hs := h) ..
  | tapepush => exact canon_execTapepush (h := h) ..
  | launch => exact canon_execLaunch (h := h) ..
  | rcomb => exact canon_execRcomb (h := h) ..
  | rcombRoundEnd => exact canon_execRcombRoundEnd (h := h) ..
  | rcombTimeout => exact canon_execRcombTimeout (h := h) ..
  | sysrd => exact canon_execSysrd (h := h) ..
  | syswr => exact canon_execSyswr (h := h) ..
  | dbgmark => exact canon_execDbgmark (h := h) ..
  | perfc => exact canon_execPerfc (h := h) ..
  | icinv => exact canon_execIcinv (h := h) ..
  | icinvInvalidate => exact canon_execIcinvInvalidate (h := h) ..
  | ckptmark => exact canon_execCkptmark (h := h) ..
  | checkpointCopyDone => exact canon_execCheckpointCopyDone (hs := h) ..
  | checkpointCopyFail => exact canon_execCheckpointCopyFail (hs := h) ..
  | clauseFetch => exact canon_execClauseFetch (h := h) ..
  | swashYield => exact canon_execSwashYield (h := h) ..
  | trapEntry => exact canon_execTrapEntry (h := h) ..
  | longLatencyResult => exact canon_execLongLatencyResult (h := h) ..
  | storePerform => exact canon_execStorePerform (h := h) ..
  | missFill => exact canon_execMissFill (h := h) ..
  | ptsTick => exact canon_execPtsTick (h := h) ..
  | invalidation => exact canon_execInvalidation (h := h) ..
  | upgradeRequest => exact canon_execUpgradeRequest (h := h) ..
  | homeWrite => exact canon_execHomeWrite (h := h) ..
  | mirrorAck => exact canon_execMirrorAck (h := h) ..
  | publishSwap => exact canon_execPublishSwap (h := h) ..
  | publishSwapRequest => exact canon_execPublishSwapRequest (h := h) ..
  | engineWriteAccept => exact canon_execEngineWriteAccept (h := h) ..
  | ratomApply => exact canon_execRatomApply (h := h) ..
  | ratomComplete => exact canon_execRatomComplete (h := h) ..
  | replicaUpdate => exact canon_execReplicaUpdate (h := h) ..
  | replicaApply => exact canon_execReplicaApply (h := h) ..
  | hostCoreAccess => exact canon_execHostCoreAccess (h := h) ..
  | build => exact canon_execBuild (h := h) ..
  | commit => exact canon_execCommit (h := h) ..
  | preempt => exact canon_execPreempt (h := h) ..
  | destroy => exact canon_execDestroy (h := h) ..
  | clear => exact canon_execClear (h := h) ..
  | contextDispatch => exact canon_execContextDispatch (h := h) ..
  | schedulerPreempt => exact canon_execSchedulerPreempt (h := h) ..
  | saveDone => exact canon_execSaveDone (h := h) ..
  | restoreDone => exact canon_execRestoreDone (h := h) ..
  | contextDrainDone => exact canon_execContextDrainDone (h := h) ..
  | phaseWrite => exact canon_execPhaseWrite (h := h) ..
  | budgetWrite => exact canon_execBudgetWrite (h := h) ..
  | ctxstatWrite => exact canon_execCtxstatWrite (h := h) ..
  | ckptstatWrite => exact canon_execCkptstatWrite (h := h) ..
  | registerWrite => exact canon_execRegisterWrite (h := h) ..
  | enable => exact canon_execEnable (h := h) ..
  | disable => exact canon_execDisable (h := h) ..
  | resume => exact canon_execResume (h := h) ..
  | skip => exact canon_execSkip (h := h) ..
  | tapeclr => exact canon_execTapeclr (h := h) ..
  | qtailWrite => exact canon_execQtailWrite (h := h) ..
  | qcheadWrite => exact canon_execQcheadWrite (h := h) ..
  | qwakeWrite q v => exact canon_execQwakeWrite q v h
  | qstatWrite => exact canon_execQstatWrite (h := h) ..
  | holdRelease => exact canon_execHoldRelease (h := h) ..
  | launchRecord => exact canon_execLaunchRecord (h := h) ..
  | reverse => exact canon_execReverse (h := h) ..
  | reverseNextKernel => exact canon_execReverseNextKernel (h := h) ..
  | mark => exact canon_execMark (h := h) ..
  | wait => exact canon_execWait (h := h) ..
  | waitTimeout => exact canon_execWaitTimeout (h := h) ..
  | signalRecord => exact canon_execSignalRecord (h := h) ..
  | phaseRecord => exact canon_execPhaseRecord (h := h) ..
  | nopRecord => exact canon_execNopRecord (h := h) ..
  | kernelAdmit => exact canon_execKernelAdmit (h := h) ..
  | kernelLeased => exact canon_execKernelLeased (h := h) ..
  | workgroupPlaced => exact canon_execWorkgroupPlaced (h := h) ..
  | groupLoaded => exact canon_execGroupLoaded (h := h) ..
  | kernelQuiet => exact canon_execKernelQuiet (h := h) ..
  | leaseRenewal => exact canon_execLeaseRenewal (h := h) ..
  | unmap => exact canon_execUnmap (h := h) ..
  | protect => exact canon_execProtect (h := h) ..
  | zero => exact canon_execZero (h := h) ..
  | translationLeaseExpire => exact canon_execTranslationLeaseExpire (h := h) ..
  | resolved => exact canon_execResolved (h := h) ..
  | refused => exact canon_execRefused (h := h) ..
  | xfheadWrite => exact canon_execXfheadWrite (h := h) ..
  | pageMoveDone => exact canon_execPageMoveDone (h := h) ..
  | off => exact canon_execOff (h := h) ..
  | on => exact canon_execOn (h := h) ..
  | tidecmdWrite => exact canon_execTidecmdWrite (h := h) ..
  | idleTimeout => exact canon_execIdleTimeout (h := h) ..
  | retentionTimeout => exact canon_execRetentionTimeout (h := h) ..
  | segmentWakeDone => exact canon_execSegmentWakeDone (h := h) ..
  | rowSpareSwitch => exact canon_execRowSpareSwitch (h := h) ..
  | retrain => exact canon_execRetrain (h := h) ..
  | linkDisable => exact canon_execLinkDisable (h := h) ..
  | linkEnable => exact canon_execLinkEnable (h := h) ..
  | trainingResult => exact canon_execTrainingResult (h := h) ..
  | trainingRetry => exact canon_execTrainingRetry (h := h) ..
  | laneFail => exact canon_execLaneFail (h := h) ..
  | silence => exact canon_execSilence (h := h) ..
  | flitReceive => exact canon_execFlitReceive (h := h) ..
  | replayRequest => exact canon_execReplayRequest (h := h) ..
  | creditReturn => exact canon_execCreditReturn (h := h) ..
  | routeSwitch => exact canon_execRouteSwitch (h := h) ..
  | noRouteTimeout => exact canon_execNoRouteTimeout (h := h) ..
  | peerFailureReport => exact canon_execPeerFailureReport (h := h) ..
  | lossDeclaration => exact canon_execLossDeclaration (h := h) ..
  | directoryRebuildDone => exact canon_execDirectoryRebuildDone (h := h) ..
  | tileArm => exact canon_execTileArm (h := h) ..
  | tileDisarm => exact canon_execTileDisarm (h := h) ..
  | tileEntryWrite => exact canon_execTileEntryWrite (h := h) ..
  | collectiveContribution => exact canon_execCollectiveContribution (h := h) ..
  | collectiveResult => exact canon_execCollectiveResult (h := h) ..
  | collectiveTimeout => exact canon_execCollectiveTimeout (h := h) ..
  | coolantOutOfEnvelope => exact canon_execCoolantOutOfEnvelope (h := h) ..
  | temperatureRise => exact canon_execTemperatureRise (h := h) ..
  | clockChange => exact canon_execClockChange (h := h) ..
  | budgetCurChange => exact canon_execBudgetCurChange (h := h) ..
  | powerOn => exact canon_execPowerOn
  | resetInput => exact canon_execResetInput (h := h) ..
  | load => exact canon_execLoad (h := h) ..
  | reset => exact canon_execReset (h := h) ..
  | authCheckDone => exact canon_execAuthCheckDone (h := h) ..
  | firmwareTrainingDone => exact canon_execFirmwareTrainingDone (h := h) ..
  | mstatWrite => exact canon_execMstatWrite (h := h) ..
  | moheadWrite => exact canon_execMoheadWrite (h := h) ..
  | zeroDone => exact canon_execZeroDone (h := h) ..
  | replicaDiscard => exact canon_execReplicaDiscard (h := h) ..
  | conditionCleared => exact canon_execConditionCleared (h := h) ..
  | eviction => exact canon_execEviction (h := h) ..
  | publishAck => exact canon_execPublishAck (h := h) ..
  | icinvAck => exact canon_execIcinvAck (h := h) ..

end Sys2Proof.Machine

/-!
SUPPORT. Issue, the turns and what follows each step keep memory in canonical form, and so does `step` (O55).
-/
namespace Sys2Proof.Machine
set_option Elab.async false

theorem canon_issueWord {s : State} (h : Memory.wf s.mem = true) (ag : Agent) (w : W64) : Canon (s.issueWord ag w) := by
  unfold State.issueWord
  split
  · exact canon_exec _ h
  · exact canon_badWord h ..

theorem canon_issueStep {s : State} (h : Memory.wf s.mem = true) (ag : Agent) : Canon (s.issueStep ag) := by
  unfold State.issueStep
  extract_lets s1
  have h1 : Memory.wf s1.mem = true := h
  split
  · exact canon_fault _
  · split
    · exact canon_next (wf_raiseResidue h1 ..)
    · refine canon_ite (canon_exec _ h1) ?_
      split
      · exact canon_fault _
      · extract_lets l
        split
        · exact canon_exec _ h1
        · split
          · exact canon_exec _ h1
          · exact canon_ite (canon_issueWord h1 ..) (canon_exec _ h1)

theorem canon_issueAll {s : State} (h : Memory.wf s.mem = true) (first : Bool) (l : List Agent) : Canon (s.issueAll first l) := by
  induction l generalizing s first with
  | nil => exact canon_next h
  | cons ag l ih =>
    refine canon_ite (ih h _) ?_
    have ho := canon_issueStep h ag
    split
    next hx _ => exact ih (by simpa using ho.next _ hx) _
    next hx _ => exact ih (by simpa using ho.next _ hx) _
    · exact ho

theorem wf_endClk {s : State} (h : Memory.wf s.mem = true) : Memory.wf s.endClk.mem = true := by
  simp [State.endClk, h]

theorem canon_issueSlot {s : State} (h : Memory.wf s.mem = true) (ag : Agent) (n : Nat) : Canon (s.issueSlot ag n) := by
  unfold State.issueSlot
  split
  · exact canon_noEvent_iff.mpr h
  · exact canon_mapNext (canon_issueAll h ..) fun s h => wf_endClk h

theorem canon_issueAlso {s : State} (h : Memory.wf s.mem = true) (ag : Agent) : Canon (s.issueAlso ag) := by
  unfold State.issueAlso
  dsimp only
  (repeat' split) <;> simp [canon_issueSlot, h]

theorem wf_noteReady {s : State} (h : Memory.wf s.mem = true) : Memory.wf s.noteReady.mem = true := by
  simp [State.noteReady, h]

theorem wf_noteStalls {s : State} (h : Memory.wf s.mem = true) (old : State) : Memory.wf (s.noteStalls old).mem = true := by
  simp +contextual [State.noteStalls, h, wf_foldl]

theorem canon_dueRun (d : Due) {s : State} (h : Memory.wf s.mem = true) : Canon (Due.run d s) := by
  cases d with
  | timeout => exact canon_execSgTimeout (hs := h) ..
  | place => exact canon_execSiblingsPlaced (hs := h) ..
  | forkwait => exact canon_execForkwaitExpire (hs := h) ..
  | grow => exact canon_execGrowGrant (h := h) ..
  | round => exact canon_execRcombTimeout (h := h) ..
  | tile => exact canon_execCollectiveTimeout (h := h) ..

theorem wf_rangeAll {s : State} (h : Memory.wf s.mem = true) : Memory.wf s.rangeAll.mem = true := by
  simp +contextual [State.rangeAll, wf_rangeOn, h, wf_foldl]

theorem wf_afterStep {s : State} (h : Memory.wf s.mem = true) (old : State) : Memory.wf (State.afterStep old s).mem = true := by
  unfold State.afterStep
  dsimp only
  refine wf_noteReady (wf_noteStalls ?_ _)
  rw [queueMonitors_mem]
  refine wf_imageSync _ (wf_genSync (wf_tableSync ?_ _) _)
  rw [noteWaits_mem, keepWake_mem, foldl_mem fun s ag => noteDone_mem s .., foldl_mem growDeny_mem]
  split
  · exact wf_rangeAll (wf_wideRetry (wf_wakeQueues (by simpa using h)))
  · exact wf_wideRetry (by simpa using h)

theorem canon_peerTurn {s : State} (h : Memory.wf s.mem = true) (rank cx : Nat) (m : PeerMsg) : Canon (s.peerTurn rank cx m) := by
  unfold State.peerTurn
  dsimp only
  (repeat' split) <;> simp [wf_podMessage, wf_ratomAt, h]

theorem canon_oneTurn {s : State} (h : Memory.wf s.mem = true) (t : Turn) : Canon (s.oneTurn t) := by
  have htick {o : Out} (ho : Canon o) : Canon (mapNext State.tick o) := canon_mapNext ho fun _ h => wf_tick h
  have hn : Canon s.noEvent := canon_noEvent_iff.mpr h
  cases t with
  | event i => exact canon_ite hn (canon_ite (canon_next (wf_tick h)) (canon_ite hn (htick (canon_exec i h))))
  | issue ag => exact canon_issueSlot h ag 0
  | also ag => exact canon_issueAlso h ag
  | elapse clks => exact canon_ite (canon_next h) hn
  | upset m => exact canon_next h
  | fetch id line => exact canon_next (wf_tick (wf_engineTurn h id line))
  | peer rank cx m => exact htick (canon_peerTurn h rank cx m)
  | flit port src dest vc data => exact htick (canon_of_mem h fun _ h => flitSend_mem _ _ _ _ _ _ h)
  | hbmTrained dies => exact htick (canon_of_mem h fun _ h => hbmTrained_mem _ _ h)
  | serve i => exact htick (canon_of_mem h fun _ h => serve_mem _ _ h)
  | choose q => exact htick (canon_of_mem h fun _ h => choose_mem _ _ h)
  | race _ _ => exact hn

theorem canon_turn {s : State} (h : Memory.wf s.mem = true) (t : Turn) : Canon (s.turn t) := by
  unfold State.turn
  refine canon_ite (canon_noEvent_iff.mpr h) ?_
  split
  next sw dev =>
    refine canon_ite (canon_noEvent_iff.mpr h) ?_
    have ho := canon_oneTurn h sw
    split
    next x hx => exact canon_mapNext (canon_oneTurn (s := { x with clk := s.clk }) (ho.next x hx) (.event dev)) fun _ h => h
    · exact ho
  · exact canon_oneTurn h t

theorem canon_idleTurn {s : State} (h : Memory.wf s.mem = true) : Canon s.idleTurn := by
  unfold State.idleTurn
  split
  · exact canon_mapNext (canon_dueRun _ h) fun _ h => wf_tick h
  · split
    · exact canon_ite (canon_issueSlot h ..) (canon_next (wf_tick h))
    · exact canon_next (wf_tick h)

theorem canon_nextTurn {s : State} (h : Memory.wf s.mem = true) : Canon s.nextTurn := by
  unfold State.nextTurn
  (repeat' split) <;> simp [canon_idleTurn, canon_turn, h]

theorem canon_step {s : State} (h : Memory.wf s.mem = true) : Canon (step s) :=
  canon_mapNext (canon_nextTurn h) fun _ hu => wf_afterStep hu s

/-- Settles O55: what a step does is composed of functions that leave memory alone and of writers that keep its canonical form. -/
theorem stepsKeepMemoryCanonical : Obligations.StepsKeepMemoryCanonical :=
  fun _ _ h hs => (canon_step h).next _ hs

end Sys2Proof.Machine
